-- ==== Sys2Proof/Word.lean ====
section
/-! DEFINITION. The word types of the Lufold G8 and their plainest arithmetic (R5, R6, R8, R166). -/

namespace Sys2Proof

/-- A scalar register, an immediate, a lineage tag (R11, R165). -/
abbrev W32 := BitVec 32
/-- An operation word, an address, a pair value (R15, R66, R199). -/
abbrev W64 := BitVec 64
/-- A 32-bit lineage tag (R165). -/
abbrev Tag := BitVec 32
/-- A handle record (R109). -/
abbrev HRec := BitVec 256
/-- A vector register or a landing slot: 1,024 bytes (R166, R182). -/
abbrev VReg := BitVec 8192
/-- A mask register (R165). -/
abbrev QReg := BitVec 1024
/-- The sticky flags, in the bit places of R156. -/
abbrev FlagSet := BitVec 6

end Sys2Proof
end

