-- ==== Sys2Proof/Config.lean ====
section
/-! DEFINITION. What the spec fixes as figures of the part, and the free values of what it leaves open. -/

namespace Sys2Proof.Config

/-- Physical tiles of the device: 4 terraces of 8 columns by 13 rows (R2, R346). -/
def tiles : Nat := 416
/-- Memory stacks (R64). -/
def memStacks : Nat := 8
/-- Bytes of one stack, 48 GiB (R64). -/
def stackBytes : Nat := 0xC00000000
/-- Granules of 4 KiB in a scratchpad (R96). -/
def granules : Nat := 768
/-- Lines of 64 bytes in an L1 of 256 KiB, an L2 of 96 MiB, a remote-data cache of 24 MiB and the host cache of 16 MiB
(R2, R89, R383). -/
def l1Lines : Nat := 4096
def l2Lines : Nat := 1572864
def remoteLines : Nat := 393216
def hostLines : Nat := 262144
/-- Outstanding memory requests of a tile (R2). -/
def outstanding : Nat := 512
/-- Bytes of a rider core's local memory (R386). -/
def riderBytes : Nat := 0x80000
/-- The clock of device time in the 25 MHz units of the speed table: 1.100 GHz (R6, R346). -/
def floorUnits : Nat := 44
/-- Clocks after which an idle lease that another sequencer waits for times out (R245). -/
def leaseTimeout : Nat := 8388608
/-- Ticks after which a passed-over head of the ready pool blocks the pool (R343). -/
def headTicks : Nat := 1100000
/-- Ticks of waiting that raise a record's effective priority by one (R343). -/
def ageTicks : Nat := 70400
/-- Device ticks of one unit of PRDL (R369). -/
def deadlineUnit : Nat := 1100

/-- The stepping of the part, A1 (R47). -/
def stepping : Nat := 0xA1
/-- Where the loader places object 0 of a PASID, the span of an object and of each of its areas: Jexcy code, native
code, constants, data (log entry 15). -/
def objectBase : Nat := 2 ^ 56
def objectSpan : Nat := 2 ^ 39
def areaSpan : Nat := 2 ^ 37

/-- FREE VALUE (log entry 11): what a datum the spec leaves undefined reads as, by the model's counter of such data. -/
opaque freeWord : Nat → BitVec 64
/-- FREE VALUE (log entry 7): the fused fields of RLIM, bits 47:16 (R387). -/
opaque rlimFused : BitVec 32
/-- FREE VALUE (log entry 12): whether an image's ECDSA P-384 signature verifies against the fused key (R400). -/
opaque signatureVerifies : List (BitVec 8) → Bool
/-- FREE VALUE (log entry 12): whether a client certificate chains to a trust anchor of the store (R400). -/
opaque certificateChains : List (BitVec 8) → Bool
/-- FREE VALUE (log entry 13): the sample of power, supply and coolant telemetry, by its number (R400). -/
opaque telemetrySample : Nat → BitVec 160
/-- FREE VALUE (log entry 19): the 16 bytes of the boot record's entry for a step and unit, and for whether bring-up
stopped there (R397). -/
opaque bootEntry : Nat → Nat → Bool → BitVec 128

end Sys2Proof.Config
end

