-- ==== Sys2Proof/Syntax.lean ====
section
/-! DEFINITION. The steps of the G8 (spec/opcode_table.json): one constructor per row. The first part are the
operation words of classes 0 to 5 (R50 to R55) with their operands; the second part are the steps of the device,
the host and the service ports (files 02, 13 to 16), each with what an occurrence of it carries. -/

namespace Sys2Proof

/-- The two code forms (R15, R44). -/
inductive Form where
  | jexcy | native
  deriving DecidableEq, Repr

/-- The element types, codes 0 to 15 (R22). -/
inductive Ty where
  | none | si8 | ui8 | si16 | ui16 | si32 | ui32 | si64 | f32 | f16 | bf16 | e4m3 | e5m2 | e2m1 | e8m0 | ds8
  deriving DecidableEq, Repr

/-- The rounding field: a mode, or the mode held in fmt (R23). -/
inductive Rnd where
  | rne | rtz | pinf | ninf | rna | fmt
  deriving DecidableEq, Repr

/-- The conditions (R25). -/
inductive Cc where
  | eq | ne | lt | ge | ltb | geb
  deriving DecidableEq, Repr

/-- The scopes (R3, R25). -/
inductive Scope where
  | seq | tile | field | terrace | basin | catch
  deriving DecidableEq, Repr

/-- A single scalar source: s0 to s63, or in native code latch b0 or b1 (R187). -/
inductive SSrc where
  | reg (n : Fin 64)
  | lat (b : Fin 2)
  deriving DecidableEq, Repr

/-- A vector source: v0 to v95, read port w0 to w3, or in native code latch b2 to b7, counted from b2 (R215). -/
inductive VSrc where
  | reg (n : Fin 96)
  | port (w : Fin 4)
  | lat (b : Fin 6)
  deriving DecidableEq, Repr

/-- A vector destination: v0 to v95, or write port w4 or w5, counted from w4 (R215). -/
inductive VDst where
  | reg (n : Fin 96)
  | port (w : Fin 2)
  deriving DecidableEq, Repr

/-- A base operand: the pair s(2n):s(2n+1), or a handle (R28). -/
inductive Base where
  | pair (n : Fin 32)
  | handle (n : Fin 32)
  deriving DecidableEq, Repr

/-- A matrix operand: a handle or a read port (R32). -/
inductive MSrc where
  | handle (n : Fin 32)
  | port (w : Fin 4)
  deriving DecidableEq, Repr

/-- Scalar operation of two sources (R191 to R194). -/
structure S3 where
  nw : Bool
  d : Fin 64
  a : SSrc
  b : SSrc
  deriving DecidableEq, Repr

/-- Scalar operation of one source (R196, R197). -/
structure S2 where
  nw : Bool
  d : Fin 64
  a : SSrc
  deriving DecidableEq, Repr

/-- Scalar operation with an immediate (R191, R193). -/
structure SK where
  nw : Bool
  d : Fin 64
  a : SSrc
  imm : W32
  deriving DecidableEq, Repr

/-- Operation on three pairs, each named by half its index (R199). -/
structure P3 where
  d : Fin 32
  a : Fin 32
  b : Fin 32
  deriving DecidableEq, Repr

/-- A scalar load of a single register (R202). -/
structure Ld where
  d : Fin 64
  base : Base
  off : BitVec 24
  deriving DecidableEq, Repr

/-- A scalar store of a single register (R202). -/
structure St where
  base : Base
  off : BitVec 24
  b : SSrc
  col : Fin 8
  deriving DecidableEq, Repr

/-- A commutative atomic (R279): in the 64-bit form `b` names the even register of a pair. -/
structure AtOp where
  base : Base
  off : BitVec 24
  wide : Bool
  b : Fin 64
  col : Fin 8
  deriving DecidableEq, Repr

/-- A flume command (R31, R129). -/
structure Fl where
  nw : Bool
  d : Fin 64
  hD : Fin 32
  hS : Fin 32
  arr : Fin 32
  par : Fin 64
  eng : Fin 16
  stamp : Bool
  mod : BitVec 7
  deriving DecidableEq, Repr

/-- Vector operation of one vector source (R27, R213 to R216). -/
structure V1 where
  nw : Bool
  d : VDst
  a : VSrc
  ty : Ty
  msk : Fin 16
  sat : Bool
  rnd : Rnd
  deriving DecidableEq, Repr

/-- Vector operation of two vector sources. -/
structure V2 where
  nw : Bool
  d : VDst
  a : VSrc
  b : VSrc
  ty : Ty
  msk : Fin 16
  sat : Bool
  rnd : Rnd
  deriving DecidableEq, Repr

/-- Vector operation of three vector sources. -/
structure V3 where
  nw : Bool
  d : VDst
  a : VSrc
  b : VSrc
  c : VSrc
  ty : Ty
  msk : Fin 16
  sat : Bool
  rnd : Rnd
  deriving DecidableEq, Repr

/-- Reduction or scan (R232): `seg` selects the head flags of `q`, `excl` an exclusive scan. -/
structure VRed where
  nw : Bool
  d : VDst
  a : VSrc
  seg : Bool
  q : Fin 16
  excl : Bool
  ty : Ty
  msk : Fin 16
  sat : Bool
  rnd : Rnd
  deriving DecidableEq, Repr

/-- Mask operation of two sources (R237). -/
structure Q3 where
  d : Fin 16
  a : Fin 16
  b : Fin 16
  deriving DecidableEq, Repr

/-- The matrix product forms `m.mma` and `m.cellp` (R250, R254). -/
structure MMul where
  acc : Fin 4
  a : MSrc
  b : MSrc
  tyA : Ty
  tyB : Ty
  sat : Bool
  add : Bool
  modi : BitVec 16
  deriving DecidableEq, Repr

/-- The seal group (R39 to R42). `len` is the length minus one. -/
structure SealData where
  shape : W32
  ind : Fin 16
  own : BitVec 16
  taken : BitVec 16
  fall : BitVec 16
  sig : W32
  len : BitVec 8
  vectors : BitVec 6
  stores : BitVec 10
  gated : BitVec 4
  lend : Bool
  deriving DecidableEq, Repr

/-- A code object as the loader is given it (R47, R60 to R63, R377). -/
structure ObjImage where
  pasid : Nat
  native : Option (List W64)
  stepping : Nat
  jexcy : Option (List W64)
  consts : List (BitVec 8)
  data : List (BitVec 8)
  /-- The handle records whose base is a label (R61): whether the record lies in the data area, its offset there, and
  whether the label does. -/
  bases : List (Bool × Nat × Bool)
  entries : List (BitVec 16)
  regions : List (Nat × Nat × Tag)
  restartable : Bool
  nopredict : Bool
  deriving DecidableEq, Repr

/-- A rectangle of the logical mesh and the first sequencer to try on each tile (R343). -/
structure Rect where
  x0 : Nat
  y0 : Nat
  deriving DecidableEq, Repr

/-- The read-modify-write operations of RV64GC. -/
inductive HostAmo where
  | swap | add | and | or | xor | min | max | minu | maxu
  deriving DecidableEq, Repr

/-- What an access of a rider core does (R386, R387): a load or store of its local memory or through a grant, or a
write through one of its outward windows. -/
inductive RiderOp where
  | localLoad
  | localStore (data : List (BitVec 8))
  | load
  | store (data : List (BitVec 8))
  | outward (data : List (BitVec 8))
  deriving DecidableEq, Repr

/-- What reaches a fabric port (R389, R390): a flit of its partner, the partner's acknowledgement of the flits up to a
sequence number, or the payload of a transfer, by its issuer. -/
inductive FlitIn where
  | flit (bytes : List (BitVec 8))
  | ack (seq : BitVec 12)
  | send (issuer : Nat) (payload : List (BitVec 8))
  deriving DecidableEq, Repr

/-- What an access of a host core or PCIe device does (R383, R385). -/
inductive HostOp where
  | load (bytes : Nat)
  | store (data : List (BitVec 8))
  | fence
  /-- An atomic access of 4 or 8 bytes, a load-reserved and a store-conditional (RV64GC). -/
  | amo (op : HostAmo) (wide : Bool) (v : W64)
  | lr (wide : Bool)
  | sc (wide : Bool) (v : W64)
  deriving DecidableEq, Repr

/-- Where a kick goes (R334, R338): the doorbell page of a slot, or the queue that the device finds for a key. -/
inductive Door where
  | slot (n : Nat)
  | key (pasid : BitVec 20) (qnum : BitVec 12)
  deriving DecidableEq, Repr

/-- What opens at the management port (R400): a client's connection by its certificate, or a request of an open
connection whose kind is none of the table's. -/
inductive SvcIn where
  | client (cert : List (BitVec 8))
  | other (conn : Fin 4) (kind : BitVec 16) (seq : W32)
  deriving DecidableEq, Repr

/-- The results of the bring-up units: the step code and unit of each that fails (R397). -/
abbrev BootFailures := List (Nat × Nat)

/-- The operations. A destination that may be dropped is an option, `none` for nw = 1 (R21). -/
inductive Instr where
  -- class 0 (R50)
  | nop
  | sealOp (x : SealData)
  | prep (t : Fin 4) (off : W32)
  | prepr (t : Fin 4) (a : Fin 32)
  | cmp (cc : Cc) (d : Fin 4) (a b : SSrc)
  | cmpi (cc : Cc) (d : Fin 4) (a : SSrc) (imm : W32)
  | vAny (d : Fin 4) (q : Fin 16) (ty : Ty)
  | vAll (d : Fin 4) (q : Fin 16) (ty : Ty)
  | cOp (d a b : Fin 4) (tt : BitVec 4)
  | br (t c : Fin 4) (inv : Bool)
  | jmp (t : Fin 4)
  | call (t : Fin 4)
  | ret
  | jtab (a : Fin 64) (off : W32)
  | loop (a : SSrc)
  | loopi (imm : W32)
  | lpipe (a : SSrc) (stages : W32)
  | lbrk (c : Fin 4)
  | lpset (a : SSrc)
  | lpget (d : Option (Fin 64))
  | trap (code : W32)
  | exit (a : Fin 64)
  | yield
  | fmt (a : SSrc)
  | fmti (imm : W32)
  | sysr (d : Fin 64) (num : BitVec 12)
  | sysw (num : BitVec 12) (a : SSrc)
  | waitA (d : Fin 64) (p : Fin 32) (b : Fin 64) (cc : Cc)
  | waitAWake (thread : Nat)
  | take (d p : Fin 32)
  | bar (p : Fin 32)
  -- class 1 (R51)
  | add (x : S3)
  | sub (x : S3)
  | addi (x : SK)
  | mul (x : S3)
  | mulh (x : S3)
  | mulhz (x : S3)
  | div (x : S3)
  | divz (x : S3)
  | rem (x : S3)
  | remz (x : S3)
  | and (x : S3)
  | or (x : S3)
  | xor (x : S3)
  | andi (x : SK)
  | ori (x : SK)
  | xori (x : SK)
  | shl (x : S3)
  | shr (x : S3)
  | sra (x : S3)
  | shli (x : SK)
  | shri (x : SK)
  | srai (x : SK)
  | min (x : S3)
  | max (x : S3)
  | minz (x : S3)
  | maxz (x : S3)
  | sel (x : S3) (c : Fin 4)
  | clz (x : S2)
  | ctz (x : S2)
  | popc (x : S2)
  | li (nw : Bool) (d : Fin 64) (imm : W32)
  | lui (d : Fin 32) (imm : W32)
  | mov (x : S2)
  | extS (x : S2) (width : Fin 32)
  | extZ (x : S2) (width : Fin 32)
  | addP (x : P3)
  | addiP (d a : Fin 32) (imm : W32)
  | subP (x : P3)
  | shlP (d a : Fin 32) (b : SSrc)
  | leaH (d : Fin 32) (h : Fin 32) (b : Fin 64)
  -- class 2 (R52)
  | ldSb (x : Ld)
  | ldZb (x : Ld)
  | ldSh (x : Ld)
  | ldZh (x : Ld)
  | ldW (x : Ld)
  | ldP (d : Fin 32) (base : Base) (off : BitVec 24)
  | stB (x : St)
  | stH (x : St)
  | stW (x : St)
  | stP (base : Base) (off : BitVec 24) (b : Fin 32) (col : Fin 8)
  | ldV (slot : Fin 32) (base : Base) (off : BitVec 24)
  | ldVg (slot : Fin 32) (base : Base) (b : VSrc) (ty : Ty) (msk : Fin 16)
  | landingSlotLanded (thread : Nat) (slot : Fin 32)
  | stV (base : Base) (off : BitVec 24) (b : VSrc) (col : Fin 8)
  | stVs (base : Base) (b c : VSrc) (ty : Ty) (msk : Fin 16) (col : Fin 8)
  | commit (d : VDst) (slot : Fin 32)
  | hld (d : Fin 32) (base : Base) (off : BitVec 24)
  | hst (base : Base) (off : BitVec 24) (b : Fin 32) (col : Fin 8)
  | hset (d a : Fin 32) (b : SSrc) (k : Fin 8)
  | atAdd (x : AtOp)
  | atMin (x : AtOp)
  | atMax (x : AtOp)
  | atAnd (x : AtOp)
  | atOr (x : AtOp)
  | atXor (x : AtOp)
  | atCas (d : Fin 64) (base : Base) (b c : Fin 64) (wide : Bool) (col : Fin 8)
  | atXchg (d : Fin 64) (x : AtOp)
  | atFadd (d : Fin 64) (base : Base) (off : BitVec 24) (b : Fin 64) (col : Fin 8)
  | mark (sc : Scope)
  | fence (sc : Scope) (mask : BitVec 8)
  | probe (d : Option (Fin 64)) (p : Fin 32) (b : Fin 64) (kind : BitVec 2)
  | release (p : Fin 32) (b : Fin 64)
  | pageRequest (thread : Nat)
  | prans (v : W64)
  | rmap (n : Fin 64) (p : Fin 32) (b : SSrc)
  | runmap (n : Fin 64)
  | granuleFill (opTile : Nat) (region : Fin 64) (granule : Nat)
  | rflush (p : Fin 32) (b : SSrc)
  | stamp (n : Fin 64) (a : SSrc)
  | wset (w : Fin 6) (p : Fin 32) (levels : Fin 16) (imm : W32)
  -- class 3 (R53)
  | flCopy (x : Fl)
  | flXpose (x : Fl)
  | flPerm (x : Fl)
  | flGather (x : Fl)
  | flScatter (x : Fl)
  | flFill (x : Fl)
  | flMcast (x : Fl)
  | flPatch (x : Fl)
  | flRope (x : Fl)
  | flPublish (x : Fl)
  | flPoll (x : Fl)
  | flCancel (x : Fl)
  | flumeCommandStart (id : Nat)
  | flumePublish (id : Nat)
  -- class 4 (R54)
  | vAdd (x : V2)
  | vSub (x : V2)
  | vMul (x : V2)
  | vFma (x : V3)
  | vFms (x : V3)
  | vMin (x : V2)
  | vMax (x : V2)
  | vAbs (x : V1)
  | vNeg (x : V1)
  | vAbd (x : V2)
  | vMulh (x : V2)
  | vMadd (x : V3)
  | vDot (x : V3)
  | vRcp (x : V1)
  | vRsq (x : V1)
  | vSqrt (x : V1)
  | vExp2 (x : V1)
  | vLog2 (x : V1)
  | vCvt (x : V1) (src : Ty) (part : Fin 16)
  | vScl (x : V2) (src scale : Ty)
  | vRnd (x : V1)
  | vCmp (cc : Cc) (d : Fin 16) (a b : VSrc) (ty : Ty) (msk : Fin 16)
  | vClass (d : Fin 16) (a : VSrc) (set : BitVec 8) (ty : Ty) (msk : Fin 16)
  | vSel (x : V2) (q : Fin 16)
  | vAnd (x : V2)
  | vOr (x : V2)
  | vXor (x : V2)
  | vNot (x : V1)
  | vShl (x : V2)
  | vShr (x : V2)
  | vSra (x : V2)
  | vPopc (x : V1)
  | vClz (x : V1)
  | vRedAdd (x : VRed)
  | vRedMax (x : VRed)
  | vRedMin (x : VRed)
  | vScan (x : VRed)
  | vPerm (x : V2)
  | vBcast (x : V1) (b : SSrc)
  | vBcastScalar (nw : Bool) (d : VDst) (b : SSrc) (ty : Ty) (msk : Fin 16)
  | vShuf (x : V2) (k : Fin 4)
  | vSlide (x : V2) (c : SSrc)
  | vBrev (x : V1) (b : Fin 16)
  | vMov (x : V1)
  | vIns (d : Fin 96) (a b : SSrc) (ty : Ty)
  | vGet (d : Fin 64) (a : VSrc) (b : SSrc) (ty : Ty)
  | vPack (x : V2)
  | vUnpack (x : V1) (half int4 : Bool)
  | vIota (nw : Bool) (d : VDst) (a : SSrc) (ty : Ty) (msk : Fin 16)
  | qAnd (x : Q3)
  | qOr (x : Q3)
  | qXor (x : Q3)
  | qNot (d a : Fin 16)
  | qMov (d a : Fin 16)
  | qCnt (d : Fin 64) (a : Fin 16) (ty : Ty)
  | qFirst (d : Fin 64) (a : Fin 16) (ty : Ty)
  -- class 5 (R55)
  | mLease (mask : BitVec 4)
  | leaseGrant (tile : Nat) (thread : Nat)
  | mFree (mask : BitVec 4)
  | mZero (acc : Fin 4)
  | mWait
  | mMma (x : MMul)
  | mMmas (acc : Fin 4) (a b : Fin 32) (tyA tyB scale : Ty) (bsz : Fin 4) (add : Bool) (k : BitVec 16)
  | mCellp (x : MMul)
  | mProg (a : Fin 32) (slot : Fin 4)
  | mDrain (src : Fin 4) (a : Fin 32) (tyD tyS : Ty) (sat : Bool) (rnd : Rnd)
  | mFill (acc : Fin 4) (a : MSrc) (ty : Ty)
  | mAdd (acc src : Fin 4) (ty : Ty) (sat : Bool)
  | mScale (acc : Fin 4) (a : MSrc) (ty : Ty)
  | mBfly (acc : Fin 4) (a : BitVec 4) (b : BitVec 3) (c : BitVec 2) (s : BitVec 4) (e : BitVec 2) (inv : Bool)
  | mBrev (acc src : Fin 4) (a : BitVec 4) (b : BitVec 3) (c : BitVec 2) (bits : Bool)
  | mTwid (acc src : Fin 4) (a : BitVec 5) (b : BitVec 4) (c : BitVec 3) (inv bf16 : Bool)
  | mTmul (acc src : Fin 4) (conj : Bool)
  | arrayTurnEnd (tile : Nat)
  | matrixCommandComplete (thread : Nat)
  -- caches and queues (R90, R94, R274)
  | updateOnlyLineEviction (tile : Nat) (line : Nat)
  | l2WriteBack (line : Nat) (evict : Bool)
  | colourQueuePerform (thread : Nat) (col : Fin 8)
  -- network ports (R391 to R393)
  | allotRefill (tile : Nat)
  | portSend (tile : Nat)
  -- removal of a pending code object (R378)
  | codeObjectRemoval (pasid number : Nat)
  -- retirement and time limits (R328, R245, R369)
  | tileRetirement (tile : Nat)
  | retiredTileTest (tile : Nat) (passes : Bool)
  | leaseTimeout (thread : Nat)
  | preemptionDeadline (thread : Nat)
  -- driver commands of translation and eviction (R71, R335, R85 to R87, R65)
  | wkinv (v : W64)
  | tlbInvalidationComplete
  | qdinv (v : W64)
  | directoryInvalidationComplete
  | sweeperVisit (stack : Fin 8)
  | swleave (stack : Fin 8) (v : W64)
  | swfree (stack : Fin 8) (v : W64)
  | channelSparing (stack : Fin 8) (channel : Fin 64)
  -- front end (R338 to R345)
  | doorbellKick (slot : Door) (offset : Nat) (bytes : Nat) (k : W32)
  | recordRead (slot : Nat)
  | waitWordSatisfied (slot : Nat) (index : W32)
  | recordPlacement (r : Rect)
  | chainSuccessorStart (slot : Nat) (index : W32)
  | headPassedOver
  | operatorCompletion (op : Nat)
  -- prediction, withdrawal, pre-emption (R354 to R368)
  | preemption (victims : List Nat)
  | switchOut (op : Nat)
  | operatorResume (op : Nat) (r : Rect)
  | withdrawal (slot : Nat)
  | pondRunStart (run : Fin 4) (slot : Nat) (r : Rect)
  | pondRunStop (run : Fin 4)
  | pondRunClaimable (run : Fin 4)
  | pondClaim (run : Fin 4)
  | prctl (v : W64)
  -- contexts and code objects (R373 to R382)
  | ctxCreate (ctx : Nat)
  | ctxKill (ctx : Nat)
  | killComplete
  | ctxDestroy (ctx : Nat)
  | ctxResumeOperator (slot : Nat) (index : W32)
  | ctxEndOperator (slot : Nat) (index : W32)
  | ctxMigrate (ctx : Nat)
  | migrationCheckpoint (ctx : Nat)
  | codeObjectLoad (img : ObjImage) (number : Nat)
  | codeObjectUnload (pasid number : Nat)
  | codeObjectQuery (pasid number : Nat)
  | blockTranslation (pasid number : Nat) (label : BitVec 16) (bundles : List W64)
  -- rider cores and fabric (R386 to R390)
  | riderCoreFailover (core : Fin 18)
  | grantFault (core : Fin 18) (grant offset size : Nat) (op : RiderOp)
  | flitReceive (port : Fin 18) (flit : FlitIn)
  | flitReplay (port : Fin 18)
  | laneCheck (port : Fin 18) (bad : List (Bool × Fin 16))
  -- bring-up, thermal, service port (R397 to R400)
  | bringUp (fails : BootFailures) (units : List (BitVec 6))
  | thermalEvent (milli : W32)
  | thermalShutdown (milli : W32)
  | serviceConnection (cert : SvcIn)
  | serviceConnectionClose (conn : Fin 4)
  | readBootRecord (conn : Fin 4) (seq : W32) (body : List (BitVec 8))
  | clearBootRecord (conn : Fin 4) (seq : W32) (body : List (BitVec 8))
  | readServiceLog (conn : Fin 4) (seq : W32) (body : List (BitVec 8))
  | readSpeedTable (conn : Fin 4) (seq : W32) (body : List (BitVec 8))
  | readRlim (conn : Fin 4) (seq : W32) (body : List (BitVec 8))
  | readTelemetry (conn : Fin 4) (seq : W32) (body : List (BitVec 8))
  | beginFirmwareImage (conn : Fin 4) (seq : W32) (body : List (BitVec 8))
  | firmwareChunk (conn : Fin 4) (seq : W32) (body : List (BitVec 8))
  | commitFirmwareImage (conn : Fin 4) (seq : W32) (body : List (BitVec 8))
  -- basin window and agents outside (R401, R383, R385)
  | registerWrite (offset : Nat) (bytes : Nat) (v : W64)
  | hostCoreAccess (core : Fin 48) (pasid : Nat) (va : W64) (op : HostOp)
  | pcieDeviceAccess (link : Fin 2) (pasid : Nat) (va : W64) (op : HostOp)
  deriving DecidableEq, Repr

end Sys2Proof
end

