-- ==== Sys2Proof/WellFormed.lean ====
section
/-! DEFINITION. Which operations are well formed: the checks of R48 that an operation's own fields decide. -/

namespace Sys2Proof

def Ty.isInt : Ty → Bool
  | .si8 | .ui8 | .si16 | .ui16 | .si32 | .ui32 | .si64 => true
  | _ => false

def Ty.isFlt : Ty → Bool
  | .f32 | .f16 | .bf16 => true
  | _ => false

def Ty.isF8 : Ty → Bool
  | .e4m3 | .e5m2 => true
  | _ => false

def Ty.isSigned : Ty → Bool
  | .si8 | .si16 | .si32 | .si64 => true
  | _ => false

/-- Codes 1 to 12, 14 and 15: the types of the permutation operations (R229, R233). -/
def Ty.isPerm (t : Ty) : Bool := t ≠ .none && t ≠ .e2m1

/-- The element count of a vector: N of R213; type 0 gives 1,024 (R238, R298). -/
def Ty.elems : Ty → Nat
  | .none | .si8 | .ui8 | .e4m3 | .e5m2 | .e8m0 | .ds8 => 1024
  | .si16 | .ui16 | .f16 | .bf16 => 512
  | .si32 | .ui32 | .f32 => 256
  | .si64 => 128
  | .e2m1 => 2048

/-- The element width in bits (R110, R213). -/
def Ty.width (t : Ty) : Nat := 8192 / t.elems

def SSrc.isLat : SSrc → Bool
  | .lat _ => true
  | .reg _ => false

def VSrc.isLat : VSrc → Bool
  | .lat _ => true
  | _ => false

/-- nw = 1 asks for a zero destination field (R21). -/
def nwOk (nw : Bool) (d : Fin 64) : Bool := !nw || d = 0
def nwOkV (nw : Bool) (d : VDst) : Bool := !nw || d = .reg 0

def S3.ok (x : S3) : Bool := nwOk x.nw x.d
def S2.ok (x : S2) : Bool := nwOk x.nw x.d
def SK.ok (x : SK) : Bool := nwOk x.nw x.d

/-- The rounding and saturation an operation accepts (R23, R24, R216). -/
def vCheck (ty : Ty) (tyOk rndOk satOk : Bool) (nw : Bool) (d : VDst) (sat : Bool) (rnd : Rnd) : Bool :=
  tyOk && ty ≠ .none && (rndOk || rnd = .rne) && (satOk || !sat) && nwOkV nw d

def V1.ok (x : V1) (tyOk rndOk satOk : Bool) : Bool := vCheck x.ty tyOk rndOk satOk x.nw x.d x.sat x.rnd
def V2.ok (x : V2) (tyOk rndOk satOk : Bool) : Bool := vCheck x.ty tyOk rndOk satOk x.nw x.d x.sat x.rnd
def V3.ok (x : V3) (tyOk rndOk satOk : Bool) : Bool := vCheck x.ty tyOk rndOk satOk x.nw x.d x.sat x.rnd
def VRed.ok (x : VRed) (rndOk satOk : Bool) : Bool :=
  vCheck x.ty (x.ty.isInt || x.ty.isFlt) rndOk satOk x.nw x.d x.sat x.rnd && (x.seg || x.q = 0)

def Ty.isArith (t : Ty) : Bool := t.isInt || t.isFlt
def Ty.dotOk : Ty → Bool
  | .si8 | .ui8 | .si16 | .ui16 | .f16 | .bf16 | .e4m3 | .e5m2 | .e2m1 => true
  | _ => false

/-- The number of parts of `v.cvt` between two types (R224). -/
def cvtParts (d s : Ty) : Nat :=
  if s.elems > d.elems then s.elems / d.elems else d.elems / s.elems

def Ty.sclDst : Ty → Bool
  | .f32 | .f16 | .bf16 | .e4m3 | .e5m2 | .e2m1 | .ds8 => true
  | _ => false
/-- The scale types of `v.scl` and `m.scale` (R225, R257). -/
def Ty.sclScale : Ty → Bool
  | .f32 | .f16 | .bf16 | .e4m3 | .e5m2 | .e8m0 => true
  | _ => false

def SSrc.evenReg : SSrc → Bool
  | .reg n => n.val % 2 = 0
  | .lat _ => false

/-- How a matrix type pair reads its cells (R240): `some true` FP32, `some false` INT32. -/
def mmaCell (a b : Ty) : Option Bool :=
  match b with
  | .ds8 => if a = .si8 || a = .ui8 || a.isF8 then some true else none
  | .e4m3 | .e5m2 => if a.isF8 then some true else none
  | .si8 | .ui8 => if a = .si8 || a = .ui8 then some false else none
  | .si16 | .ui16 => if a = .si16 || a = .ui16 then some false else none
  | .bf16 | .f16 | .e2m1 => if a = b then some true else none
  | _ => none

def mmaOk (x : MMul) : Bool :=
  match mmaCell x.tyA x.tyB with
  | some true => !x.sat
  | some false => true
  | none => false

/-- The transform length 2^a 3^b 5^c (R259). -/
def bflyLen (a b c : Nat) : Nat := 2 ^ a * 3 ^ b * 5 ^ c
/-- The number of butterfly stages (R259). -/
def bflyStages (a b c : Nat) : Nat := c + b + a / 2 + a % 2
def bflyOk (a b c : Nat) : Bool := a ≤ 13 && 2 ≤ bflyLen a b c && bflyLen a b c ≤ 12288

def Ty.drainDst : Ty → Bool
  | .none | .si64 | .e8m0 => false
  | _ => true

/-- The system registers and whether they may be written (R208): `none` for an unlisted number. -/
def sysWritable (n : BitVec 12) : Option Bool :=
  match n.toNat with
  | 0x000 | 0x020 => some true
  | 0x001 | 0x002 | 0x003 | 0x008 | 0x009 | 0x010 | 0x011 | 0x012 | 0x013 | 0x014 | 0x015 | 0x016 | 0x017 => some false
  | _ => none

/-- The common checks of a flume word (R31, R129): `n` parameter scalars. -/
def Fl.ok (x : Fl) (n : Nat) : Bool :=
  nwOk x.nw x.d && (x.eng.val ≤ 4 || x.eng.val = 15) && x.par.val + n ≤ 64

def Fl.bare (x : Fl) : Bool := x.mod = 0 && x.eng = 0 && !x.stamp && x.hS = 0

def AtOp.ok (x : AtOp) : Bool := !x.wide || x.b.val % 2 = 0

def even (n : Fin 64) : Bool := n.val % 2 = 0

/-- The checks of R48 that the word's fields alone decide, in either form. Steps that are no operation words
have no fields to check. DESIGN CHOICE (log entry 59): `fl.patch` with mod[1] = 1 and mod[0] = 0 is accepted and mod[1]
then has no effect (R134). -/
def Instr.accepts : Instr → Bool
  | .sealOp x => x.own ≠ 0 && x.vectors.toNat ≤ 32 && x.stores.toNat ≤ 512 && x.gated.toNat ≤ 8
  | .trap n => n.toNat < 65536
  | .lpipe _ s => 1 ≤ s.toNat && s.toNat ≤ 8
  | .fmti v => v.toNat ≤ 4
  | .sysr _ n => (sysWritable n).isSome
  | .sysw n _ => sysWritable n = some true
  | .add x | .sub x | .mul x | .mulh x | .mulhz x | .div x | .divz x | .rem x | .remz x | .and x | .or x | .xor x
  | .shl x | .shr x | .sra x | .min x | .max x | .minz x | .maxz x => x.ok
  | .sel x _ => x.ok
  | .addi x | .andi x | .ori x | .xori x => x.ok
  | .shli x | .shri x | .srai x => x.ok && x.imm.toNat ≤ 31
  | .clz x | .ctz x | .popc x | .mov x => x.ok
  | .li nw d _ => nwOk nw d
  | .extS x w | .extZ x w => x.ok && w ≠ 0
  | .leaH _ _ b => b.val ≤ 61
  | .atAdd x | .atMin x | .atMax x | .atAnd x | .atOr x | .atXor x => x.ok
  | .atXchg d x => x.ok && (!x.wide || even d)
  | .atCas d _ b c wide _ => !wide || (even d && even b && even c)
  | .fence _ m => m ≠ 0
  | .probe _ _ _ k => k ≠ 3
  | .ldVg _ _ _ ty _ | .stVs _ _ _ ty _ _ => ty = .si32 || ty = .ui32
  | .wset _ p l _ => 1 ≤ l.val && l.val ≤ 4 && 2 * p.val + 1 + 2 * l.val ≤ 63
  | .flCopy x | .flXpose x => x.ok 2 && x.mod &&& 0x3F = 0
  | .flPerm x => x.ok 2 && x.mod &&& 0x38 = 0 && (x.mod &&& 7).toNat ≤ 5
  | .flGather x | .flScatter x => x.ok 4 && x.mod &&& 0x3F = 0
  | .flFill x => x.ok 4 && x.mod &&& 0x3F = 0 && x.hS = 0
  | .flMcast x => x.ok 4 && x.mod = 0
  | .flPatch x => x.ok 4 && x.mod &&& 0x3C = 0 && (x.mod.getLsbD 0 || x.hS = 0)
  | .flRope x => x.ok 4 && x.mod &&& 0x3E = 0
  | .flPublish x => x.ok 2 && x.bare
  | .flPoll x | .flCancel x => x.ok 1 && x.bare && x.hD = 0 && x.arr = 0
  | .vAdd x | .vSub x | .vMul x | .vAbd x => x.ok x.ty.isArith x.ty.isFlt true
  | .vFma x | .vFms x => x.ok x.ty.isFlt true true
  | .vMin x | .vMax x => x.ok x.ty.isArith false false
  | .vAbs x | .vNeg x => x.ok x.ty.isArith false x.ty.isInt
  | .vMulh x => x.ok x.ty.isInt false false
  | .vMadd x => x.ok x.ty.isInt false true
  | .vDot x => x.ok x.ty.dotOk (!x.ty.isInt) true
  | .vRcp x | .vRsq x | .vSqrt x | .vExp2 x | .vLog2 x => x.ok x.ty.isFlt true true
  | .vCvt x s p => x.ok true true true && s ≠ .none && p.val < cvtParts x.ty s
  | .vScl x s c => x.ok x.ty.sclDst true true && (s = .si32 || s = .f32) && c.sclScale
  | .vRnd x => x.ok x.ty.isFlt true false
  | .vCmp cc _ _ _ ty _ => ty.isInt || ((ty.isFlt || ty.isF8) && cc ≠ .ltb && cc ≠ .geb)
  | .vClass _ _ _ ty _ => ty.isFlt || ty.isF8
  | .vSel x _ => x.ok x.ty.isPerm false false
  | .vAnd x | .vOr x | .vXor x | .vShl x | .vShr x | .vSra x => x.ok x.ty.isInt false false
  | .vNot x | .vPopc x | .vClz x => x.ok x.ty.isInt false false
  | .vRedAdd x => x.ok x.ty.isFlt true && !x.excl
  | .vRedMax x | .vRedMin x => x.ok false false && !x.excl
  | .vScan x => x.ok x.ty.isFlt true
  | .vPerm x | .vShuf x _ | .vSlide x _ => x.ok x.ty.isPerm false false
  | .vBcast x _ => x.ok x.ty.isPerm false false
  | .vBcastScalar nw d b ty _ => ty.isPerm && nwOkV nw d && (ty ≠ .si64 || b.evenReg)
  | .vBrev x b => x.ok x.ty.isPerm false false && b.val ≤ Nat.log2 x.ty.elems
  | .vMov x => x.ok true false false
  | .vIns _ a _ ty => ty.isPerm && (ty ≠ .si64 || a.evenReg)
  | .vGet d _ _ ty => ty.isPerm && (ty ≠ .si64 || even d)
  | .vPack x => x.ok x.ty.isInt false true
  | .vUnpack x _ i4 => x.ok x.ty.isInt false false && x.ty ≠ .si64 && (!i4 || x.ty = .si8 || x.ty = .ui8)
  | .vIota nw d _ ty _ => ty.isInt && nwOkV nw d
  | .mLease m | .mFree m => m ≠ 0
  | .mMma x => mmaOk x && x.modi ≠ 0
  | .mCellp x => mmaOk x && x.tyB ≠ .ds8 && x.tyB ≠ .e2m1 && x.modi &&& 0x3FFF ≠ 0
  | .mMmas _ a b ta tb sc bsz _ k =>
      a.val ≤ 30 && b.val ≤ 30 && ((ta.isF8 && tb.isF8) || (ta = .e2m1 && tb = .e2m1)) &&
      (sc = .e4m3 || sc = .e5m2 || sc = .e8m0) && bsz ≠ 0 && k ≠ 0
  | .mDrain _ _ d s _ _ => d.drainDst && (s = .si32 || s = .f32)
  | .mFill _ _ t => t = .si32 || t = .ui32 || t = .f32
  | .mAdd _ _ t sat => (t = .si32 || t = .f32) && (t = .si32 || !sat)
  | .mScale _ _ t => t.sclScale
  | .mBfly _ a b c s _ _ => bflyOk a.toNat b.toNat c.toNat && s.toNat < bflyStages a.toNat b.toNat c.toNat
  | .mBrev _ _ a b c bits => bflyOk a.toNat b.toNat c.toNat && (!bits || (b = 0 && c = 0))
  | .mTwid _ _ a b c _ _ =>
      a.toNat ≤ 16 && b.toNat ≤ 10 && c.toNat ≤ 6 && 2 ≤ bflyLen a.toNat b.toNat c.toNat &&
      bflyLen a.toNat b.toNat c.toNat ≤ 65536
  | .nop | .prep .. | .prepr .. | .cmp .. | .cmpi .. | .vAny .. | .vAll .. | .cOp .. | .br .. | .jmp .. | .call ..
  | .ret | .jtab .. | .loop .. | .loopi .. | .lbrk .. | .lpset .. | .lpget .. | .exit .. | .yield | .fmt ..
  | .waitA .. | .waitAWake .. | .take .. | .bar .. | .lui .. | .addP .. | .addiP .. | .subP .. | .shlP ..
  | .ldSb .. | .ldZb .. | .ldSh .. | .ldZh .. | .ldW .. | .ldP .. | .stB .. | .stH .. | .stW .. | .stP ..
  | .ldV .. | .landingSlotLanded .. | .stV .. | .commit .. | .hld .. | .hst .. | .hset .. | .atFadd .. | .mark ..
  | .release .. | .pageRequest .. | .prans .. | .rmap .. | .runmap .. | .granuleFill .. | .rflush .. | .stamp ..
  | .flumeCommandStart .. | .flumePublish .. | .qAnd .. | .qOr .. | .qXor .. | .qNot .. | .qMov .. | .qCnt ..
  | .qFirst .. | .leaseGrant .. | .mZero .. | .mWait | .mProg .. | .mTmul .. | .arrayTurnEnd ..
  | .matrixCommandComplete .. | .updateOnlyLineEviction .. | .l2WriteBack .. | .colourQueuePerform ..
  | .tileRetirement .. | .retiredTileTest .. | .leaseTimeout .. | .preemptionDeadline .. | .wkinv ..
  | .tlbInvalidationComplete | .qdinv .. | .directoryInvalidationComplete | .sweeperVisit .. | .swleave ..
  | .swfree .. | .channelSparing .. | .doorbellKick .. | .recordRead .. | .waitWordSatisfied ..
  | .recordPlacement .. | .chainSuccessorStart .. | .headPassedOver | .operatorCompletion .. | .preemption ..
  | .switchOut .. | .operatorResume .. | .withdrawal .. | .pondRunStart .. | .pondRunStop .. | .pondRunClaimable ..
  | .pondClaim .. | .prctl .. | .ctxCreate .. | .ctxKill .. | .killComplete | .ctxDestroy .. | .ctxResumeOperator ..
  | .ctxEndOperator .. | .ctxMigrate .. | .migrationCheckpoint .. | .codeObjectLoad .. | .codeObjectUnload ..
  | .codeObjectQuery .. | .codeObjectRemoval .. | .blockTranslation .. | .riderCoreFailover .. | .grantFault ..
  | .flitReceive .. | .flitReplay .. | .laneCheck .. | .allotRefill .. | .portSend .. | .bringUp ..
  | .thermalEvent .. | .thermalShutdown .. | .serviceConnection .. | .serviceConnectionClose ..
  | .readBootRecord .. | .clearBootRecord .. | .readServiceLog .. | .readSpeedTable .. | .readRlim ..
  | .readTelemetry .. | .beginFirmwareImage .. | .firmwareChunk .. | .commitFirmwareImage .. | .registerWrite ..
  | .hostCoreAccess .. | .pcieDeviceAccess .. => true

/-- Whether the word uses what only native code may: a latch selector or nw = 1 (R20, R21). -/
def Instr.nativeOnly : Instr → Bool
  | .add x | .sub x | .mul x | .mulh x | .mulhz x | .div x | .divz x | .rem x | .remz x | .and x | .or x | .xor x
  | .shl x | .shr x | .sra x | .min x | .max x | .minz x | .maxz x => x.nw || x.a.isLat || x.b.isLat
  | .sel x _ => x.nw || x.a.isLat || x.b.isLat
  | .addi x | .andi x | .ori x | .xori x | .shli x | .shri x | .srai x => x.nw || x.a.isLat
  | .clz x | .ctz x | .popc x | .mov x => x.nw || x.a.isLat
  | .extS x _ | .extZ x _ => x.nw || x.a.isLat
  | .li nw _ _ => nw
  | .shlP _ _ b => b.isLat
  | .cmp _ _ a b => a.isLat || b.isLat
  | .cmpi _ _ a _ => a.isLat
  | .loop a | .lpipe a _ | .lpset a | .fmt a | .sysw _ a | .stamp _ a => a.isLat
  | .lpget d | .probe d _ _ _ => d.isNone
  | .stB x | .stH x | .stW x => x.b.isLat
  | .ldVg _ _ b _ _ => b.isLat
  | .stV _ _ b _ => b.isLat
  | .stVs _ b c _ _ _ => b.isLat || c.isLat
  | .hset _ _ b _ | .rmap _ _ b | .rflush _ b => b.isLat
  | .vAdd x | .vSub x | .vMul x | .vMin x | .vMax x | .vAbd x | .vMulh x | .vAnd x | .vOr x | .vXor x | .vShl x
  | .vShr x | .vSra x | .vPerm x | .vPack x => x.nw || x.a.isLat || x.b.isLat
  | .vScl x _ _ => x.nw || x.a.isLat || x.b.isLat
  | .vSel x _ => x.nw || x.a.isLat || x.b.isLat
  | .vShuf x _ => x.nw || x.a.isLat || x.b.isLat
  | .vSlide x c => x.nw || x.a.isLat || x.b.isLat || c.isLat
  | .vFma x | .vFms x | .vMadd x | .vDot x => x.nw || x.a.isLat || x.b.isLat || x.c.isLat
  | .vAbs x | .vNeg x | .vRcp x | .vRsq x | .vSqrt x | .vExp2 x | .vLog2 x | .vRnd x | .vNot x | .vPopc x | .vClz x
  | .vMov x => x.nw || x.a.isLat
  | .vCvt x _ _ => x.nw || x.a.isLat
  | .vBrev x _ => x.nw || x.a.isLat
  | .vUnpack x _ _ => x.nw || x.a.isLat
  | .vBcast x b => x.nw || x.a.isLat || b.isLat
  | .vBcastScalar nw _ b _ _ => nw || b.isLat
  | .vIota nw _ a _ _ => nw || a.isLat
  | .vRedAdd x | .vRedMax x | .vRedMin x | .vScan x => x.nw || x.a.isLat
  | .vCmp _ _ a b _ _ => a.isLat || b.isLat
  | .vClass _ a _ _ _ => a.isLat
  | .vIns _ a b _ => a.isLat || b.isLat
  | .vGet _ a b _ => a.isLat || b.isLat
  | _ => false

/-- Well formed in a code form (R20, R21, R48). -/
def Instr.wf (f : Form) (i : Instr) : Bool := i.accepts && (f = .native || !i.nativeOnly)

end Sys2Proof
end

