-- ==== Sys2Proof/Decode.lean ====
section
/-! DEFINITION. The decoder of both code forms and, after it, the encoder, from R15 to R56 and the encoding tables
of the instruction chapters. A word is read as the digits of a number, lowest field first. -/

namespace Sys2Proof

/-- Why a word or a bundle is no operation; every reason raises "illegal operation" (R48). -/
inductive DecodeError where
  /-- Class 6 to 14 (R18). -/
  | badClass
  /-- A class 15 word outside a seal (R16, R44). -/
  | straySealWord
  /-- An opcode the map does not assign, or a class 0 opcode 0 word that is not all zero (R56). -/
  | unassigned
  /-- An operand field that names nothing (R19, R20, R28, R32), or a code that stands for nothing (R22 to R25). -/
  | operand
  /-- A reserved field or bit is not 0 (R7, R26). -/
  | reserved
  /-- A value the operation does not accept (R22 to R25, R48). -/
  | notAccepted
  /-- A latch selector or nw = 1 where the form or the operation forbids it (R20, R21). -/
  | formForbids
  /-- The seal group is malformed (R38 to R44). -/
  | malformedSeal
  /-- A word whose class does not match its slot (R16). -/
  | wrongSlot
  deriving DecidableEq, Repr

/-! ## Operand fields -/

def ofBool (b : Bool) : Nat := if b then 1 else 0

/-- A field value below `n` (R19). -/
def finOf (n v : Nat) : Option (Fin n) := if h : v < n then some ⟨v, h⟩ else none

def sOf (v : Nat) : Option (Fin 64) := finOf 64 v
/-- A single s destination that nw = 1 drops (R21). -/
def dstOf (nw v : Nat) : Option (Option (Fin 64)) := if nw = 1 then some none else (sOf v).map some
def dstTo (d : Option (Fin 64)) : Nat := (d.map (·.val)).getD 0
/-- An even pair index, as half of it (R19). -/
def pairOf (v : Nat) : Option (Fin 32) := if v % 2 = 0 then finOf 32 (v / 2) else none
def pairTo (p : Fin 32) : Nat := 2 * p.val

def sSrcOf (v : Nat) : Option SSrc :=
  if v < 128 then (sOf v).map .reg else (finOf 2 (v - 128)).map .lat
def sSrcTo : SSrc → Nat
  | .reg n => n.val
  | .lat b => 128 + b.val

def vSrcOf (v : Nat) : Option VSrc :=
  if v < 96 then (finOf 96 v).map .reg
  else if v < 128 then (finOf 4 (v - 96)).map .port
  else if 130 ≤ v then (finOf 6 (v - 130)).map .lat else none
def vSrcTo : VSrc → Nat
  | .reg n => n.val
  | .port w => 96 + w.val
  | .lat b => 130 + b.val

def vDstOf (v : Nat) : Option VDst :=
  if v < 96 then (finOf 96 v).map .reg
  else if 100 ≤ v then (finOf 2 (v - 100)).map .port else none
def vDstTo : VDst → Nat
  | .reg n => n.val
  | .port w => 100 + w.val

/-- A base operand (R28). -/
def baseOf (v : Nat) : Option Base :=
  if v < 64 then (pairOf v).map .pair else (finOf 32 (v - 64)).map .handle
def baseTo : Base → Nat
  | .pair p => 2 * p.val
  | .handle h => 64 + h.val

/-- A matrix operand (R32). -/
def mSrcOf (v : Nat) : Option MSrc :=
  if v < 96 then (finOf 32 v).map .handle else (finOf 4 (v - 96)).map .port
def mSrcTo : MSrc → Nat
  | .handle h => h.val
  | .port w => 96 + w.val

/-- The type codes (R22). -/
def tyOf : Nat → Option Ty
  | 0 => some .none | 1 => some .si8 | 2 => some .ui8 | 3 => some .si16 | 4 => some .ui16 | 5 => some .si32
  | 6 => some .ui32 | 7 => some .si64 | 8 => some .f32 | 9 => some .f16 | 10 => some .bf16 | 11 => some .e4m3
  | 12 => some .e5m2 | 13 => some .e2m1 | 14 => some .e8m0 | 15 => some .ds8 | _ => none
def tyTo : Ty → Nat
  | .none => 0 | .si8 => 1 | .ui8 => 2 | .si16 => 3 | .ui16 => 4 | .si32 => 5 | .ui32 => 6 | .si64 => 7 | .f32 => 8
  | .f16 => 9 | .bf16 => 10 | .e4m3 => 11 | .e5m2 => 12 | .e2m1 => 13 | .e8m0 => 14 | .ds8 => 15

/-- The rounding codes (R23). -/
def rndOf : Nat → Option Rnd
  | 0 => some .rne | 1 => some .rtz | 2 => some .pinf | 3 => some .ninf | 4 => some .rna | 7 => some .fmt | _ => none
def rndTo : Rnd → Nat
  | .rne => 0 | .rtz => 1 | .pinf => 2 | .ninf => 3 | .rna => 4 | .fmt => 7

/-- The condition codes (R25). -/
def ccOf : Nat → Option Cc
  | 0 => some .eq | 1 => some .ne | 2 => some .lt | 3 => some .ge | 4 => some .ltb | 5 => some .geb | _ => none
def ccTo : Cc → Nat
  | .eq => 0 | .ne => 1 | .lt => 2 | .ge => 3 | .ltb => 4 | .geb => 5

/-- The scope codes (R25). -/
def scopeOf : Nat → Option Scope
  | 0 => some .seq | 1 => some .tile | 2 => some .field | 3 => some .terrace | 4 => some .basin | 5 => some .catch
  | _ => none
def scopeTo : Scope → Nat
  | .seq => 0 | .tile => 1 | .field => 2 | .terrace => 3 | .basin => 4 | .catch => 5

/-! ## Formats -/

/-- Class and opcode of a word, word[63:52] (R18). -/
def wordKey (w : Nat) : Nat := w / 2 ^ 52

/-- Format T (R27): the fields as numbers, an unused one 0. -/
structure FT where
  key : Nat
  nw : Nat := 0
  dst : Nat := 0
  a : Nat := 0
  b : Nat := 0
  c : Nat := 0
  ty : Nat := 0
  msk : Nat := 0
  sat : Nat := 0
  rnd : Nat := 0
  mod : Nat := 0
  deriving DecidableEq, Repr

def FT.word (f : FT) : Nat :=
  f.mod % 256 + 256 * (f.rnd % 8 + 8 * (f.sat % 2 + 2 * (f.msk % 16 + 16 * (f.ty % 16 + 16 * (f.c % 256 +
  256 * (f.b % 256 + 256 * (f.a % 256 + 256 * (f.dst % 128 + 128 * (f.nw % 2 + 2 * (f.key % 4096))))))))))

def FT.of (w : Nat) : FT :=
  { key := w / 2 ^ 52 % 4096, nw := w / 2 ^ 51 % 2, dst := w / 2 ^ 44 % 128, a := w / 2 ^ 36 % 256,
    b := w / 2 ^ 28 % 256, c := w / 2 ^ 20 % 256, ty := w / 2 ^ 16 % 16, msk := w / 2 ^ 12 % 16,
    sat := w / 2 ^ 11 % 2, rnd := w / 2 ^ 8 % 8, mod := w % 256 }

/-- Format I (R28): the fields as numbers, an unused one 0. -/
structure FI where
  key : Nat
  nw : Nat := 0
  dst : Nat := 0
  a : Nat := 0
  size : Nat := 0
  col : Nat := 0
  b : Nat := 0
  imm : Nat := 0
  deriving DecidableEq, Repr

def FI.word (f : FI) : Nat :=
  f.imm % 16777216 + 16777216 * (f.b % 256 + 256 * (f.col % 8 + 8 * (f.size % 2 + 2 * (f.a % 256 +
  256 * (f.dst % 128 + 128 * (f.nw % 2 + 2 * (f.key % 4096)))))))

def FI.of (w : Nat) : FI :=
  { key := w / 2 ^ 52 % 4096, nw := w / 2 ^ 51 % 2, dst := w / 2 ^ 44 % 128, a := w / 2 ^ 36 % 256,
    size := w / 2 ^ 35 % 2, col := w / 2 ^ 32 % 8, b := w / 2 ^ 24 % 256, imm := w % 16777216 }

/-- Format K (R29): the fields as numbers, an unused one 0. -/
structure FK where
  key : Nat
  nw : Nat := 0
  dst : Nat := 0
  a : Nat := 0
  sel : Nat := 0
  imm : Nat := 0
  deriving DecidableEq, Repr

def FK.word (f : FK) : Nat :=
  f.imm % 4294967296 + 4294967296 * (f.sel % 16 + 16 * (f.a % 256 + 256 * (f.dst % 128 + 128 * (f.nw % 2 +
  2 * (f.key % 4096)))))

def FK.of (w : Nat) : FK :=
  { key := w / 2 ^ 52 % 4096, nw := w / 2 ^ 51 % 2, dst := w / 2 ^ 44 % 128, a := w / 2 ^ 36 % 256,
    sel := w / 2 ^ 32 % 16, imm := w % 4294967296 }

/-- Format B (R30): the fields as numbers, an unused one 0. -/
structure FB where
  key : Nat
  tsel : Nat := 0
  csel : Nat := 0
  inv : Nat := 0
  res2 : Nat := 0
  a : Nat := 0
  res1 : Nat := 0
  imm : Nat := 0
  deriving DecidableEq, Repr

def FB.word (f : FB) : Nat :=
  f.imm % 4294967296 + 4294967296 * (f.res1 % 16 + 16 * (f.a % 256 + 256 * (f.res2 % 8 + 8 * (f.inv % 2 +
  2 * (f.csel % 4 + 4 * (f.tsel % 4 + 4 * (f.key % 4096)))))))

def FB.of (w : Nat) : FB :=
  { key := w / 2 ^ 52 % 4096, tsel := w / 2 ^ 50 % 4, csel := w / 2 ^ 48 % 4, inv := w / 2 ^ 47 % 2,
    res2 := w / 2 ^ 44 % 8, a := w / 2 ^ 36 % 256, res1 := w / 2 ^ 32 % 16, imm := w % 4294967296 }

/-- Format D (R31): the fields as numbers, an unused one 0. -/
structure FD where
  key : Nat
  nw : Nat := 0
  dst : Nat := 0
  a : Nat := 0
  b : Nat := 0
  c : Nat := 0
  d : Nat := 0
  eng : Nat := 0
  stamp : Nat := 0
  mod : Nat := 0
  deriving DecidableEq, Repr

def FD.word (f : FD) : Nat :=
  f.mod % 128 + 128 * (f.stamp % 2 + 2 * (f.eng % 16 + 16 * (f.d % 256 + 256 * (f.c % 256 + 256 * (f.b % 256 +
  256 * (f.a % 256 + 256 * (f.dst % 128 + 128 * (f.nw % 2 + 2 * (f.key % 4096)))))))))

def FD.of (w : Nat) : FD :=
  { key := w / 2 ^ 52 % 4096, nw := w / 2 ^ 51 % 2, dst := w / 2 ^ 44 % 128, a := w / 2 ^ 36 % 256,
    b := w / 2 ^ 28 % 256, c := w / 2 ^ 20 % 256, d := w / 2 ^ 12 % 256, eng := w / 2 ^ 8 % 16,
    stamp := w / 2 ^ 7 % 2, mod := w % 128 }

/-- Format M (R32): the fields as numbers, an unused one 0. -/
structure FM where
  key : Nat
  accD : Nat := 0
  accS : Nat := 0
  a : Nat := 0
  b : Nat := 0
  tyA : Nat := 0
  tyB : Nat := 0
  sc : Nat := 0
  bsz : Nat := 0
  sat : Nat := 0
  acc : Nat := 0
  mod : Nat := 0
  deriving DecidableEq, Repr

def FM.word (f : FM) : Nat :=
  f.mod % 65536 + 65536 * (f.acc % 2 + 2 * (f.sat % 2 + 2 * (f.bsz % 4 + 4 * (f.sc % 16 + 16 * (f.tyB % 16 +
  16 * (f.tyA % 16 + 16 * (f.b % 256 + 256 * (f.a % 256 + 256 * (f.accS % 4 + 4 * (f.accD % 4 +
  4 * (f.key % 4096)))))))))))

def FM.of (w : Nat) : FM :=
  { key := w / 2 ^ 52 % 4096, accD := w / 2 ^ 50 % 4, accS := w / 2 ^ 48 % 4, a := w / 2 ^ 40 % 256,
    b := w / 2 ^ 32 % 256, tyA := w / 2 ^ 28 % 16, tyB := w / 2 ^ 24 % 16, sc := w / 2 ^ 20 % 16,
    bsz := w / 2 ^ 18 % 4, sat := w / 2 ^ 17 % 2, acc := w / 2 ^ 16 % 2, mod := w % 65536 }

/-! ## The opcode map (R50 to R55) -/

/-- The fields of an operation word. -/
inductive Enc where
  | T (f : FT)
  | I (f : FI)
  | K (f : FK)
  | B (f : FB)
  | D (f : FD)
  | M (f : FM)
  deriving DecidableEq, Repr

def Enc.word : Enc → Nat
  | .T f => f.word
  | .I f => f.word
  | .K f => f.word
  | .B f => f.word
  | .D f => f.word
  | .M f => f.word

def s3Of (f : FT) : Option S3 := do
  let d ← sOf f.dst; let a ← sSrcOf f.a; let b ← sSrcOf f.b
  return ⟨f.nw = 1, d, a, b⟩
def s3To (key : Nat) (x : S3) : FT :=
  { key := key, nw := ofBool x.nw, dst := x.d.val, a := sSrcTo x.a, b := sSrcTo x.b }

def atOf (f : FI) : Option AtOp := do
  let p ← baseOf f.a; let b ← sOf f.b; let c ← finOf 8 f.col
  return ⟨p, BitVec.ofNat 24 f.imm, f.size = 1, b, c⟩
def atTo (key : Nat) (x : AtOp) : FI :=
  { key := key, a := baseTo x.base, size := ofBool x.wide, col := x.col.val, b := x.b.val, imm := x.off.toNat }

def flOf (f : FD) : Option Fl := do
  let d ← sOf f.dst; let hD ← finOf 32 f.a; let hS ← finOf 32 f.b; let c ← pairOf f.c
  let p ← sOf f.d; let e ← finOf 16 f.eng
  return ⟨f.nw = 1, d, hD, hS, c, p, e, f.stamp = 1, BitVec.ofNat 7 f.mod⟩
def flTo (key : Nat) (x : Fl) : FD :=
  { key := key, nw := ofBool x.nw, dst := x.d.val, a := x.hD.val, b := x.hS.val, c := pairTo x.arr, d := x.par.val,
    eng := x.eng.val, stamp := ofBool x.stamp, mod := x.mod.toNat }

def v1Of (f : FT) : Option V1 := do
  let d ← vDstOf f.dst; let a ← vSrcOf f.a; let ty ← tyOf f.ty; let m ← finOf 16 f.msk; let r ← rndOf f.rnd
  return ⟨f.nw = 1, d, a, ty, m, f.sat = 1, r⟩
def v1To (key : Nat) (x : V1) : FT :=
  { key := key, nw := ofBool x.nw, dst := vDstTo x.d, a := vSrcTo x.a, ty := tyTo x.ty, msk := x.msk.val,
    sat := ofBool x.sat, rnd := rndTo x.rnd }

def v2Of (f : FT) : Option V2 := do
  let d ← vDstOf f.dst; let a ← vSrcOf f.a; let b ← vSrcOf f.b; let ty ← tyOf f.ty; let m ← finOf 16 f.msk
  let r ← rndOf f.rnd
  return ⟨f.nw = 1, d, a, b, ty, m, f.sat = 1, r⟩
def v2To (key : Nat) (x : V2) : FT :=
  { key := key, nw := ofBool x.nw, dst := vDstTo x.d, a := vSrcTo x.a, b := vSrcTo x.b, ty := tyTo x.ty,
    msk := x.msk.val, sat := ofBool x.sat, rnd := rndTo x.rnd }

def v3Of (f : FT) : Option V3 := do
  let d ← vDstOf f.dst; let a ← vSrcOf f.a; let b ← vSrcOf f.b; let c ← vSrcOf f.c; let ty ← tyOf f.ty
  let m ← finOf 16 f.msk; let r ← rndOf f.rnd
  return ⟨f.nw = 1, d, a, b, c, ty, m, f.sat = 1, r⟩
def v3To (key : Nat) (x : V3) : FT :=
  { key := key, nw := ofBool x.nw, dst := vDstTo x.d, a := vSrcTo x.a, b := vSrcTo x.b, c := vSrcTo x.c,
    ty := tyTo x.ty, msk := x.msk.val, sat := ofBool x.sat, rnd := rndTo x.rnd }

def vRedOf (f : FT) : Option VRed := do
  let d ← vDstOf f.dst; let a ← vSrcOf f.a; let q ← finOf 16 f.b; let ty ← tyOf f.ty; let m ← finOf 16 f.msk
  let r ← rndOf f.rnd
  return ⟨f.nw = 1, d, a, f.mod % 2 = 1, q, f.mod / 2 % 2 = 1, ty, m, f.sat = 1, r⟩
def vRedTo (key : Nat) (x : VRed) : FT :=
  { key := key, nw := ofBool x.nw, dst := vDstTo x.d, a := vSrcTo x.a, b := x.q.val, ty := tyTo x.ty,
    msk := x.msk.val, sat := ofBool x.sat, rnd := rndTo x.rnd, mod := ofBool x.seg + 2 * ofBool x.excl }

def mmulOf (f : FM) : Option MMul := do
  let d ← finOf 4 f.accD; let a ← mSrcOf f.a; let b ← mSrcOf f.b; let ta ← tyOf f.tyA; let tb ← tyOf f.tyB
  return ⟨d, a, b, ta, tb, f.sat = 1, f.acc = 1, BitVec.ofNat 16 f.mod⟩
def mmulTo (key : Nat) (x : MMul) : FM :=
  { key := key, accD := x.acc.val, a := mSrcTo x.a, b := mSrcTo x.b, tyA := tyTo x.tyA, tyB := tyTo x.tyB,
    sat := ofBool x.sat, acc := ofBool x.add, mod := x.modi.toNat }

def decT0 (f : FT) : Option Instr :=
  match f.key with
  | 0x004 => do
      let cc ← ccOf f.mod; let d ← finOf 4 f.dst; let a ← sSrcOf f.a; let b ← sSrcOf f.b; return .cmp cc d a b
  | 0x006 => do let d ← finOf 4 f.dst; let q ← finOf 16 f.a; let ty ← tyOf f.ty; return .vAny d q ty
  | 0x007 => do let d ← finOf 4 f.dst; let q ← finOf 16 f.a; let ty ← tyOf f.ty; return .vAll d q ty
  | 0x008 => do
      let d ← finOf 4 f.dst; let a ← finOf 4 f.a; let b ← finOf 4 f.b
      return .cOp d a b (BitVec.ofNat 4 f.mod)
  | 0x01B => do let c ← finOf 4 f.a; return .lbrk c
  | 0x030 => do
      let d ← sOf f.dst; let p ← pairOf f.a; let b ← sOf f.b; let cc ← ccOf f.mod; return .waitA d p b cc
  | 0x031 => do let d ← pairOf f.dst; let p ← pairOf f.a; return .take d p
  | 0x032 => do let p ← pairOf f.a; return .bar p
  | _ => none

def decT1 (f : FT) : Option Instr :=
  match f.key with
  | 0x100 => do let x ← s3Of f; return .add x
  | 0x101 => do let x ← s3Of f; return .sub x
  | 0x104 => do let x ← s3Of f; return .mul x
  | 0x105 => do let x ← s3Of f; return .mulh x
  | 0x106 => do let x ← s3Of f; return .mulhz x
  | 0x108 => do let x ← s3Of f; return .div x
  | 0x109 => do let x ← s3Of f; return .divz x
  | 0x10A => do let x ← s3Of f; return .rem x
  | 0x10B => do let x ← s3Of f; return .remz x
  | 0x110 => do let x ← s3Of f; return .and x
  | 0x111 => do let x ← s3Of f; return .or x
  | 0x112 => do let x ← s3Of f; return .xor x
  | 0x118 => do let x ← s3Of f; return .shl x
  | 0x119 => do let x ← s3Of f; return .shr x
  | 0x11A => do let x ← s3Of f; return .sra x
  | 0x120 => do let x ← s3Of f; return .min x
  | 0x121 => do let x ← s3Of f; return .max x
  | 0x122 => do let x ← s3Of f; return .minz x
  | 0x123 => do let x ← s3Of f; return .maxz x
  | 0x124 => do let x ← s3Of f; let c ← finOf 4 f.mod; return .sel x c
  | 0x128 => do let d ← sOf f.dst; let a ← sSrcOf f.a; return .clz ⟨f.nw = 1, d, a⟩
  | 0x129 => do let d ← sOf f.dst; let a ← sSrcOf f.a; return .ctz ⟨f.nw = 1, d, a⟩
  | 0x12A => do let d ← sOf f.dst; let a ← sSrcOf f.a; return .popc ⟨f.nw = 1, d, a⟩
  | 0x132 => do let d ← sOf f.dst; let a ← sSrcOf f.a; return .mov ⟨f.nw = 1, d, a⟩
  | 0x134 => do let d ← sOf f.dst; let a ← sSrcOf f.a; let w ← finOf 32 f.mod; return .extS ⟨f.nw = 1, d, a⟩ w
  | 0x135 => do let d ← sOf f.dst; let a ← sSrcOf f.a; let w ← finOf 32 f.mod; return .extZ ⟨f.nw = 1, d, a⟩ w
  | 0x138 => do let d ← pairOf f.dst; let a ← pairOf f.a; let b ← pairOf f.b; return .addP ⟨d, a, b⟩
  | 0x13A => do let d ← pairOf f.dst; let a ← pairOf f.a; let b ← pairOf f.b; return .subP ⟨d, a, b⟩
  | 0x13B => do let d ← pairOf f.dst; let a ← pairOf f.a; let b ← sSrcOf f.b; return .shlP d a b
  | 0x13C => do let d ← pairOf f.dst; let h ← finOf 32 f.a; let b ← sOf f.b; return .leaH d h b
  | _ => none

def decT2 (f : FT) : Option Instr :=
  match f.key with
  | 0x211 => do
      let p ← baseOf f.a; let b ← vSrcOf f.b; let ty ← tyOf f.ty; let m ← finOf 16 f.msk
      let n ← finOf 32 f.mod; return .ldVg n p b ty m
  | 0x213 => do
      let p ← baseOf f.a; let b ← vSrcOf f.b; let c ← vSrcOf f.c; let ty ← tyOf f.ty; let m ← finOf 16 f.msk
      let col ← finOf 8 f.mod; return .stVs p b c ty m col
  | 0x214 => do let d ← vDstOf f.dst; let n ← finOf 32 f.mod; return .commit d n
  | 0x21A => do
      let d ← finOf 32 f.dst; let a ← finOf 32 f.a; let b ← sSrcOf f.b; let n ← finOf 8 f.mod
      return .hset d a b n
  | 0x228 => do
      let d ← sOf f.dst; let p ← baseOf f.a; let b ← sOf f.b; let c ← sOf f.c; let col ← finOf 8 (f.mod % 8)
      return .atCas d p b c (f.mod / 8 % 2 = 1) col
  | 0x238 => do
      let d ← dstOf f.nw f.dst; let p ← pairOf f.a; let b ← sOf f.b
      return .probe d p b (BitVec.ofNat 2 f.mod)
  | 0x239 => do let p ← pairOf f.a; let b ← sOf f.b; return .release p b
  | 0x23C => do let n ← finOf 64 f.mod; let p ← pairOf f.a; let b ← sSrcOf f.b; return .rmap n p b
  | 0x23D => do let n ← finOf 64 f.mod; return .runmap n
  | 0x23E => do let p ← pairOf f.a; let b ← sSrcOf f.b; return .rflush p b
  | 0x240 => do let n ← finOf 64 f.mod; let a ← sSrcOf f.a; return .stamp n a
  | _ => none

def decT4 (f : FT) : Option Instr :=
  match f.key with
  | 0x400 => do let x ← v2Of f; return .vAdd x
  | 0x401 => do let x ← v2Of f; return .vSub x
  | 0x402 => do let x ← v2Of f; return .vMul x
  | 0x403 => do let x ← v3Of f; return .vFma x
  | 0x404 => do let x ← v3Of f; return .vFms x
  | 0x405 => do let x ← v2Of f; return .vMin x
  | 0x406 => do let x ← v2Of f; return .vMax x
  | 0x407 => do let x ← v1Of f; return .vAbs x
  | 0x408 => do let x ← v1Of f; return .vNeg x
  | 0x409 => do let x ← v2Of f; return .vAbd x
  | 0x40A => do let x ← v2Of f; return .vMulh x
  | 0x40B => do let x ← v3Of f; return .vMadd x
  | 0x40C => do let x ← v3Of f; return .vDot x
  | 0x410 => do let x ← v1Of f; return .vRcp x
  | 0x411 => do let x ← v1Of f; return .vRsq x
  | 0x412 => do let x ← v1Of f; return .vSqrt x
  | 0x413 => do let x ← v1Of f; return .vExp2 x
  | 0x414 => do let x ← v1Of f; return .vLog2 x
  | 0x418 => do let x ← v1Of f; let s ← tyOf (f.mod % 16); let p ← finOf 16 (f.mod / 16); return .vCvt x s p
  | 0x419 => do let x ← v2Of f; let s ← tyOf (f.mod % 16); let c ← tyOf (f.mod / 16); return .vScl x s c
  | 0x41A => do let x ← v1Of f; return .vRnd x
  | 0x420 => do
      let cc ← ccOf f.mod; let d ← finOf 16 f.dst; let a ← vSrcOf f.a; let b ← vSrcOf f.b; let ty ← tyOf f.ty
      let m ← finOf 16 f.msk; return .vCmp cc d a b ty m
  | 0x421 => do
      let d ← finOf 16 f.dst; let a ← vSrcOf f.a; let ty ← tyOf f.ty; let m ← finOf 16 f.msk
      return .vClass d a (BitVec.ofNat 8 f.mod) ty m
  | 0x422 => do let x ← v2Of f; let q ← finOf 16 f.c; return .vSel x q
  | 0x428 => do let x ← v2Of f; return .vAnd x
  | 0x429 => do let x ← v2Of f; return .vOr x
  | 0x42A => do let x ← v2Of f; return .vXor x
  | 0x42B => do let x ← v1Of f; return .vNot x
  | 0x42C => do let x ← v2Of f; return .vShl x
  | 0x42D => do let x ← v2Of f; return .vShr x
  | 0x42E => do let x ← v2Of f; return .vSra x
  | 0x42F => do let x ← v1Of f; return .vPopc x
  | 0x430 => do let x ← v1Of f; return .vClz x
  | 0x438 => do let x ← vRedOf f; return .vRedAdd x
  | 0x439 => do let x ← vRedOf f; return .vRedMax x
  | 0x43A => do let x ← vRedOf f; return .vRedMin x
  | 0x43B => do let x ← vRedOf f; return .vScan x
  | 0x440 => do let x ← v2Of f; return .vPerm x
  | 0x441 =>
      if f.mod % 2 = 0 then do let x ← v1Of f; let b ← sSrcOf f.b; return .vBcast x b
      else do
        let d ← vDstOf f.dst; let b ← sSrcOf f.b; let ty ← tyOf f.ty; let m ← finOf 16 f.msk
        return .vBcastScalar (f.nw = 1) d b ty m
  | 0x442 => do let x ← v2Of f; let n ← finOf 4 f.mod; return .vShuf x n
  | 0x443 => do let x ← v2Of f; let c ← sSrcOf f.c; return .vSlide x c
  | 0x444 => do let x ← v1Of f; let b ← finOf 16 f.mod; return .vBrev x b
  | 0x445 => do let x ← v1Of f; return .vMov x
  | 0x446 => do
      let d ← finOf 96 f.dst; let a ← sSrcOf f.a; let b ← sSrcOf f.b; let ty ← tyOf f.ty
      return .vIns d a b ty
  | 0x447 => do
      let d ← sOf f.dst; let a ← vSrcOf f.a; let b ← sSrcOf f.b; let ty ← tyOf f.ty; return .vGet d a b ty
  | 0x448 => do let x ← v2Of f; return .vPack x
  | 0x449 => do let x ← v1Of f; return .vUnpack x (f.mod % 2 = 1) (f.mod / 2 % 2 = 1)
  | 0x44A => do
      let d ← vDstOf f.dst; let a ← sSrcOf f.a; let ty ← tyOf f.ty; let m ← finOf 16 f.msk
      return .vIota (f.nw = 1) d a ty m
  | 0x450 => do let d ← finOf 16 f.dst; let a ← finOf 16 f.a; let b ← finOf 16 f.b; return .qAnd ⟨d, a, b⟩
  | 0x451 => do let d ← finOf 16 f.dst; let a ← finOf 16 f.a; let b ← finOf 16 f.b; return .qOr ⟨d, a, b⟩
  | 0x452 => do let d ← finOf 16 f.dst; let a ← finOf 16 f.a; let b ← finOf 16 f.b; return .qXor ⟨d, a, b⟩
  | 0x453 => do let d ← finOf 16 f.dst; let a ← finOf 16 f.a; return .qNot d a
  | 0x454 => do let d ← sOf f.dst; let a ← finOf 16 f.a; let ty ← tyOf f.ty; return .qCnt d a ty
  | 0x455 => do let d ← sOf f.dst; let a ← finOf 16 f.a; let ty ← tyOf f.ty; return .qFirst d a ty
  | 0x456 => do let d ← finOf 16 f.dst; let a ← finOf 16 f.a; return .qMov d a
  | _ => none

def decI2 (f : FI) : Option Instr :=
  match f.key with
  | 0x200 => do let d ← sOf f.dst; let p ← baseOf f.a; return .ldSb ⟨d, p, BitVec.ofNat 24 f.imm⟩
  | 0x201 => do let d ← sOf f.dst; let p ← baseOf f.a; return .ldZb ⟨d, p, BitVec.ofNat 24 f.imm⟩
  | 0x202 => do let d ← sOf f.dst; let p ← baseOf f.a; return .ldSh ⟨d, p, BitVec.ofNat 24 f.imm⟩
  | 0x203 => do let d ← sOf f.dst; let p ← baseOf f.a; return .ldZh ⟨d, p, BitVec.ofNat 24 f.imm⟩
  | 0x204 => do let d ← sOf f.dst; let p ← baseOf f.a; return .ldW ⟨d, p, BitVec.ofNat 24 f.imm⟩
  | 0x205 => do let d ← pairOf f.dst; let p ← baseOf f.a; return .ldP d p (BitVec.ofNat 24 f.imm)
  | 0x208 => do
      let p ← baseOf f.a; let b ← sSrcOf f.b; let c ← finOf 8 f.col
      return .stB ⟨p, BitVec.ofNat 24 f.imm, b, c⟩
  | 0x209 => do
      let p ← baseOf f.a; let b ← sSrcOf f.b; let c ← finOf 8 f.col
      return .stH ⟨p, BitVec.ofNat 24 f.imm, b, c⟩
  | 0x20A => do
      let p ← baseOf f.a; let b ← sSrcOf f.b; let c ← finOf 8 f.col
      return .stW ⟨p, BitVec.ofNat 24 f.imm, b, c⟩
  | 0x20B => do
      let p ← baseOf f.a; let b ← pairOf f.b; let c ← finOf 8 f.col; return .stP p (BitVec.ofNat 24 f.imm) b c
  | 0x210 => do let p ← baseOf f.a; let n ← finOf 32 f.b; return .ldV n p (BitVec.ofNat 24 f.imm)
  | 0x212 => do
      let p ← baseOf f.a; let b ← vSrcOf f.b; let c ← finOf 8 f.col; return .stV p (BitVec.ofNat 24 f.imm) b c
  | 0x218 => do let d ← finOf 32 f.dst; let p ← baseOf f.a; return .hld d p (BitVec.ofNat 24 f.imm)
  | 0x219 => do
      let p ← baseOf f.a; let b ← finOf 32 f.b; let c ← finOf 8 f.col
      return .hst p (BitVec.ofNat 24 f.imm) b c
  | 0x220 => do let x ← atOf f; return .atAdd x
  | 0x221 => do let x ← atOf f; return .atMin x
  | 0x222 => do let x ← atOf f; return .atMax x
  | 0x223 => do let x ← atOf f; return .atAnd x
  | 0x224 => do let x ← atOf f; return .atOr x
  | 0x225 => do let x ← atOf f; return .atXor x
  | 0x229 => do let d ← sOf f.dst; let x ← atOf f; return .atXchg d x
  | 0x22A => do
      let d ← sOf f.dst; let p ← baseOf f.a; let b ← sOf f.b; let c ← finOf 8 f.col
      return .atFadd d p (BitVec.ofNat 24 f.imm) b c
  | _ => none

def decK0 (f : FK) : Option Instr :=
  match f.key with
  | 0x005 => do
      let cc ← ccOf f.sel; let d ← finOf 4 f.dst; let a ← sSrcOf f.a
      return .cmpi cc d a (BitVec.ofNat 32 f.imm)
  | 0x018 => do let a ← sSrcOf f.a; return .loop a
  | 0x019 => some (.loopi (BitVec.ofNat 32 f.imm))
  | 0x01A => do let a ← sSrcOf f.a; return .lpipe a (BitVec.ofNat 32 f.imm)
  | 0x01C => do let a ← sSrcOf f.a; return .lpset a
  | 0x01D => do let d ← dstOf f.nw f.dst; return .lpget d
  | 0x020 => some (.trap (BitVec.ofNat 32 f.imm))
  | 0x021 => do let a ← sOf f.a; return .exit a
  | 0x022 => some .yield
  | 0x028 => do let a ← sSrcOf f.a; return .fmt a
  | 0x029 => some (.fmti (BitVec.ofNat 32 f.imm))
  | 0x02C => do let d ← sOf f.dst; return .sysr d (BitVec.ofNat 12 f.imm)
  | 0x02D => do let a ← sSrcOf f.a; return .sysw (BitVec.ofNat 12 f.imm) a
  | _ => none

def decK1 (f : FK) : Option Instr :=
  match f.key with
  | 0x102 => do let d ← sOf f.dst; let a ← sSrcOf f.a; return .addi ⟨f.nw = 1, d, a, BitVec.ofNat 32 f.imm⟩
  | 0x114 => do let d ← sOf f.dst; let a ← sSrcOf f.a; return .andi ⟨f.nw = 1, d, a, BitVec.ofNat 32 f.imm⟩
  | 0x115 => do let d ← sOf f.dst; let a ← sSrcOf f.a; return .ori ⟨f.nw = 1, d, a, BitVec.ofNat 32 f.imm⟩
  | 0x116 => do let d ← sOf f.dst; let a ← sSrcOf f.a; return .xori ⟨f.nw = 1, d, a, BitVec.ofNat 32 f.imm⟩
  | 0x11C => do let d ← sOf f.dst; let a ← sSrcOf f.a; return .shli ⟨f.nw = 1, d, a, BitVec.ofNat 32 f.imm⟩
  | 0x11D => do let d ← sOf f.dst; let a ← sSrcOf f.a; return .shri ⟨f.nw = 1, d, a, BitVec.ofNat 32 f.imm⟩
  | 0x11E => do let d ← sOf f.dst; let a ← sSrcOf f.a; return .srai ⟨f.nw = 1, d, a, BitVec.ofNat 32 f.imm⟩
  | 0x130 => do let d ← sOf f.dst; return .li (f.nw = 1) d (BitVec.ofNat 32 f.imm)
  | 0x131 => do let d ← pairOf f.dst; return .lui d (BitVec.ofNat 32 f.imm)
  | 0x139 => do let d ← pairOf f.dst; let a ← pairOf f.a; return .addiP d a (BitVec.ofNat 32 f.imm)
  | _ => none

def decK2 (f : FK) : Option Instr :=
  match f.key with
  | 0x230 => do let sc ← scopeOf f.sel; return .mark sc
  | 0x231 => do let sc ← scopeOf f.sel; return .fence sc (BitVec.ofNat 8 f.imm)
  | 0x244 => do
      let w ← finOf 6 f.dst; let p ← pairOf f.a; let l ← finOf 16 f.sel
      return .wset w p l (BitVec.ofNat 32 f.imm)
  | _ => none

def decB0 (f : FB) : Option Instr :=
  match f.key with
  | 0x002 => do let t ← finOf 4 f.tsel; return .prep t (BitVec.ofNat 32 f.imm)
  | 0x003 => do let t ← finOf 4 f.tsel; let a ← pairOf f.a; return .prepr t a
  | 0x010 => do let t ← finOf 4 f.tsel; let c ← finOf 4 f.csel; return .br t c (f.inv = 1)
  | 0x011 => do let t ← finOf 4 f.tsel; return .jmp t
  | 0x012 => do let t ← finOf 4 f.tsel; return .call t
  | 0x013 => some .ret
  | 0x014 => do let a ← sOf f.a; return .jtab a (BitVec.ofNat 32 f.imm)
  | _ => none

def decD3 (f : FD) : Option Instr :=
  match f.key with
  | 0x300 => do let x ← flOf f; return .flCopy x
  | 0x301 => do let x ← flOf f; return .flXpose x
  | 0x302 => do let x ← flOf f; return .flPerm x
  | 0x303 => do let x ← flOf f; return .flGather x
  | 0x304 => do let x ← flOf f; return .flScatter x
  | 0x305 => do let x ← flOf f; return .flFill x
  | 0x306 => do let x ← flOf f; return .flMcast x
  | 0x308 => do let x ← flOf f; return .flPatch x
  | 0x309 => do let x ← flOf f; return .flRope x
  | 0x310 => do let x ← flOf f; return .flPublish x
  | 0x311 => do let x ← flOf f; return .flPoll x
  | 0x312 => do let x ← flOf f; return .flCancel x
  | _ => none

def decM5 (f : FM) : Option Instr :=
  match f.key with
  | 0x500 => some (.mLease (BitVec.ofNat 4 f.mod))
  | 0x501 => some (.mFree (BitVec.ofNat 4 f.mod))
  | 0x502 => do let d ← finOf 4 f.accD; return .mZero d
  | 0x503 => some .mWait
  | 0x508 => do let x ← mmulOf f; return .mMma x
  | 0x509 => do
      let d ← finOf 4 f.accD; let a ← finOf 32 f.a; let b ← finOf 32 f.b; let ta ← tyOf f.tyA
      let tb ← tyOf f.tyB; let sc ← tyOf f.sc; let z ← finOf 4 f.bsz
      return .mMmas d a b ta tb sc z (f.acc = 1) (BitVec.ofNat 16 f.mod)
  | 0x50A => do let x ← mmulOf f; return .mCellp x
  | 0x50B => do let a ← finOf 32 f.a; let n ← finOf 4 f.mod; return .mProg a n
  | 0x510 => do
      let s ← finOf 4 f.accS; let a ← finOf 32 f.a; let td ← tyOf f.tyA; let ts ← tyOf f.tyB
      let r ← rndOf f.mod; return .mDrain s a td ts (f.sat = 1) r
  | 0x511 => do let d ← finOf 4 f.accD; let a ← mSrcOf f.a; let ty ← tyOf f.tyA; return .mFill d a ty
  | 0x512 => do
      let d ← finOf 4 f.accD; let s ← finOf 4 f.accS; let ty ← tyOf f.tyA; return .mAdd d s ty (f.sat = 1)
  | 0x513 => do let d ← finOf 4 f.accD; let a ← mSrcOf f.a; let ty ← tyOf f.tyA; return .mScale d a ty
  | 0x518 => do
      let d ← finOf 4 f.accD
      return .mBfly d (BitVec.ofNat 4 f.mod) (BitVec.ofNat 3 (f.mod / 16)) (BitVec.ofNat 2 (f.mod / 128))
        (BitVec.ofNat 4 (f.mod / 512)) (BitVec.ofNat 2 (f.mod / 8192)) (f.mod / 32768 % 2 = 1)
  | 0x519 => do
      let d ← finOf 4 f.accD; let s ← finOf 4 f.accS
      return .mBrev d s (BitVec.ofNat 4 f.mod) (BitVec.ofNat 3 (f.mod / 16)) (BitVec.ofNat 2 (f.mod / 128))
        (f.mod / 512 % 2 = 1)
  | 0x51A => do
      let d ← finOf 4 f.accD; let s ← finOf 4 f.accS
      return .mTwid d s (BitVec.ofNat 5 f.mod) (BitVec.ofNat 4 (f.mod / 32)) (BitVec.ofNat 3 (f.mod / 512))
        (f.mod / 4096 % 2 = 1) (f.mod / 8192 % 2 = 1)
  | 0x51B => do let d ← finOf 4 f.accD; let s ← finOf 4 f.accS; return .mTmul d s (f.mod % 2 = 1)
  | _ => none

/-- The formats of the opcode map, by class and opcode (R50 to R55). -/
def decodeRaw (w : Nat) : Option Instr :=
  match wordKey w with
  | 0x004 | 0x006 | 0x007 | 0x008 | 0x01B | 0x030 | 0x031 | 0x032 => decT0 (FT.of w)
  | 0x100 | 0x101 | 0x104 | 0x105 | 0x106 | 0x108 | 0x109 | 0x10A | 0x10B | 0x110 | 0x111 | 0x112 | 0x118 |
    0x119 | 0x11A | 0x120 | 0x121 | 0x122 | 0x123 | 0x124 | 0x128 | 0x129 | 0x12A | 0x132 | 0x134 | 0x135 |
    0x138 | 0x13A | 0x13B | 0x13C => decT1 (FT.of w)
  | 0x211 | 0x213 | 0x214 | 0x21A | 0x228 | 0x238 | 0x239 | 0x23C | 0x23D | 0x23E | 0x240 => decT2 (FT.of w)
  | 0x200 | 0x201 | 0x202 | 0x203 | 0x204 | 0x205 | 0x208 | 0x209 | 0x20A | 0x20B | 0x210 | 0x212 | 0x218 |
    0x219 | 0x220 | 0x221 | 0x222 | 0x223 | 0x224 | 0x225 | 0x229 | 0x22A => decI2 (FI.of w)
  | 0x005 | 0x018 | 0x019 | 0x01A | 0x01C | 0x01D | 0x020 | 0x021 | 0x022 | 0x028 | 0x029 | 0x02C | 0x02D =>
    decK0 (FK.of w)
  | 0x102 | 0x114 | 0x115 | 0x116 | 0x11C | 0x11D | 0x11E | 0x130 | 0x131 | 0x139 => decK1 (FK.of w)
  | 0x230 | 0x231 | 0x244 => decK2 (FK.of w)
  | 0x002 | 0x003 | 0x010 | 0x011 | 0x012 | 0x013 | 0x014 => decB0 (FB.of w)
  | _ =>
    if w / 2 ^ 60 = 3 then decD3 (FD.of w) else if w / 2 ^ 60 = 4 then decT4 (FT.of w)
    else if w / 2 ^ 60 = 5 then decM5 (FM.of w) else none

/-- The assigned class and opcode pairs, as ranges (R50 to R56). -/
def assignedRanges : List (Nat × Nat) :=
  [(0x002, 0x008), (0x010, 0x014), (0x018, 0x01D), (0x020, 0x022), (0x028, 0x029), (0x02C, 0x02D),
   (0x030, 0x032), (0x100, 0x102), (0x104, 0x106), (0x108, 0x10B), (0x110, 0x112), (0x114, 0x116),
   (0x118, 0x11A), (0x11C, 0x11E), (0x120, 0x124), (0x128, 0x12A), (0x130, 0x132), (0x134, 0x135),
   (0x138, 0x13C), (0x200, 0x205), (0x208, 0x20B), (0x210, 0x214), (0x218, 0x21A), (0x220, 0x225),
   (0x228, 0x22A), (0x230, 0x231), (0x238, 0x239), (0x23C, 0x23E), (0x240, 0x240), (0x244, 0x244),
   (0x300, 0x306), (0x308, 0x309), (0x310, 0x312), (0x400, 0x40C), (0x410, 0x414), (0x418, 0x41A),
   (0x420, 0x422), (0x428, 0x430), (0x438, 0x43B), (0x440, 0x44A), (0x450, 0x456), (0x500, 0x503),
   (0x508, 0x50B), (0x510, 0x513), (0x518, 0x51B)]

def assigned (key : Nat) : Bool := assignedRanges.any fun r => r.1 ≤ key && key ≤ r.2

/-! ## Encoding -/

/-- The fields of an operation, as its encoding table gives them; steps that are no words, and the words `nop`
and `seal`, have none. -/
def encFields : Instr → Option Enc
  | .cmp cc d a b => some (.T { key := 0x004, dst := d.val, a := sSrcTo a, b := sSrcTo b, mod := ccTo cc })
  | .vAny d q ty => some (.T { key := 0x006, dst := d.val, a := q.val, ty := tyTo ty })
  | .vAll d q ty => some (.T { key := 0x007, dst := d.val, a := q.val, ty := tyTo ty })
  | .cOp d a b tt => some (.T { key := 0x008, dst := d.val, a := a.val, b := b.val, mod := tt.toNat })
  | .lbrk c => some (.T { key := 0x01B, a := c.val })
  | .waitA d p b cc => some (.T { key := 0x030, dst := d.val, a := pairTo p, b := b.val, mod := ccTo cc })
  | .take d p => some (.T { key := 0x031, dst := pairTo d, a := pairTo p })
  | .bar p => some (.T { key := 0x032, a := pairTo p })
  | .add x => some (.T (s3To 0x100 x))
  | .sub x => some (.T (s3To 0x101 x))
  | .mul x => some (.T (s3To 0x104 x))
  | .mulh x => some (.T (s3To 0x105 x))
  | .mulhz x => some (.T (s3To 0x106 x))
  | .div x => some (.T (s3To 0x108 x))
  | .divz x => some (.T (s3To 0x109 x))
  | .rem x => some (.T (s3To 0x10A x))
  | .remz x => some (.T (s3To 0x10B x))
  | .and x => some (.T (s3To 0x110 x))
  | .or x => some (.T (s3To 0x111 x))
  | .xor x => some (.T (s3To 0x112 x))
  | .shl x => some (.T (s3To 0x118 x))
  | .shr x => some (.T (s3To 0x119 x))
  | .sra x => some (.T (s3To 0x11A x))
  | .min x => some (.T (s3To 0x120 x))
  | .max x => some (.T (s3To 0x121 x))
  | .minz x => some (.T (s3To 0x122 x))
  | .maxz x => some (.T (s3To 0x123 x))
  | .sel x c => some (.T { s3To 0x124 x with mod := c.val })
  | .clz x => some (.T { key := 0x128, nw := ofBool x.nw, dst := x.d.val, a := sSrcTo x.a })
  | .ctz x => some (.T { key := 0x129, nw := ofBool x.nw, dst := x.d.val, a := sSrcTo x.a })
  | .popc x => some (.T { key := 0x12A, nw := ofBool x.nw, dst := x.d.val, a := sSrcTo x.a })
  | .mov x => some (.T { key := 0x132, nw := ofBool x.nw, dst := x.d.val, a := sSrcTo x.a })
  | .extS x w => some (.T { key := 0x134, nw := ofBool x.nw, dst := x.d.val, a := sSrcTo x.a, mod := w.val })
  | .extZ x w => some (.T { key := 0x135, nw := ofBool x.nw, dst := x.d.val, a := sSrcTo x.a, mod := w.val })
  | .addP x => some (.T { key := 0x138, dst := pairTo x.d, a := pairTo x.a, b := pairTo x.b })
  | .subP x => some (.T { key := 0x13A, dst := pairTo x.d, a := pairTo x.a, b := pairTo x.b })
  | .shlP d a b => some (.T { key := 0x13B, dst := pairTo d, a := pairTo a, b := sSrcTo b })
  | .leaH d h b => some (.T { key := 0x13C, dst := pairTo d, a := h.val, b := b.val })
  | .ldVg n p b ty m => some (.T
      { key := 0x211, a := baseTo p, b := vSrcTo b, ty := tyTo ty, msk := m.val, mod := n.val })
  | .stVs p b c ty m col => some (.T
      { key := 0x213, a := baseTo p, b := vSrcTo b, c := vSrcTo c, ty := tyTo ty, msk := m.val,
        mod := col.val })
  | .commit d n => some (.T { key := 0x214, dst := vDstTo d, mod := n.val })
  | .hset d a b n => some (.T { key := 0x21A, dst := d.val, a := a.val, b := sSrcTo b, mod := n.val })
  | .atCas d p b c w col => some (.T
      { key := 0x228, dst := d.val, a := baseTo p, b := b.val, c := c.val, mod := col.val + 8 * ofBool w })
  | .probe d p b n => some (.T { key := 0x238, nw := ofBool d.isNone, dst := dstTo d, a := pairTo p, b := b.val, mod := n.toNat })
  | .release p b => some (.T { key := 0x239, a := pairTo p, b := b.val })
  | .rmap n p b => some (.T { key := 0x23C, a := pairTo p, b := sSrcTo b, mod := n.val })
  | .runmap n => some (.T { key := 0x23D, mod := n.val })
  | .rflush p b => some (.T { key := 0x23E, a := pairTo p, b := sSrcTo b })
  | .stamp n a => some (.T { key := 0x240, a := sSrcTo a, mod := n.val })
  | .vAdd x => some (.T (v2To 0x400 x))
  | .vSub x => some (.T (v2To 0x401 x))
  | .vMul x => some (.T (v2To 0x402 x))
  | .vFma x => some (.T (v3To 0x403 x))
  | .vFms x => some (.T (v3To 0x404 x))
  | .vMin x => some (.T (v2To 0x405 x))
  | .vMax x => some (.T (v2To 0x406 x))
  | .vAbs x => some (.T (v1To 0x407 x))
  | .vNeg x => some (.T (v1To 0x408 x))
  | .vAbd x => some (.T (v2To 0x409 x))
  | .vMulh x => some (.T (v2To 0x40A x))
  | .vMadd x => some (.T (v3To 0x40B x))
  | .vDot x => some (.T (v3To 0x40C x))
  | .vRcp x => some (.T (v1To 0x410 x))
  | .vRsq x => some (.T (v1To 0x411 x))
  | .vSqrt x => some (.T (v1To 0x412 x))
  | .vExp2 x => some (.T (v1To 0x413 x))
  | .vLog2 x => some (.T (v1To 0x414 x))
  | .vCvt x s p => some (.T { v1To 0x418 x with mod := tyTo s + 16 * p.val })
  | .vScl x s c => some (.T { v2To 0x419 x with mod := tyTo s + 16 * tyTo c })
  | .vRnd x => some (.T (v1To 0x41A x))
  | .vCmp cc d a b ty m => some (.T
      { key := 0x420, dst := d.val, a := vSrcTo a, b := vSrcTo b, ty := tyTo ty, msk := m.val,
        mod := ccTo cc })
  | .vClass d a set ty m => some (.T
      { key := 0x421, dst := d.val, a := vSrcTo a, ty := tyTo ty, msk := m.val, mod := set.toNat })
  | .vSel x q => some (.T { v2To 0x422 x with c := q.val })
  | .vAnd x => some (.T (v2To 0x428 x))
  | .vOr x => some (.T (v2To 0x429 x))
  | .vXor x => some (.T (v2To 0x42A x))
  | .vNot x => some (.T (v1To 0x42B x))
  | .vShl x => some (.T (v2To 0x42C x))
  | .vShr x => some (.T (v2To 0x42D x))
  | .vSra x => some (.T (v2To 0x42E x))
  | .vPopc x => some (.T (v1To 0x42F x))
  | .vClz x => some (.T (v1To 0x430 x))
  | .vRedAdd x => some (.T (vRedTo 0x438 x))
  | .vRedMax x => some (.T (vRedTo 0x439 x))
  | .vRedMin x => some (.T (vRedTo 0x43A x))
  | .vScan x => some (.T (vRedTo 0x43B x))
  | .vPerm x => some (.T (v2To 0x440 x))
  | .vBcast x b => some (.T { v1To 0x441 x with b := sSrcTo b })
  | .vBcastScalar nw d b ty m => some (.T
      { key := 0x441, nw := ofBool nw, dst := vDstTo d, b := sSrcTo b, ty := tyTo ty, msk := m.val,
        mod := 1 })
  | .vShuf x n => some (.T { v2To 0x442 x with mod := n.val })
  | .vSlide x c => some (.T { v2To 0x443 x with c := sSrcTo c })
  | .vBrev x b => some (.T { v1To 0x444 x with mod := b.val })
  | .vMov x => some (.T (v1To 0x445 x))
  | .vIns d a b ty => some (.T { key := 0x446, dst := d.val, a := sSrcTo a, b := sSrcTo b, ty := tyTo ty })
  | .vGet d a b ty => some (.T { key := 0x447, dst := d.val, a := vSrcTo a, b := sSrcTo b, ty := tyTo ty })
  | .vPack x => some (.T (v2To 0x448 x))
  | .vUnpack x h i => some (.T { v1To 0x449 x with mod := ofBool h + 2 * ofBool i })
  | .vIota nw d a ty m => some (.T
      { key := 0x44A, nw := ofBool nw, dst := vDstTo d, a := sSrcTo a, ty := tyTo ty, msk := m.val })
  | .qAnd x => some (.T { key := 0x450, dst := x.d.val, a := x.a.val, b := x.b.val })
  | .qOr x => some (.T { key := 0x451, dst := x.d.val, a := x.a.val, b := x.b.val })
  | .qXor x => some (.T { key := 0x452, dst := x.d.val, a := x.a.val, b := x.b.val })
  | .qNot d a => some (.T { key := 0x453, dst := d.val, a := a.val })
  | .qCnt d a ty => some (.T { key := 0x454, dst := d.val, a := a.val, ty := tyTo ty })
  | .qFirst d a ty => some (.T { key := 0x455, dst := d.val, a := a.val, ty := tyTo ty })
  | .qMov d a => some (.T { key := 0x456, dst := d.val, a := a.val })
  | .ldSb x => some (.I { key := 0x200, dst := x.d.val, a := baseTo x.base, imm := x.off.toNat })
  | .ldZb x => some (.I { key := 0x201, dst := x.d.val, a := baseTo x.base, imm := x.off.toNat })
  | .ldSh x => some (.I { key := 0x202, dst := x.d.val, a := baseTo x.base, imm := x.off.toNat })
  | .ldZh x => some (.I { key := 0x203, dst := x.d.val, a := baseTo x.base, imm := x.off.toNat })
  | .ldW x => some (.I { key := 0x204, dst := x.d.val, a := baseTo x.base, imm := x.off.toNat })
  | .ldP d p off => some (.I { key := 0x205, dst := pairTo d, a := baseTo p, imm := off.toNat })
  | .stB x => some (.I
      { key := 0x208, a := baseTo x.base, col := x.col.val, b := sSrcTo x.b, imm := x.off.toNat })
  | .stH x => some (.I
      { key := 0x209, a := baseTo x.base, col := x.col.val, b := sSrcTo x.b, imm := x.off.toNat })
  | .stW x => some (.I
      { key := 0x20A, a := baseTo x.base, col := x.col.val, b := sSrcTo x.b, imm := x.off.toNat })
  | .stP p off b c => some (.I { key := 0x20B, a := baseTo p, col := c.val, b := pairTo b, imm := off.toNat })
  | .ldV n p off => some (.I { key := 0x210, a := baseTo p, b := n.val, imm := off.toNat })
  | .stV p off b c => some (.I { key := 0x212, a := baseTo p, col := c.val, b := vSrcTo b, imm := off.toNat })
  | .hld d p off => some (.I { key := 0x218, dst := d.val, a := baseTo p, imm := off.toNat })
  | .hst p off b c => some (.I { key := 0x219, a := baseTo p, col := c.val, b := b.val, imm := off.toNat })
  | .atAdd x => some (.I (atTo 0x220 x))
  | .atMin x => some (.I (atTo 0x221 x))
  | .atMax x => some (.I (atTo 0x222 x))
  | .atAnd x => some (.I (atTo 0x223 x))
  | .atOr x => some (.I (atTo 0x224 x))
  | .atXor x => some (.I (atTo 0x225 x))
  | .atXchg d x => some (.I { atTo 0x229 x with dst := d.val })
  | .atFadd d p off b c => some (.I
      { key := 0x22A, dst := d.val, a := baseTo p, b := b.val, col := c.val, imm := off.toNat })
  | .cmpi cc d a n => some (.K { key := 0x005, dst := d.val, a := sSrcTo a, sel := ccTo cc, imm := n.toNat })
  | .loop a => some (.K { key := 0x018, a := sSrcTo a })
  | .loopi n => some (.K { key := 0x019, imm := n.toNat })
  | .lpipe a n => some (.K { key := 0x01A, a := sSrcTo a, imm := n.toNat })
  | .lpset a => some (.K { key := 0x01C, a := sSrcTo a })
  | .lpget d => some (.K { key := 0x01D, nw := ofBool d.isNone, dst := dstTo d })
  | .trap n => some (.K { key := 0x020, imm := n.toNat })
  | .exit a => some (.K { key := 0x021, a := a.val })
  | .yield => some (.K { key := 0x022 })
  | .fmt a => some (.K { key := 0x028, a := sSrcTo a })
  | .fmti n => some (.K { key := 0x029, imm := n.toNat })
  | .sysr d n => some (.K { key := 0x02C, dst := d.val, imm := n.toNat })
  | .sysw n a => some (.K { key := 0x02D, a := sSrcTo a, imm := n.toNat })
  | .addi x => some (.K
      { key := 0x102, nw := ofBool x.nw, dst := x.d.val, a := sSrcTo x.a, imm := x.imm.toNat })
  | .andi x => some (.K
      { key := 0x114, nw := ofBool x.nw, dst := x.d.val, a := sSrcTo x.a, imm := x.imm.toNat })
  | .ori x => some (.K { key := 0x115, nw := ofBool x.nw, dst := x.d.val, a := sSrcTo x.a, imm := x.imm.toNat })
  | .xori x => some (.K
      { key := 0x116, nw := ofBool x.nw, dst := x.d.val, a := sSrcTo x.a, imm := x.imm.toNat })
  | .shli x => some (.K
      { key := 0x11C, nw := ofBool x.nw, dst := x.d.val, a := sSrcTo x.a, imm := x.imm.toNat })
  | .shri x => some (.K
      { key := 0x11D, nw := ofBool x.nw, dst := x.d.val, a := sSrcTo x.a, imm := x.imm.toNat })
  | .srai x => some (.K
      { key := 0x11E, nw := ofBool x.nw, dst := x.d.val, a := sSrcTo x.a, imm := x.imm.toNat })
  | .li nw d n => some (.K { key := 0x130, nw := ofBool nw, dst := d.val, imm := n.toNat })
  | .lui d n => some (.K { key := 0x131, dst := pairTo d, imm := n.toNat })
  | .addiP d a n => some (.K { key := 0x139, dst := pairTo d, a := pairTo a, imm := n.toNat })
  | .mark sc => some (.K { key := 0x230, sel := scopeTo sc })
  | .fence sc m => some (.K { key := 0x231, sel := scopeTo sc, imm := m.toNat })
  | .wset w p l n => some (.K { key := 0x244, dst := w.val, a := pairTo p, sel := l.val, imm := n.toNat })
  | .prep t off => some (.B { key := 0x002, tsel := t.val, imm := off.toNat })
  | .prepr t a => some (.B { key := 0x003, tsel := t.val, a := pairTo a })
  | .br t c v => some (.B { key := 0x010, tsel := t.val, csel := c.val, inv := ofBool v })
  | .jmp t => some (.B { key := 0x011, tsel := t.val })
  | .call t => some (.B { key := 0x012, tsel := t.val })
  | .ret => some (.B { key := 0x013 })
  | .jtab a off => some (.B { key := 0x014, a := a.val, imm := off.toNat })
  | .flCopy x => some (.D (flTo 0x300 x))
  | .flXpose x => some (.D (flTo 0x301 x))
  | .flPerm x => some (.D (flTo 0x302 x))
  | .flGather x => some (.D (flTo 0x303 x))
  | .flScatter x => some (.D (flTo 0x304 x))
  | .flFill x => some (.D (flTo 0x305 x))
  | .flMcast x => some (.D (flTo 0x306 x))
  | .flPatch x => some (.D (flTo 0x308 x))
  | .flRope x => some (.D (flTo 0x309 x))
  | .flPublish x => some (.D (flTo 0x310 x))
  | .flPoll x => some (.D (flTo 0x311 x))
  | .flCancel x => some (.D (flTo 0x312 x))
  | .mLease m => some (.M { key := 0x500, mod := m.toNat })
  | .mFree m => some (.M { key := 0x501, mod := m.toNat })
  | .mZero d => some (.M { key := 0x502, accD := d.val })
  | .mWait => some (.M { key := 0x503 })
  | .mMma x => some (.M (mmulTo 0x508 x))
  | .mMmas d a b ta tb sc z ad n => some (.M
      { key := 0x509, accD := d.val, a := a.val, b := b.val, tyA := tyTo ta, tyB := tyTo tb, sc := tyTo sc,
        bsz := z.val, acc := ofBool ad, mod := n.toNat })
  | .mCellp x => some (.M (mmulTo 0x50A x))
  | .mProg a n => some (.M { key := 0x50B, a := a.val, mod := n.val })
  | .mDrain s a td ts sat r => some (.M
      { key := 0x510, accS := s.val, a := a.val, tyA := tyTo td, tyB := tyTo ts, sat := ofBool sat,
        mod := rndTo r })
  | .mFill d a ty => some (.M { key := 0x511, accD := d.val, a := mSrcTo a, tyA := tyTo ty })
  | .mAdd d s ty sat => some (.M
      { key := 0x512, accD := d.val, accS := s.val, tyA := tyTo ty, sat := ofBool sat })
  | .mScale d a ty => some (.M { key := 0x513, accD := d.val, a := mSrcTo a, tyA := tyTo ty })
  | .mBfly d a b c s e v => some (.M
      { key := 0x518, accD := d.val, tyA := 8,
        mod := a.toNat + 16 * b.toNat + 128 * c.toNat + 512 * s.toNat + 8192 * e.toNat + 32768 * ofBool v })
  | .mBrev d s a b c v => some (.M
      { key := 0x519, accD := d.val, accS := s.val, tyA := 8,
        mod := a.toNat + 16 * b.toNat + 128 * c.toNat + 512 * ofBool v })
  | .mTwid d s a b c v h => some (.M
      { key := 0x51A, accD := d.val, accS := s.val, tyA := 8,
        mod := a.toNat + 32 * b.toNat + 512 * c.toNat + 4096 * ofBool v + 8192 * ofBool h })
  | .mTmul d s v => some (.M { key := 0x51B, accD := d.val, accS := s.val, tyA := 8, mod := ofBool v })
  | _ => none

/-- The four words of a seal (R39 to R42). -/
def sealWords (x : SealData) : List W64 :=
  let sh := x.shape.toNat
  [ BitVec.ofNat 64 (2 ^ 48 * (sh / 2 ^ 28) + 2 ^ 52),
    BitVec.ofNat 64 (x.fall.toNat + 2 ^ 16 * x.taken.toNat + 2 ^ 32 * x.own.toNat + 2 ^ 56 * x.ind.val + 15 * 2 ^ 60),
    BitVec.ofNat 64 (x.sig.toNat + 2 ^ 32 * (sh % 2 ^ 28) + 15 * 2 ^ 60),
    BitVec.ofNat 64 (2 ^ 23 * ofBool x.lend + 2 ^ 24 * x.gated.toNat + 2 ^ 28 * x.stores.toNat
      + 2 ^ 38 * x.vectors.toNat + 2 ^ 44 * x.len.toNat + 15 * 2 ^ 60) ]

/-- The words of an instruction: one, or four for a seal; none for a step that is no operation word. -/
def encode : Instr → List W64
  | .nop => [0]
  | .sealOp x => sealWords x
  | i => ((encFields i).map fun e => BitVec.ofNat 64 e.word).toList

/-! ## Decoding a unit -/

/-- One operation word that is not part of a seal, in a code form. nw = 1 on `hld`, `hset`, `commit` and `wset`, whose rules do
not name the field, is refused, and on `lpget` accepted (R21; DESIGN CHOICE, log entry 82). -/
def decodeWord (fm : Form) (w : W64) : Except DecodeError Instr :=
  let n := w.toNat
  if n = 0 then .ok .nop
  else if n / 2 ^ 60 = 15 then .error .straySealWord
  else if 6 ≤ n / 2 ^ 60 then .error .badClass
  else match decodeRaw n with
    | none => .error (if assigned (wordKey n) then .operand else .unassigned)
    | some i =>
      if encode i ≠ [w] then .error .reserved
      else if !i.accepts then .error .notAccepted
      else if fm = .jexcy && i.nativeOnly then .error .formForbids
      else .ok i

/-- The words of a seal group (R38 to R44). -/
def sealOf (c a v m : W64) : Except DecodeError Instr :=
  let n := a.toNat; let p := v.toNat; let q := m.toNat
  let x : SealData :=
    { shape := BitVec.ofNat 32 (p / 2 ^ 32 % 2 ^ 28 + 2 ^ 28 * (c.toNat / 2 ^ 48 % 16)),
      ind := Fin.ofNat 16 (n / 2 ^ 56), own := BitVec.ofNat 16 (n / 2 ^ 32), taken := BitVec.ofNat 16 (n / 2 ^ 16),
      fall := BitVec.ofNat 16 n, sig := BitVec.ofNat 32 p, len := BitVec.ofNat 8 (q / 2 ^ 44),
      vectors := BitVec.ofNat 6 (q / 2 ^ 38), stores := BitVec.ofNat 10 (q / 2 ^ 28),
      gated := BitVec.ofNat 4 (q / 2 ^ 24), lend := q / 2 ^ 23 % 2 = 1 }
  if sealWords x ≠ [c, a, v, m] then .error .malformedSeal
  else if !(Instr.sealOp x).accepts then .error .malformedSeal
  else .ok (.sealOp x)

/-- Whether a word is the C word of a seal: class 0, opcode 0x01 (R38, R44). -/
def isSealWord (w : W64) : Bool := wordKey w.toNat = 1

/-- The Jexcy unit at the head of the words (R44). -/
def decodeJexcy : List W64 → Except DecodeError Instr
  | [] => .error .malformedSeal
  | c :: rest =>
    if isSealWord c then
      match rest with
      | a :: v :: m :: _ => sealOf c a v m
      | _ => .error .malformedSeal
    else decodeWord .jexcy c

/-- The slot of a class (R15): 0 C, 1 A, 2 V, 3 M. -/
def slotOfClass (cls : Nat) : Nat := if cls ≤ 1 then 0 else if cls ≤ 3 then 1 else cls - 2

def decodeSlot (slot : Nat) (w : W64) : Except DecodeError Instr :=
  match decodeWord .native w with
  | .error e => .error e
  | .ok .nop => .ok .nop
  | .ok i => if slotOfClass (w.toNat / 2 ^ 60) = slot then .ok i else .error .wrongSlot

/-- A native bundle: a seal, or its four slots in the order C, A, V, M (R15 to R17, R38). -/
def decodeBundle (c a v m : W64) : Except DecodeError (List Instr) :=
  if isSealWord c then (sealOf c a v m).map fun i => [i]
  else do
    let i ← decodeSlot 0 c; let j ← decodeSlot 1 a; let k ← decodeSlot 2 v; let l ← decodeSlot 3 m
    return [i, j, k, l]

/-- Word `k` of the table's number, as 64-bit words. -/
def tableWord (w k : Nat) : W64 := BitVec.ofNat 64 (w / 2 ^ (64 * k))

/-- The instruction the decoder reads from the words of `w`, taken as a Jexcy unit (R44); the bits above `nbits`
are 0. -/
def decodeTableWord (nbits w : Nat) : Option Instr :=
  let v := w % 2 ^ nbits
  (decodeJexcy [tableWord v 0, tableWord v 1, tableWord v 2, tableWord v 3]).toOption

end Sys2Proof
end

