-- ==== Sys2Proof/Machine/Bits.lean ====
section
/-! DEFINITION. Bit fields, sign extension, byte order and the lineage helpers of R8, R11 to R13. -/

namespace Sys2Proof.Machine

/-- `x[hi:lo]` of a number (R8). -/
def bits (x hi lo : Nat) : Nat := x / 2 ^ lo % 2 ^ (hi + 1 - lo)
/-- Bit `i` of a number. -/
def bit (x i : Nat) : Bool := x / 2 ^ i % 2 = 1
/-- `x` with `x[hi:lo]` replaced by the low bits of `v`. -/
def setBits (x hi lo v : Nat) : Nat :=
  x - bits x hi lo * 2 ^ lo + v % 2 ^ (hi + 1 - lo) * 2 ^ lo

/-- The two's complement value of the low `w` bits of `n` (R191). -/
def sgn (w n : Nat) : Int :=
  let m := n % 2 ^ w
  if 2 * m < 2 ^ w then (m : Int) else (m : Int) - (2 ^ w : Nat)
/-- An integer modulo 2^w (R8). -/
def wrapN (w : Nat) (x : Int) : Nat := (x % ((2 ^ w : Nat) : Int)).toNat

/-- Little-endian value of a run of bytes (R166, R202). -/
def leOf : List (BitVec 8) → Nat
  | [] => 0
  | b :: r => b.toNat + 256 * leOf r
/-- The `n` bytes of a value, the low byte first. -/
def leBytes : Nat → Nat → List (BitVec 8)
  | 0, _ => []
  | n + 1, v => BitVec.ofNat 8 v :: leBytes n (v / 256)

/-- `rotl32` (R8). -/
def rotl32 (x k : Nat) : Nat := (x * 2 ^ k + x / 2 ^ (32 - k)) % 2 ^ 32
/-- `mix` (R11). -/
def mix (x y : Tag) : Tag := BitVec.ofNat 32 (rotl32 ((x ^^^ y).toNat * 0x9E3779B1 % 2 ^ 32) 15)
/-- `fold` (R11). -/
def fold (k a b c : Tag) : Tag := mix (mix (mix k a) b) c

/-- `wrap` (R12): the non-negative remainder. -/
def wrapIdx (i : Int) (e : Nat) : Nat := (i % (e : Int)).toNat
/-- `serial_ge` (R13). -/
def serialGe (a b : W32) (w : Nat) : Bool := (a - b).toNat < w

/-- The rebased tag of register `n` of class `k` (R323). -/
def rebased (k n : Nat) : Tag := mix (BitVec.ofNat 32 (0xA5A5 ^^^ (k * 256))) (BitVec.ofNat 32 n)

/-- The lanes `f 0` to `f (n - 1)`, each of `w` bits, as one number, lane 0 lowest (R166). -/
def packLanes (w : Nat) (f : Nat → Nat) : Nat → Nat
  | 0 => 0
  | n + 1 => packLanes w f n + f n % 2 ^ w * 2 ^ (w * n)
/-- Lane `i` of `w` bits (R166). -/
def laneOf (w x i : Nat) : Nat := x / 2 ^ (w * i) % 2 ^ w
/-- The bytes of a number, `n` of them, from byte `k` on. -/
def bytesFrom (x k n : Nat) : List (BitVec 8) := leBytes n (x / 256 ^ k)

/-- Zero bits above the highest one bit of the low `w` bits (R196, R231). -/
def clzN (w x : Nat) : Nat := if x % 2 ^ w = 0 then w else w - 1 - Nat.log2 (x % 2 ^ w)
/-- One bits among the low `w` bits. -/
def popcN : Nat → Nat → Nat
  | 0, _ => 0
  | w + 1, x => x % 2 + popcN w (x / 2)
/-- Zero bits below the lowest one bit of the low `w` bits (R196). -/
def ctzN : Nat → Nat → Nat
  | 0, _ => 0
  | w + 1, x => if x % 2 = 1 then 0 else 1 + ctzN w (x / 2)
/-- The low `w` bits in reverse order (R233). -/
def revBits : Nat → Nat → Nat
  | 0, _ => 0
  | w + 1, x => x % 2 * 2 ^ w + revBits w (x / 2)

/-- Ceiling of a division. -/
def ceilDiv (a b : Nat) : Nat := (a + b - 1) / b

end Sys2Proof.Machine
end

