-- ==== Sys2Proof/Machine/State.lean ====
section
/-! DEFINITION. The state of the G8 as plain data, the reasons a step can stop, and the state after reset. Each
field's docstring names the rule of spec/ that gives it; a field of the model's own says so. -/

namespace Sys2Proof.Machine

/-- A finite table, its keys strictly rising. -/
abbrev Map (α : Type) := List (Nat × α)

/-- A byte of memory or of a register. -/
abbrev Byte := BitVec 8

/-! ## Registers of a sequencer -/

/-- A walker (R177). -/
structure Walker where
  lineage : Tag := 0
  stride : Vector (BitVec 24) 4 := Vector.replicate 4 0
  count : Vector (BitVec 16) 4 := Vector.replicate 4 0
  index : Vector (BitVec 16) 4 := Vector.replicate 4 0
  levels : Fin 4 := 0
  configured : Bool := false
  busy : Bool := false
  region : Fin 64 := 0
  origin : BitVec 22 := 0
  deriving DecidableEq, Repr

/-- Where an access goes after its one translation (R72, R98): a physical address and the page's policy, or a
region of the sequencer's operator on its tile. -/
inductive Loc where
  | glob (pa : Nat) (cached : Bool)
  | scr (region : Nat) (off : Nat)
  deriving DecidableEq, Repr

inductive SlotState where
  | free | pending | landed
  deriving DecidableEq, Repr

/-- One piece of a landing slot's load: the slot bytes from `pos` come from `loc` (R183, R184). -/
structure Piece where
  pos : Nat
  loc : Loc
  len : Nat
  deriving DecidableEq, Repr

/-- A landing slot (R182, R185): its bytes, lineage, and the load recorded at issue, with its word's address and its
block's label, which a trap record names (R372). -/
structure Slot where
  state : SlotState := .free
  data : VReg := 0
  lin : Tag := 0
  pieces : List Piece := []
  ord : Nat := 0
  /-- Its load has met an uncorrectable error once (R206). -/
  again : Bool := false
  /-- The device has loaded it again after a parity error (R185). -/
  parity : Bool := false
  bundle : W64 := 0
  own : BitVec 16 := 0
  /-- Scratchpad bytes, by position, that its load has read as its block's seal passed (R270). -/
  got : List (Nat × Byte) := []
  deriving DecidableEq, Repr

/-- A valid loop-stack entry (R303). -/
structure LoopEntry where
  start : W64
  exit : W64
  remaining : Nat
  pending : W32 := 0
  pvalid : Bool := false
  armed : Bool := false
  stages : Fin 8 := 0
  depth : Nat := 0
  deriving DecidableEq, Repr

/-- The predecessor set: the labels of the last passing seal (R293, R318); label 0 names nothing. -/
structure Preds where
  taken : BitVec 16 := 0
  fall : BitVec 16 := 0
  ind : Fin 16 := 0
  deriving DecidableEq, Repr

/-- What the escapement keeps a starting copy of (R165, R324): the s, h, q, c and t registers and their tags, the
walkers, landing slots, loop stack and call stack (top first), `fmt` and the predecessor set. -/
structure Regs where
  s : Vector W32 64 := Vector.replicate 64 0
  h : Vector HRec 32 := Vector.replicate 32 0
  q : Vector QReg 16 := Vector.replicate 16 0
  c : Vector Bool 4 := Vector.replicate 4 false
  t : Vector W64 4 := Vector.replicate 4 0
  sTag : Vector Tag 64 := Vector.ofFn fun i => if i.val = 0 then 0 else rebased 1 i.val
  hTag : Vector Tag 32 := Vector.ofFn fun i => rebased 2 i.val
  qTag : Vector Tag 16 := Vector.ofFn fun i => rebased 4 i.val
  cTag : Vector Tag 4 := Vector.ofFn fun i => rebased 5 i.val
  tTag : Vector Tag 4 := Vector.ofFn fun i => rebased 6 i.val
  w : Vector Walker 6 := Vector.ofFn fun i => { lineage := rebased 7 i.val }
  slots : Vector Slot 32 := Vector.replicate 32 {}
  loops : List LoopEntry := []
  calls : List W64 := []
  fmt : W32 := 0
  /-- The capture of DTIMEH (R210, R211). -/
  dtimeh : W32 := 0
  preds : Preds := {}
  deriving DecidableEq, Repr

/-! ## Regions -/

inductive GranState where
  | valid | empty | dirty
  deriving DecidableEq, Repr

/-- A region (R96, R97, R99): its descriptor, the states of its granules (an unlisted one is zero) and the bytes of
its two backings (an unlisted one is 0). -/
structure Region where
  tag : Tag := 0
  gva : BitVec 57 := 0
  mapped : Bool := false
  front : Bool := false
  baseA : BitVec 10 := 0
  baseB : BitVec 10 := 0
  size : BitVec 9 := 0
  gran : Map GranState := []
  a : List Host.Cell := []
  b : List Host.Cell := []
  deriving DecidableEq, Repr

/-! ## A block in progress -/

/-- A buffered store of at most one aligned 8-byte word (R205, R269), with its place in program order. -/
structure Store where
  loc : Loc
  data : List Byte
  col : Fin 8
  ord : Nat
  deriving DecidableEq, Repr

inductive AtKind where
  | add | min | max | and | or | xor | xchg | cas | fadd
  deriving DecidableEq, Repr

/-- An atomic with its captured operands (R279, R280). -/
structure Atomic where
  kind : AtKind
  wide : Bool
  loc : Loc
  v : W64
  cmp : W64 := 0
  dest : Option (Fin 64) := none
  col : Fin 8
  ord : Nat
  deriving DecidableEq, Repr

/-- What the store buffer holds, in program order: stores, and the scratchpad atomics applied with them (R95, R106). -/
inductive SItem where
  | st (x : Store)
  | atom (x : Atomic)
  deriving DecidableEq, Repr

/-- The pending list (R324): what takes effect at a passing seal, in program order. -/
inductive Pend where
  | sysw (num : BitVec 12) (v : W32)
  | stamp (region : Fin 64) (v : Tag)
  | rmap (region : Fin 64) (gva : BitVec 57) (ord : Nat)
  | runmap (region : Fin 64) (ord : Nat)
  | rflush (pas : List (Nat × Nat)) (ord : Nat) (bundle : W64)
  | barrier (mark : Bool) (scope : Scope) (mask : BitVec 8) (ord : Nat)
  | lpset (v : W32)
  deriving DecidableEq, Repr

/-- A gated operation as captured at its place: the operation, the registers as it read them and the bundle
(R49, R310). `ord` is its place in program order. -/
structure Gated where
  instr : Instr
  regs : Regs
  bundle : W64
  ord : Nat
  deriving DecidableEq, Repr

/-- A register a result is written to. -/
inductive Dest where
  | s (n : Fin 64) (v : W32)
  | h (n : Fin 32) (v : HRec)
  /-- Only the bits of `mask` are written. -/
  | v (n : Fin 96) (v mask : VReg)
  | q (n : Fin 16) (v mask : QReg)
  | c (n : Fin 4) (v : Bool)
  | t (n : Fin 4) (v : W64)
  deriving DecidableEq, Repr

/-- A native write under way (R35, R36): the unit at which it reaches its register. -/
structure DueWrite where
  due : Nat
  dest : Dest
  tag : Tag
  deriving DecidableEq, Repr

/-- A result that enters a latch group (R33): 0 for b0 and b1, 1 for b2 to b7. -/
structure DueLatch where
  due : Nat
  group : Fin 2
  value : VReg
  tag : Tag
  deriving DecidableEq, Repr

/-- A decided transfer (R296, R297). -/
inductive Transfer where
  | jump (target : W64)
  | call (target : W64)
  | ret
  deriving DecidableEq, Repr

/-- The escapement's view of the running block (R318 to R324, R42). -/
structure Block where
  /-- The unit at which the sequencer entered the block (R318). -/
  entry : W64 := 0
  /-- Units issued so far (R43). -/
  unit : Nat := 0
  start : Regs := {}
  /-- Old contents of the v registers written in the block (R324). -/
  journal : List (Fin 96 × VReg × Tag) := []
  /-- Distinct v registers the block's operations name as results (R42). -/
  vNamed : List (Fin 96) := []
  stores : List SItem := []
  /-- Store bytes counted toward the declared limit (R42). -/
  storeBytes : Nat := 0
  held : FlagSet := 0
  pend : List Pend := []
  gated : List Gated := []
  sig : W32 := 0
  shape : W32 := 0
  /-- Count and stages of the loop the block opens (R305). -/
  opened : Option (W32 × Fin 8) := none
  /-- A break whose condition was 1 (R307). -/
  brk : Bool := false
  transfer : Option Transfer := none
  /-- `fmt` writes in their shadow: the unit from which each applies (R171). -/
  fmtDue : List (Nat × W32) := []
  writes : List DueWrite := []
  latchDue : List DueLatch := []
  /-- Latches b0, b1, then b2 to b7; `none` is invalid (R33, R34). -/
  latS : Vector (Option (W32 × Tag)) 2 := Vector.replicate 2 none
  latV : Vector (Option (VReg × Tag)) 6 := Vector.replicate 6 none
  /-- Landing slots the block took from free, and those it committed (R185). -/
  took : List (Fin 32) := []
  committed : List (Fin 32) := []
  /-- Regions as they were when the block started, where their mapping has changed since (R106). -/
  kept : Map Region := []
  /-- The last seal passed and the block it chose has not begun (R379). -/
  passed : Bool := false
  deriving DecidableEq, Repr

/-! ## A sequencer -/

/-- An entry of a colour queue (R274, R287). A flush also holds the place at which it stands in the queues, behind
the stores of its block, and its word's address and its block's label (R372). -/
inductive QEntry where
  | st (x : Store)
  | atom (x : Atomic)
  | flush (pas : List (Nat × Nat)) (ord place : Nat) (bundle : W64) (own : BitVec 16)
  deriving DecidableEq, Repr

/-- A `mark` or `fence` whose seal has passed (R284 to R286). -/
structure Barrier where
  mark : Bool
  scope : Scope
  mask : BitVec 8
  ord : Nat
  deriving DecidableEq, Repr

/-- What a waiting sequencer waits for (the model's own account, read by the scheduler). -/
inductive Need where
  | fill (opTile : Nat) (region : Fin 64) (granule : Nat)
  | slot (n : Fin 32)
  /-- A parity error: the slot's load is issued again (R185). -/
  | again (n : Fin 32)
  | queues
  | other
  deriving DecidableEq, Repr

/-- How the last turn of a thread ended (the model's own). -/
inductive Flow where
  | normal
  | stalled (n : Need)
  | redirected
  deriving DecidableEq, Repr

/-- What a sequencer of a started operator is doing (R309 to R315, R365). -/
inductive Run where
  /-- Runs the operation words of a block. -/
  | running
  /-- Its seal has passed; its gated operations issue (R310). -/
  | issuing
  /-- It has exited (R315). -/
  | exited
  /-- It stopped by a trap or with its operator (R49, R371). -/
  | stopped
  /-- It is switched out at a seal (R365). -/
  | out
  deriving DecidableEq, Repr

/-- What the launch writes and `sysr` reads (R208, R209, R344). -/
structure Launch where
  ctx : BitVec 12 := 0
  pasid : BitVec 20 := 0
  arg : W64 := 0
  constBase : W64 := 0
  constLen : Nat := 0
  dataBase : W64 := 0
  obj : Nat := 0
  test : Bool := false
  deriving DecidableEq, Repr

/-- The states of a flume command (R137). -/
inductive TicketState where
  | queued | writing | held | published | cancelled
  deriving DecidableEq, Repr

/-- A matrix command that has issued (R246 to R248, R254): the operation with its captured registers, in whose
walkers the operand lineage of R242 stands, the cell program it read, and what it has done so far: groups or chunks
completed and flags raised; its bundle and its block's label, which a trap record names (R372). -/
structure MCmd where
  instr : Instr
  regs : Regs
  ord : Nat
  bundle : W64 := 0
  own : BitVec 16 := 0
  prog : W64 := 0
  done : Nat := 0
  flags : FlagSet := 0
  /-- A drain into global memory that has begun: the words that have performed (R256). -/
  started : Bool := false
  gone : List Nat := []
  deriving DecidableEq, Repr

/-- A sequencer of a started operator. Its registers move with the operator from tile to tile (R365 to R368). -/
structure Thread where
  op : Nat
  ltile : Nat
  seq : Fin 4
  /-- The physical tile and sequencer it runs on (R3, R209). -/
  tile : Nat
  pseq : Fin 4
  form : Form := .jexcy
  pc : W64 := 0
  regs : Regs := {}
  v : Vector VReg 96 := Vector.replicate 96 0
  vTag : Vector Tag 96 := Vector.ofFn fun i => rebased 3 i.val
  /-- The status register (R156). -/
  status : FlagSet := 0
  finj : W32 := 0
  shot : Bool := false
  launch : Launch := {}
  lastLabel : BitVec 16 := 0
  /-- Consecutive seal mismatches and the block they count (R327). -/
  misses : Nat := 0
  missAt : W64 := 0
  /-- The block re-ran for an uncorrectable error (R206, R327). -/
  reran : Bool := false
  blk : Block := {}
  run : Run := .running
  flow : Flow := .normal
  issue : List Gated := []
  /-- The last passing seal was a pre-emption point (R309). -/
  point : Bool := false
  /-- Register results and flags the next block starts with (R282, R310). -/
  results : List (Fin 64 × W32) := []
  lateFlags : FlagSet := 0
  /-- The next place in program order. -/
  ord : Nat := 1
  queues : Vector (List QEntry) 8 := Vector.replicate 8 []
  barriers : List Barrier := []
  /-- Commutative atomics that wait for older writes of their line (R275). -/
  waiting : List Atomic := []
  /-- The next ticket, and the states of the last 64 (R116, R137). -/
  ticket : Nat := 1
  tickets : List (Nat × TicketState) := []
  /-- Queued matrix commands (R246), program slots (R253) and MPROG (R248). -/
  mq : List MCmd := []
  progs : Vector W64 4 := Vector.replicate 4 0
  mprog : W32 := 0
  /-- Accumulators held (R243). -/
  acc : BitVec 4 := 0
  /-- The place of an `m.wait` that holds the next block (R246). -/
  mwait : Option Nat := none
  /-- Device time since which a lease request or a block has run (R245, R369). -/
  leaseSince : Nat := 0
  blockSince : Nat := 0
  exitValue : W32 := 0
  /-- The page request a probe waits for, the pages it lacked and the answer (R74, R79). -/
  probe : Option (W32 × List Nat × Option Nat) := none
  /-- The barrier object a `bar` has arrived at, and whether its generation has completed (R350). -/
  bar : Option (Nat × Bool) := none
  /-- Vector banks the newcomer has claimed while it is switched out (R366). -/
  banksOut : BitVec 8 := 0
  /-- The place of the gated operation that waits while the sequencer is switched out (R365). -/
  parked : Option Nat := none
  /-- Whether it waits at a seal, and the device time at which its last wait there ended (R369). -/
  waited : Bool := false
  waitEnd : Nat := 0
  deriving DecidableEq, Repr

/-! ## An operator on a logical tile -/

/-- An accumulator (R239): cells by row times 192 plus column, an unlisted one 0, and its tag. -/
structure Accum where
  cells : Map W32 := []
  tag : Tag := 0
  deriving DecidableEq, Repr

/-- The regions and accumulators an operator has on one of its logical tiles (R96, R239). -/
structure OpTile where
  regions : Map Region := []
  acc : Vector Accum 4 := Vector.replicate 4 {}
  /-- What the newcomer has claimed of a switched-out operator: 64 KiB pages of the scratchpad, and accumulators
  (R366). -/
  pagesOut : List Nat := []
  accOut : BitVec 4 := 0
  deriving DecidableEq, Repr

/-! ## A physical tile -/

/-- A TLB entry (R70): PASID, first 64 KiB page, size, frame, policy and permissions. -/
structure TlbEntry where
  pasid : Nat
  page : Nat
  large : Bool
  frame : Nat
  cached : Bool
  readable : Bool
  writable : Bool
  dirty : Bool
  /-- Address of the leaf. -/
  pte : Nat
  deriving DecidableEq, Repr

/-- An update-only line (R93): one operation kind, width and colour; pending operands by byte offset; the places in
program order it holds, by thread. -/
structure Uol where
  kind : AtKind
  wide : Bool
  col : Fin 8
  words : Map W64
  from_ : List (Nat × Nat)
  deriving DecidableEq, Repr

/-- A request for accumulators (R243): the thread, its mask, in order of arrival. -/
structure LeaseReq where
  thread : Nat
  mask : BitVec 4
  deriving DecidableEq, Repr

/-- Whose request a line request is (R391): of one unit of a sequencer, of an access or a command at a place in its
program order, of a granule's fill or write-back, or of an update-only line that the L1 evicts. -/
inductive PortOwner where
  | unit (thread : Nat)
  | place (thread ord : Nat)
  | granule (opTile region granule : Nat)
  | evict
  deriving DecidableEq, Repr

/-- A request for one line at the tile's network port (R393, R437), of an allotment group; with `fetch` it fetches a
cached line into the L1, and every load that misses joins it. -/
structure PortReq where
  group : Nat
  line : Nat
  owner : PortOwner
  fetch : Bool := false
  deriving DecidableEq, Repr

/-- A block whose third mismatch asked for its tile's retirement (R328, R329): the sequencer, the block's first unit in
the Jexcy form, the seal's address and the block's label. -/
structure Culprit where
  thread : Nat
  block : W64
  at_ : W64
  own : BitVec 16
  deriving DecidableEq, Repr

/-- A bandwidth group at a port (R392). -/
structure PortGroup where
  tok : Int := 0
  cred : Int := 0
  deriving DecidableEq, Repr

structure Tile where
  tlb : List TlbEntry := []
  /-- Lines with a read copy in the L1 (R89). -/
  l1 : List Nat := []
  uol : Map Uol := []
  leaseQ : List LeaseReq := []
  /-- The array's turn: the thread served, the sequencer served last, the commands of the turn (R244). Before any has been
  served the round robin starts at physical sequencer 0 (DESIGN CHOICE, log entry 63). -/
  turn : Option Nat := none
  lastServed : Fin 4 := 3
  turnCount : Nat := 0
  /-- Device time at which the turn began. -/
  turnSince : Nat := 0
  /-- The blocks whose third mismatch asked for the tile's retirement (R328, R329). -/
  culprits : List Culprit := []
  groups : Map PortGroup := []
  pool : Int := 0
  /-- The refills done since device time 0, and the first clock of the tile, counted from there, at which the port may
send (R392, R393). -/
  refills : Nat := 0
  sentAt : Nat := 0
  lastGroup : Nat := 0
  /-- Line requests that wait to leave, and those that have left for an access still to perform (R2). -/
  portQ : List PortReq := []
  sent : List PortReq := []
  /-- The tile is being retired (R328), and whether it is out of the mesh. -/
  retiring : Bool := false
  gone : Bool := false
  deriving DecidableEq, Repr

/-! ## Memory -/

/-- A line of the home L2 (R90): 64 bytes and a dirty mask per aligned 8-byte word. -/
structure L2Line where
  data : BitVec 512
  dirty : BitVec 8 := 0
  /-- Terraces whose remote-data cache, and whether the host cache, holds a copy (R91, R383). -/
  remote : List Nat := []
  host : Bool := false
  deriving DecidableEq, Repr

/-! ## Flumes (R115 to R138) -/

/-- Where a flume command writes: a range of global memory, or a region of a tile of the operator. -/
inductive FlDest where
  | glob
  | scr (opTile : Nat) (tile : Nat) (region : Nat)
  deriving DecidableEq, Repr

/-- A byte a command writes: its virtual address or region offset, the bits written, and their value. -/
structure ByteWrite where
  at_ : Nat
  mask : Byte
  val : Byte
  deriving DecidableEq, Repr

/-- An accepted flume command. `writes` and `frames` (page and shadow frame, R120) stand once it has written; `left`
are the destinations still to publish. -/
structure FlumeCmd where
  thread : Nat
  ticket : Nat
  instr : Instr
  x : Fl
  regs : Regs
  tile : Nat
  /-- The engine: 0 the tile's own flume, 1 to 4 a terrace flume. -/
  engine : Nat
  ord : Nat
  /-- Its bundle and its block's label (R372). -/
  bundle : W64 := 0
  own : BitVec 16 := 0
  state : TicketState := .queued
  hold : Bool := false
  /-- The index list, read at issue (R131). -/
  index : List Nat := []
  dests : List FlDest := []
  left : List FlDest := []
  writes : List ByteWrite := []
  frames : List (Nat × Nat) := []
  /-- Line requests of its page copies that have left (R120, R391). -/
  paid : Nat := 0
  tag : Tag := 0
  errors : Nat := 0
  deriving DecidableEq, Repr

/-! ## The device -/

/-- The trap classes that are raised (R370), but for the probe fault, which is never reported. -/
inductive TrapClass where
  | program | illegal | translation | sealMismatch | label | callOverflow | loopOverflow | lease | deadline
  | dataError
  deriving DecidableEq, Repr

/-- The fates of R370, R371. -/
inductive Fate where
  | held | operator | context
  deriving DecidableEq, Repr

/-- A trap as the trap record will give it (R372). -/
structure TrapNote where
  cls : TrapClass
  n : W32
  at_ : W64
  pc : W64
  seqid : W32
  own : BitVec 16
  last : BitVec 16
  time : W64
  deriving DecidableEq, Repr

/-- Where a started operator stands (R343 to R345, R365, R371). -/
inductive OpState where
  | started
  /-- Switched out, in the ready pool. -/
  | out
  /-- Switched out by a trap, waiting for the host. -/
  | held
  /-- Its sequencers are done and it completes with this status (R290, R345). -/
  | ending (status : Nat)
  /-- It has retired with status 0; its sequencers hold a pending launch for its chain successor (R342). -/
  | reserved
  deriving DecidableEq, Repr

/-- A started operator. -/
structure Operator where
  slot : Nat
  index : W32
  ctx : Nat
  pasid : Nat
  obj : Nat
  /-- Physical tile of each logical tile (R343). -/
  tiles : Map Nat := []
  /-- Sequencers per tile (R343). -/
  seqs : Nat := 1
  state : OpState := .started
  /-- The priority it started with (R343), the shape, the terraces allowed and the allotment group. -/
  prio : Nat := 0
  width : Nat := 1
  height : Nat := 1
  terr : Nat := 15
  agroup : Nat := 0
  /-- The tile images it has in its context's spill area while it is switched out, by logical tile (R367). -/
  images : List Nat := []
  /-- Device time at which it returned to the ready pool, and at which it was asked to stop (R368, R369). -/
  readyAt : Nat := 0
  stopAt : Nat := 0
  /-- The slot of the pond run it is (R354). -/
  pond : Option (Fin 4) := none
  /-- Blocks whose count of 3 rolled its record back (R329). -/
  rolled : List W64 := []
  /-- A migration abandons it at its next pre-emption points (R381). -/
  abandoned : Bool := false
  /-- The other sequencers stop at their next pre-emption points (R365, R371). -/
  stopping : Bool := false
  fate : Option Fate := none
  /-- The completion status of a fate `operator`: 2 where a retirement stopped it (R328), else 3 (R370). -/
  trapStatus : Nat := 3
  trap : Option TrapNote := none
  further : Nat := 0
  /-- Pins held, by frame number of the device (R76). -/
  pins : Map Nat := []
  deriving DecidableEq, Repr

/-- A loaded code object (R62, R377 to R379). -/
structure CodeObj where
  /-- `pages` are the frames its pins hold, by frame number. -/
  pasid : Nat
  number : Nat
  jexBase : Nat := 0
  jexLen : Nat := 0
  natBase : Nat := 0
  natLen : Nat := 0
  constBase : Nat := 0
  constLen : Nat := 0
  dataBase : Nat := 0
  dataLen : Nat := 0
  entries : List (BitVec 16) := []
  regions : List (Nat × Nat × Tag) := []
  restartable : Bool := false
  nopredict : Bool := false
  /-- Translated blocks: first unit in the Jexcy form and in native form (R379). -/
  translated : List (Nat × Nat) := []
  /-- The units after the seals of those blocks, in both forms: where each falls through (R297, R379). -/
  falls : List (Nat × Nat) := []
  pending : Bool := false
  pages : List Nat := []
  deriving DecidableEq, Repr

/-- An outstanding page request (R80). -/
structure PageReq where
  seq : W32
  ctx : Nat
  pasid : Nat
  terrace : Nat
  kind : Nat
  first : Nat
  last : Nat
  sent : Bool := true
  deriving DecidableEq, Repr

/-- An error that will strike (the model's own list; the spec names the errors, R128, R185, R206, R302, R327). -/
inductive HwError where
  | load (thread : Nat)
  | slotParity (thread : Nat)
  | storeParity (thread : Nat)
  | home (thread : Nat)
  | accum (thread : Nat)
  | table (thread : Nat)
  | flume (cmd : Nat)
  | spill (op : Nat)
  /-- It has struck a spill of the operator and ends its context (R367). -/
  | spilled (op : Nat)
  /-- A corrected error of an SRAM row, which the service counts (R394, R395). -/
  | row (row : Nat)
  deriving DecidableEq, Repr

/-- Who acts in a turn. -/
inductive Who where
  | thread (k : Nat)
  | event (i : Instr)
  deriving DecidableEq, Repr

/-- A turn of the agenda: device ticks that pass first, and who acts (the model's own). -/
structure Turn where
  ticks : Nat
  who : Who
  deriving DecidableEq, Repr

/-- The state of a record that has been read (R341). -/
inductive RecState where
  | waiting | ready
  | started (op : Nat)
  /-- It ends with this status; its completion record is to be written (R345). -/
  | ending (status : Nat)
  /-- It has ended with this status. -/
  | ended (status : Nat)
  deriving DecidableEq, Repr

/-- A record the front end has read (R339 to R342). -/
structure Rec where
  slot : Nat
  index : W32
  ctx : Nat
  pasid : Nat
  words : List W64
  maxpri : Nat := 0
  terr : Nat := 0
  agroup : Nat := 0
  state : RecState := .waiting
  /-- Device time at which it became ready (R343). -/
  readyAt : Nat := 0
  waitMet : Bool := false
  /-- Its wait word could not be read (R337). -/
  unread : Bool := false
  chained : Bool := false
  /-- Its predecessor's operator, whose sequencers it will run on (R342). -/
  resTiles : Option Nat := none
  exitValue : W32 := 0
  /-- Its results were claimed from the holding pond (R345). -/
  pond : Bool := false
  /-- Blocks that rolled it back (R329). -/
  rolled : List W64 := []
  deriving DecidableEq, Repr

/-- An entry of a queue's history (R352, R353): the priority, word 0 without it, words 1 to 3 of the record and the
argument words. -/
structure Hist where
  prio : Nat := 0
  w0 : W64
  w1 : W64
  w2 : W64
  w3 : W64
  args : List W64
  deriving DecidableEq, Repr

/-- What the front end holds of a queue (R333, R335, R337): the cached entry, the indices, the error, and that its
context was killed (R374). -/
structure Queue where
  entry : Nat := 0
  loaded : Bool := false
  kidx : W32 := 0
  ridx : W32 := 0
  err : Nat := 0
  stopped : Bool := false
  qovr : W32 := 0
  /-- The last withdraw serial acted on (R362), and the withdrawals that await records not yet read (R363): the tag
  and the index they end before. -/
  serial : W32 := 0
  voids : List (BitVec 16 × W32) := []
  /-- Withdraw words seen and not yet acted on, the first written first (R362). -/
  words : List W64 := []
  /-- The history, newest first (R352). -/
  hist : List Hist := []
  /-- The latest index of a record that has started or been claimed (R381). -/
  started : Option W32 := none
  deriving DecidableEq, Repr

/-- A pond run (R354 to R361): the predicted words and arguments, its pages and free frames, the read set as ranges
of virtual lines and the physical lines watched, and the bytes that loads of the argument block return. -/
structure Pond where
  slot : Nat
  index : W32
  op : Nat
  words : List W64
  args : List W64
  held : Bool := false
  claimable : Bool := false
  stopping : Bool := false
  pages : Map Nat := []
  /-- Frames that the run's own first access pinned (R356). -/
  pinned : List Nat := []
  free : List Nat := []
  ranges : List (Nat × Nat) := []
  watch : List Nat := []
  seen : List Host.Cell := []
  exitValue : W32 := 0
  deriving DecidableEq, Repr

/-- The clock sweeper and the channels of a stack (R65, R85, R87). -/
structure Stack where
  swctl : W64 := 0
  swqbase : W64 := 0
  swqhead : W64 := 0
  swqtail : W64 := 0
  swleave : W64 := 0
  swfree : W64 := 0
  sweeping : Bool := false
  /-- The stack was trained at 9.6 Gb/s per pin (R397). -/
  slow : Bool := false
  /-- Channels replaced so far, and the channel being copied with the copy pointer. -/
  spared : List Nat := []
  copying : Option (Nat × Nat) := none
  deriving DecidableEq, Repr

/-- A grant of a rider core (R386). -/
structure Grant where
  base : Nat
  len : Nat
  read : Bool
  write : Bool
  deriving DecidableEq, Repr

/-- A rider core (R386, R388): whether it has failed, whether a spare is in use, its local memory (an unlisted byte
is 0); the packet it was handed last, the queue's slot and the doorbell's value, whether that has completed, and its
grants; the bytes its last load returned, and whether its last access raised a grant fault. -/
structure Rider where
  failed : Bool := false
  used : Bool := false
  mem : List Host.Cell := []
  packet : Option (Nat × W32) := none
  done : Bool := false
  grants : Map Grant := []
  seen : List Byte := []
  fault : Bool := false
  /-- What has left through its outward windows, last first (R387): window, offset, bytes. -/
  sent : List (Nat × Nat × List Byte) := []
  deriving DecidableEq, Repr

/-- A fabric port (R389, R390). The receiver: the next sequence number, payloads delivered (last first), whether a
negative acknowledgement is owed. The sender: the next sequence number, how many transfers it has been given, the flits'
payloads that wait for room, by issuer and number of their transfer, the replay buffer (oldest first, at most 512 flits),
the flits put on the wire (last first), consecutive failed replays of the oldest flit, and whether it has been replayed
since one was taken. Lanes replaced, by direction (`true` outward); whether it is down, and the issuers of the
transfers that completed with an error status. -/
structure Port where
  rx : BitVec 12 := 0
  inbox : List (List Byte) := []
  nak : Bool := false
  tx : BitVec 12 := 0
  transfers : Nat := 0
  queue : List ((Nat × Nat) × List Byte) := []
  replay : List ((Nat × Nat) × List Byte) := []
  wire : List (List Byte) := []
  fails : Nat := 0
  replayed : Bool := false
  lanes : List (Bool × Nat) := []
  down : Bool := false
  errors : List Nat := []
  deriving DecidableEq, Repr

/-- A record of the service log (R396). -/
structure LogRec where
  kind : Nat
  place : Nat
  unit : Nat
  time : W64
  detail : W64
  deriving DecidableEq, Repr

/-- A firmware image in progress (R400): its connection, its length, the bytes sent by offset. -/
structure Image where
  conn : Nat
  len : Nat
  bytes : Map Byte := []
  deriving DecidableEq, Repr

/-- The service port (R396, R397, R400): connections open, responses made (last first), the image in progress and
the one committed, the firmware in use since the last bring-up, the boot record (step and unit), the last 4,096
records of the log (oldest first) and the number of all, the step and unit at which bring-up stopped, and whether it has
completed; what bring-up set: the host cores started and the PCIe links trained at 32 GT/s; the corrected errors logged
per SRAM row and the rows repaired (R395). -/
structure Service where
  conns : List Nat := []
  out : List (Nat × List Byte) := []
  image : Option Image := none
  committed : Option (List Byte) := none
  firmware : List Byte := []
  boot : List (Nat × Nat) := []
  log : List LogRec := []
  logged : Nat := 0
  stopped : Option (Nat × Nat) := none
  up : Bool := false
  cores : Nat := 48
  slowLinks : List Nat := []
  rowErrors : Map Nat := []
  repaired : List Nat := []
  deriving DecidableEq, Repr

/-- The basin registers (R401) and what the driver's commands set. -/
structure Basin where
  wkptb : W64 := 0
  wkinv : W64 := 0
  wkinva : W64 := 0
  /-- Accesses an invalidation under way waits for: of a thread, those before a place in program order (R71). -/
  wkwait : List (Nat × Nat) := []
  frtb : W64 := 0
  qdbase : W64 := 0
  qdinv : W64 := 0
  /-- Slots whose invalidation is under way (R335). -/
  qdwait : List Nat := []
  qdrop : W32 := 0
  ctxtb : W64 := 0
  ctxcmd : W64 := 0
  ctxstat : W64 := 0
  prctl : W32 := 0
  pondclm : W32 := 0
  ponddsc : W32 := 0
  pondrun : W32 := 0
  prdl : W64 := 2000
  rlimLocked : Bool := true
  prqbase : W64 := 0
  prqctl : W64 := 0
  prqhead : W64 := 0
  prqtail : W64 := 0
  prdrop : W32 := 0
  prans : W64 := 0
  /-- A context kill under way, and the commands behind it (R374, R375). -/
  killing : Option Nat := none
  ctxq : List W64 := []
  /-- Interrupts raised to the host complex, last first (R81). -/
  irqs : List (BitVec 16) := []
  deriving DecidableEq, Repr

/-- A terrace: WKERR (R69). The lines its remote-data cache holds stand with the lines (`L2Line.remote`). -/
structure Terrace where
  wkerr : W64 := 0
  /-- FLPOOL and the free frames of the pool (R120, R401). -/
  flpool : W64 := 0
  frames : List Nat := []
  deriving DecidableEq, Repr

structure State where
  /-- Device time (R6). -/
  time : W64 := 0
  /-- The model's own: the thread whose operation words run, the turns to come, the next free value, and whether a
  device access has met a hole of the physical address space. -/
  cur : Nat := 0
  agenda : List Turn := []
  freshTick : Nat := 0
  hole : Bool := false
  hwErrors : List HwError := []
  /-- Of each next step of a drain into global memory, the aligned words it performs, by virtual address / 8 (R256, R436,
  the model's own): with none listed a step performs every word left. -/
  drainPicks : List (List Nat) := []
  /-- Stack memory by physical address (R64); an unlisted byte reads as 0. -/
  mem : List Host.Cell := []
  l2 : Map L2Line := []
  threads : Map Thread := []
  ops : Map Operator := []
  opTiles : Map OpTile := []
  tiles : Map Tile := []
  /-- Flume commands by the order of their acceptance. -/
  flumes : Map FlumeCmd := []
  nextFlume : Nat := 0
  objs : Map CodeObj := []
  terraces : Vector Terrace 4 := Vector.replicate 4 {}
  basin : Basin := {}
  /-- The speed table (R346), by index; before bring-up as log entry 8 gives. -/
  speedt : Map (BitVec 8) := []
  queues : Map Queue := []
  recs : Map Rec := []
  reqs : List PageReq := []
  reqSeq : W32 := 0
  /-- The next key of a started operator (the model's own). -/
  nextOp : Nat := 0
  /-- The entry of the pool that has been passed over at its head (`Item.id`), and since when (R343). -/
  headSince : Option (Nat × Nat) := none
  ponds : Map Pond := []
  /-- Free frames of the run slots, where they are not all of a slot's own (R351, R360). -/
  pondFree : Map (List Nat) := []
  sweepers : Vector Stack 8 := Vector.replicate 8 {}
  /-- ALLOT(g), where it is not at its reset value (R391). -/
  allot : Map (BitVec 32) := []
  riders : Vector Rider 18 := Vector.replicate 18 {}
  /-- Packets that wait for a rider core, oldest first (R388). -/
  packets : List (Nat × W32) := []
  ports : Vector Port 18 := Vector.replicate 18 {}
  svc : Service := {}
  /-- Junction temperature in thousandths of a degree, and whether the part has powered down (R398). -/
  junction : W32 := 0
  off : Bool := false
  /-- What the last access of a host core or PCIe device returned (R383, R385), and the reservations of the host
cores' load-reserved accesses: the line each holds (RV64GC, R383). -/
  hostSeen : List Byte := []
  hostRes : Map Nat := []
  /-- The status words that code-object requests returned, last first (R377). -/
  loaderOut : List W32 := []
  deriving DecidableEq, Repr

/-- Why the machine stops. -/
inductive Fault where
  /-- Raised by step when a device access met a hole of the physical address space (R64); safe: the part's answer
  there is not given. -/
  | physicalHole
  deriving DecidableEq, Repr

/-- Why a step has no meaning. -/
inductive Refusal where
  /-- Raised by an arm of exec whose instruction has no meaning in the model; safe. -/
  | notModelled (mnemonic : String)
  deriving DecidableEq, Repr

/-- The machine right after reset. -/
def State.reset : State := {}

end Sys2Proof.Machine
end

