-- ==== Sys2Proof/Machine/Memory.lean ====
section
/-! DEFINITION. Tables, stack memory, the home L2, translation and update-only lines (files 02 and 03). -/

namespace Sys2Proof.Machine

/-! ## Tables -/

def mfind {α : Type} : Map α → Nat → Option α
  | [], _ => none
  | (k, v) :: r, n => if n = k then some v else if n < k then none else mfind r n
def mget {α : Type} (d : α) (m : Map α) (n : Nat) : α := (mfind m n).getD d
def mput {α : Type} : Map α → Nat → α → Map α
  | [], n, x => [(n, x)]
  | (k, v) :: r, n, x =>
    if n < k then (n, x) :: (k, v) :: r else if n = k then (n, x) :: r else (k, v) :: mput r n x
def mdel {α : Type} : Map α → Nat → Map α
  | [], _ => []
  | (k, v) :: r, n => if n = k then r else if n < k then (k, v) :: r else (k, v) :: mdel r n
/-- The keys rise strictly from `lo` on. -/
def mrises {α : Type} : Map α → Nat → Bool
  | [], _ => true
  | (k, _) :: r, lo => lo ≤ k && mrises r (k + 1)
/-- A smallest key not in use above all others. -/
def mfresh {α : Type} (m : Map α) : Nat := m.foldl (fun n e => max n (e.1 + 1)) 0

/-! ## Stack memory -/

/-- What memory holds at an address; an unlisted byte reads as 0 (R64, log entry 1). -/
def readByte (m : List Host.Cell) (a : Nat) : Byte := mget 0 m a
def writeByte (m : List Host.Cell) (a : Nat) (b : Byte) : List Host.Cell := if b = 0 then mdel m a else mput m a b
/-- The canonical form of memory: addresses strictly rising, no entry equal to what an unlisted byte reads as. -/
def Memory.wf (m : List Host.Cell) : Bool := mrises m 0 && m.all fun e => e.2 ≠ 0
def readBytes (m : List Host.Cell) (a : Nat) : Nat → List Byte
  | 0 => []
  | n + 1 => readByte m a :: readBytes m (a + 1) n
def writeBytes (m : List Host.Cell) (a : Nat) : List Byte → List Host.Cell
  | [] => m
  | b :: r => writeBytes (writeByte m a b) (a + 1) r

/-- Whether a physical address names no memory (R64). -/
def isHole (pa : Nat) : Bool := Config.memStacks ≤ pa / 2 ^ 36 || Config.stackBytes ≤ pa % 2 ^ 36
/-- The terrace whose L2 homes an address (R64). -/
def homeTerrace (pa : Nat) : Nat := pa / 2 ^ 36 / 2
/-- The terrace of a tile (R346). -/
def terraceOf (tile : Nat) : Nat := tile / 104 % 4

/-! ## The home L2 (R90, R91) -/

def lineOf (pa : Nat) : Nat := pa / 64
/-- A byte as its home gives it: the L2's copy, or the stack's. -/
def homeByte (s : State) (pa : Nat) : Byte :=
  match mfind s.l2 (lineOf pa) with
  | some l => BitVec.ofNat 8 (l.data.toNat / 256 ^ (pa % 64))
  | none => readByte s.mem pa
def homeBytes (s : State) (pa : Nat) : Nat → List Byte
  | 0 => []
  | n + 1 => homeByte s pa :: homeBytes s (pa + 1) n
def homeRead (s : State) (pa n : Nat) : Nat := leOf (homeBytes s pa n)

/-- Replaces a byte of a line. -/
def L2Line.setByte (l : L2Line) (i : Nat) (b : Byte) : L2Line :=
  { l with
    data := BitVec.ofNat 512 (setBits l.data.toNat (8 * i + 7) (8 * i) b.toNat)
    dirty := l.dirty ||| BitVec.ofNat 8 (2 ^ (i / 8)) }

/-- A write or merge that performs at the home of a line stops every pond run that watches it (R356) and ends every
host core's reservation of it (R383). -/
def State.noteWrite (s : State) (line : Nat) : State :=
  { s with
    hostRes := s.hostRes.filter (·.2 ≠ line)
    ponds := s.ponds.map fun e => if e.2.watch.contains line then (e.1, { e.2 with stopping := true }) else e }

/-- A device write at the home (page tables, tables and rings): into the L2's copy where it holds one, else the
stack. -/
def homeWriteByte (s : State) (pa : Nat) (b : Byte) : State :=
  match mfind s.l2 (lineOf pa) with
  | some l => { s with l2 := mput s.l2 (lineOf pa) (l.setByte (pa % 64) b) }
  | none => { s with mem := writeByte s.mem pa b }
def homeWriteBytes (s : State) (pa : Nat) : List Byte → State
  | [] => s
  | b :: r => homeWriteBytes ((homeWriteByte s pa b).noteWrite (lineOf pa)) (pa + 1) r
def homeWrite (s : State) (pa n v : Nat) : State := homeWriteBytes s pa (leBytes n v)

/-- A device access whose address comes from a base register: it meets a hole where the register names one. -/
def State.noteHole (s : State) (pa : Nat) : State := if isHole pa then { s with hole := true } else s

/-- The line as the L2 holds it, fetched from the stack where it does not. -/
def l2Line (s : State) (line : Nat) : L2Line :=
  (mfind s.l2 line).getD { data := BitVec.ofNat 512 (leOf (readBytes s.mem (64 * line) 64)) }

def State.tile (s : State) (k : Nat) : Tile := mget {} s.tiles k
def State.setTile (s : State) (k : Nat) (t : Tile) : State := { s with tiles := mput s.tiles k t }

/-! ## Walks (R66 to R69) -/

/-- What a walk finds. -/
inductive Walk where
  | leaf (pte : Nat) (large : Bool) (entry : Nat)
  | missing
  | malformed (at_ : Nat)
  | hole
  deriving DecidableEq, Repr

/-- The malformed pointers and leaves of R69. -/
def badLeaf (level e : Nat) : Bool :=
  bits e 63 39 ≠ 0 || bits e 15 8 ≠ 0 || 2 ≤ bits e 7 6 || isHole (bits e 38 16 * 2 ^ 16)
    || (level = 1 && bits e 20 16 ≠ 0)
def badPointer (level e : Nat) : Bool :=
  bits e 63 39 ≠ 0 || bits e 7 2 ≠ 0 || isHole (bits e 38 8 * 256) || (2 ≤ level && bits e 11 8 ≠ 0)

/-- The index of a level (R67). -/
def levelIndex (va level : Nat) : Nat :=
  if level = 0 then va / 2 ^ 16 % 32 else va / 2 ^ (21 + 9 * (level - 1)) % 512

/-- A walk from a table on (R67, R69). An entry with valid = 0 is not present, whatever its other bits say (DESIGN
CHOICE, log entry 49). -/
def walkFrom (s : State) (va : Nat) : Nat → Nat → Walk
  | level, table =>
    let pte := table + 8 * levelIndex va level
    let e := homeRead s pte 8
    if e % 2 = 0 then .missing
    else match level with
      | 0 => if bit e 1 && !badLeaf 0 e then .leaf pte false e else .malformed pte
      | l + 1 =>
        if bit e 1 then if l = 0 && !badLeaf 1 e then .leaf pte true e else .malformed pte
        else if badPointer (l + 1) e then .malformed pte
        else walkFrom s va l (bits e 38 8 * 256)

/-- The PASID entry (R66, R69): the root and the pin limit, or why there is none. -/
def pasidEntry (s : State) (pasid : Nat) : Except Walk (Nat × Nat) :=
  let a := s.basin.wkptb.toNat + 16 * pasid
  if isHole a then .error .hole
  else
    let e := homeRead s a 16
    if e % 2 = 0 || bits e 11 1 ≠ 0 || bits e 63 39 ≠ 0 || bits e 127 96 ≠ 0 || isHole (bits e 38 12 * 4096)
    then .error (.malformed a) else .ok (bits e 38 12 * 4096, bits e 95 64)

/-- Walks a virtual address of a PASID (R66 to R69); no page holds an address of 2^57 or above (R66). -/
def walk (s : State) (pasid va : Nat) : Walk :=
  match pasidEntry s pasid with
  | .error e => e
  | .ok (root, _) => if 2 ^ 57 ≤ va then .missing else walkFrom s va 4 root

/-- The physical address a leaf gives. -/
def leafPa (large : Bool) (e va : Nat) : Nat :=
  if large then bits e 38 21 * 2 ^ 21 + va % 2 ^ 21 else bits e 38 16 * 2 ^ 16 + va % 2 ^ 16

/-- The front end sees a write to bytes, those `here` selects, that hold a queue's withdraw word (R362): the words
written are kept in the order in which they perform. -/
def State.noteWordIn (s : State) (here : Nat → Bool) : State :=
  { s with queues := s.queues.map fun e =>
      let q := e.2
      if q.loaded && bit q.entry 0 then
        let va := bits q.entry 255 199 + 16
        match walk s (bits q.entry 127 108) va with
        | .leaf _ large l =>
          let pa := leafPa large l va
          let w := BitVec.ofNat 64 (if bits l 7 6 = 0 then homeRead s pa 8 else leOf (readBytes s.mem pa 8))
          if here pa && q.words.getLast? ≠ some w then (e.1, { q with words := q.words ++ [w] }) else e
        | _ => e
      else e }
def State.noteWord (s : State) (line : Nat) : State := s.noteWordIn fun pa => lineOf pa = line

/-! ## Update-only lines (R93, R94) -/

/-- An integer atomic on a word of `w` bits (R280). -/
def atInt (k : AtKind) (w m v : Nat) : Nat :=
  match k with
  | .add => (m + v) % 2 ^ w
  | .min => if sgn w v < sgn w m then v % 2 ^ w else m
  | .max => if sgn w v > sgn w m then v % 2 ^ w else m
  | .and => m &&& v
  | .or => m ||| v
  | .xor => m ^^^ v
  | .xchg | .cas | .fadd => m

/-- Applies the pending operands of an update-only line at the home, as one action. -/
def mergeWords (s : State) (line : Nat) (u : Uol) : Map W64 → State
  | [] => s
  | (off, v) :: r =>
    let n := if u.wide then 8 else 4
    let pa := 64 * line + off
    let s1 := { s with l2 := mput s.l2 line (l2Line s line) }
    mergeWords (homeWrite s1 pa n (atInt u.kind (8 * n) (homeRead s1 pa n) v.toNat)) line u r

/-- Merges one tile's update-only line, if it holds one; a request to evict it goes. -/
def mergeTileLine (s : State) (tile line : Nat) : State :=
  match mfind (s.tile tile).uol line with
  | none => s
  | some u =>
    let t := s.tile tile
    let mine (r : PortReq) : Bool := r.line = line && r.owner = .evict
    let t := { t with
      uol := mdel t.uol line, portQ := t.portQ.filter (!mine ·), sent := t.sent.filter (!mine ·) }
    (mergeWords (s.setTile tile t) line u u.words).noteWord line

/-- Recalls and merges a line from every L1 of the device (R94). -/
def mergeLine (s : State) (line : Nat) : State :=
  (s.tiles.filter fun e => (mfind e.2.uol line).isSome).foldl (fun s e => mergeTileLine s e.1 line) s

/-! ## Reads and writes of physical memory -/

/-- A read by an agent of a tile through a mapping of either policy (R90, R94, R107). -/
def physRead (s : State) (tile pa n : Nat) (cached : Bool) : State × List Byte :=
  let s := mergeLine s (lineOf pa)
  if cached then
    let line := lineOf pa
    let l := l2Line s line
    let ter := terraceOf tile
    let l := if homeTerrace pa = ter || l.remote.contains ter then l else { l with remote := ter :: l.remote }
    let s := { s with l2 := mput s.l2 line l }
    let t := s.tile tile
    let s := if t.l1.contains line then s else s.setTile tile { t with l1 := line :: t.l1 }
    (s, homeBytes s pa n)
  else (s, readBytes s.mem pa n)

/-- A read at the home that no L1 or remote-data cache keeps: of the front end, a host core, a terrace flume. -/
def basinBytes (s : State) (pa n : Nat) (cached : Bool) : State × List Byte :=
  let s := mergeLine s (lineOf pa)
  (s, if cached then homeBytes s pa n else readBytes s.mem pa n)

/-- A write by an agent of a tile (R90, R91, R107): other copies of the line are invalidated as it performs. A cached
write merges the line's update-only data first, whoever the writer is (DESIGN CHOICE, log entry 47): R94 names reads and
R275 the sequencer's own writes. -/
def physWrite (s : State) (tile pa : Nat) (data : List Byte) (cached : Bool) : State :=
  if cached then
    let s := mergeLine s (lineOf pa)
    let line := lineOf pa
    let l := l2Line s line
    let s := { s with
      l2 := mput s.l2 line { l with remote := l.remote.filter (· = terraceOf tile), host := false }
      tiles := s.tiles.map fun e => if e.1 = tile then e else (e.1, { e.2 with l1 := e.2.l1.filter (· ≠ line) }) }
    (homeWriteBytes s pa data).noteWord line
  else ({ s with mem := writeBytes s.mem pa data }.noteWrite (lineOf pa)).noteWord (lineOf pa)

/-- Writes back the dirty words of a line to its stack (R90). -/
def writeBackLine (s : State) (line : Nat) : State :=
  match mfind s.l2 line with
  | none => s
  | some l =>
    let word (m : List Host.Cell) (i : Nat) : List Host.Cell :=
      if l.dirty.getLsbD i then writeBytes m (64 * line + 8 * i) (bytesFrom l.data.toNat (8 * i) 8) else m
    { s with mem := (List.range 8).foldl word s.mem, l2 := mput s.l2 line { l with dirty := 0 } }

/-- Removes a line from the L2 and every cache that copies it (R91). -/
def dropLine (s : State) (line : Nat) : State :=
  { s with
    l2 := mdel s.l2 line
    tiles := s.tiles.map fun e => (e.1, { e.2 with l1 := e.2.l1.filter (· ≠ line) }) }

/-! ## Translations of a tile (R70, R72) -/

/-- WKERR of a terrace after a malformed entry (R69). -/
def noteMalformed (s : State) (ter pa : Nat) : State :=
  let t := s.terraces.getD ter {}
  { s with terraces := s.terraces.setIfInBounds ter { t with wkerr := BitVec.ofNat 64 (bits pa 38 3 * 8 + 1) } }

/-- The frame-table entry's address of a 64 KiB frame (R84). The frames of stack `n` follow those of the stacks below
it (DESIGN CHOICE, log entry 48): the spec gives the table's base, entry size and count alone. -/
def frameIndex (pa : Nat) : Nat := pa / 2 ^ 36 * (Config.stackBytes / 2 ^ 16) + pa % 2 ^ 36 / 2 ^ 16
def frameEntry (s : State) (pa : Nat) : Nat := s.basin.frtb.toNat + 16 * frameIndex pa

/-- Sets the dirty or accessed bit of a leaf by an atomic update at its home (R68). -/
def setPteBit (s : State) (pte i : Nat) : State :=
  let e := homeRead s pte 8
  if bit e i then s else homeWrite s pte 8 (e + 2 ^ i)

def setFrameAccessed (s : State) (pa : Nat) : State :=
  let a := frameEntry s pa
  let e := homeRead s a 16
  if bit e 2 then s else homeWrite (s.noteHole a) a 16 (e + 4)

/-- The TLB entry that covers an address (R70). -/
def tlbFind (t : List TlbEntry) (pasid va : Nat) : Option TlbEntry :=
  t.find? fun e => e.pasid = pasid && (if e.large then va / 2 ^ 21 = e.page / 32 else va / 2 ^ 16 = e.page)

/-- The TLB with an entry added; the oldest entry of its size goes when it is full (R70). -/
def tlbAdd (t : List TlbEntry) (e : TlbEntry) : List TlbEntry :=
  let same := t.filter fun x => x.large = e.large
  let t := if (if e.large then 256 else 1024) ≤ same.length then t.erase (same.getLastD e) else t
  e :: t

/-- Translates one access of a tile (R72): the physical address and whether the page is cached; none where the
access is fatal. `mark` sets the leaf's dirty bit. -/
def translateFor (s : State) (tile pasid va : Nat) (write mark : Bool) : State × Option (Nat × Bool) :=
  match tlbFind (s.tile tile).tlb pasid va with
  | some e =>
    if (if write then e.writable else e.readable) then
      let pa := if e.large then e.frame + va % 2 ^ 21 else e.frame + va % 2 ^ 16
      if mark && !e.dirty then
        let t := s.tile tile
        let s := s.setTile tile { t with tlb := t.tlb.map fun x => if x = e then { x with dirty := true } else x }
        (setPteBit s e.pte 5, some (pa, e.cached))
      else (s, some (pa, e.cached))
    else (s, none)
  | none =>
    match walk s pasid va with
    | .hole => ({ s with hole := true }, none)
    | .missing => (s, none)
    | .malformed a => (noteMalformed s (terraceOf tile) a, none)
    | .leaf pte large e =>
      if bit e (if write then 3 else 2) then
        let frame := if large then bits e 38 21 * 2 ^ 21 else bits e 38 16 * 2 ^ 16
        let cached := bits e 7 6 = 0
        let ent : TlbEntry :=
          { pasid := pasid, page := if large then va / 2 ^ 21 * 32 else va / 2 ^ 16, large := large, frame := frame,
            cached := cached, readable := bit e 2, writable := bit e 3, dirty := mark || bit e 5, pte := pte }
        let t := s.tile tile
        let s := s.setTile tile { t with tlb := tlbAdd t.tlb ent }
        let s := setFrameAccessed (setPteBit s pte 4) frame
        let s := if mark then setPteBit s pte 5 else s
        (s, some (leafPa large e va, cached))
      else (s, none)
def translate (s : State) (tile pasid va : Nat) (write : Bool) : State × Option (Nat × Bool) :=
  translateFor s tile pasid va write write

/-! ## Frames: copies and pins (R76, R84, R120) -/

/-- The listed bytes of a page, moved to another frame whose own bytes go. -/
def copyCells (m : List Host.Cell) (old new : Nat) : List Host.Cell :=
  let base := m.filter fun e => e.1 / 65536 ≠ new / 65536
  ((m.filter fun e => e.1 / 65536 = old / 65536).map fun e => (new + e.1 % 65536, e.2)).foldl
    (fun m e => writeByte m e.1 e.2) base

/-- The lines of a 64 KiB frame that a cache holds. -/
def cachedLines (s : State) (frame : Nat) : List Nat :=
  ((s.l2.map (·.1)) ++ s.tiles.flatMap fun e => e.2.l1 ++ e.2.uol.map (·.1)).eraseDups.filter fun l => l / 1024 = frame / 65536

/-- Copies a page from its frame to a shadow frame. -/
def copyFrame (s : State) (old new : Nat) (cached : Bool) : State :=
  let s := if cached then (cachedLines s old).foldl (fun s l => writeBackLine (mergeLine s l) l) s else s
  let s := (cachedLines s new).foldl dropLine s
  { s with mem := copyCells s.mem old new }

def framePa (i : Nat) : Nat :=
  i / (Config.stackBytes / 2 ^ 16) * 2 ^ 36 + i % (Config.stackBytes / 2 ^ 16) * 2 ^ 16

/-- Pins the frame table counts on a frame (R84). -/
def framePins (s : State) (pa : Nat) : Nat := bits (homeRead s (frameEntry s pa) 16) 31 16
def setFramePins (s : State) (pa n : Nat) : State :=
  let a := frameEntry s pa
  homeWrite (s.noteHole a) a 16 (setBits (homeRead s a 16) 31 16 n)

/-- Whether the frame at an address is leaving (R84): a 2 MiB page's first frame speaks for all. A probe, a pond run
and the loader pin no such frame (R88). -/
def frameLeaving (s : State) (pa : Nat) (large : Bool) : Bool :=
  bit (homeRead s (frameEntry s (if large then pa / 2 ^ 21 * 2 ^ 21 else pa)) 16) 5

/-- Frames that hold a pin of an operator of a PASID (R76). -/
def countedFrames (s : State) (pasid : Nat) : List Nat :=
  ((s.ops.filter fun o => o.2.pasid = pasid).flatMap fun o => o.2.pins.map (·.1)).eraseDups

def pinLimit (s : State) (pasid : Nat) : Nat :=
  match pasidEntry s pasid with
  | .ok (_, n) => n
  | .error _ => 0

/-- Adds one pin of an operator to each of the frames, given by number, or the status that forbids it (R74 to R76). -/
def pinFrames (s : State) (op pasid : Nat) (fs : List Nat) : Except Nat State :=
  let counted := countedFrames s pasid
  if fs.any fun f => framePins s (framePa f) = 65535 then .error 5
  else if pinLimit s pasid < counted.length + (fs.filter (!counted.contains ·)).length then .error 1
  else .ok (fs.foldl (fun s f =>
    let s := setFramePins s (framePa f) (framePins s (framePa f) + 1)
    { s with ops := s.ops.map fun o => if o.1 = op then (o.1, { o.2 with pins := mput o.2.pins f (mget 0 o.2.pins f + 1) }) else o }) s)

/-- Removes `n` pins of an operator from a frame. -/
def unpinFrame (s : State) (op f n : Nat) : State :=
  let s := setFramePins s (framePa f) (framePins s (framePa f) - n)
  { s with ops := s.ops.map fun o =>
      if o.1 = op then
        let m := mget 0 o.2.pins f
        (o.1, { o.2 with pins := if m ≤ n then mdel o.2.pins f else mput o.2.pins f (m - n) })
      else o }

/-- An operator drops every pin it holds (R77). -/
def dropPins (s : State) (op : Nat) : State :=
  match mfind s.ops op with
  | none => s
  | some o => o.pins.foldl (fun s e => unpinFrame s op e.1 e.2) s

/-! ## The accesses of a pond run (R354 to R356) -/

def State.setPond (s : State) (i : Nat) (p : Pond) : State := { s with ponds := mput s.ponds i p }

/-- A byte of the predicted argument block, and whether a line holds any. -/
def Pond.argByte (p : Pond) (va : Nat) : Option Byte :=
  let a := (p.words.getD 2 0).toNat
  if a ≤ va && va < a + 8 * p.args.length then
    some (BitVec.ofNat 8 ((p.args.getD ((va - a) / 8) 0).toNat / 256 ^ ((va - a) % 8)))
  else none
def Pond.argLine (p : Pond) (line : Nat) : Bool :=
  let a := (p.words.getD 2 0).toNat
  p.args ≠ [] && a / 64 ≤ line && line * 64 < a + 8 * p.args.length

/-- Adds a run of lines to ranges that rise and do not touch. -/
def addRange (r : Nat × Nat) : List (Nat × Nat) → List (Nat × Nat)
  | [] => [r]
  | q :: qs =>
    if r.2 < q.1 then r :: q :: qs
    else if q.2 < r.1 then q :: addRange r qs
    else addRange (min r.1 q.1, max r.2 q.2) qs

/-- What loads of the argument bytes of one line return, by physical address. -/
def Pond.noteArgs (p : Pond) (va pa : Nat) : Pond :=
  let line := va / 64 * 64
  { p with seen := (List.range 64).foldl (fun m i =>
      match p.argByte (line + i) with
      | some b => mput m (pa / 64 * 64 + i) b
      | none => m) p.seen }

/-- A run of lines without those that hold predicted argument words (R354). -/
def Pond.withoutArgs (p : Pond) (r : Nat × Nat) : List (Nat × Nat) :=
  let a := (p.words.getD 2 0).toNat
  if p.args = [] then [r]
  else
    let lo := a / 64
    let hi := (a + 8 * p.args.length - 1) / 64 + 1
    [(r.1, min r.2 lo), (max r.1 hi, r.2)].filter fun x => x.1 < x.2

/-- Lines enter the read set (R356), but for those of the argument block (R354); none where it needs a 65th range. -/
def Pond.addLines (p : Pond) (vline n : Nat) : Option Pond :=
  let rs := (p.withoutArgs (vline, vline + n)).foldl (fun rs r => addRange r rs) p.ranges
  if 64 < rs.length then none else some { p with ranges := rs }

/-- The watch of lines begins, as the run first reads them (R356). -/
def Pond.watchLines (p : Pond) (ls : List Nat) : Pond :=
  { p with watch := ls.foldl (fun w l => if w.contains l then w else l :: w) p.watch }

/-- Whether a physical line the run reads is watched from its read on: not one of its own pond frames, nor one that holds
predicted argument words (R354 to R356). -/
def Pond.watches (p : Pond) (line : Nat) : Bool :=
  !(p.pages.any fun e => e.2 / 65536 = line / 1024) && !(p.seen.any fun e => e.1 / 64 = line)

/-- One access of a run within a line; none where it stops the run (R355, R356, R358), a frame it cannot pin among the
causes (R88). A line it reads is watched once the read performs (`opRead`). A stop that the copy of a page brings about stands. -/
def pondTranslate (s : State) (i : Nat) (p : Pond) (tile pasid va : Nat) (write : Bool) : State × Option (Nat × Bool) :=
  match translateFor s tile pasid va write false with
  | (s, none) => (s, none)
  | (s, some (pa, cached)) =>
    let page := va / 65536
    let frame := pa / 65536 * 65536
    let (writable, leaving) := match walk s pasid va with
      | .leaf _ large e => (bit e 3, frameLeaving s pa large)
      | _ => (false, false)
    if write && (!writable || !cached || p.argLine (va / 64)) then (s, none)
    else
      match mfind p.pages page with
      | some f =>
        let pa := f + va % 65536
        (s.setPond i (if p.argLine (va / 64) then p.noteArgs va pa else p), some (pa, cached))
      | none =>
        let i0 := frameIndex pa
        match (if p.pinned.contains i0 then .ok s else if leaving then .error 3 else pinFrames s p.op pasid [i0]) with
        | .error _ => (s, none)
        | .ok s =>
          let p := if p.pinned.contains i0 then p else { p with pinned := i0 :: p.pinned }
          if write then
            match p.free, p.addLines (page * 1024) 1024 with
            | f :: rest, some p =>
              let s := copyFrame s frame f cached
              let stopping := p.stopping || (mfind s.ponds i).any (·.stopping)
              let p := p.watchLines (((List.range 1024).filter fun i => !p.argLine (page * 1024 + i)).map (frame / 64 + ·))
              (s.setPond i { p with pages := mput p.pages page f, free := rest, stopping := stopping },
                some (f + va % 65536, cached))
            | _, _ => (s, none)
          else if p.argLine (va / 64) then (s.setPond i (p.noteArgs va pa), some (pa, cached))
          else match p.addLines (va / 64) 1 with
            | some p => (s.setPond i p, some (pa, cached))
            | none => (s, none)

/-- The run an operator is. -/
def State.pondOf (s : State) (op : Nat) : Option (Nat × Pond) :=
  match (mfind s.ops op).bind (·.pond) with
  | some i => (mfind s.ponds i.val).map fun p => (i.val, p)
  | none => none

/-- Translates one access, within a line, of an operator on a tile (R72); a pond run's goes to its pond. -/
def translateOp (s : State) (op tile pasid va : Nat) (write : Bool) : State × Option (Nat × Bool) :=
  match s.pondOf op with
  | none => translate s tile pasid va write
  | some (i, p) => pondTranslate s i p tile pasid va write

/-- What an operator's load finds at a physical address: a run's loads of its argument block return the predicted
words (R354). -/
def pondBytes (s : State) (op pa : Nat) (bs : List Byte) : List Byte :=
  match s.pondOf op with
  | none => bs
  | some (_, p) => bs.zipIdx.map fun b => (mfind p.seen (pa + b.2)).getD b.1

/-- A line that an operator has read: a run watches it from then on (R356). What its own read merged before (R94) stops it
only where it watched the line already. -/
def State.watchRead (s : State) (op line : Nat) : State :=
  match s.pondOf op with
  | none => s
  | some (i, p) => if p.watches line && !p.watch.contains line then s.setPond i (p.watchLines [line]) else s

/-- A read of physical memory by an operator's agent on a tile: what the run it may be watches, and the words predicted. -/
def opRead (s : State) (op tile pa n : Nat) (cached : Bool) : State × List Byte :=
  let (s, bs) := physRead s tile pa n cached
  (s.watchRead op (lineOf pa), pondBytes s op pa bs)

/-! ## The speed table (R346) -/

/-- An entry of the speed table (R346); before bring-up, spare in row 12 and 44 units (log entry 8). -/
def speedEntry (s : State) (tile : Nat) : BitVec 8 :=
  mget (if tile % 13 = 12 then 0x40 + 44 else 44) s.speedt tile

/-! ## The network port (R391 to R393, R437) -/

/-- A line request of an operator. -/
def portReq (s : State) (op line : Nat) (o : PortOwner) (fetch : Bool) : PortReq :=
  ⟨((mfind s.ops op).map (·.agroup)).getD 0, line, o, fetch⟩

/-- Whether two requests are one fetch: every fetch of a line by a tile is (R437). -/
def PortReq.joins (a b : PortReq) : Bool := a.line = b.line && a.fetch && b.fetch
/-- Whether two requests are of one access for one line. -/
def PortReq.same (a b : PortReq) : Bool := a.line = b.line && a.owner = b.owner && a.fetch = b.fetch

/-- Whether a request has left the port for its access, or needs not: a read of a cached line that the L1 holds (R437). A
miss that has joined a fetch leaves with it; once the fetch has left, its line is in the L1, and a load that misses it there
later asks for it anew. -/
def Tile.served (t : Tile) (r : PortReq) : Bool := (r.fetch && t.l1.contains r.line) || t.sent.any r.same

/-- Whether a request is one of a granule or of a flume or matrix command, which is outstanding until it leaves: what it
brings is held in the unit's staging (DESIGN CHOICE, log entry 73). -/
def bulkReq (s : State) (r : PortReq) : Bool :=
  match r.owner with
  | .granule _ _ _ => true
  | .place k o => (mfind s.threads k).any (fun t => t.mq.any (·.ord = o)) || s.flumes.any fun c => c.2.thread = k && c.2.ord = o
  | _ => false

/-- Requests of a list, one for each fetch that several have joined. -/
def distinctReqs : List PortReq → List PortReq
  | [] => []
  | r :: rs => if rs.any r.joins then distinctReqs rs else r :: distinctReqs rs

/-- The outstanding memory requests of a tile (R2, R440): those that wait to leave, and those that have left for an access
still to perform, a pending landing slot's load among them. -/
def outstandingReqs (s : State) (tile : Nat) : Nat :=
  let t := s.tile tile
  (distinctReqs (t.portQ ++ t.sent.filter (!bulkReq s ·))).length

/-- Puts a request among requests of rising lines, once. -/
def putReq (r : PortReq) : List PortReq → List PortReq
  | [] => [r]
  | q :: qs => if r.same q then q :: qs else if r.line < q.line then r :: q :: qs else q :: putReq r qs

/-- The requests of an access that have yet to leave enter the port in ascending order of their lines (R437): all of them
where the tile has room for them (R2), else as far as it has room if they are more than it can ever have, else none. -/
def wantLines (s : State) (tile : Nat) (rs : List PortReq) : State × Bool :=
  let t := s.tile tile
  match (rs.filter fun r => !t.served r).foldr putReq [] with
  | [] => (s, true)
  | ms =>
    let new := ms.filter fun r => !t.portQ.any r.same
    let room := Config.outstanding - outstandingReqs s tile
    let fits := (distinctReqs (new.filter fun r => !t.portQ.any r.joins)).length ≤ room
    let enter := if fits then new else if Config.outstanding < ms.length then new.take room else []
    (s.setTile tile { t with portQ := t.portQ ++ enter }, false)

/-- The requests of an owner have served their access. -/
def State.dropSent (s : State) (tile : Nat) (p : PortReq → Bool) : State :=
  let t := s.tile tile
  if t.sent.any p then s.setTile tile { t with sent := t.sent.filter (!p ·) } else s

def State.dropOwner (s : State) (o : PortOwner) : State :=
  s.tiles.foldl (fun s e => s.dropSent e.1 (·.owner = o)) s

/-- A state before an access that waits, with the requests the access has put into the ports. -/
def keepPorts (s s' : State) : State :=
  s'.tiles.foldl (fun s e =>
    let t := s.tile e.1
    if e.2.portQ = t.portQ then s else s.setTile e.1 { t with portQ := e.2.portQ }) s

/-- The physical address of an instruction word, read without any lasting effect (R377: code pages are pinned). -/
def peekAddr (s : State) (pasid va : Nat) : Option Nat :=
  match walk s pasid va with
  | .leaf _ large e => some (leafPa large e va)
  | _ => none

/-- A 64-bit word of the code or the constant area at an address (R15, R301). -/
def peekWord (s : State) (pasid va : Nat) : Option W64 :=
  (peekAddr s pasid va).map fun pa => BitVec.ofNat 64 (homeRead s pa 8)

end Sys2Proof.Machine
end

