-- ==== Sys2Proof/Machine/Ops.lean ====
section
/-! DEFINITION. Shared operations: the sequencer whose words run, code fetch, the restore of a block, taking a trap
and killing a context (R43, R49, R325, R370 to R374), the return from a held trap, and the frames every meaning is
written in. -/

namespace Sys2Proof.Machine

/-- Why an operation does not complete in this turn. -/
inductive Stop where
  /-- A trap of R370, with the program trap's code. -/
  | trap (c : TrapClass) (n : W32)
  /-- It waits; the turn ends and the unit is tried again. -/
  | wait (n : Need)
  /-- An uncorrectable error: the block re-runs (R206, R327). -/
  | rerun
  deriving DecidableEq, Repr

/-- An operation that reads and changes the device. -/
abbrev Op (α : Type) := ExceptT Stop (StateM State) α

def illegal {α : Type} : Except Stop α := .error (.trap .illegal 0)

/-! ## Sequencers -/

def threadKey (op ltile seq : Nat) : Nat := (op * 512 + ltile) * 4 + seq
def opTileKey (op ltile : Nat) : Nat := op * 512 + ltile

def State.setThread (s : State) (k : Nat) (t : Thread) : State := { s with threads := mput s.threads k t }
def State.setOp (s : State) (k : Nat) (o : Operator) : State := { s with ops := mput s.ops k o }
def State.opTile (s : State) (k : Nat) : OpTile := mget {} s.opTiles k
def State.setOpTile (s : State) (k : Nat) (o : OpTile) : State := { s with opTiles := mput s.opTiles k o }
def Thread.key (t : Thread) : Nat := threadKey t.op t.ltile t.seq
def Thread.ot (t : Thread) : Nat := opTileKey t.op t.ltile

/-- The bytes of a unit: a bundle or a word (R43). -/
def unitBytes (f : Form) : Nat :=
  match f with
  | .native => 32
  | .jexcy => 8

/-! ## Code (R15, R43, R44, R295) -/

def objKey (pasid number : Nat) : Nat := pasid * 65536 + number
/-- The code object a sequencer runs. -/
def State.objOf (s : State) (t : Thread) : Option CodeObj :=
  mfind s.objs (objKey t.launch.pasid.toNat t.launch.obj)

/-- Whether an address lies in a code section of a form (R295). -/
def inSection (o : CodeObj) (f : Form) (a : Nat) : Bool :=
  match f with
  | .jexcy => o.jexBase ≤ a && a < o.jexBase + o.jexLen
  | .native => o.natBase ≤ a && a < o.natBase + o.natLen
/-- Whether an address lies in a code section of the form a sequencer runs: of its own launched object. R295 leaves
open whether the sections of the PASID's other objects count; they do not (DESIGN CHOICE, log entry 70). -/
def State.codeHas (s : State) (t : Thread) (a : W64) : Bool :=
  match s.objOf t with
  | some o => inSection o t.form a.toNat
  | none => false

/-- The four words at a code address. -/
def fetch4 (s : State) (pasid a : Nat) : List W64 :=
  (List.range 4).map fun i => (peekWord s pasid (a + 8 * i)).getD 0

/-- The operations of the unit at an address (R16, R44). -/
def fetchUnit (s : State) (t : Thread) (a : Nat) : Except DecodeError (List Instr) :=
  let ws := fetch4 s t.launch.pasid.toNat a
  match t.form with
  | .jexcy => (decodeJexcy ws).map fun i => [i]
  | .native =>
    match ws with
    | [c, x, v, m] => decodeBundle c x v m
    | _ => .error .malformedSeal

/-- The address of the seal word of the block that holds the unit at `a`, within `n` units (R44). -/
def sealWordAt (s : State) (t : Thread) : Nat → Nat → Option Nat
  | 0, _ => none
  | n + 1, a =>
    if isSealWord ((peekWord s t.launch.pasid.toNat a).getD 0) then some a else sealWordAt s t n (a + unitBytes t.form)

/-- The seal group at an address, where it is well formed (R38, R44). -/
def sealGroup (s : State) (t : Thread) (a : Nat) : Option SealData :=
  match fetchUnit s t a with
  | .ok [.sealOp x] => some x
  | _ => none

/-- The seal of the block that holds the unit at `a`, within `n` units, and its address (R38, R44). -/
def findSeal (s : State) (t : Thread) (n a : Nat) : Option (SealData × Nat) :=
  (sealWordAt s t n a).bind fun b => (sealGroup s t b).map fun x => (x, b)

/-- What a malformed seal group stands for until it raises its trap at the seal word (R44): it declares nothing, and
the limits of the fields hold (R42; DESIGN CHOICE, log entry 77). -/
def noSeal : SealData :=
  { shape := 0, ind := 0, own := 0, taken := 0, fall := 0, sig := 0, len := 0, vectors := 32, stores := 512, gated := 8,
    lend := false }

/-- The figures the running block declares (R42). A block with no seal word within 256 units declares none, and its v
writes, stores and gated operations are illegal (DESIGN CHOICE, log entry 77). -/
def declared (s : State) (t : Thread) : Option SealData :=
  (sealWordAt s t 256 t.pc.toNat).map fun a => (sealGroup s t a).getD noSeal

/-- The label of the block that starts at a code address (R293, R340). -/
def blockLabel (s : State) (t : Thread) (a : Nat) : BitVec 16 :=
  ((findSeal s t 256 a).map fun x => x.1.own).getD 0

/-- The first unit of the block a sequencer runs (R43): its seal's address minus its length less one. A sequencer past
its seal has its successor. -/
def firstUnit (s : State) (t : Thread) : W64 :=
  match t.run, findSeal s t 256 t.pc.toNat with
  | .running, some (x, a) => BitVec.ofNat 64 (a - x.len.toNat * unitBytes t.form)
  | _, _ => t.blk.entry

/-! ## The escapement's restore (R49, R325) -/

/-- A landing slot after a failed block (R185): one the block took from free is free again; every other stands, with
what has landed since, or its load issued again. -/
def restoreSlot (took : List (Fin 32)) (start now : Slot) (n : Fin 32) : Slot :=
  if took.contains n then {} else if start.state = .pending || now.again || now.parity then now else start

/-- The sequencer as it stood where its block began: registers, tags and v registers restored, every buffered
effect dropped (R325), the program counter at the block's first unit (R43). The unit it was entered at stands (R318). -/
def Thread.restore (t : Thread) (first : W64) : Thread :=
  let r := t.blk.start
  let slots := Vector.ofFn fun n => restoreSlot t.blk.took r.slots[n] t.regs.slots[n] n
  let vs := t.blk.journal.foldl (fun (p : Vector VReg 96 × Vector Tag 96) e =>
    (p.1.set e.1 e.2.1, p.2.set e.1 e.2.2)) (t.v, t.vTag)
  let r := { r with slots := slots }
  { t with
    regs := r, v := vs.1, vTag := vs.2, pc := first,
    blk := { entry := t.blk.entry, start := r } }

/-- The line requests of the landing-slot loads that a failed block took from free, and of the unit it stood in, go with
them (R185). -/
def State.dropLoads (s : State) (t : Thread) : State :=
  let os := t.blk.took.map fun n => t.regs.slots[n].ord
  let mine (r : PortReq) : Bool := match r.owner with
    | .place k o => k = t.key && os.contains o
    | .unit k => k = t.key
    | _ => false
  let tl := s.tile t.tile
  if (tl.portQ ++ tl.sent).any mine then
    s.setTile t.tile { tl with portQ := tl.portQ.filter (!mine ·), sent := tl.sent.filter (!mine ·) }
  else s

/-- A sequencer that begins a block at its program counter: the starting copy is taken, every latch is invalid
(R34, R324). -/
def Thread.begin (t : Thread) : Thread := { t with blk := { entry := t.pc, start := t.regs } }

/-! ## Taking a trap (R370 to R374) -/

def TrapClass.code : TrapClass → Nat
  | .program => 0 | .illegal => 1 | .translation => 3 | .sealMismatch => 4 | .label => 5 | .callOverflow => 6
  | .loopOverflow => 7 | .lease => 8 | .deadline => 9 | .dataError => 10

/-- The fate of each class (R370). -/
def TrapClass.fate : TrapClass → Fate
  | .program | .deadline => .held
  | .illegal | .sealMismatch | .label | .callOverflow | .loopOverflow | .lease => .operator
  | .translation | .dataError => .context

def Fate.rank : Fate → Nat
  | .held => 0 | .operator => 1 | .context => 2

/-- SEQID (R209). -/
def Thread.seqid (t : Thread) : W32 := BitVec.ofNat 32 (t.ltile * 2 ^ 16 + t.seq.val)

/-- The context table's entry of a context (R373). -/
def ctxAddr (s : State) (ctx : Nat) : Nat := s.basin.ctxtb.toNat + 64 * ctx
def ctxField (s : State) (ctx hi lo : Nat) : Nat := bits (homeRead s (ctxAddr s ctx) 64) hi lo
def setCtxField (s : State) (ctx hi lo v : Nat) : State :=
  let a := ctxAddr s ctx
  homeWrite (s.noteHole a) a 64 (setBits (homeRead s a 64) hi lo v)

/-- The trap record (R372). -/
def trapRecord (o : Operator) (f : Fate) (x : TrapNote) : Nat :=
  x.cls.code + f.rank * 2 ^ 8 + o.ctx * 2 ^ 16 + x.n.toNat * 2 ^ 32
    + (o.slot + o.index.toNat * 2 ^ 32) * 2 ^ 64 + x.at_.toNat * 2 ^ 128 + x.pc.toNat * 2 ^ 192
    + (x.seqid.toNat + x.own.toNat * 2 ^ 32 + x.last.toNat * 2 ^ 48) * 2 ^ 256 + x.time.toNat * 2 ^ 320
    + min o.further 65535 * 2 ^ 384

/-- Writes the operator's trap record to its context's event ring, or counts it lost (R372, R373). -/
def writeTrapRecord (s : State) (o : Operator) (f : Fate) (x : TrapNote) : State :=
  let ewr := ctxField s o.ctx 400 369
  let erd := ctxField s o.ctx 363 332
  let size := 2 ^ (ctxField s o.ctx 404 401 + 4)
  if size ≤ (ewr + 2 ^ 32 - erd) % 2 ^ 32 then
    setCtxField s o.ctx 331 316 (min 65535 (ctxField s o.ctx 331 316 + 1))
  else
    let a := ctxField s o.ctx 443 405 + 64 * (ewr % size)
    setCtxField (homeWrite (s.noteHole a) a 64 (trapRecord o f x)) o.ctx 400 369 (ewr + 1)

/-- The threads of an operator. -/
def State.threadsOf (s : State) (op : Nat) : List (Nat × Thread) := s.threads.filter fun e => e.2.op = op

/-- A sequencer that runs no block of its operator any more. -/
def Thread.idle (t : Thread) : Bool := t.run = .exited || t.run = .stopped || t.run = .out

/-- Whether an operator can be switched out (R185, R328, R365): no landing slot of its sequencers is pending and none of
its tiles is being retired, which takes the operator off the tile instead. -/
def mayLeave (s : State) (op : Nat) : Bool :=
  (s.threadsOf op).all fun e => (e.2.regs.slots.toList.all fun x => x.state ≠ .pending) && !(s.tile e.2.tile).retiring

/-- Whether the oldest command of a sequencer is a drain that has begun: it runs to its end (R248). -/
def midCommand (t : Thread) : Bool := t.mq.head?.any (·.started)

/-! ## Flume commands and their tickets (R116, R137, R138) -/

def setTicket (t : Thread) (n : Nat) (x : TicketState) : Thread :=
  { t with tickets := ((n, x) :: t.tickets.filter fun e => e.1 ≠ n).take 64 }

/-- Records the state of a command's ticket. -/
def markTicket (s : State) (c : FlumeCmd) (x : TicketState) : State :=
  match mfind s.threads c.thread with
  | some t => s.setThread c.thread { t with
      tickets := t.tickets.map fun e => if e.1 = c.ticket then (e.1, x) else e }
  | none => s

/-- Frames go back to the pool of a terrace (R120). -/
def returnFrames (s : State) (ter : Nat) (fs : List Nat) : State :=
  let t := s.terraces.getD ter {}
  { s with terraces := s.terraces.setIfInBounds ter { t with frames := t.frames ++ fs } }

/-- Cancels the flume commands that `p` selects (R138): nothing of them is published, their shadow frames return and
their reserved bytes are free. -/
def cancelFlumes (s : State) (p : Nat → FlumeCmd → Bool) : State :=
  let gone := s.flumes.filter fun e => p e.1 e.2
  let kept := (s.flumes.filter fun e => !p e.1 e.2).flatMap fun e => e.2.frames.map (·.2)
  let pages := ((gone.flatMap fun e => e.2.frames.map fun f => (terraceOf e.2.tile, f.2)).eraseDups).filter fun f =>
    !kept.contains f.2
  let s := gone.foldl (fun s e => markTicket s e.2 .cancelled) { s with flumes := s.flumes.filter fun e => !p e.1 e.2 }
  pages.foldl (fun s f => returnFrames s f.1 [f.2]) s

/-- The operator of a thread key. -/
def keyOp (k : Nat) : Nat := k / 2048
def keyLtile (k : Nat) : Nat := k / 4 % 512

/-- Kills a context (R374): every started operator ends with status 4 (the faulting one with 3), waiting and ready
records end with status 4, page requests go, queues read no further. The writes that have passed their seals stand
and still perform. A probe of another context that had joined a request which goes waits on (R79 leaves open what becomes
of it: DESIGN CHOICE, log entry 57). -/
def killContext (s : State) (ctx : Nat) (faulting : Option Nat) : State :=
  let s := setCtxField s ctx 367 364 4
  let s := cancelFlumes s fun _ c => (mfind s.ops (keyOp c.thread)).any (·.ctx = ctx)
  { s with
    reqs := s.reqs.filter fun r => r.ctx ≠ ctx
    threads := s.threads.map fun e =>
      match mfind s.ops e.2.op with
      | some o => if o.ctx = ctx && o.pond.isNone && e.2.run ≠ .exited then
          (e.1, { e.2.restore (firstUnit s e.2) with run := .stopped, issue := [], mq := [], probe := none }) else e
      | none => e
    ops := s.ops.map fun e =>
      if e.2.ctx = ctx && e.2.pond.isNone then
        match e.2.state with
        | .ending _ | .reserved => e
        | _ =>
          if faulting = some e.1 then (e.1, { e.2 with state := .ending 3 })
          else (e.1, { e.2 with state := .ending 4, fate := none, trap := none })
      else e
    recs := s.recs.map fun e =>
      if e.2.ctx = ctx then
        match e.2.state with
        | .waiting | .ready => (e.1, { e.2 with state := .ending 4 })
        | _ => e
      else e
    ponds := s.ponds.map fun e => if (mfind s.ops e.2.op).any (·.ctx = ctx) then (e.1, { e.2 with stopping := true }) else e
    queues := s.queues.map fun e => if bits e.2.entry 95 84 = ctx && e.2.loaded then (e.1, { e.2 with stopped := true }) else e }

/-! ## Spilling (R103, R365 to R367) -/

/-- Whether an operator is switched out (R365) or held by a trap (R371). -/
def Operator.away (o : Operator) : Bool := o.state = .out || o.state = .held

/-- Bytes of one tile image of a spill area, and the places in it of what R367 lists: the scratchpad first, then the
accumulators, then each sequencer's vectors, landing slots and other state (DESIGN CHOICE, log entry 38). -/
def tileImage : Nat := 2 ^ 22
def accPlace (a : Nat) : Nat := 0x300000 + 0x18000 * a
def seqPlace (seq : Nat) : Nat := 0x360000 + 0x21000 * seq

/-- The address of an operator's image of a logical tile. -/
def imageAt (s : State) (o : Operator) (ltile : Nat) : Nat :=
  ctxField s o.ctx 511 473 + tileImage * o.images.getD ltile 0

/-- The lowest images of a context that no operator of it uses. -/
def freeImages (s : State) (o : Operator) : List Nat :=
  let used := (s.ops.filter fun e => e.2.ctx = o.ctx).flatMap (·.2.images)
  ((List.range 384).filter (!used.contains ·)).take (o.width * o.height)

/-- An uncorrectable error met while state of an operator is spilled (R367): it ends the context at the end of the
step. -/
def State.strikeSpill (s : State) (op : Nat) : State :=
  if s.hwErrors.contains (.spill op) then { s with hwErrors := .spilled op :: s.hwErrors.erase (.spill op) } else s

/-- What a switch-out spills of a sequencer at once (R365): its landed slots, and its other state, whose form the spec
leaves open (free values, log entry 38). -/
def spillSeq (o : Operator) (s : State) (t : Thread) : State :=
  let a := imageAt s o t.ltile + seqPlace t.seq.val
  let s := (List.finRange 32).foldl (fun s n =>
    let x := t.regs.slots[n]
    if x.state = .landed then homeWriteBytes s (a + 0x18000 + 1024 * n.val) (leBytes 1024 x.data.toNat) else s) s
  let s := (List.range 512).foldl
    (fun s i => homeWrite s (a + 0x20000 + 8 * i) 8 (Config.freeWord (s.freshTick + i)).toNat) s
  { s with freshTick := s.freshTick + 512 }

/-- The immediate spill of an operator whose sequencers have stopped: it takes tile images, and the rest of its state
stays resident (R365, R366). -/
def spillNow (s : State) (op : Nat) : State :=
  match mfind s.ops op with
  | none => s
  | some o =>
    let o := { o with images := freeImages s o }
    ((s.threadsOf op).map (·.2)).foldl (spillSeq o) ((s.strikeSpill op).setOp op o)

/-- Once every sequencer of a trapped operator has stopped, its one trap record is written and its fate is carried
out (R371); a held one is switched out as for a pre-emption, when its pending loads have landed (R185, R370), but one that
a migration abandons is not spilled (R381). -/
def settleTrap (s : State) (op : Nat) : State :=
  match mfind s.ops op with
  | none => s
  | some o =>
    match o.fate, o.trap with
    | some f, some x =>
      if ((s.threadsOf op).all fun e => e.2.idle) && (f ≠ .held || mayLeave s op) then
        let s := writeTrapRecord s o f x
        let o' := { o with fate := none, trap := none, stopping := false, further := 0 }
        match f with
        | .held =>
          let s := s.setOp op { o' with state := .held }
          if o.abandoned then s else spillNow s op
        | .operator =>
          match o.state with
          | .ending _ => s.setOp op o'
          | _ => s.setOp op { o' with state := .ending o.trapStatus }
        | .context => s.setOp op o'
      else s
    | _, _ => s

/-- TAKING A TRAP: the shared operation. The sequencer stops with its block's starting state (R49, R300, R318) or,
for a program trap, as its seal left it (R314); the operator notes the first trap, counts the others, takes the
highest fate (R371), and its other sequencers stop at their next pre-emption points; a context's fate kills it at
once (R374). `place` is the bundle and the block's label of a command that fails while it runs (R372). The record
is of the first trap, and of the lowest SEQID among those of one instant. -/
def raiseTrapFor (s : State) (k : Nat) (t : Thread) (c : TrapClass) (n : W32) (place : Option (W64 × BitVec 16)) : State :=
  let stopped := if t.run = .exited then t
    else { (if c = .program then t else t.restore (firstUnit s t)) with run := .stopped, flow := .redirected, issue := [] }
  let issuing := t.run = .issuing
  let at_ : W64 := match t.issue with
    | g :: _ => if issuing then g.bundle else t.pc
    | [] => if c = .label then t.blk.entry else t.pc
  let note : TrapNote :=
    { cls := c, n := n, at_ := (place.map (·.1)).getD at_, pc := stopped.pc, seqid := t.seqid,
      own := (place.map (·.2)).getD (if issuing then t.lastLabel else blockLabel s t t.pc.toNat)
      last := t.lastLabel, time := s.time }
  let s := (s.dropLoads t).setThread k stopped
  match mfind s.ops t.op with
  | none => s
  | some o =>
    match o.pond with
    | some i => { s with ponds := s.ponds.map fun e => if e.1 = i.val then (e.1, { e.2 with stopping := true }) else e }
    | none =>
    let f := match o.fate with
      | some g => if g.rank < c.fate.rank then c.fate else g
      | none => c.fate
    let o := match o.trap with
      | none => { o with trap := some note, fate := some f }
      | some x => { o with
          further := o.further + 1, fate := some f
          trap := some (if x.time = s.time && note.seqid < x.seqid then note else x) }
    let o := if o.stopping then o else { o with stopping := true, stopAt := s.time.toNat }
    let s := s.setOp t.op o
    settleTrap (if c.fate = .context then killContext s o.ctx (some t.op) else s) t.op
/-- A trap of a sequencer at its own bundle or seal. -/
def raiseTrap (s : State) (k : Nat) (t : Thread) (c : TrapClass) (n : W32) : State := raiseTrapFor s k t c n none

/-- THE RETURN FROM A HELD TRAP (R314, R370, R375): the operator's stopped sequencers resume where they stand, the
successor of a program trap or the first unit of the block that met its deadline; a waiting gated operation keeps
its place. -/
def resumeHeld (t : Thread) : Thread :=
  if t.run = .out || t.run = .stopped then { t with run := .issuing, flow := .normal, parked := none } else t

/-- A block that re-runs for an uncorrectable error; the second one ends the context (R206, R327). -/
def rerunBlock (s : State) (k : Nat) (t : Thread) : State :=
  if t.reran then raiseTrap s k t .dataError 0
  else (s.dropLoads t).setThread k { t.restore (firstUnit s t) with reran := true, flow := .redirected }

/-- A sequencer that waits. -/
def Thread.stall (t : Thread) (n : Need) : Thread :=
  let t := match n with
    | .again k => { t with regs := { t.regs with
        slots := t.regs.slots.set k { t.regs.slots[k] with state := .pending, parity := true } } }
    | _ => t
  { t with flow := .stalled n }

/-- What a stop does to the machine; `t` is the sequencer as it stood before the operation. -/
def stopAt (s : State) (k : Nat) (t : Thread) : Stop → State
  | .trap c n => raiseTrap s k t c n
  | .wait n => s.setThread k (t.stall n)
  | .rerun => rerunBlock s k t

/-! ## The frames of the meanings -/

/-- An operation that acts on its sequencer's registers only (R190). It acts in the sequencer `cur`. -/
def runPure (s : State) (f : Thread → Except Stop Thread) : Host.Outcome State Fault Refusal :=
  match mfind s.threads s.cur with
  | none => .next s
  | some t =>
    match f t with
    | .ok t' => .next (s.setThread s.cur t')
    | .error e => .next (stopAt s s.cur t e)

/-- An operation that also reads or changes the device. -/
def runOp (s : State) (f : Thread → Op Thread) : Host.Outcome State Fault Refusal :=
  match mfind s.threads s.cur with
  | none => .next s
  | some t =>
    match (f t).run s with
    | (.ok t', s') => .next (s'.setThread s.cur t')
    | (.error e, s') => .next (stopAt s' s.cur t e)

/-- A step of the device. -/
def runEvent (s : State) : Host.Outcome State Fault Refusal := .next s

/-- An access waits until its line requests have left the port (R391, R393). -/
def askLines (tile : Nat) (rs : List PortReq) : Op Unit := do
  let (s, ok) := wantLines (← get) tile rs
  set s
  if !ok then throw (.wait .other)

/-- An error of the list strikes once (R206). -/
def hwStrike (e : HwError) : Op Bool := do
  let s ← get
  if s.hwErrors.contains e then
    set { s with hwErrors := s.hwErrors.erase e }
    return true
  return false

end Sys2Proof.Machine
end

