-- ==== Sys2Proof/Machine/Handle.lean ====
section
/-! DEFINITION. Handle records: fields, malformed records, element offsets (R109 to R112). -/

namespace Sys2Proof.Machine

/-- A field of a handle record (R109). -/
def hField (h : HRec) (hi lo : Nat) : Nat := bits h.toNat hi lo

def hTag (h : HRec) : Tag := BitVec.ofNat 32 (hField h 255 224)
def hLayout (h : HRec) : Nat := hField h 195 192
def hExt0 (h : HRec) : Nat := hField h 87 64
def hExt1 (h : HRec) : Nat := hField h 111 88
def hExt2 (h : HRec) : Nat := hField h 127 112
def hStride1 (h : HRec) : Int := sgn 32 (hField h 159 128)
def hStride2 (h : HRec) : Int := sgn 32 (hField h 191 160)
def hFormat (h : HRec) : Nat := hField h 62 58
def hGroup (h : HRec) : Nat := hField h 199 196
def hScr (h : HRec) : Bool := bit h.toNat 57
def hBase (h : HRec) : Nat := hField h 56 0
def hRegion (h : HRec) : Nat := hField h 27 22
def hOffset (h : HRec) : Nat := hField h 21 0

/-- The element size in half bytes (R110); codes 16 to 31 have none. -/
def formatHalf (code : Nat) : Option Nat :=
  match code with
  | 0 | 1 | 2 | 11 | 12 | 14 | 15 => some 2
  | 3 | 4 | 9 | 10 => some 4
  | 5 | 6 | 8 => some 8
  | 7 => some 16
  | 13 => some 1
  | _ => none
def hHalf (h : HRec) : Nat := (formatHalf (hFormat h)).getD 2

/-- A malformed record (R111). -/
def hMalformed (h : HRec) : Bool :=
  16 ≤ hFormat h || 4 ≤ hGroup h || 3 ≤ hLayout h
    || (hLayout h = 1 && (hExt0 h % 16 ≠ 0 || hExt1 h % 16 ≠ 0))
    || (hLayout h = 2 && (!hScr h || hStride1 h % 1024 ≠ 0 || hField h 9 0 ≠ 0))

/-- An empty tensor (R112). -/
def hEmpty (h : HRec) : Bool := hExt0 h = 0 || hExt1 h = 0 || hExt2 h = 0

/-- The offset of an element in half bytes, for indices within the extents (R110, R111). -/
def elemOffHalf (h : HRec) (a0 a1 a2 : Nat) : Int :=
  let e := hHalf h
  match hLayout h with
  | 1 =>
    2 * ((a1 / 16 : Nat) * hStride1 h + a2 * hStride2 h)
      + ((a0 / 16 * 256 * e + (a1 % 16 * 16 + a0 % 16) * e : Nat) : Int)
  | l =>
    let off : Int := ((a0 * e / 2 : Nat) : Int) + a1 * hStride1 h + a2 * hStride2 h
    let m := ((off / 64) % 16).toNat
    let off := if l = 2 then off - m * 64 + ((m ^^^ a1 % 16) * 64 : Nat) else off
    2 * off + (a0 * e % 2 : Nat)

/-- The byte offset of element (i0, i1, i2), indices wrapped (R12, R111). -/
def elemOff (h : HRec) (i0 i1 i2 : Int) : Int :=
  elemOffHalf h (wrapIdx i0 (hExt0 h)) (wrapIdx i1 (hExt1 h)) (wrapIdx i2 (hExt2 h)) / 2

/-- The reach of one axis of `n` steps of `st` bytes. -/
def axisSpan (n : Nat) (st : Int) : Int × Int :=
  let x : Int := ((n - 1 : Nat) : Int) * st
  (min 0 x, max 0 x)

/-- Offsets from a handle's base that enclose every element of it. -/
def handleSpan (h : HRec) : Int × Int :=
  let b := axisSpan (if hLayout h = 1 then hExt1 h / 16 else hExt1 h) (hStride1 h)
  let c := axisSpan (hExt2 h) (hStride2 h)
  let inner := if hLayout h = 1 then hExt0 h * 8 * hHalf h else (hExt0 h * hHalf h + 1) / 2
  let slack : Int := if hLayout h = 2 then 1024 else 0
  (b.1 + c.1 - slack, b.2 + c.2 + (inner : Nat) + slack)

/-- Bytes that hold one element. -/
def elemBytes (h : HRec) : Nat := (hHalf h + 1) / 2

/-- An address as an operation forms it: a global virtual address, or an offset in a region (R98). -/
inductive Addr where
  | glob (a : Nat)
  | scr (region : Nat) (off : Nat)
  deriving DecidableEq, Repr

def Addr.add : Addr → Nat → Addr
  | .glob a, n => .glob (a + n)
  | .scr r o, n => .scr r (o + n)

def translationFatal {α : Type} : Except Stop α := .error (.trap .translation 0)

/-- The region of an operator's tile (R96). -/
def regionOf (ot : OpTile) (n : Nat) : Region := mget {} ot.regions n

/-- The bounds of a scratchpad access (R98). -/
def scrAddr (ot : OpTile) (region : Nat) (off : Int) (n : Nat) : Except Stop Addr :=
  let r := regionOf ot region
  if r.size = 0 || off < 0 || (r.size.toNat * 4096 : Int) < off + n then translationFatal
  else .ok (.scr region off.toNat)

/-- A 64-bit address value (R66, R98). -/
def valueAddr (ot : OpTile) (a n : Nat) : Except Stop Addr :=
  if bit a 63 then
    if bits a 62 28 ≠ 0 then translationFatal else scrAddr ot (bits a 27 22) (bits a 21 0 : Nat) n
  else if 2 ^ 57 < a + n then translationFatal else .ok (.glob a)

/-- The address of an offset from a handle's base (R98, R203). DEDUCED (log entry 60): a space-1 base with bits 56:28
not 0, which R98 rules out and R203 does not test, is "translation fatal" as the address value of R98 is. -/
def handleAddr (ot : OpTile) (h : HRec) (off : Int) (n : Nat) : Except Stop Addr :=
  if hScr h then
    if hField h 56 28 ≠ 0 then translationFatal else scrAddr ot (hRegion h) ((hOffset h : Int) + off) n
  else
    let a := (hBase h : Int) + off
    if a < 0 || (2 ^ 57 : Int) < a + n then translationFatal else .ok (.glob a.toNat)

end Sys2Proof.Machine
end

