-- ==== Sys2Proof/Machine/Scratch.lean ====
section
/-! DEFINITION. Accesses of a sequencer to scratchpad and global memory: granules, forwarding from its own stores,
the load rules and the store buffer (R99 to R101, R203 to R205, R270, R273, R284 to R286). -/

namespace Sys2Proof.Machine

/-! ## Regions -/

def frontCells (r : Region) : List Host.Cell := if r.front then r.b else r.a
def setFront (r : Region) (c : List Host.Cell) : Region := if r.front then { r with b := c } else { r with a := c }

/-- The state of a granule: none is zero (R99). -/
def granOf (r : Region) (off : Nat) : Option GranState := mfind r.gran (off / 4096)

/-- A byte of a region as its front gives it; a zero granule reads as 0 (R99). -/
def regionByte (r : Region) (off : Nat) : Byte :=
  match granOf r off with
  | none => 0
  | some _ => readByte (frontCells r) off

/-- A write of one byte to a granule that is not empty (R99). -/
def regionPut (r : Region) (off : Nat) (b : Byte) : Region :=
  let cells := match granOf r off with
    | none => (frontCells r).filter fun e => e.1 / 4096 ≠ off / 4096
    | some _ => frontCells r
  let r := setFront r (writeByte cells off b)
  { r with gran := mput r.gran (off / 4096) (if r.mapped then .dirty else .valid) }
def regionPuts (r : Region) (off : Nat) : List Byte → Region
  | [] => r
  | b :: bs => regionPuts (regionPut r off b) (off + 1) bs

def OpTile.setRegion (ot : OpTile) (n : Nat) (r : Region) : OpTile := { ot with regions := mput ot.regions n r }

/-- A region as a sequencer's block sees it: under the mapping in force when the block started (R106). -/
def viewRegion (s : State) (t : Thread) (n : Nat) : Region := (mfind t.blk.kept n).getD (regionOf (s.opTile t.ot) n)
/-- The regions and accumulators of a sequencer's operator on its tile, as its block sees them. -/
def viewOf (s : State) (t : Thread) : OpTile :=
  (t.blk.kept.map (·.1)).foldl (fun ot n => ot.setRegion n (viewRegion s t n)) (s.opTile t.ot)

/-- Changes the blocks of the sequencers of an operator's tile that stand in a block, which see a region as it found
it. -/
def mapViews (s : State) (otk : Nat) (f : Block → Block) : State :=
  { s with threads := s.threads.map fun e =>
      if e.2.ot = otk && e.2.run = .running then (e.1, { e.2 with blk := f e.2.blk }) else e }

/-- Before the mapping of a region changes, every sequencer of the operator's tile that stands in a block keeps it as its
block found it (R106). What it keeps is a copy at the change: later stores and publishes of others to the region do not reach
it (DESIGN CHOICE, log entry 65). -/
def keepView (s : State) (otk n : Nat) : State :=
  let r := regionOf (s.opTile otk) n
  mapViews s otk fun b => if (mfind b.kept n).isSome then b else { b with kept := mput b.kept n r }

/-- A new tag of a region, which every later access folds, whatever mapping its block sees (R174, R180). -/
def tagView (s : State) (otk n : Nat) (tag : Tag) : State :=
  mapViews s otk fun b => match mfind b.kept n with
    | some r => { b with kept := mput b.kept n { r with tag := tag } }
    | none => b

/-- The granule of the tile that holds an offset of a region's front backing. -/
def granuleAt (r : Region) (off : Nat) : Nat := (if r.front then r.baseB else r.baseA).toNat + off / 4096

/-! ## Claims of a victim's resident state (R103, R366) -/

/-- The victims on a tile: the logical tiles of switched-out operators, but for operator `op`'s own. -/
def victimsOn (s : State) (op on : Nat) : List (Nat × Operator × Nat) :=
  s.ops.flatMap fun e =>
    if e.1 ≠ op && e.2.away then (e.2.tiles.filter (·.2 = on)).map fun l => (e.1, e.2, l.1) else []

/-- The bytes of a granule of the tile that lies in a backing of an operator. -/
def backingBytes (ot : OpTile) (g : Nat) : Option (List Byte) :=
  ot.regions.findSome? fun e =>
    let r := e.2
    let within (b : Nat) : Bool := b ≤ g && g < b + r.size.toNat
    if within r.baseA.toNat then some (readBytes r.a (4096 * (g - r.baseA.toNat)) 4096)
    else if within r.baseB.toNat then some (readBytes r.b (4096 * (g - r.baseB.toNat)) 4096) else none

/-- Spills a 64 KiB page of the tile for one logical tile of an operator, into its image, where that has backings in it
still resident. -/
def spillPage (s : State) (op : Nat) (o : Operator) (ltile page : Nat) : State :=
  let otk := opTileKey op ltile
  let ot := s.opTile otk
  let gs := (List.range 16).filterMap fun i => (backingBytes ot (16 * page + i)).map fun bs => (i, bs)
  if gs = [] || ot.pagesOut.contains page then s
  else
    let a := imageAt s o ltile + 0x10000 * page
    let s := gs.foldl (fun s g => homeWriteBytes s (a + 4096 * g.1) g.2) (s.strikeSpill op)
    s.setOpTile otk { s.opTile otk with pagesOut := page :: ot.pagesOut }

/-- Spills the accumulators of a mask that sequencers of one logical tile hold and that are still resident. -/
def spillAccs (s : State) (op : Nat) (o : Operator) (ltile : Nat) (mask : BitVec 4) : State :=
  let otk := opTileKey op ltile
  let ot := s.opTile otk
  let held := (s.threadsOf op).foldl (fun m e => if e.2.ltile = ltile then m ||| e.2.acc else m) (0 : BitVec 4)
  let m := mask &&& held &&& ~~~ot.accOut
  if m = 0 then s
  else
    let spill (s : State) (a : Fin 4) : State :=
      if m.getLsbD a.val then
        homeWriteBytes s (imageAt s o ltile + accPlace a.val)
          ((List.range (128 * 192)).flatMap fun i => leBytes 4 (mget 0 ot.acc[a].cells i).toNat)
      else s
    let s := (List.finRange 4).foldl spill (s.strikeSpill op)
    s.setOpTile otk { s.opTile otk with accOut := ot.accOut ||| m }

/-- Spills vector banks of a sequencer that are still resident. -/
def spillBanks (s : State) (k : Nat) (t : Thread) (banks : List Nat) : State :=
  let bs := (banks.eraseDups).filter fun b => !t.banksOut.getLsbD b
  if bs = [] then s
  else
    let o := (mfind s.ops t.op).getD { slot := 0, index := 0, ctx := 0, pasid := 0, obj := 0 }
    let a := imageAt s o t.ltile + seqPlace t.seq.val
    let s := bs.foldl (fun s b => homeWriteBytes s (a + 12288 * b)
      ((List.range 12).flatMap fun i => leBytes 1024 (t.v.toList.getD (12 * b + i) 0).toNat)) (s.strikeSpill t.op)
    s.setThread k { t with banksOut := bs.foldl (fun m b => m ||| BitVec.ofNat 8 (2 ^ b)) t.banksOut }

/-- What an operator still has resident is spilled before it moves to another rectangle (R368). -/
def spillRest (s : State) (op : Nat) (o : Operator) : State :=
  let s := o.tiles.foldl (fun s l =>
    spillAccs ((List.range 48).foldl (fun s p => spillPage s op o l.1 p) s) op o l.1 0xF) s
  (s.threadsOf op).foldl (fun s e => spillBanks s e.1 e.2 (List.range 8)) s

/-- A 64 KiB page of the tile is spilled for each victim that has backings in it. -/
def claimPage64 (s : State) (op on page : Nat) : State :=
  (victimsOn s op on).foldl (fun s v => spillPage s v.1 v.2.1 v.2.2 page) s

/-- Whether the operator of a sequencer is switched out, or held by a trap (R365, R371). -/
def away (s : State) (t : Thread) : Bool := (mfind s.ops t.op).any (·.away)

/-- Whether an operator is the newcomer to a switched-out sequencer's tile (R249, R366): it runs there on a physical
sequencer of the victim's operator. -/
def newcomer (s : State) (op : Nat) (v : Thread) : Bool :=
  away s v && op ≠ v.op && s.threads.any fun e => e.2.op = op && e.2.tile = v.tile && !away s e.2
    && s.threads.any fun f => f.2.op = v.op && f.2.tile = v.tile && f.2.pseq = e.2.pseq

/-- Accumulators that a victim holds are spilled as an `m.lease` of the newcomer names them. -/
def claimAccs (s : State) (op on : Nat) (mask : BitVec 4) : State :=
  ((victimsOn s op on).filter fun v => (s.threadsOf v.1).any fun e => e.2.tile = on && newcomer s op e.2).foldl
    (fun s v => spillAccs s v.1 v.2.1 v.2.2 mask) s

/-- Vector banks of the victims of a physical sequencer are spilled as the newcomer names registers of them. -/
def claimBanks (s : State) (t : Thread) (banks : List Nat) : State :=
  (s.threads.filter fun e => e.2.tile = t.tile && e.2.pseq = t.pseq
      && (victimsOn s t.op t.tile).any fun v => v.1 = e.2.op).foldl (fun s e => spillBanks s e.1 e.2 banks) s

/-- Whether an offset lies in a 64 KiB page of the tile `on` that holds a backing of a region into which a switched-out
or held operator's flume command is still to publish (R128, R366): the page is not handed over before. -/
def pageHeld (s : State) (op on : Nat) (r : Region) (off : Nat) : Bool :=
  s.flumes.any fun e => keyOp e.2.thread ≠ op && (mfind s.ops (keyOp e.2.thread)).any (·.away)
    && e.2.dests.any fun d => match d with
      | .scr ot tile n =>
        let v := regionOf (s.opTile ot) n
        let page := granuleAt r off / 16
        let covers (b : Nat) : Bool := v.size ≠ 0 && b / 16 ≤ page && page ≤ (b + v.size.toNat - 1) / 16
        tile = on && (covers v.baseA.toNat || covers v.baseB.toNat)
      | .glob => false

/-- An access to a granule: its page is claimed of a victim (R366); of an empty one the global page must translate, and
the sequencer waits for the fill (R100). -/
def touch (t : Thread) (region off : Nat) : Op Unit := do
  let s ← get
  let r := viewRegion s t region
  if pageHeld s t.op t.tile r off then throw (.wait .other)
  let s := claimPage64 s t.op t.tile (granuleAt r off / 16)
  set s
  if granOf r off = some .empty then
    let (s', x) := translateOp s t.op t.tile t.launch.pasid.toNat (r.gva.toNat + off / 4096 * 4096) false
    set s'
    match x with
    | none => throw (.trap .translation 0)
    | some _ => throw (.wait (.fill t.ot (Fin.ofNat 64 region) (off / 4096)))

/-- Where an access of at most 8 bytes, within one aligned word, goes: translated once (R72). -/
def resolve (t : Thread) (a : Addr) (write : Bool) : Op Loc := do
  match a with
  | .scr r o => touch t r o; return .scr r o
  | .glob va =>
    let (s', x) := translateOp (← get) t.op t.tile t.launch.pasid.toNat va write
    set s'
    match x with
    | none => throw (.trap .translation 0)
    | some (pa, c) => return .glob pa c

/-- Where a read-modify-write goes: its page must be readable and writable (R72). -/
def resolveRmw (t : Thread) (a : Addr) : Op Loc := do
  let _ ← resolve t a false
  resolve t a true

/-- The pieces of an access, each within one aligned 8-byte word (R269). -/
def pieces : Nat → Nat → Nat → List (Nat × Nat)
  | 0, _, _ => []
  | f + 1, a, n => if n = 0 then [] else
      let k := min n (8 - a % 8)
      (a, k) :: pieces f (a + k) (n - k)
def Addr.low : Addr → Nat
  | .glob a => a
  | .scr _ o => o
def addrPieces (a : Addr) (n : Nat) : List (Addr × Nat) :=
  (pieces n a.low n).map fun p => (a.add (p.1 - a.low), p.2)

/-! ## A sequencer's own writes (R204, R270) -/

/-- The place of an entry in program order. -/
def QEntry.ord : QEntry → Nat
  | .st x => x.ord
  | .atom x => x.ord
  | .flush _ o _ _ _ => o
/-- The place of an entry in its queue (R274, R287). -/
def QEntry.place : QEntry → Nat
  | .st x => x.ord
  | .atom x => x.ord
  | .flush _ _ p _ _ => p
def QEntry.isFlush : QEntry → Bool
  | .flush _ _ _ _ _ => true
  | _ => false

/-- Bytes of an atomic. -/
def Atomic.bytes (a : Atomic) : Nat := if a.wide then 8 else 4

def queued (t : Thread) : List QEntry := t.queues.toList.flatten

def SItem.ord : SItem → Nat
  | .st x => x.ord
  | .atom x => x.ord
def SItem.loc : SItem → Loc
  | .st x => x.loc
  | .atom x => x.loc
def SItem.bytes : SItem → Nat
  | .st x => x.data.length
  | .atom x => x.bytes
/-- Whether an item of the store buffer acts on the scratchpad. -/
def SItem.isScr (x : SItem) : Bool :=
  match x.loc with
  | .scr _ _ => true
  | .glob _ _ => false

/-- The stores of a sequencer that have not performed: those queued and those of the block. -/
def ownStores (t : Thread) : List Store :=
  (queued t).filterMap (fun | .st x => some x | _ => none) ++
    t.blk.stores.filterMap (fun | .st x => some x | _ => none)

/-- The byte a store writes at a location, if it does. -/
def storeByte (x : Store) (l : Loc) (i : Nat) : Option Byte :=
  match x.loc, l with
  | .glob p c, .glob q d => if c = d && p ≤ q + i then x.data[q + i - p]? else none
  | .scr r o, .scr r' o' => if r = r' && o ≤ o' + i then x.data[o' + i - o]? else none
  | _, _ => none

/-- The latest of the stores to a byte, in program order; of one scatter's lanes, which share a place, the last (R277). -/
def latestStore (xs : List Store) (l : Loc) (i : Nat) : Option Byte :=
  (xs.foldl (fun (best : Option (Nat × Byte)) x =>
    match storeByte x l i, best with
    | some b, some (o, c) => if o ≤ x.ord then some (x.ord, b) else some (o, c)
    | some b, none => some (x.ord, b)
    | none, _ => best) none).map (·.2)

/-- Whether two accesses touch the same byte. -/
def locMeets (a : Loc) (n : Nat) (b : Loc) (m : Nat) : Bool :=
  match a, b with
  | .glob p c, .glob q d => c = d && p < q + m && q < p + n
  | .scr r o, .scr r' o' => r = r' && o < o' + m && o' < o + n
  | _, _ => false

/-! ## Barriers (R284 to R286) -/

def colIn (mask : BitVec 8) (c : Fin 8) : Bool := mask.getLsbD c.val

/-- The colour of an atomic, and whether it returns a value (R275, R281). -/
def atomicCol : Instr → Option (Fin 8 × Bool)
  | .atAdd x | .atMin x | .atMax x | .atAnd x | .atOr x | .atXor x => some (x.col, false)
  | .atXchg _ x => some (x.col, true)
  | .atCas _ _ _ _ _ c => some (c, true)
  | .atFadd _ _ _ _ c => some (c, true)
  | _ => none

/-- The colour under which a gated operation writes: an atomic's own; 0 for `take` (R348) and for a drain into global
memory (R256). -/
def gatedCol (g : Gated) : Option (Fin 8) :=
  match g.instr with
  | .take _ _ => some 0
  | .mDrain _ a _ _ _ _ => if hScr g.regs.h[a] then none else some 0
  | i => (atomicCol i).map (·.1)
/-- Whether a gated operation holds its colour's queue: it returns a value, or drains. -/
def gatedHolds (g : Gated) : Bool := (gatedCol g).isSome && (atomicCol g.instr).all (·.2)
/-- Whether a gated operation is a load (R273). -/
def gatedLoads (g : Gated) : Bool :=
  match g.instr with
  | .waitA _ _ _ _ => true
  | _ => false

/-- The global tensor that a queued matrix command drains into (R256). -/
def drainsTo (c : MCmd) : Option HRec :=
  match c.instr with
  | .mDrain _ a _ _ _ _ => if hScr c.regs.h[a] then none else some c.regs.h[a]
  | _ => none

/-- Whether everything a barrier waits for has performed (R284, R285). At scope .seq a buffered write has (R272). -/
def barrierMet (s : State) (t : Thread) (b : Barrier) : Bool :=
  ((List.range 8).all fun c => !b.mask.getLsbD c
      || (t.queues.getD c []).all fun e => b.ord < e.ord || (b.scope = .seq && !e.isFlush))
    && (t.waiting.all fun a => !colIn b.mask a.col || b.ord < a.ord)
    && (t.issue.all fun g => b.ord < g.ord || ((gatedCol g).all (fun c => !colIn b.mask c) && !(b.mark && gatedLoads g)))
    && (t.mq.all fun c => b.ord < c.ord || (drainsTo c).isNone || !colIn b.mask 0)
    && (s.tiles.all fun e => e.2.uol.all fun u =>
        !colIn b.mask u.2.col || u.2.from_.all fun x => x.1 ≠ t.key || b.ord < x.2)
    && (!b.mark || t.regs.slots.toList.all fun x => x.state ≠ .pending || b.ord < x.ord)

def blockBarriers (t : Thread) : List Barrier :=
  t.blk.pend.filterMap fun | .barrier m sc mk o => some ⟨m, sc, mk, o⟩ | _ => none

/-- Whether a load of the sequencer may perform now (R285, R286). -/
def loadsGo (s : State) (t : Thread) : Bool := (t.barriers ++ blockBarriers t).all (barrierMet s t)

/-! ## Loads (R204, R273) -/

/-- Whether a page of a PASID is a frame under a policy. -/
def pageIs (s : State) (pasid page frame : Nat) (cached : Bool) : Bool :=
  match walk s pasid (page * 2 ^ 16) with
  | .leaf _ large e => leafPa large e (page * 2 ^ 16) = frame && (bits e 7 6 = 0) = cached
  | _ => false

/-- Whether global bytes may be among those of a tensor: judged by page. -/
def handleOnPage (s : State) (pasid : Nat) (h : HRec) (pa : Nat) (cached : Bool) : Bool :=
  let lo := ((hBase h : Int) + (handleSpan h).1).toNat / 2 ^ 16
  let n := ((hBase h : Int) + (handleSpan h).2).toNat / 2 ^ 16 + 1 - lo
  !hScr h && (4096 < n || (List.range n).any fun i => pageIs s pasid (lo + i) (pa / 2 ^ 16 * 2 ^ 16) cached)

/-- Whether an older drain of the sequencer may write bytes of a location (R256, R270). -/
def behindDrain (s : State) (t : Thread) (l : Loc) (ord : Nat) : Bool :=
  match l with
  | .scr _ _ => false
  | .glob pa ca => t.mq.any fun c => c.ord < ord && (drainsTo c).any fun h => handleOnPage s t.launch.pasid.toNat h pa ca

/-- A load waits for its own sequencer's older atomics of its bytes, which have not performed (R270, R275), and for an
older landing-slot load of the same bytes (R273). -/
def loadWaits (t : Thread) (l : Loc) (n ord : Nat) : Option Need :=
  let older (a : Atomic) : Bool := a.ord < ord && locMeets a.loc a.bytes l n
  if t.waiting.any older || (queued t).any (fun | .atom a => older a | _ => false) then some .queues
  else ((List.finRange 32).find? fun k =>
    let x := t.regs.slots[k]
    x.state = .pending && x.ord < ord && x.pieces.any fun p => locMeets p.loc p.len l n).map .slot

/-- The line requests of a load's pieces (R437): those whose bytes the sequencer's own older stores give need none. A
cached line is fetched into the L1. -/
def loadReqs (s : State) (t : Thread) (o : PortOwner) (ord : Nat) (ls : List (Loc × Nat)) : List PortReq :=
  let older := (ownStores t).filter (·.ord < ord)
  ls.filterMap fun l => match l.1 with
    | .glob pa c =>
      if (List.range l.2).all fun i => (latestStore older l.1 i).isSome then none
      else some (portReq s t.op (lineOf pa) o c)
    | .scr _ _ => none

/-- The bytes of a piece as another agent's writes leave them, and as the sequencer's own writes cover them. -/
def loadLoc (t : Thread) (l : Loc) (n : Nat) : Op (List Byte) := do
  let base ← (match l with
    | .glob pa c => do
      let (s', bs) := opRead (← get) t.op t.tile pa n c
      set s'
      pure bs
    | .scr r o => do
      let reg := viewRegion (← get) t r
      pure ((List.range n).map fun i => regionByte reg (o + i)) : Op (List Byte))
  return base.zipIdx.map fun p => (latestStore (ownStores t) l p.2).getD p.1

/-- A load of `n` bytes at an address: barriers, translation, fill, the port, forwarding, and an uncorrectable
error. -/
def loadAddr (t : Thread) (a : Addr) (n : Nat) : Op (List Byte) := do
  let s ← get
  if !loadsGo s t then throw (.wait .queues)
  let ls ← (addrPieces a n).mapM fun p => do
    let l ← resolve t p.1 false
    match loadWaits t l p.2 t.ord with
    | some n => throw (.wait n)
    | none => if behindDrain (← get) t l t.ord then throw (.wait .other) else return (l, p.2)
  askLines t.tile (loadReqs (← get) t (.unit t.key) t.ord ls)
  let bs ← ls.mapM fun l => loadLoc t l.1 l.2
  if ← hwStrike (.load t.key) then throw .rerun
  return bs.flatten

/-! ## Stores (R42, R205) -/

/-- Counts store bytes toward the declared limit (R42). -/
def chargeStores (t : Thread) (n : Nat) : Op Thread := do
  let s ← get
  let total := t.blk.storeBytes + n
  match declared s t with
  | some x => if x.stores.toNat < ceilDiv total 32 then throw (.trap .illegal 0)
  | none => throw (.trap .illegal 0)
  return { t with blk := { t.blk with storeBytes := total } }

/-- The items of a store's bytes, one for each aligned word. -/
def storeItems (t : Thread) (a : Addr) (data : List Byte) (col : Fin 8) : Op (List SItem) :=
  (addrPieces a data.length).mapM fun p => do
    let l ← resolve t p.1 true
    return SItem.st { loc := l, data := (data.drop (p.1.low - a.low)).take p.2, col := col, ord := t.ord }

/-- Buffers items at the sequencer's place in program order. -/
def putItems (t : Thread) (items : List SItem) : Thread :=
  { t with blk := { t.blk with stores := t.blk.stores ++ items }, ord := t.ord + 1 }

/-- Buffers the bytes of a store. -/
def bufferStore (t : Thread) (a : Addr) (data : List Byte) (col : Fin 8) : Op Thread := do
  return putItems t (← storeItems t a data col)

end Sys2Proof.Machine
end

