-- ==== Sys2Proof/Machine/Operands.lean ====
section
/-! DEFINITION. Operand forms: registers, latches, pairs, bases and walker ports as sources; register and port
results with their times, tags and the data signature (R16 to R21, R33 to R36, R165 to R181, R187 to R189, R217,
R319). -/

namespace Sys2Proof.Machine

/-- An operation key (R26, R189): class and opcode, then the type. -/
def opk (key ty : Nat) : Tag := BitVec.ofNat 32 (key * 16 + ty)

/-! ## Sources -/

def readS (t : Thread) : SSrc → Except Stop (W32 × Tag)
  | .reg n => .ok (t.regs.s[n], t.regs.sTag[n])
  | .lat b => match t.blk.latS[b] with
    | some x => .ok x
    | none => illegal

/-- The registers of a pair, low first (R19). -/
def pairLo (p : Fin 32) : Fin 64 := ⟨2 * p.val, by omega⟩
def pairHi (p : Fin 32) : Fin 64 := ⟨2 * p.val + 1, by omega⟩
/-- The 64-bit value of a pair (R167, R199). -/
def pairVal (r : Regs) (p : Fin 32) : W64 := r.s[pairHi p] ++ r.s[pairLo p]
/-- The lineage of a pair (R167). -/
def pairTag (r : Regs) (p : Fin 32) : Tag := mix r.sTag[pairLo p] r.sTag[pairHi p]
/-- A pair whose even register a single field names (R279); an odd field is refused by the decoder. -/
def evenPair (n : Fin 64) : Fin 32 := ⟨n.val / 2, by omega⟩

/-- The sign-extended immediate of format I (R28). -/
def sext24 (x : BitVec 24) : Int := sgn 24 x.toNat
def sext24W (x : BitVec 24) : W32 := BitVec.ofNat 32 (wrapN 32 (sext24 x))

/-- The lineage of a base (R167). -/
def baseTag (r : Regs) : Base → Tag
  | .pair p => pairTag r p
  | .handle h => r.hTag[h]

/-- The address of base + immediate, `bytes` long and a multiple of `align` (R203), and its memory tag (R174). -/
def baseAddr (ot : OpTile) (r : Regs) (b : Base) (imm : Int) (bytes align : Nat) : Except Stop (Addr × Tag) := do
  match b with
  | .pair p =>
    let a := wrapN 64 ((pairVal r p).toNat + imm)
    if a % align ≠ 0 then illegal
    else
      let x ← valueAddr ot a bytes
      match x with
      | .scr n _ => return (x, (regionOf ot n).tag)
      | .glob _ => return (x, 0)
  | .handle h =>
    let rec_ := r.h[h]
    if hMalformed rec_ || hEmpty rec_ then illegal
    else if !hScr rec_ && ((hBase rec_ : Int) + imm) % align ≠ 0 then illegal
    else
      let x ← handleAddr ot rec_ imm bytes
      if x.low % align ≠ 0 then illegal
      else match x with
      | .scr n _ => return (x, (regionOf ot n).tag)
      | .glob _ => return (x, hTag rec_)

/-! ## Walkers (R176 to R181) -/

def walkerOffset (w : Walker) : Int :=
  (List.range (w.levels.val + 1)).foldl
    (fun a j => a + (w.index.getD j 0).toNat * sgn 24 (w.stride.getD j 0).toNat) w.origin.toNat

def stepIndex (w : Walker) (j : Nat) : Walker :=
  if w.index.getD j 0 = w.count.getD j 0 then
    let ix := w.index.setIfInBounds j 0
    { w with index := if j < w.levels.val then ix.setIfInBounds (j + 1) (ix.getD (j + 1) 0 + 1) else ix }
  else w

/-- The walker after one pop or write; the walk is cyclic (R180). -/
def walkerAdvance (w : Walker) : Walker :=
  (List.range (w.levels.val + 1)).foldl stepIndex { w with index := w.index.setIfInBounds 0 (w.index.getD 0 0 + 1) }

def walkerSteps : Nat → Walker → Walker
  | 0, w => w
  | n + 1, w => walkerSteps n (walkerAdvance w)

/-- The vector a walker points at: its address in its region. -/
def walkerAddr (ot : OpTile) (w : Walker) : Except Stop Addr := scrAddr ot w.region.val (walkerOffset w) 1024

/-- A walker named as an operand: configured, and not busy with a matrix command (R168, R181). -/
def useWalker (r : Regs) (n : Fin 6) : Except Stop Walker :=
  let w := r.w[n]
  if !w.configured then illegal else if w.busy then .error (.wait .other) else .ok w

def setWalker (t : Thread) (n : Fin 6) (w : Walker) : Thread :=
  { t with regs := { t.regs with w := t.regs.w.set n w } }

/-- A vector source (R215): a register, a latch, or a pop of a read port. -/
def readV (t : Thread) (x : VSrc) : Op (Thread × VReg × Tag) := do
  match x with
  | .reg n => return (t, t.v[n], t.vTag[n])
  | .lat b => match t.blk.latV[b] with
    | some (v, g) => return (t, v, g)
    | none => throw (.trap .illegal 0)
  | .port p =>
    let n : Fin 6 := ⟨p.val, by omega⟩
    let w ← liftM (useWalker t.regs n)
    let ot := viewOf (← get) t
    let a ← liftM (walkerAddr ot w)
    let bs ← loadAddr t a 1024
    return (setWalker t n (walkerAdvance w), BitVec.ofNat 8192 (leOf bs),
      mix w.lineage (regionOf ot w.region.val).tag)

/-- The read ports a matrix command names, each with the pops it makes through it (R181, R255, R257): `k` steps of an
operand pair. -/
def operandPorts (a b : MSrc) (steps : Nat) : List (Fin 4 × Nat) :=
  match a, b with
  | .port p, .port q => if p = q then [(p, 5 * steps)] else [(p, 2 * steps), (q, 3 * steps)]
  | .port p, .handle _ => [(p, 2 * steps)]
  | .handle _, .port q => [(q, 3 * steps)]
  | .handle _, .handle _ => []

/-- The elements of K that one array step consumes (R240). -/
def stepSize (tyA tyB : Ty) : Nat :=
  if tyA = .e2m1 then 32 else if tyB.width = 16 then 8 else 16

def matrixPorts : Instr → List (Fin 4 × Nat)
  | .mMma x => operandPorts x.a x.b (ceilDiv x.modi.toNat (stepSize x.tyA x.tyB))
  | .mCellp x => operandPorts x.a x.b (ceilDiv (x.modi.toNat % 2 ^ 14) (stepSize x.tyA x.tyB))
  | .mFill _ (.port p) _ => [(p, 96)]
  | .mScale _ (.port p) _ => [(p, 1)]
  | _ => []

/-- A read port as a walker number. -/
def portWalker (p : Fin 4) : Fin 6 := ⟨p.val, by omega⟩

/-! ## The vector operands of an operation (R166, R180) -/

/-- The vector sources an operation names. -/
def vSrcs : Instr → List VSrc
  | .ldVg _ _ b _ _ | .stV _ _ b _ => [b]
  | .stVs _ b c _ _ _ => [b, c]
  | .vAdd x | .vSub x | .vMul x | .vMin x | .vMax x | .vAbd x | .vMulh x | .vScl x _ _ | .vSel x _ | .vAnd x | .vOr x
  | .vXor x | .vShl x | .vShr x | .vSra x | .vPerm x | .vShuf x _ | .vSlide x _ | .vPack x => [x.a, x.b]
  | .vFma x | .vFms x | .vMadd x | .vDot x => [x.a, x.b, x.c]
  | .vAbs x | .vNeg x | .vRcp x | .vRsq x | .vSqrt x | .vExp2 x | .vLog2 x | .vCvt x _ _ | .vRnd x | .vNot x | .vPopc x
  | .vClz x | .vBcast x _ | .vBrev x _ | .vMov x | .vUnpack x _ _ => [x.a]
  | .vRedAdd x | .vRedMax x | .vRedMin x | .vScan x => [x.a]
  | .vCmp _ _ a b _ _ => [a, b]
  | .vClass _ a _ _ _ | .vGet _ a _ _ => [a]
  | _ => []

/-- The vector destination an operation names. -/
def vDsts : Instr → List VDst
  | .commit d _ => [d]
  | .vAdd x | .vSub x | .vMul x | .vMin x | .vMax x | .vAbd x | .vMulh x | .vScl x _ _ | .vSel x _ | .vAnd x | .vOr x
  | .vXor x | .vShl x | .vShr x | .vSra x | .vPerm x | .vShuf x _ | .vSlide x _ | .vPack x => [x.d]
  | .vFma x | .vFms x | .vMadd x | .vDot x => [x.d]
  | .vAbs x | .vNeg x | .vRcp x | .vRsq x | .vSqrt x | .vExp2 x | .vLog2 x | .vCvt x _ _ | .vRnd x | .vNot x | .vPopc x
  | .vClz x | .vBcast x _ | .vBrev x _ | .vMov x | .vUnpack x _ _ => [x.d]
  | .vRedAdd x | .vRedMax x | .vRedMin x | .vScan x => [x.d]
  | .vBcastScalar _ d _ _ _ | .vIota _ d _ _ _ => [d]
  | .vIns d _ _ _ => [.reg d]
  | _ => []

/-! ## What queued matrix commands still read or write (R270, R273) -/

def srcHandle : MSrc → List (Fin 32)
  | .handle h => [h]
  | .port _ => []

/-- The handle registers a matrix command names. -/
def matrixHandles : Instr → List (Fin 32)
  | .mMma x | .mCellp x => srcHandle x.a ++ srcHandle x.b
  | .mMmas _ a b _ _ _ _ _ _ => [a, Fin.ofNat 32 (a.val + 1), b, Fin.ofNat 32 (b.val + 1)]
  | .mFill _ a _ | .mScale _ a _ => srcHandle a
  | .mDrain _ a _ _ _ _ => [a]
  | _ => []

/-- Whether bytes of a region may be among those a queued command reads or writes. -/
def commandTouchesScr (c : MCmd) (region off n : Nat) : Bool :=
  ((matrixPorts c.instr).any fun p => c.regs.w[portWalker p.1].region.val = region)
    || (matrixHandles c.instr).any fun k =>
      let h := c.regs.h[k]
      hScr h && hRegion h = region
        && (hOffset h : Int) + (handleSpan h).1 < (off + n : Nat) && (off : Int) < hOffset h + (handleSpan h).2

/-- Whether global bytes may be among those a queued command reads or writes: judged by page. -/
def commandTouchesGlob (s : State) (pasid : Nat) (c : MCmd) (pa : Nat) (cached : Bool) : Bool :=
  (matrixHandles c.instr).any fun k => handleOnPage s pasid c.regs.h[k] pa cached

/-- Whether a write of a sequencer waits for its own older matrix commands (R270, R273). -/
def behindCommands (s : State) (t : Thread) (ord : Nat) (l : Loc) (n : Nat) : Bool :=
  t.mq.any fun c => c.ord < ord && match l with
    | .scr r o => commandTouchesScr c r o n
    | .glob pa ca => commandTouchesGlob s t.launch.pasid.toNat c pa ca

/-! ## Results -/

/-- Adds a contribution to the data signature (R319). -/
def addSig (t : Thread) (g : Tag) : Thread := { t with blk := { t.blk with sig := t.blk.sig + g } }

/-- A write that reaches its register; s0 discards it (R167), the first write of a v register is journalled (R324). -/
def applyDest (t : Thread) (d : Dest) (g : Tag) : Thread :=
  match d with
  | .s n x => if n = 0 then t else
      { t with regs := { t.regs with s := t.regs.s.set n x, sTag := t.regs.sTag.set n g } }
  | .h n x => { t with regs := { t.regs with h := t.regs.h.set n x, hTag := t.regs.hTag.set n g } }
  | .q n x m =>
    { t with regs := { t.regs with q := t.regs.q.set n ((t.regs.q[n] &&& ~~~m) ||| (x &&& m)), qTag := t.regs.qTag.set n g } }
  | .c n x => { t with regs := { t.regs with c := t.regs.c.set n x, cTag := t.regs.cTag.set n g } }
  | .t n x => { t with regs := { t.regs with t := t.regs.t.set n x, tTag := t.regs.tTag.set n g } }
  | .v n x m =>
    let j := if t.blk.journal.any (fun e => e.1 = n) then t.blk.journal
      else (n, t.v[n], t.vTag[n]) :: t.blk.journal
    { t with v := t.v.set n ((t.v[n] &&& ~~~m) ||| (x &&& m)), vTag := t.vTag.set n g, blk := { t.blk with journal := j } }

/-- The tag a register has after a result of tag `g` (R167): that of s0 stays 0. -/
def newTag (d : Dest) (g : Tag) : Tag :=
  match d with
  | .s n _ => if n = 0 then 0 else g
  | _ => g

/-- A register result: at once in the Jexcy form, `reg` units later in native code (R35, R45). The register's new tag
counts toward the data signature (R319). DEDUCED (log entry 50): that of a discarded write to s0, or to s0 as the low
half of pair 0, is 0 and adds nothing. -/
def putDest (t : Thread) (reg : Nat) (d : Dest) (g : Tag) : Thread :=
  let t := addSig t (newTag d g)
  match t.form with
  | .jexcy => applyDest t d g
  | .native => { t with blk := { t.blk with writes := t.blk.writes ++ [⟨t.blk.unit + reg, d, g⟩] } }

/-- A result on its way to a latch group, in native code (R33). -/
def putLatch (t : Thread) (lat : Nat) (group : Fin 2) (v : VReg) (g : Tag) : Thread :=
  match t.form with
  | .jexcy => t
  | .native => { t with blk := { t.blk with latchDue := t.blk.latchDue ++ [⟨t.blk.unit + lat, group, v, g⟩] } }

/-- A class 1 result to a single s register, or with nw = 1 to its latch only (R21, R33). -/
def putS (t : Thread) (lat reg : Nat) (nw : Bool) (d : Fin 64) (x : W32) (g : Tag) : Thread :=
  let t := putLatch t lat 0 (x.setWidth 8192) g
  if nw then addSig t g else putDest t reg (.s d x) g

/-- A pair result: both registers take the tag, and each counts (R189); of pair 0 only s1 is written (R188). -/
def putPair (t : Thread) (reg : Nat) (d : Fin 32) (x : W64) (g : Tag) : Thread :=
  putDest (putDest t reg (.s (pairLo d) (x.setWidth 32)) g) reg (.s (pairHi d) (x.extractLsb' 32 32)) g

/-- The contribution of a store (R319). -/
def storeSig (t : Thread) (key : Tag) (data addr : Tag) (off : W32) : Thread :=
  addSig t (fold key data addr off)

/-- A v register named as a result counts toward the declared limit (R42). In a block without a seal word it is illegal
(DESIGN CHOICE, log entry 77). -/
def nameV (t : Thread) (n : Fin 96) : Op Thread := do
  if t.blk.vNamed.contains n then return t
  let s ← get
  match declared s t with
  | some x => if x.vectors.toNat < t.blk.vNamed.length + 1 then throw (.trap .illegal 0)
  | none => throw (.trap .illegal 0)
  return { t with blk := { t.blk with vNamed := n :: t.blk.vNamed } }

/-- The bytes of the active lanes of a write port, as stores of the region (R180): `act i` is lane `i` of `e` bytes. -/
def portStores (t : Thread) (a : Addr) (x : VReg) (e : Nat) (act : Nat → Bool) (n : Nat) : Op Thread :=
  ((List.range n).filter act).foldlM (fun t i => bufferStore t (a.add (i * e)) (bytesFrom x.toNat (i * e) e) 0) t

/-- The bits of the active lanes, `n` of `w` bits. -/
def laneMask (w n : Nat) (act : Nat → Bool) : VReg :=
  BitVec.ofNat 8192 ((List.range n).foldr (fun i m => m * 2 ^ w + if act i then 2 ^ w - 1 else 0) 0)

/-- A vector result (R214, R215): a register with its latch, nw = 1 to the latch only, or a write port. `e` and `n`
are the lane bytes and count of the destination, `act` its active lanes; `x` holds 0 in the others. -/
def putV (t : Thread) (lat reg : Nat) (nw : Bool) (d : VDst) (x : VReg) (g key : Tag) (e n : Nat)
    (act : Nat → Bool) : Op Thread := do
  match d with
  | .reg r =>
    let m := laneMask (8 * e) n act
    if nw then return addSig (putLatch t lat 1 x g) g
    let t := if lat = 0 then t else putLatch t lat 1 ((t.v[r] &&& ~~~m) ||| x) g
    return putDest (← nameV t r) reg (.v r x m) g
  | .port p =>
    let k : Fin 6 := ⟨4 + p.val, by omega⟩
    let w ← liftM (useWalker t.regs k)
    let a ← liftM (walkerAddr (viewOf (← get) t) w)
    let t ← chargeStores t 1024
    let t ← portStores t a x e act n
    return setWalker (storeSig t key g w.lineage 0) k (walkerAdvance w)

/-- The mask that governs lanes (R24): select 0 leaves every lane active. -/
def maskActive (r : Regs) (m : Fin 16) (i : Nat) : Bool := m = 0 || r.q[m].getLsbD i

end Sys2Proof.Machine
end

