-- ==== Sys2Proof/Machine/Control.lean ====
section
/-! DEFINITION. Class 0 operations that are not gated: conditions, targets, transfers, loops, `fmt` and the system
registers (files 06, 07 and 11). -/

namespace Sys2Proof.Machine

/-- `nop` (R16): it does nothing in any slot. -/
def execNop (s : State) : Host.Outcome State Fault Refusal := .next s

/-! ## Conditions -/

/-- The relation of a condition code on 32-bit values (R25, R201). -/
def ccHolds (cc : Cc) (a b : W32) : Bool :=
  match cc with
  | .eq => a = b
  | .ne => a ≠ b
  | .lt => a.toInt < b.toInt
  | .ge => b.toInt ≤ a.toInt
  | .ltb => a.toNat < b.toNat
  | .geb => b.toNat ≤ a.toNat

/-- `cmp` (R201). -/
def execCmp (cc : Cc) (d : Fin 4) (a b : SSrc) (s : State) : Host.Outcome State Fault Refusal :=
  runPure s fun t => do
    let (x, ta) ← readS t a
    let (y, tb) ← readS t b
    return putDest t 1 (.c d (ccHolds cc x y)) (fold (opk 0x004 0) ta tb 0)

/-- `cmpi` (R201). -/
def execCmpi (cc : Cc) (d : Fin 4) (a : SSrc) (imm : W32) (s : State) : Host.Outcome State Fault Refusal :=
  runPure s fun t => do
    let (x, ta) ← readS t a
    return putDest t 1 (.c d (ccHolds cc x imm)) (fold (opk 0x005 0) ta imm 0)

/-- The lanes a type gives a mask operation: type 0 and type 13 give 1,024 (R238, R298). -/
def maskLanes (ty : Ty) : Nat := if ty = .e2m1 then 1024 else ty.elems

/-- `v.any` (R298). -/
def execVAny (d : Fin 4) (q : Fin 16) (ty : Ty) (s : State) : Host.Outcome State Fault Refusal :=
  runPure s fun t =>
    .ok (putDest t 1 (.c d (t.regs.q[q].toNat % 2 ^ maskLanes ty ≠ 0)) (fold (opk 0x006 (tyTo ty)) t.regs.qTag[q] 0 0))

/-- `v.all` (R298). -/
def execVAll (d : Fin 4) (q : Fin 16) (ty : Ty) (s : State) : Host.Outcome State Fault Refusal :=
  runPure s fun t =>
    .ok (putDest t 1 (.c d (t.regs.q[q].toNat % 2 ^ maskLanes ty = 2 ^ maskLanes ty - 1))
      (fold (opk 0x007 (tyTo ty)) t.regs.qTag[q] 0 0))

/-- `c.op` (R298): bit 2·cA + cB of the truth table. -/
def execCOp (d a b : Fin 4) (tt : BitVec 4) (s : State) : Host.Outcome State Fault Refusal :=
  runPure s fun t =>
    .ok (putDest t 1 (.c d (tt.getLsbD (2 * ofBool t.regs.c[a] + ofBool t.regs.c[b])))
      (fold (opk 0x008 0) t.regs.cTag[a] t.regs.cTag[b] 0))

/-! ## Targets and transfers -/

/-- The address of a unit `off` units from the running one (R30). -/
def unitAt (t : Thread) (off : W32) : W64 :=
  BitVec.ofNat 64 (wrapN 64 ((t.pc.toNat : Int) + off.toInt * unitBytes t.form))

/-- `prep` (R296). -/
def execPrep (n : Fin 4) (off : W32) (s : State) : Host.Outcome State Fault Refusal :=
  runPure s fun t => .ok (putDest t 2 (.t n (unitAt t off)) (fold (opk 0x002 0) 0 off 0))

/-- `prepr` (R296): the pair must name an aligned unit of a code section of the running form. -/
def execPrepr (n : Fin 4) (a : Fin 32) (s : State) : Host.Outcome State Fault Refusal :=
  runPure s fun t =>
    let x := pairVal t.regs a
    if bit x.toNat 63 || x.toNat % unitBytes t.form ≠ 0 || !s.codeHas t x then illegal
    else .ok (putDest t 2 (.t n x) (fold (opk 0x003 0) (pairTag t.regs a) 0 0))

/-- A transfer stands two units before its block's seal, and is the block's only one (R294). -/
def transferPlace (s : State) (t : Thread) : Bool :=
  sealWordAt s t 3 t.pc.toNat = some (t.pc.toNat + 2 * unitBytes t.form) && t.blk.transfer.isNone

def setTransfer (t : Thread) (x : Transfer) : Thread := { t with blk := { t.blk with transfer := some x } }

/-- A taken transfer to a target register (R295). -/
def takeTo (s : State) (t : Thread) (n : Fin 4) (f : W64 → Transfer) : Except Stop Thread :=
  if s.codeHas t t.regs.t[n] then .ok (setTransfer t (f t.regs.t[n])) else illegal

/-- `br` (R296): a branch that falls through checks nothing. -/
def execBr (n c : Fin 4) (inv : Bool) (s : State) : Host.Outcome State Fault Refusal :=
  runPure s fun t =>
    if !transferPlace s t then illegal
    else if (t.regs.c[c] != inv) then takeTo s t n .jump else .ok t

/-- `jmp` (R296). -/
def execJmp (n : Fin 4) (s : State) : Host.Outcome State Fault Refusal :=
  runPure s fun t => if !transferPlace s t then illegal else takeTo s t n .jump

/-- `call` (R296, R300). -/
def execCall (n : Fin 4) (s : State) : Host.Outcome State Fault Refusal :=
  runPure s fun t =>
    if !transferPlace s t then illegal
    else if 16 ≤ t.regs.calls.length then .error (.trap .callOverflow 0)
    else takeTo s t n .call

/-- `ret` (R296, R300): not at depth 0, and not with a loop of the current depth open. -/
def execRet (s : State) : Host.Outcome State Fault Refusal :=
  runPure s fun t =>
    if !transferPlace s t || t.regs.calls.isEmpty
        || t.regs.loops.head?.any (fun e => e.depth = t.regs.calls.length) then illegal
    else match t.regs.calls with
      | [] => illegal
      | a :: _ => if s.codeHas t a then .ok (setTransfer t .ret) else illegal

/-- The target a jump table gives (R301, R302). -/
def jtabTarget (s : State) (t : Thread) (i : Nat) (off : W32) : Except Stop W64 :=
  let base := t.launch.constBase.toNat
  let stop := base + t.launch.constLen
  let tab := base + off.toNat
  let word (k : Nat) : Nat := ((peekWord s t.launch.pasid.toNat (tab + 8 * k)).getD 0).toNat
  if off.toNat % 8 ≠ 0 || stop < tab + 16 then illegal
  else
    let n := word 0 % 2 ^ 16
    if stop < tab + 8 * (n + 2) then illegal
    else
      let e := if i < n then word (2 + i) else word 1
      let u := match t.form with
        | .jexcy => e % 2 ^ 32
        | .native => e / 2 ^ 32
      if u = 0xFFFFFFFF then illegal
      else match s.objOf t with
        | none => illegal
        | some o =>
          let sec := match t.form with
            | .jexcy => o.jexBase
            | .native => o.natBase
          let a := BitVec.ofNat 64 (sec + u * unitBytes t.form)
          if s.codeHas t a then .ok a else illegal

/-- `jtab` (R296, R302). -/
def execJtab (a : Fin 64) (off : W32) (s : State) : Host.Outcome State Fault Refusal :=
  runOp s fun t => do
    if !transferPlace s t then throw (.trap .illegal 0)
    let x ← liftM (jtabTarget s t t.regs.s[a].toNat off)
    if ← hwStrike (.table t.key) then throw .rerun
    return setTransfer t (.jump x)

/-! ## Loops -/

/-- A loop-opening operation (R305, R308): not in a prologue; the seventh level overflows. -/
def openLoop (t : Thread) (n : W32) (stages : Fin 8) : Except Stop Thread :=
  if t.regs.loops.head?.any (·.armed) then illegal
  else if n ≠ 0 && 6 ≤ t.regs.loops.length then .error (.trap .loopOverflow 0)
  else .ok { t with blk := { t.blk with opened := some (n, stages) } }

/-- `loop` (R305). -/
def execLoop (a : SSrc) (s : State) : Host.Outcome State Fault Refusal :=
  runPure s fun t => do
    let (n, _) ← readS t a
    openLoop t n 0

/-- `loopi` (R305). -/
def execLoopi (n : W32) (s : State) : Host.Outcome State Fault Refusal := runPure s fun t => openLoop t n 0

/-- `lpipe` (R305): S − 1 stages are kept. -/
def execLpipe (a : SSrc) (stages : W32) (s : State) : Host.Outcome State Fault Refusal :=
  runPure s fun t => do
    let (n, _) ← readS t a
    if stages = 0 || 8 < stages.toNat then illegal else openLoop t n (Fin.ofNat 8 (stages.toNat - 1))

/-- The top loop entry, pushed at the current call depth (R307). -/
def topLoop (t : Thread) : Except Stop LoopEntry :=
  match t.regs.loops with
  | e :: _ => if e.depth = t.regs.calls.length then .ok e else illegal
  | [] => illegal

/-- `lbrk` (R307): a condition of 1 breaks at the seal. -/
def execLbrk (c : Fin 4) (s : State) : Host.Outcome State Fault Refusal :=
  runPure s fun t => do
    let e ← topLoop t
    if e.armed then illegal
    else return { t with blk := { t.blk with brk := t.blk.brk || t.regs.c[c] } }

def addPend (t : Thread) (p : Pend) : Thread := { t with blk := { t.blk with pend := t.blk.pend ++ [p] } }

/-- `lpset` (R307). -/
def execLpset (a : SSrc) (s : State) : Host.Outcome State Fault Refusal :=
  runPure s fun t => do
    let e ← topLoop t
    if e.armed then illegal
    else
      let (x, _) ← readS t a
      return addPend t (.lpset x)

/-- `lpget` (R307): the remaining count as it stood at the block's start; with nw = 1 the result is dropped and its
tag counts (R21, R187), for it enters no latch (R33). -/
def execLpget (d : Option (Fin 64)) (s : State) : Host.Outcome State Fault Refusal :=
  runPure s fun t => do
    let e ← topLoop t
    let g := fold (opk 0x01D 0) 0 0 0
    match d with
    | none => return addSig t g
    | some d => return putDest t 2 (.s d (BitVec.ofNat 32 (min e.remaining 0xFFFFFFFF))) g

/-! ## The format register and the system registers -/

/-- The first unit that uses a new `fmt` (R45, R171). -/
def fmtFrom (t : Thread) : Nat :=
  match t.form with
  | .native => t.blk.unit + 4
  | .jexcy => t.blk.unit + 5

def putFmt (t : Thread) (v : W32) : Except Stop Thread :=
  if 4 < v.toNat then illegal else .ok { t with blk := { t.blk with fmtDue := t.blk.fmtDue ++ [(fmtFrom t, v)] } }

/-- `fmt` (R170, R171). -/
def execFmt (a : SSrc) (s : State) : Host.Outcome State Fault Refusal :=
  runPure s fun t => do
    let (v, _) ← readS t a
    putFmt t v

/-- `fmti` (R170, R171). -/
def execFmti (v : W32) (s : State) : Host.Outcome State Fault Refusal := runPure s fun t => putFmt t v

/-- The value `sysr` returns (R208 to R212). -/
def sysValue (s : State) (t : Thread) (n : Nat) : W32 :=
  match n with
  | 0x000 => t.status.setWidth 32
  | 0x001 => t.regs.fmt
  | 0x002 => t.seqid
  | 0x003 => BitVec.ofNat 32 ((speedEntry s t.tile).toNat % 64)
  | 0x008 => s.time.setWidth 32
  | 0x009 => t.regs.dtimeh
  | 0x010 => t.launch.pasid.setWidth 32
  | 0x011 => t.launch.ctx.setWidth 32
  | 0x012 => t.launch.arg.setWidth 32
  | 0x013 => t.launch.arg.extractLsb' 32 32
  | 0x014 => t.launch.constBase.setWidth 32
  | 0x015 => t.launch.constBase.extractLsb' 32 32
  | 0x016 => t.launch.dataBase.setWidth 32
  | 0x017 => t.launch.dataBase.extractLsb' 32 32
  | 0x020 => if t.launch.test then t.finj else 0
  | _ => 0

/-- `sysr` (R207, R210, R211): interlocked; a read of DTIMEL captures the high half. -/
def execSysr (d : Fin 64) (n : BitVec 12) (s : State) : Host.Outcome State Fault Refusal :=
  runPure s fun t =>
    if (sysWritable n).isNone then illegal
    else
      let v := sysValue s t n.toNat
      let t := if n = 0x008 then { t with regs := { t.regs with dtimeh := s.time.extractLsb' 32 32 } } else t
      .ok (putDest t 1 (.s d v) (fold (opk 0x02C 0) 0 (n.setWidth 32) 0))

/-- `sysw` (R207, R211, R212): takes effect at the seal; FINJ needs the test permission. -/
def execSysw (n : BitVec 12) (a : SSrc) (s : State) : Host.Outcome State Fault Refusal :=
  runPure s fun t => do
    let (x, _) ← readS t a
    if sysWritable n ≠ some true || (n = 0x020 && !t.launch.test) then illegal
    else return addPend t (.sysw n x)

end Sys2Proof.Machine
end

