-- ==== Sys2Proof/Machine/Flags.lean ====
section
/-! DEFINITION. Number formats, the one rounding, overflow, and every sticky flag (file 05, R9, R10). -/

namespace Sys2Proof.Machine

/-- The sticky flags (R156). -/
def fNX : FlagSet := 1
def fUF : FlagSet := 2
def fOF : FlagSet := 4
def fDZ : FlagSet := 8
def fNV : FlagSet := 16
def fSA : FlagSet := 32
def noFlags : FlagSet := 0
def flagIf (b : Bool) (f : FlagSet) : FlagSet := if b then f else 0

/-- A decoded element: NaN, an infinity, or (−1)^neg · m · 2^e. -/
inductive FV where
  | nan
  | inf (neg : Bool)
  | fin (neg : Bool) (m : Nat) (e : Int)
  deriving DecidableEq, Repr

/-- A floating-point format (R139, R141): fraction bits, bias, the largest finite code, the code of +Inf if there is
one, and the canonical NaN if there is one. -/
structure FF where
  m : Nat
  bias : Int
  width : Nat
  top : Nat
  infCode : Option Nat
  nan : Option Nat
  deriving DecidableEq, Repr

def ffOf : Ty → Option FF
  | .f32 => some ⟨23, 127, 32, 0x7F7FFFFF, some 0x7F800000, some 0x7FC00000⟩
  | .f16 => some ⟨10, 15, 16, 0x7BFF, some 0x7C00, some 0x7E00⟩
  | .bf16 => some ⟨7, 127, 16, 0x7F7F, some 0x7F80, some 0x7FC0⟩
  | .e5m2 => some ⟨2, 15, 8, 0x7B, some 0x7C, some 0x7E⟩
  | .e4m3 => some ⟨3, 7, 8, 0x7E, none, some 0x7F⟩
  | .e2m1 => some ⟨1, 1, 4, 0x7, none, none⟩
  | _ => none

def ff32 : FF := ⟨23, 127, 32, 0x7F7FFFFF, some 0x7F800000, some 0x7FC00000⟩

/-- The exponent of the smallest unit of a format: that of its subnormals (R140). -/
def FF.qmin (f : FF) : Int := 1 - f.bias - f.m

/-- A code of a floating-point format (R140, R141). -/
def FF.decode (f : FF) (c : Nat) : FV :=
  let neg := bit c (f.width - 1)
  let a := c % 2 ^ (f.width - 1)
  if a ≤ f.top then
    if a < 2 ^ f.m then .fin neg a f.qmin
    else .fin neg (2 ^ f.m + a % 2 ^ f.m) (f.qmin + (a / 2 ^ f.m : Nat) - 1)
  else if f.infCode = some a then .inf neg else .nan

/-- The value of a DS8 code in units of 2^−6 (R144). -/
def ds8Term (sign : Bool) (k : Nat) : Int := if k = 7 then 0 else if sign then -(2 ^ (6 - k) : Nat) else (2 ^ (6 - k) : Nat)
def ds8Value (c : Nat) : Int := ds8Term (bit c 7) (bits c 6 4) + ds8Term (bit c 3) (bits c 2 0)

def fvOfInt (x : Int) (e : Int) : FV := .fin (x < 0) x.natAbs e

/-- The value of an element of a type (R139 to R146). -/
def decodeElem (ty : Ty) (c : Nat) : FV :=
  match ty with
  | .e8m0 => if c = 0xFF then .nan else .fin false 1 ((c : Int) - 127)
  | .ds8 => fvOfInt (ds8Value c) (-6)
  | .si8 | .si16 | .si32 | .si64 => fvOfInt (sgn ty.width c) 0
  | .ui8 | .ui16 | .ui32 | .none => .fin false c 0
  | _ => match ffOf ty with
    | some f => f.decode c
    | none => .nan

/-! ## Exact values -/

/-- A non-zero or zero exact value: (−1)^neg · x with m · 2^e ≤ x < (m + 1) · 2^e, x = m · 2^e unless `st`. -/
structure Ex where
  neg : Bool
  m : Nat
  e : Int
  st : Bool := false
  deriving DecidableEq, Repr

/-- The integer of a value at a smaller unit. -/
def scaleTo (x : Int) (e q : Int) : Int := x * 2 ^ (e - q).toNat
def Ex.int (x : Ex) : Int := if x.neg then -(x.m : Int) else x.m
def exOf (x : Int) (e : Int) (zeroNeg : Bool) : Ex := ⟨if x = 0 then zeroNeg else x < 0, x.natAbs, e, false⟩

/-- The sum of two exact values; an exact zero takes `zeroNeg`. -/
def Ex.add (x y : Ex) (zeroNeg : Bool) : Ex :=
  let q := min x.e y.e
  exOf (scaleTo x.int x.e q + scaleTo y.int y.e q) q zeroNeg
def Ex.mul (x y : Ex) : Ex := ⟨x.neg != y.neg, x.m * y.m, x.e + y.e, x.st || y.st⟩

/-! ## Rounding (R9, R23, R147 to R149) -/

/-- A rounding mode. -/
def rndMode (r : Rnd) (fmt : W32) : Rnd :=
  match r with
  | .fmt => match fmt.toNat % 8 with
    | 1 => .rtz | 2 => .pinf | 3 => .ninf | 4 => .rna | _ => .rne
  | x => x

/-- The value in whole units of 2^q as the mode selects, and whether it is inexact. -/
def roundUnits (x : Ex) (q : Int) (mode : Rnd) : Nat × Bool :=
  if q ≤ x.e then (x.m * 2 ^ (x.e - q).toNat, x.st)
  else
    let d := (q - x.e).toNat
    let y := x.m / 2 ^ d
    let r := x.m % 2 ^ d
    let inexact := r ≠ 0 || x.st
    let above := 2 ^ d < 2 * r || (2 * r = 2 ^ d && x.st)
    let tie := 2 * r = 2 ^ d && !x.st
    let up := match mode with
      | .rtz => false
      | .pinf => inexact && !x.neg
      | .ninf => inexact && x.neg
      | .rna => above || tie
      | _ => above || (tie && y % 2 = 1)
    (if up then y + 1 else y, inexact)

/-- The exponent of the unit in which a value has m + 1 significant bits. -/
def Ex.grid (x : Ex) (m : Nat) : Int := (Nat.log2 x.m : Int) + x.e - m

def signCode (f : FF) (neg : Bool) (a : Nat) : Nat := if neg then a + 2 ^ (f.width - 1) else a

/-- What an overflowing result becomes (R10, R148). -/
def FF.overflow (f : FF) (neg sat : Bool) : Nat :=
  if sat || f.nan.isNone then signCode f neg f.top
  else match f.infCode with
    | some i => signCode f neg i
    | none => f.nan.getD 0

/-- `satovf(round(x, F, m), F, sat)` with its flags. -/
def FF.round (f : FF) (x : Ex) (mode : Rnd) (sat : Bool) : Nat × FlagSet :=
  if x.m = 0 && !x.st then (signCode f x.neg 0, 0)
  else
    let g := x.grid f.m
    let q := max g f.qmin
    let (y, inexact) := roundUnits x q mode
    let code := (q - f.qmin).toNat * 2 ^ f.m + y
    if f.top < code then (f.overflow x.neg sat, fOF ||| fNX)
    else
      let (y', _) := roundUnits x g mode
      let tiny := g < f.qmin && !(2 ^ f.m ≤ y' / 2 ^ (f.qmin - g).toNat)
      (signCode f x.neg code, flagIf inexact fNX ||| flagIf (inexact && tiny) fUF)

/-- The canonical NaN of a format that has one. -/
def FF.qnan (f : FF) : Nat := f.nan.getD 0

/-! ## DS8 and E8M0 (R145, R148, R152, R153) -/

/-- The canonical DS8 code of a member in units of 2^−6 (R145). -/
def ds8Code (v : Int) : Nat :=
  if v = 0 then 0x77
  else
    let firsts := (List.range 7).flatMap fun k => [(k, false), (k, true)]
    match firsts.find? fun p => ds8Term p.2 p.1 = v with
    | some p => ofBool p.2 * 128 + p.1 * 16 + 7
    | none =>
      match firsts.find? fun p => firsts.any fun r => ds8Term p.2 p.1 + ds8Term r.2 r.1 = v with
      | some p =>
        let c := ofBool p.2 * 128 + p.1 * 16
        (match firsts.find? fun r => ds8Term p.2 p.1 + ds8Term r.2 r.1 = v with
         | some r => c + ofBool r.2 * 8 + r.1
         | none => c)
      | none => 0x77

/-- The magnitudes of DS8 in units of 2^−6. -/
def ds8Mags : List Nat := (List.range 129).filter fun v => (List.range 256).any fun c => ds8Value c = v

/-- A conversion into DS8 (R145, R148). -/
def ds8Round (x : Ex) (mode : Rnd) : Nat × FlagSet :=
  let (f, fr) := roundUnits { x with neg := false } (-6) .rtz
  if 128 < f || (f = 128 && fr) then (ds8Code (if x.neg then -128 else 128), fOF ||| fNX)
  else
    let low := (ds8Mags.filter (· ≤ f)).foldl max 0
    let need := if fr then f + 1 else f
    let high := (ds8Mags.filter (need ≤ ·)).foldl min 128
    let v :=
      if low = high then low
      else
        let (t, tf) := roundUnits { x with neg := false } (-7) .rtz
        let sum := low + high
        let nearHigh := sum < t || (sum = t && tf)
        let tie := sum = t && !tf
        match mode with
        | .rtz => low
        | .pinf => if x.neg then low else high
        | .ninf => if x.neg then high else low
        | .rna => if nearHigh || tie then high else low
        | _ => if nearHigh then high else low
    (ds8Code (if x.neg then -(v : Int) else v), flagIf (fr || v ≠ f) fNX)

/-- A conversion into E8M0 of a positive value (R153). -/
def e8m0Round (x : Ex) (mode : Rnd) (sat : Bool) : Nat × FlagSet :=
  let k := (Nat.log2 x.m : Int) + x.e
  let p := 2 ^ Nat.log2 x.m
  let exact := x.m = p && !x.st
  -- compared with 1.5 · 2^k
  let above := 3 * p < 2 * x.m || (3 * p = 2 * x.m && x.st)
  let tie := 3 * p = 2 * x.m && !x.st
  let even := (k + 127) % 2 = 0
  let up := match mode with
    | .pinf => !exact
    | .rtz | .ninf => false
    | .rna => above || tie
    | _ => above || (tie && !even)
  let k := if up then k + 1 else k
  if 127 < k then (if sat then 0xFE else 0xFF, fOF ||| fNX)
  else if k < -127 then (0, fUF ||| fNX)
  else ((k + 127).toNat, flagIf (!exact) fNX)

/-! ## Conversions (R152 to R155) -/

def intMin (ty : Ty) : Int := if ty.isSigned then -(2 ^ (ty.width - 1) : Nat) else 0
def intMax (ty : Ty) : Int := if ty.isSigned then (2 ^ (ty.width - 1) : Nat) - 1 else (2 ^ ty.width : Nat) - 1

/-- An exact integer into an integer type: it wraps, or clamps with SA (R155). -/
def fitInt (ty : Ty) (x : Int) (sat : Bool) : Nat × FlagSet :=
  if intMin ty ≤ x && x ≤ intMax ty then (wrapN ty.width x, 0)
  else if sat then (wrapN ty.width (if x < intMin ty then intMin ty else intMax ty), fSA)
  else (wrapN ty.width x, 0)

/-- A floating-point value into an integer type (R154). -/
def toInt (v : FV) (ty : Ty) (mode : Rnd) (sat : Bool) : Nat × FlagSet :=
  let bad := if ty.isSigned then wrapN ty.width (intMin ty) else 2 ^ ty.width - 1
  match v with
  | .nan => if sat then (0, fNV ||| fSA) else (bad, fNV)
  | .inf neg => if sat then (wrapN ty.width (if neg then intMin ty else intMax ty), fNV ||| fSA) else (bad, fNV)
  | .fin neg m e =>
    let (y, inexact) := roundUnits ⟨neg, m, e, false⟩ 0 mode
    let z : Int := if neg then -(y : Int) else y
    let nx := flagIf inexact fNX
    if intMin ty ≤ z && z ≤ intMax ty then (wrapN ty.width z, nx)
    else if sat then (wrapN ty.width (if z < intMin ty then intMin ty else intMax ty), nx ||| fNV ||| fSA)
    else (bad, nx ||| fNV)

/-- A value into a floating-point type, DS8 and E8M0 among them (R152, R153). DEDUCED (log entry 61): an integer 0
converts into E8M0 as a floating 0 does, to 0xFF with NV. -/
def toFloat (v : FV) (ty : Ty) (mode : Rnd) (sat : Bool) : Nat × FlagSet :=
  match ty with
  | .ds8 =>
    match v with
    | .nan => (0x77, fNV)
    | .inf neg => (if neg then 0x88 else 0x00, fOF ||| fNX)
    | .fin neg m e => if m = 0 then (0x77, 0) else ds8Round ⟨neg, m, e, false⟩ mode
  | .e8m0 =>
    match v with
    | .nan => (0xFF, 0)
    | .inf neg => if neg then (0xFF, fNV) else (if sat then 0xFE else 0xFF, fOF ||| fNX)
    | .fin neg m e => if m = 0 then (0xFF, fNV) else if neg then (0xFF, fNV) else e8m0Round ⟨false, m, e, false⟩ mode sat
  | _ =>
    match ffOf ty with
    | none => (0, 0)
    | some f =>
      match v with
      | .nan => match f.nan with
        | some c => (c, 0)
        | none => (0, fNV)
      | .inf neg => match f.infCode with
        | some i => (signCode f neg i, 0)
        | none => (f.overflow neg sat, fOF ||| fNX)
      | .fin neg m e => f.round ⟨neg, m, e, false⟩ mode sat

/-- A conversion between any two types (R152 to R155). -/
def convertElem (src dst : Ty) (c : Nat) (mode : Rnd) (sat : Bool) : Nat × FlagSet :=
  if dst.isInt then
    if src.isInt then
      fitInt dst (if src.isSigned then sgn src.width c else (c : Int)) sat
    else toInt (decodeElem src c) dst mode sat
  else toFloat (decodeElem src c) dst mode sat

/-! ## Single operations (R9, R147, R150, R151) -/

/-- The sign of an exact zero sum of two addends (IEEE 754 clause 6.3). -/
def zeroSign (a b : Bool) (mode : Rnd) : Bool := if a = b then a else mode = .ninf

/-- x + y in a format. -/
def FF.add (f : FF) (x y : FV) (mode : Rnd) (sat : Bool) : Nat × FlagSet :=
  match x, y with
  | .nan, _ | _, .nan => (f.qnan, 0)
  | .inf a, .inf b => if a = b then (signCode f a (f.infCode.getD 0), 0) else (f.qnan, fNV)
  | .inf a, _ | _, .inf a => (signCode f a (f.infCode.getD 0), 0)
  | .fin a m e, .fin b n g => f.round (Ex.add ⟨a, m, e, false⟩ ⟨b, n, g, false⟩ (zeroSign a b mode)) mode sat

def FV.neg : FV → FV
  | .nan => .nan
  | .inf a => .inf (!a)
  | .fin a m e => .fin (!a) m e

/-- The exact product of two values; the flag says that it is an invalid 0 × Inf. -/
def FV.mul (x y : FV) : FV × FlagSet :=
  match x, y with
  | .nan, _ | _, .nan => (.nan, 0)
  | .inf a, .inf b => (.inf (a != b), 0)
  | .inf a, .fin b m _ | .fin b m _, .inf a => if m = 0 then (.nan, fNV) else (.inf (a != b), 0)
  | .fin a m e, .fin b n g => (.fin (a != b) (m * n) (e + g), 0)

/-- A value rounded into a format. -/
def FF.put (f : FF) (x : FV) (mode : Rnd) (sat : Bool) : Nat × FlagSet :=
  match x with
  | .nan => (f.qnan, 0)
  | .inf a => (signCode f a (f.infCode.getD 0), 0)
  | .fin a m e => f.round ⟨a, m, e, false⟩ mode sat

/-- x · y in a format, rounded once. -/
def FF.mul (f : FF) (x y : FV) (mode : Rnd) (sat : Bool) : Nat × FlagSet :=
  let (p, fl) := x.mul y
  let (c, g) := f.put p mode sat
  (c, fl ||| g)

/-- x · y + z in a format, rounded once. -/
def FF.fma (f : FF) (x y z : FV) (mode : Rnd) (sat : Bool) : Nat × FlagSet :=
  let (p, fl) := x.mul y
  let fl := if z = .nan then 0 else fl
  let (c, g) := f.add p z mode sat
  (c, fl ||| g)

/-! ## Exact sums (R160) -/

/-- The exact sum of terms: an exact zero is −0 only when every term is −0. -/
def sumTerms (xs : List FV) : FV × FlagSet :=
  if xs.any (· = .nan) then (.nan, 0)
  else
    let p := xs.any (· = .inf false)
    let n := xs.any (· = .inf true)
    if p && n then (.nan, fNV)
    else if p then (.inf false, 0)
    else if n then (.inf true, 0)
    else
      let fins := xs.filterMap fun | .fin a m e => some (Ex.mk a m e false) | _ => none
      let q := fins.foldl (fun q x => min q x.e) 0
      let total := fins.foldl (fun t x => t + scaleTo x.int x.e q) (0 : Int)
      (.fin (if total = 0 then !fins.isEmpty && fins.all (fun x => x.m = 0 && x.neg) else total < 0) total.natAbs q, 0)

/-- FP32 addition under RNE as `at.fadd` makes it (R280). -/
def fadd32 (a b : Nat) : Nat × FlagSet := ff32.add (ff32.decode a) (ff32.decode b) .rne false

end Sys2Proof.Machine
end

