-- ==== Sys2Proof/Machine/Seal.lean ====
section
/-! DEFINITION. The seal: the end of a block, its checks, its effects in order, the successor, the rebase, and the
start of the next block (files 11 and 12, R106, R157, R274). -/

namespace Sys2Proof.Machine

/-! ## Due writes (R33 to R37, R171) -/

def pushLatch (t : Thread) (g : Fin 2) (x : VReg) (tag : Tag) : Thread :=
  let b := t.blk
  if g = 0 then
    { t with blk := { b with latS := Vector.ofFn fun i => if i.val = 0 then some (x.setWidth 32, tag) else b.latS[0] } }
  else
    { t with blk := { b with latV := Vector.ofFn fun i => if i.val = 0 then some (x, tag) else b.latV.getD (i.val - 1) none } }

/-- The results that reach their times at the current unit, in program order (R36). -/
def Thread.tick (t : Thread) : Thread :=
  let u := t.blk.unit
  let t1 := { t with blk := { t.blk with
    writes := t.blk.writes.filter (u < ·.due), latchDue := t.blk.latchDue.filter (u < ·.due),
    fmtDue := t.blk.fmtDue.filter (u < ·.1) } }
  let t2 := (t.blk.writes.filter (·.due ≤ u)).foldl (fun t w => applyDest t w.dest w.tag) t1
  let t3 := (t.blk.latchDue.filter (·.due ≤ u)).foldl (fun t w => pushLatch t w.group w.value w.tag) t2
  (t.blk.fmtDue.filter (·.1 ≤ u)).foldl (fun t w => { t with regs := { t.regs with fmt := w.2 } }) t3

/-- Every write of the block reaches its register before the seal completes (R37). -/
def flushWrites : Nat → Thread → Thread
  | 0, t => t
  | n + 1, t =>
    let t := t.tick
    flushWrites n { t with blk := { t.blk with unit := t.blk.unit + 1 } }

/-! ## Labels (R293, R318) -/

/-- Whether a label is in a successor set. -/
def Preds.has (p : Preds) (l : BitVec 16) : Bool :=
  l ≠ 0 && (l = p.taken || l = p.fall || (p.ind ≠ 0 && l.toNat / 2 ^ 12 = p.ind.val))

/-! ## Scratchpad effects (R95, R106) -/

/-- An atomic's new word, the old word it returns, and its flags (R280). -/
def atApply (k : AtKind) (w m v cmp : Nat) : Nat × FlagSet :=
  match k with
  | .xchg => (v % 2 ^ w, 0)
  | .cas => (if m = cmp % 2 ^ w then v % 2 ^ w else m, 0)
  | .fadd => fadd32 m (v % 2 ^ 32)
  | k => (atInt k w m (v % 2 ^ w), 0)

def atWidth (a : Atomic) : Nat := if a.wide then 64 else 32

/-- The results an atomic writes: its register, or its pair (R279). -/
def atResults (a : Atomic) (old : Nat) : List (Fin 64 × W32) :=
  match a.dest with
  | none => []
  | some d =>
    if a.wide then
      [(pairLo (evenPair d), BitVec.ofNat 32 old), (pairHi (evenPair d), BitVec.ofNat 32 (old / 2 ^ 32))]
    else [(d, BitVec.ofNat 32 old)]

/-- Applies one item of the store buffer to the tile as the block sees it, in program order; global stores wait for the
queues. -/
def applyScr (p : Thread × OpTile) (x : SItem) : Thread × OpTile :=
  let (t, ot) := p
  match x with
  | .st y =>
    match y.loc with
    | .scr r o => (t, ot.setRegion r (regionPuts (regionOf ot r) o y.data))
    | .glob _ _ => (t, ot)
  | .atom a =>
    match a.loc with
    | .scr r o =>
      let n := if a.wide then 8 else 4
      let reg := regionOf ot r
      let old := leOf ((List.range n).map fun i => regionByte reg (o + i))
      let (new, fl) := atApply a.kind (8 * n) old a.v.toNat a.cmp.toNat
      ({ t with results := t.results ++ atResults a old, lateFlags := t.lateFlags ||| fl },
        ot.setRegion r (regionPuts reg o (leBytes n new)))
    | .glob _ _ => (t, ot)

/-! ## The colour queues (R274, R287) -/

/-- An entry takes its place in a colour queue. -/
def queueIn (q : List QEntry) (x : QEntry) : List QEntry :=
  q.takeWhile (fun e => e.place ≤ x.place) ++ x :: q.dropWhile fun e => e.place ≤ x.place
def enterQueue (t : Thread) (c : Fin 8) (x : QEntry) : Thread :=
  { t with queues := t.queues.set c (queueIn t.queues[c] x) }

/-! ## Region write-back (R101) -/

/-- Bytes of a region within an aligned word, written to its global range as a colour-0 store at a place in program
order, translated now. -/
def storeBack (t : Thread) (r : Region) (off n ord : Nat) : Op Thread := do
  let (s', x) := translateOp (← get) t.op t.tile t.launch.pasid.toNat (r.gva.toNat + off) true
  set s'
  match x with
  | none => throw (.trap .translation 0)
  | some (pa, c) =>
    return enterQueue t 0 (.st { loc := .glob pa c, data := readBytes (frontCells r) off n, col := 0, ord := ord })

/-- Writes back every dirty granule of a region, by aligned words, which become valid. -/
def writeBackRegion (t : Thread) (n ord : Nat) : Op Thread := do
  let r := regionOf ((← get).opTile t.ot) n
  if r.mapped then
    let t ← (r.gran.filter fun e => e.2 = .dirty).foldlM (fun t e =>
      (List.range 512).foldlM (fun t i => storeBack t r (4096 * e.1 + 8 * i) 8 ord) t) t
    modify fun s => s.setOpTile t.ot ((s.opTile t.ot).setRegion n
      { r with gran := r.gran.map fun e => (e.1, if e.2 = .dirty then .valid else e.2) })
    return t
  else return t

def allGranules (r : Region) (x : GranState) : Map GranState := (List.range r.size.toNat).map fun g => (g, x)

/-- Changes a region's mapping: blocks in progress keep the old one (R106). -/
def remapRegion (t : Thread) (n : Nat) (f : Region → Region) : Op Unit :=
  modify fun s =>
    let s := keepView s t.ot n
    s.setOpTile t.ot ((s.opTile t.ot).setRegion n (f (regionOf (s.opTile t.ot) n)))

/-- Where a flush stands in the queues (R286, R287): after its block's stores, but for those behind the first barrier
that follows it, or behind a `release`, which waits for the flush (R77; DEDUCED, log entry 79). -/
def flushPlace (t : Thread) (ord : Nat) : Nat :=
  let isRelease (g : Gated) : Bool := match g.instr with
    | .release _ _ => true
    | _ => false
  let ends := (blockBarriers t).map (·.ord) ++ (t.blk.gated.filter isRelease).map (·.ord)
  (ends.filter (ord < ·)).foldl min t.ord

/-- One entry of the pending list takes effect (R105, R106, R211, R287, R288). -/
def applyPend (t : Thread) (p : Pend) : Op Thread := do
  match p with
  | .sysw n v =>
    if n = 0 then return { t with status := t.status &&& ~~~(v.setWidth 6) }
    else return { t with finj := v, shot := true }
  | .stamp n v => do
    modify fun s =>
      let s := tagView s t.ot n.val v
      s.setOpTile t.ot ((s.opTile t.ot).setRegion n.val { regionOf (s.opTile t.ot) n.val with tag := v })
    return t
  | .rmap n gva o => do
    let t ← writeBackRegion t n.val o
    remapRegion t n.val fun r => { r with gva := gva, mapped := true, gran := allGranules r .empty }
    return t
  | .runmap n o => do
    let t ← writeBackRegion t n.val o
    remapRegion t n.val fun r =>
      if r.mapped then
        { r with mapped := false, gran := (r.gran.filter fun e => e.2 ≠ .empty).map fun e => (e.1, .valid) }
      else r
    return t
  | .rflush pas o b =>
    let x : QEntry := .flush pas o (flushPlace t o) b t.lastLabel
    return { t with queues := t.queues.map fun q => queueIn q x, ord := t.ord + 1 }
  | .barrier m sc mk o => return { t with barriers := t.barriers ++ [⟨m, sc, mk, o⟩] }
  | .lpset _ => return t

/-- A global store enters the queue of its colour (R274). -/
def enqueue (t : Thread) (x : SItem) : Thread :=
  match x with
  | .st y =>
    match y.loc with
    | .glob _ _ => enterQueue t y.col (.st y)
    | .scr _ _ => t
  | .atom _ => t

/-! ## The successor (R297, R305, R306) -/

/-- The first unit after a block's seal (R43, R44). -/
def afterSeal (a : Nat) : Nat := a + 32

/-- Whether the block with the seal `x` at `a` opens a loop (R304). -/
def blockOpens (s : State) (t : Thread) (x : SealData) (a : Nat) : Bool :=
  (List.range x.len.toNat).any fun i =>
    match fetchUnit s t (a - unitBytes t.form * (i + 1)) with
    | .ok is => is.any fun | .loop _ => true | .loopi _ => true | .lpipe _ _ => true | _ => false
    | .error _ => false

/-- The exit of the loop whose body starts at `a`: the unit after its closing block's seal (R304). -/
def loopExit (s : State) (t : Thread) : Nat → Nat → Nat → Option Nat
  | 0, _, _ => none
  | n + 1, level, a =>
    match findSeal s t 256 a with
    | none => none
    | some (x, at_) =>
      let next := afterSeal at_
      if x.lend && level = 0 then some next
      else loopExit s t n (level - (if x.lend then 1 else 0) + (if blockOpens s t x at_ then 1 else 0)) next

/-! ## The two forms of a block (R46, R295, R379) -/

/-- The same place in the other form: a block's first unit, or the unit a translated block falls through to. -/
def counterpart (o : CodeObj) (f : Form) (a : W64) : Option W64 :=
  let find (ps : List (Nat × Nat)) : Option W64 := match f with
    | .jexcy => (ps.find? fun p => p.1 = a.toNat).map fun p => BitVec.ofNat 64 p.2
    | .native => (ps.find? fun p => p.2 = a.toNat).map fun p => BitVec.ofNat 64 p.1
  find o.translated <|> find o.falls

/-- The exit of the loop whose body starts at `f`, in the running form. The blocks of a body lie together in the Jexcy
form, so translated code finds its exit there; while no native code falls through to the exit, the loop stack holds its
address in the Jexcy form (DESIGN CHOICE, log entry 21). -/
def exitOf (s : State) (t : Thread) (f : W64) : Option W64 :=
  match s.objOf t with
  | none => none
  | some o =>
    match t.form, counterpart o .native f with
    | .native, some j =>
      (loopExit s { t with form := .jexcy } (o.jexLen / 32 + 1) 0 j.toNat).map fun a =>
        (counterpart o .jexcy (BitVec.ofNat 64 a)).getD (BitVec.ofNat 64 a)
    | .native, none => (loopExit s t (o.natLen / 32 + 1) 0 f.toNat).map (BitVec.ofNat 64)
    | .jexcy, _ => (loopExit s t (o.jexLen / 32 + 1) 0 f.toNat).map (BitVec.ofNat 64)

/-- The boundary decision of a seal with lend = 1 (R306). -/
def loopBoundary (r : Regs) (next : W64) : Regs × W64 :=
  match r.loops with
  | [] => (r, next)
  | e :: rest =>
    if e.armed then
      if e.remaining = 0 then ({ r with loops := rest }, e.exit)
      else ({ r with loops := { e with armed := false } :: rest }, e.start)
    else
      let n := if e.pvalid then e.pending.toNat else e.remaining - 1
      if n = 0 then ({ r with loops := rest }, e.exit)
      else ({ r with loops := { e with remaining := n, pvalid := false } :: rest }, e.start)

/-- The choice of the next unit when a seal passes (R297). -/
def successor (s : State) (t : Thread) (x : SealData) (sealAt : Nat) : Except Stop (Regs × W64) :=
  let fall := BitVec.ofNat 64 (afterSeal sealAt)
  let r := t.regs
  let (r, next) := match t.blk.opened with
    | none => (r, fall)
    | some (n, st) =>
      let exit := (exitOf s t fall).getD 0
      if n = 0 then (r, exit)
      else
        let e : LoopEntry :=
          { start := fall, exit := exit, remaining := n.toNat + st.val, stages := st,
            depth := r.calls.length }
        ({ r with loops := e :: r.loops }, fall)
  let (r, next) := match t.blk.transfer with
    | none => (r, next)
    | some (.jump a) => (r, a)
    | some (.call a) => ({ r with calls := next :: r.calls }, a)
    | some .ret => ({ r with calls := r.calls.tail }, r.calls.headD 0)
  let pendings := t.blk.pend.filterMap fun | .lpset v => some v | _ => none
  let r := match pendings.getLast?, r.loops with
    | some v, e :: rest => { r with loops := { e with pending := v, pvalid := true } :: rest }
    | _, _ => r
  if t.blk.brk then
    match r.loops with
    | e :: rest => .ok ({ r with loops := rest }, e.exit)
    | [] => illegal
  else if x.lend then
    match r.loops with
    | e :: _ => if e.depth = r.calls.length then .ok (loopBoundary r next) else illegal
    | [] => illegal
  else .ok (r, next)

/-! ## Rebase (R323) -/

def rebaseRegs (r : Regs) : Regs :=
  { r with
    sTag := Vector.ofFn fun i => if i.val = 0 then 0 else rebased 1 i.val
    hTag := Vector.ofFn fun i => rebased 2 i.val
    qTag := Vector.ofFn fun i => rebased 4 i.val
    cTag := Vector.ofFn fun i => rebased 5 i.val
    tTag := Vector.ofFn fun i => rebased 6 i.val
    w := Vector.ofFn fun i => { r.w[i] with lineage := rebased 7 i.val }
    slots := Vector.ofFn fun i => if r.slots[i].state = .free then r.slots[i] else { r.slots[i] with lin := rebased 8 i.val } }

def freeSlots (r : Regs) (ns : List (Fin 32)) : Regs :=
  { r with slots := ns.foldl (fun (v : Vector Slot 32) (n : Fin 32) => v.set n {}) r.slots }

/-! ## Form swaps (R46, R295, R379) -/

/-- Every code address a sequencer holds. A register that holds 0 names none. -/
def heldAddrs (r : Regs) : List W64 :=
  r.t.toList.filter (· ≠ 0) ++ r.calls ++ r.loops.flatMap fun e => [e.start, e.exit]

def mapAddrs (r : Regs) (f : W64 → W64) : Regs :=
  { r with
    t := r.t.map fun a => if a = 0 then 0 else f a
    calls := r.calls.map f
    loops := r.loops.map fun e => { e with start := f e.start, exit := f e.exit } }

/-- The native first unit of the translated block whose Jexcy first unit is `j`. -/
def nativeOf (o : CodeObj) (j : W64) : Option W64 :=
  (o.translated.find? fun p => p.1 = j.toNat).map fun p => BitVec.ofNat 64 p.2

/-- A held address in the form `f`: itself where it stands in that form already, else its counterpart. -/
def inForm (o : CodeObj) (f : Form) (a : W64) : Option W64 :=
  if inSection o f a.toNat then some a
  else counterpart o (match f with | .native => .jexcy | .jexcy => .native) a

/-- The form in which the chosen successor is entered (R379): native where its block is translated, else Jexcy. Every
held address is rewritten, and while one has no counterpart the form does not change (R295). A native successor that is the
fall-through of a translated block is entered where its block stands. -/
def swapForm (s : State) (t : Thread) : Thread :=
  match s.objOf t with
  | none => t
  | some o =>
    let enter (f : Form) (a : W64) : Thread :=
      if f = t.form then { t with pc := a }
      else { t with pc := a, regs := mapAddrs t.regs fun a => (inForm o f a).getD a, form := f }
    let may (f : Form) : Bool := f = t.form || (heldAddrs t.regs).all fun a => (inForm o f a).isSome
    match inForm o .jexcy t.pc with
    | none => t
    | some j => match nativeOf o j with
      | some n => if may .native then enter .native n else t
      | none => if may .jexcy then enter .jexcy j else t

/-! ## The start of the next block -/

/-- Results of gated operations and late flags reach the sequencer, and the next block begins (R158, R282, R310). A block
that restarts after it was entered inside keeps its entry (R318); the form changes after a passing seal alone (R379). -/
def startNext (s : State) (t : Thread) : Thread :=
  let r := t.results.foldl (fun r x => if x.1 = 0 then r else { r with s := r.s.set x.1 x.2 }) t.regs
  let t := { t with
    regs := r, results := [], status := t.status ||| t.lateFlags, lateFlags := 0, issue := [], run := .running, mwait := none,
    barriers := t.barriers.filter fun b => !barrierMet s t b }
  let u := if t.blk.passed then swapForm s t else t
  let v := u.begin
  { v with
    blk := { v.blk with entry := if t.blk.entry = t.pc then u.pc else t.blk.entry }, blockSince := s.time.toNat }

/-- Whether results of the block's gated operations are still to come (R75, R282), or an `m.wait` still holds (R246). -/
def pendingResults (t : Thread) : Bool :=
  (queued t).any (fun | .atom a => a.dest.isSome | _ => false)
    || t.mwait.any fun o => t.mq.any fun c => c.ord < o

/-- The walkers a block's matrix commands name become busy when its seal passes (R181). -/
def markBusy (r : Regs) (gs : List Gated) : Regs :=
  let ports := gs.flatMap fun g => (matrixPorts g.instr).map fun p => portWalker p.1
  { r with w := Vector.ofFn fun i => if ports.contains i then { r.w[i] with busy := true } else r.w[i] }

/-- Whether a sequencer stops before its next block: its operator stops and the seal was a pre-emption point (R365,
R371), or its tile is retired (R328). -/
def seqStops (s : State) (t : Thread) : Bool :=
  (t.point && (mfind s.ops t.op).any (·.stopping)) || (s.tile t.tile).retiring

/-- Whether a sequencer that stopped with gated operations to issue releases them all, since its tile is being retired
(R328). -/
def released (s : State) (t : Thread) : Bool := (s.tile t.tile).retiring && t.issue ≠ [] && !away s t

/-- A sequencer whose gated operations have all issued and whose results are there goes on. -/
def finishIssue (s : State) (t : Thread) : Thread :=
  if t.run = .issuing && t.parked.isNone && t.issue.isEmpty && !pendingResults t && !seqStops s t then
    { startNext s t with flow := .redirected }
  else t

/-! ## The seal -/

/-- The global bytes a gated operation that has not issued will read and write: its base, offset and width. -/
def gatedBase : Instr → Option (Base × Int × Nat)
  | .atAdd x | .atMin x | .atMax x | .atAnd x | .atOr x | .atXor x | .atXchg _ x =>
    some (x.base, sext24 x.off, if x.wide then 8 else 4)
  | .atCas _ b _ _ w _ => some (b, 0, if w then 8 else 4)
  | .atFadd _ b o _ _ => some (b, sext24 o, 4)
  | .take _ p => some (.pair p, 0, 32)
  | _ => none

/-- Where they lie. -/
def gatedLoc (s : State) (t : Thread) (g : Gated) : Option (Loc × Nat) :=
  match gatedBase g.instr with
  | none => none
  | some (b, o, n) =>
    match baseAddr (viewOf s t) g.regs b o n 1 with
    | .ok (.glob a, _) => match walk s t.launch.pasid.toNat a with
      | .leaf _ large e => some (.glob (leafPa large e a) (bits e 7 6 = 0), n)
      | _ => none
    | _ => none

/-- Whether a gated operation writes bytes of a location: an atomic or `take` of them, a drain into their page (R256). -/
def gatedWrites (s : State) (t : Thread) (g : Gated) (l : Loc) (n : Nat) : Bool :=
  match gatedLoc s t g with
  | some b => locMeets b.1 b.2 l n
  | none => match g.instr, l with
    | .mDrain _ a _ _ _ _, .glob pa c => handleOnPage s t.launch.pasid.toNat g.regs.h[a] pa c
    | _, _ => false

/-- Whether bytes of a load at a place are written by older atomics or drains of its own block, which take effect as its
seal passes or after it (R270, R282). -/
def ownAhead (s : State) (t : Thread) (l : Loc) (n ord : Nat) : Bool :=
  ((t.blk.gated ++ t.issue).any fun g => g.ord < ord && gatedWrites s t g l n)
    || t.blk.stores.any fun
      | .st _ => false
      | .atom a => a.ord < ord && locMeets a.loc a.bytes l n

/-- Whether a sequencer waits at the `commit` of a slot whose load its own block has made. -/
def commitWaits (t : Thread) (x : Slot) : Bool :=
  match t.flow with
  | .stalled (.slot n) => t.run = .running && t.regs.slots[n].ord = x.ord
  | _ => false

/-- Whether a landing-slot load waits for older atomics of its own block: it returns what they leave (R270). One that its own
block commits cannot, since it performs before the seal (R273; DEDUCED, log entry 78). -/
def slotStuck (s : State) (t : Thread) (x : Slot) : Bool :=
  x.state = .pending && !commitWaits t x && x.pieces.any fun p => ownAhead s t p.loc p.len x.ord

/-- A pending slot that an older load reads and younger stores or atomics of the block write: it lands first (R273). One
that waits for the seal takes its scratchpad bytes as the seal passes. -/
def slotBefore (s : State) (t : Thread) : Option (Fin 32) :=
  (List.finRange 32).find? fun n =>
    let x := t.regs.slots[n]
    x.state = .pending && !slotStuck s t x && x.pieces.any fun p =>
      t.blk.stores.any fun y => x.ord < y.ord && locMeets p.loc p.len y.loc y.bytes

/-- Regions whose mapping entries of the pending list change. -/
def mapsOf (ps : List Pend) : List Nat :=
  ps.filterMap fun | .rmap n _ _ => some n.val | .runmap n _ => some n.val | _ => none

/-- Whether a pending slot of a sequencer has still to read a region of those given, before a seal. -/
def slotReads (s : State) (t : Thread) (ns : List Nat) : Bool :=
  t.regs.slots.toList.any fun x => x.state = .pending && x.got = [] && !slotStuck s t x && x.pieces.any fun p =>
    match p.loc with
    | .scr r _ => ns.contains r
    | .glob _ _ => false

/-- Whether a pending slot of a sequencer of the tile reads a region whose mapping is to change: its load sees the mapping
of its own block's start, and lands first (R106). -/
def mapHeld (s : State) (t : Thread) (ps : List Pend) : Bool :=
  mapsOf ps ≠ [] && s.threads.any fun e =>
    e.2.ot = t.ot && slotReads s (if e.1 = t.key then t else e.2) (mapsOf ps)

/-- So does one of the block's own that reads a region another sequencer has mapped anew since the block started. -/
def mapBefore (s : State) (t : Thread) : Bool :=
  (t.blk.kept ≠ [] && slotReads s t (t.blk.kept.map (·.1))) || mapHeld s t t.blk.pend

/-- Whether a scratchpad write of the block lies where an older matrix command still reads or writes (R270, R273). -/
def commandBefore (s : State) (t : Thread) : Bool :=
  t.blk.stores.any fun
    | .st y => behindCommands s t y.ord y.loc y.data.length && (match y.loc with | .scr _ _ => true | .glob _ _ => false)
    | .atom a => behindCommands s t a.ord a.loc a.bytes && (match a.loc with | .scr _ _ => true | .glob _ _ => false)

/-- Steps 2 and 3 of R317: the op-shape hash and the data signature. -/
def sealMatches (t : Thread) (x : SealData) : Bool := t.blk.shape = x.shape && t.blk.sig = x.sig

/-- A block by its first unit in the Jexcy form. -/
def blockName (s : State) (t : Thread) : W64 :=
  match t.form, s.objOf t with
  | .native, some o => (counterpart o .native t.blk.entry).getD t.blk.entry
  | _, _ => t.blk.entry

/-- The tiles of the column of a tile. -/
def columnOf (tile : Nat) : List Nat := (List.range 13).map fun y => tile / 13 * 13 + y

/-- The unused spare of a tile's column. -/
def spareOf (s : State) (tile : Nat) : Option Nat :=
  (columnOf tile).find? fun t => bits (speedEntry s t).toNat 7 6 = 1

/-- A seal that fails steps 2 or 3 (R325, R327): the block re-runs; the third mismatch of one block asks for the
tile's retirement (R328), or, of an operator that the same block has rolled back, is at fault itself (R329). Where the
column has no spare left the tile retires and the operator takes its trap at once. Every block whose count reaches 3
while the tile retires is remembered (R329). Where it stops the last sequencer of an operator with a trap, that trap takes
its effect (R371). -/
def sealFails (s : State) (k : Nat) (t : Thread) (own : BitVec 16) : State :=
  let n := if t.misses ≠ 0 && t.missAt = t.blk.entry then t.misses + 1 else 1
  let tl := s.tile t.tile
  let name := blockName s t
  let t := { t with misses := n, missAt := t.blk.entry, flow := .redirected }
  let t' := t.restore t.blk.entry
  if 3 ≤ n then
    if (mfind s.ops t.op).any fun o => o.rolled.contains name then raiseTrap s k t .sealMismatch 0
    else if (spareOf s t.tile).isNone then
      raiseTrap (s.setTile t.tile { tl with retiring := true }) k t .sealMismatch 0
    else
      let c : Culprit := { thread := k, block := name, at_ := t.pc, own := own }
      settleTrap (((s.dropLoads t).setTile t.tile
        { (s.dropLoads t).tile t.tile with retiring := true, culprits := tl.culprits ++ [c] }).setThread k
          { t' with run := .stopped }) t.op
  else if tl.retiring then settleTrap ((s.dropLoads t).setThread k { t' with run := .stopped }) t.op
  else (s.dropLoads t).setThread k t'

/-- Whether a seal is a pre-emption point before its gated operations issue (R309). -/
def preemptPoint (t : Thread) (x : SealData) : Bool := t.regs.loops.all (·.armed) || x.lend

/-- The bytes of a block's store buffer in regions whose mapping another sequencer has changed since the block started
(R106). The spec leaves open what becomes of them: the old mapping's global range takes them as colour-0 stores, and under
an old local mapping nothing holds them (DESIGN CHOICE, log entry 65). -/
def storeKept (ot : OpTile) (t : Thread) (x : SItem) : Op Thread :=
  let back (l : Loc) (n ord : Nat) : Op Thread := match l with
    | .scr r o => match mfind t.blk.kept r with
      | some k => if k.mapped then storeBack t (regionOf ot r) o n ord else return t
      | none => return t
    | .glob _ _ => return t
  match x with
  | .st y => back y.loc y.data.length y.ord
  | .atom a => back a.loc a.bytes a.ord

/-- The regions of a tile after scratchpad effects `xs` of a block: those whose mapping has changed meanwhile stand as
they are, and so do tags (R106, R288). -/
def mergeViews (t : Thread) (xs : List SItem) (live view : OpTile) : OpTile :=
  let stored := (xs.filterMap fun x => match x.loc with
    | .scr r _ => some r
    | .glob _ _ => none).eraseDups
  { live with regions := stored.foldl (fun m r =>
      if (mfind t.blk.kept r).isSome then m
      else mput m r { regionOf view r with tag := (regionOf live r).tag }) live.regions }

/-- Scratchpad stores and atomics of a block take effect in one step, in program order (R95, R106). -/
def applyItems (xs : List SItem) (t : Thread) : Op Thread := do
  let s ← get
  let (t, ot) := xs.foldl applyScr (t, viewOf s t)
  set (s.setOpTile t.ot (mergeViews t xs (s.opTile t.ot) ot))
  xs.foldlM (storeKept ot) t

/-- The scratchpad bytes that a slot's load reads as the seal passes: behind the block's older stores and atomics, before
its younger ones (R270). -/
def sealRead (s : State) (t : Thread) (x : Slot) : List (Nat × Byte) :=
  let ot := ((t.blk.stores.filter fun y => y.ord < x.ord).foldl applyScr (t, viewOf s t)).2
  x.pieces.flatMap fun p => match p.loc with
    | .scr r o => (List.range p.len).map fun i => (p.pos + i, regionByte (regionOf ot r) (o + i))
    | .glob _ _ => []

/-- The slots that wait for the block's own atomics read their scratchpad bytes. -/
def sealReads (s : State) (t : Thread) : Thread :=
  let read (x : Slot) : Slot := if slotStuck s t x then { x with got := sealRead s t x } else x
  { t with regs := { t.regs with slots := t.regs.slots.map read } }

/-- Whether a block with scratchpad stores or atomics waits at its seal for a barrier of an earlier block: they take effect
as the seal passes (R95, R106, R272), and every access of later blocks waits behind that barrier (R286). A barrier of the
block itself orders no scratchpad effect of the block (DEDUCED, log entry 76). -/
def sealHeld (s : State) (t : Thread) : Bool := t.blk.stores.any SItem.isScr && t.barriers.any fun b => !barrierMet s t b

/-- The effects of a passing seal (R106, R157, R274, R297, R324). A scratchpad atomic, applied here, stops a pond run
(R358). -/
def sealPasses (t : Thread) (x : SealData) (sealAt : Nat) : Op Thread := do
  let s ← get
  let point := preemptPoint t x
  let (r, next) ← liftM (successor s t x sealAt)
  if (s.pondOf t.op).isSome && t.blk.stores.any (fun | .atom _ => true | .st _ => false) then throw (.trap .illegal 0)
  let t := sealReads s { t with regs := r }
  let r := t.regs
  let t := t.blk.stores.foldl enqueue { t with lastLabel := x.own, issue := t.blk.gated }
  let t ← applyItems (t.blk.stores.filter SItem.isScr) t
  let t ← t.blk.pend.foldlM applyPend t
  let r := markBusy (freeSlots { r with preds := ⟨x.taken, x.fall, x.ind⟩ } t.blk.committed) t.blk.gated
  let stops := seqStops (← get) { t with point := point }
  let t : Thread := { t with
    regs := rebaseRegs r, vTag := Vector.ofFn fun i => rebased 3 i.val
    status := t.status ||| t.blk.held, misses := 0, reran := false, pc := next
    flow := .redirected
    point := point
    run := if t.blk.gated.isEmpty && !stops && !pendingResults t then .running else .issuing
    blk := { entry := next, start := rebaseRegs r, passed := true } }
  let s ← get
  return if t.run = .running then { startNext s t with flow := .redirected } else t

/-- `seal` (R37, R317, R318, R325): the end of a block. -/
def execSealOp (x : SealData) (s : State) : Host.Outcome State Fault Refusal :=
  match mfind s.threads s.cur with
  | none => .next s
  | some t0 =>
    let unit := t0.blk.unit
    let t := flushWrites 32 t0
    let t := { t with blk := { t.blk with unit := unit } }
    match slotBefore s t with
    | some n => .next (stopAt s s.cur t0 (.wait (.slot n)))
    | none =>
      if commandBefore s t || mapBefore s t then .next (stopAt s s.cur t0 (.wait .other)) else
      if sealHeld s t then .next (stopAt s s.cur t0 (.wait .queues)) else
      let first := t.pc.toNat - x.len.toNat * unitBytes t.form
      if !(t.regs.preds.has x.own) || t.blk.entry.toNat ≠ first then
        .next (stopAt s s.cur t (.trap .label 0))
      else if !sealMatches t x then .next (sealFails s s.cur t x.own)
      else if s.hwErrors.contains (.storeParity t.key) && !t.blk.stores.isEmpty then
        .next (rerunBlock { s with hwErrors := s.hwErrors.erase (.storeParity t.key) } s.cur t)
      else
        match (sealPasses t x t.pc.toNat).run s with
        | (.ok t', s') => .next (s'.setThread s.cur t')
        | (.error e, s') => .next (stopAt s' s.cur t e)

end Sys2Proof.Machine
end

