-- ==== Sys2Proof/Machine/Access.lean ====
section
/-! DEFINITION. Class 2 operations that are not gated: scalar and vector loads and stores, landing slots, handles,
walkers, barriers and the operations on regions (files 03, 06, 07 and 10). -/

namespace Sys2Proof.Machine

/-! ## Scalar loads (R202 to R204) -/

/-- The bytes at base + immediate and the tag of the load (R174). -/
def loadBase (t : Thread) (key : Tag) (b : Base) (off : BitVec 24) (n align : Nat) : Op (List Byte × Tag) := do
  let (a, mt) ← liftM (baseAddr (viewOf (← get) t) t.regs b (sext24 off) n align)
  let bs ← loadAddr t a n
  return (bs, fold key (baseTag t.regs b) (sext24W off) mt)

/-- A load of a single register; `f` widens the value read. Its result, like that of every interlocked operation, reaches the
register one bundle after its issue (R36 gives no time: DESIGN CHOICE, log entry 81). -/
def loadScalar (key n : Nat) (f : Nat → W32) (x : Ld) (t : Thread) : Op Thread := do
  let (bs, g) ← loadBase t (opk key 0) x.base x.off n n
  return putDest t 1 (.s x.d (f (leOf bs))) g

/-- Sign extension of `w` bits to 32. -/
def widenS (w n : Nat) : W32 := BitVec.ofNat 32 (wrapN 32 (sgn w n))

/-- `ld.sb` (R202). -/
def execLdSb (x : Ld) (s : State) : Host.Outcome State Fault Refusal := runOp s (loadScalar 0x200 1 (widenS 8) x)
/-- `ld.zb` (R202). -/
def execLdZb (x : Ld) (s : State) : Host.Outcome State Fault Refusal := runOp s (loadScalar 0x201 1 (BitVec.ofNat 32) x)
/-- `ld.sh` (R202). -/
def execLdSh (x : Ld) (s : State) : Host.Outcome State Fault Refusal := runOp s (loadScalar 0x202 2 (widenS 16) x)
/-- `ld.zh` (R202). -/
def execLdZh (x : Ld) (s : State) : Host.Outcome State Fault Refusal := runOp s (loadScalar 0x203 2 (BitVec.ofNat 32) x)
/-- `ld.w` (R202). -/
def execLdW (x : Ld) (s : State) : Host.Outcome State Fault Refusal := runOp s (loadScalar 0x204 4 (BitVec.ofNat 32) x)

/-- `ld.p` (R202, R204). -/
def execLdP (d : Fin 32) (base : Base) (off : BitVec 24) (s : State) : Host.Outcome State Fault Refusal :=
  runOp s fun t => do
    let (bs, g) ← loadBase t (opk 0x205 0) base off 8 8
    return putPair t 1 d (BitVec.ofNat 64 (leOf bs)) g

/-! ## Scalar stores (R202, R203, R205) -/

/-- A buffered store of base + immediate, with its contribution to the data signature. -/
def storeBase (t : Thread) (key : Tag) (b : Base) (off : BitVec 24) (data : List Byte) (align : Nat) (g : Tag)
    (col : Fin 8) : Op Thread := do
  let (a, _) ← liftM (baseAddr (viewOf (← get) t) t.regs b (sext24 off) data.length align)
  let t ← chargeStores t data.length
  let t ← bufferStore t a data col
  return storeSig t key g (baseTag t.regs b) (sext24W off)

/-- A store of the low `n` bytes of a single source. -/
def storeScalar (key n : Nat) (x : St) (t : Thread) : Op Thread := do
  let (v, g) ← liftM (readS t x.b)
  storeBase t (opk key 0) x.base x.off (leBytes n v.toNat) n g x.col

/-- `st.b` (R202). -/
def execStB (x : St) (s : State) : Host.Outcome State Fault Refusal := runOp s (storeScalar 0x208 1 x)
/-- `st.h` (R202). -/
def execStH (x : St) (s : State) : Host.Outcome State Fault Refusal := runOp s (storeScalar 0x209 2 x)
/-- `st.w` (R202). -/
def execStW (x : St) (s : State) : Host.Outcome State Fault Refusal := runOp s (storeScalar 0x20A 4 x)
/-- `st.p` (R202). -/
def execStP (base : Base) (off : BitVec 24) (b : Fin 32) (col : Fin 8) (s : State) : Host.Outcome State Fault Refusal :=
  runOp s fun t =>
    storeBase t (opk 0x20B 0) base off (leBytes 8 (pairVal t.regs b).toNat) 8 (pairTag t.regs b) col

/-! ## Landing slots (R182 to R185) -/

/-- The pieces a load of `n` bytes to slot position `pos` is made of, each translated. -/
def slotPieces (t : Thread) (pos : Nat) (a : Addr) (n : Nat) : Op (List Piece) :=
  (addrPieces a n).mapM fun p => do
    let l ← resolve t p.1 false
    return { pos := pos + (p.1.low - a.low), loc := l, len := p.2 }

/-- Whether a slot's load may perform: older barriers, older atomics, drains and loads of its bytes, those of its own block
among them. -/
def slotMayLand (s : State) (t : Thread) (x : Slot) : Bool :=
  ((t.barriers ++ blockBarriers t).all fun b => x.ord < b.ord || barrierMet s t b)
    && (x.pieces.all fun p => (loadWaits t p.loc p.len x.ord).isNone && !behindDrain s t p.loc x.ord)
    && !slotStuck s t x

/-- The line requests of a slot's load (R437). -/
def slotReqs (s : State) (t : Thread) (x : Slot) : List PortReq :=
  loadReqs s t (.place t.key x.ord) x.ord (x.pieces.map fun p => (p.loc, p.len))

/-- A slot goes from free to pending (R182). Its load enters the port at once where it may perform (R437). The slot's lineage
folds the region's tag at issue, the bytes are those at its landing (R183; DESIGN CHOICE, log entry 86). -/
def takeSlot (t : Thread) (n : Fin 32) (ps : List Piece) (lin : Tag) : Op Thread := do
  let s ← get
  let x : Slot :=
    { state := .pending, lin := lin, pieces := ps, ord := t.ord, bundle := t.pc, own := blockLabel s t t.pc.toNat }
  if slotMayLand s t x then set (wantLines s t.tile (slotReqs s t x)).1
  return addSig { t with
    regs := { t.regs with slots := t.regs.slots.set n x }, ord := t.ord + 1
    blk := { t.blk with took := n :: t.blk.took } } lin

/-- A slot that is not free is illegal (R182). -/
def slotFree (t : Thread) (n : Fin 32) : Except Stop Unit := if t.regs.slots[n].state = .free then .ok () else illegal

/-- `ld.v` (R183). -/
def execLdV (slot : Fin 32) (base : Base) (off : BitVec 24) (s : State) : Host.Outcome State Fault Refusal :=
  runOp s fun t => do
    liftM (slotFree t slot)
    let (a, mt) ← liftM (baseAddr (viewOf (← get) t) t.regs base (sext24 off) 1024 4)
    let ps ← slotPieces t 0 a 1024
    takeSlot t slot ps (fold (opk 0x210 0) (baseTag t.regs base) (sext24W off) mt)

/-- The memory tag of a base that is not itself accessed (R174): of `ld.vg` with a scratchpad pair base the tag of the
region its base names, whatever regions its lanes fall into (DESIGN CHOICE, log entry 68). -/
def baseMemTag (ot : OpTile) (r : Regs) : Base → Tag
  | .pair p =>
    let a := (pairVal r p).toNat
    if bit a 63 then (regionOf ot (bits a 27 22)).tag else 0
  | .handle h => if hScr r.h[h] then (regionOf ot (hRegion r.h[h])).tag else hTag r.h[h]

/-- The base of a gather or scatter of 4-byte elements (R184, R277). -/
def gatherBaseOk (r : Regs) : Base → Bool
  | .pair p => (pairVal r p).toNat % 4 = 0
  | .handle h => !hMalformed r.h[h] && !hEmpty r.h[h] && hHalf r.h[h] = 8

/-- The address of lane `i` of a gather or scatter, its index vector signed for `.si32`. -/
def laneAddr (ot : OpTile) (r : Regs) (b : Base) (ty : Ty) (idx : VReg) (i : Nat) : Except Stop Addr :=
  let u := laneOf 32 idx.toNat i
  let x : Int := if ty = .si32 then sgn 32 u else u
  match b with
  | .pair p => valueAddr ot (wrapN 64 ((pairVal r p).toNat + 4 * x)) 4
  | .handle h => handleAddr ot r.h[h] (elemOff r.h[h] x 0 0) 4

/-- `ld.vg` (R184). -/
def execLdVg (slot : Fin 32) (base : Base) (b : VSrc) (ty : Ty) (msk : Fin 16) (s : State) :
    Host.Outcome State Fault Refusal :=
  runOp s fun t => do
    liftM (slotFree t slot)
    if !gatherBaseOk t.regs base then throw (.trap .illegal 0)
    let (t, idx, g) ← readV t b
    let ot := viewOf (← get) t
    let lanes := (List.range 256).filter (maskActive t.regs msk)
    let xs ← lanes.mapM fun i => do slotPieces t (4 * i) (← liftM (laneAddr ot t.regs base ty idx i)) 4
    takeSlot t slot xs.flatten
      (fold (opk 0x211 (tyTo ty)) (baseTag t.regs base) g (baseMemTag ot t.regs base))

/-- The bytes of a slot as its load now finds them (R183, R184, R204), those it has read already aside. -/
def landBytes (s : State) (t : Thread) (x : Slot) : State × Nat :=
  (x.pieces.filter fun p => !x.got.any (·.1 = p.pos)).foldl (fun (p : State × Nat) q =>
    let (s, bs) := (match q.loc with
      | .glob pa c => opRead p.1 t.op t.tile pa q.len c
      | .scr r o =>
        let reg := viewRegion p.1 t r
        (p.1, (List.range q.len).map fun i => regionByte reg (o + i)))
    (s, setBits p.2 (8 * (q.pos + q.len) - 1) (8 * q.pos) (leOf bs))) (s, x.got.foldl (fun v b => setBits v (8 * b.1 + 7) (8 * b.1) b.2.toNat) 0)

/-- The bytes, by slot position, that the sequencer's own older stores give a load as it performs (R204, R270): of those
that have still to perform. -/
def slotFwd (t : Thread) (x : Slot) : List (Nat × Byte) :=
  let older := (ownStores t).filter (·.ord < x.ord)
  x.pieces.flatMap fun p => (List.range p.len).filterMap fun i => (latestStore older p.loc i).map fun b => (p.pos + i, b)

def setSlot (t : Thread) (n : Fin 32) (x : Slot) : Thread := { t with regs := { t.regs with slots := t.regs.slots.set n x } }

/-- The landing of a slot's load (R182, R273): a step of the device. An uncorrectable error in its data has the load
performed again and the running block re-run, the second of one load ends the context (R206, R394). A trapped operator
that waits for its loads may leave with the last (R370). -/
def execLandingSlotLanded (thread : Nat) (slot : Fin 32) (s : State) : Host.Outcome State Fault Refusal :=
  match mfind s.threads thread with
  | none => .next s
  | some t =>
    let x := t.regs.slots[slot]
    if x.state = .pending && slotMayLand s t x then
      match wantLines s t.tile (slotReqs s t x) with
      | (s, false) => runEvent s
      | (s, true) =>
        let s := s.dropSent t.tile fun r => r.owner = .place t.key x.ord
        if s.hwErrors.contains (.load thread) then
          let s := { s with hwErrors := s.hwErrors.erase (.load thread) }
          if x.again then runEvent (raiseTrapFor s thread t .dataError 0 (some (x.bundle, x.own)))
          else
            let t := setSlot t slot { x with again := true }
            runEvent (if t.run = .running then rerunBlock s thread t else s.setThread thread t)
        else
          let (s, v) := landBytes s t x
          let v := (slotFwd t x).foldl (fun v f => setBits v (8 * f.1 + 7) (8 * f.1) f.2.toNat) v
          runEvent (settleTrap
            (s.setThread thread (setSlot t slot { x with state := .landed, data := BitVec.ofNat 8192 v })) t.op)
    else .next s

/-- `commit` (R185): interlocked with the landing; a parity error has the load issued again, a second ends the
context. -/
def execCommit (d : VDst) (slot : Fin 32) (s : State) : Host.Outcome State Fault Refusal :=
  runOp s fun t => do
    let x := t.regs.slots[slot]
    match x.state with
    | .free => throw (.trap .illegal 0)
    | .pending => throw (.wait (.slot slot))
    | .landed =>
      if ← hwStrike (.slotParity t.key) then
        if x.parity then throw (.trap .dataError 0) else throw (.wait (.again slot))
      let key := opk 0x214 0
      let t ← putV t 0 1 false d x.data (fold key x.lin 0 0) key 4 256 fun _ => true
      return { t with blk := { t.blk with committed := slot :: t.blk.committed } }

/-! ## Vector stores (R276 to R278) -/

/-- `st.v` (R276). -/
def execStV (base : Base) (off : BitVec 24) (b : VSrc) (col : Fin 8) (s : State) : Host.Outcome State Fault Refusal :=
  runOp s fun t => do
    let (t, v, g) ← readV t b
    storeBase t (opk 0x212 0) base off (leBytes 1024 v.toNat) 4 g col

/-- `st.vs` (R277): its lanes are one request, at one place in program order, in lane order. -/
def execStVs (base : Base) (b c : VSrc) (ty : Ty) (msk : Fin 16) (col : Fin 8) (s : State) :
    Host.Outcome State Fault Refusal :=
  runOp s fun t => do
    if !gatherBaseOk t.regs base then throw (.trap .illegal 0)
    let (t, v, g) ← readV t b
    let (t, idx, gi) ← readV t c
    let ot := viewOf (← get) t
    let t ← chargeStores t 1024
    let items ← ((List.range 256).filter (maskActive t.regs msk)).mapM fun i => do
      storeItems t (← liftM (laneAddr ot t.regs base ty idx i)) (bytesFrom v.toNat (4 * i) 4) col
    return storeSig (putItems t items.flatten) (opk 0x213 (tyTo ty)) g (mix (baseTag t.regs base) gi) 0

/-! ## Handles (R173 to R175) -/

/-- A handle record as an h register holds it: the reserved fields are 0 (R7, R109, R175). -/
def handleRecord (r : Nat) : HRec := BitVec.ofNat 256 (setBits (setBits r 63 63 0) 223 200 0)

/-- `hld` (R173, R174). -/
def execHld (d : Fin 32) (base : Base) (off : BitVec 24) (s : State) : Host.Outcome State Fault Refusal :=
  runOp s fun t => do
    let (bs, g) ← loadBase t (opk 0x218 0) base off 32 32
    return putDest t 1 (.h d (handleRecord (leOf bs))) g

/-- `hst` (R173, R174). -/
def execHst (base : Base) (off : BitVec 24) (b : Fin 32) (col : Fin 8) (s : State) : Host.Outcome State Fault Refusal :=
  runOp s fun t => storeBase t (opk 0x219 0) base off (leBytes 32 t.regs.h[b].toNat) 32 t.regs.hTag[b] col

/-- `hset` (R175): the reserved fields are forced to 0. -/
def execHset (d a : Fin 32) (b : SSrc) (k : Fin 8) (s : State) : Host.Outcome State Fault Refusal :=
  runPure s fun t => do
    let (x, g) ← readS t b
    let r := setBits t.regs.h[a].toNat (32 * k.val + 31) (32 * k.val) x.toNat
    return putDest t 1 (.h d (handleRecord r)) (fold (opk 0x21A 0) t.regs.hTag[a] g 0)

/-! ## Walkers (R178, R179) -/

/-- The parameter scalars of level `j`: count and stride (R178). -/
def walkCount (r : Regs) (p : Fin 32) (j : Nat) : W32 := r.s.toList.getD (2 * p.val + 2 + 2 * j) 0
def walkStride (r : Regs) (p : Fin 32) (j : Nat) : W32 := r.s.toList.getD (2 * p.val + 3 + 2 * j) 0
def walkLevelOk (r : Regs) (p : Fin 32) (j : Nat) : Bool :=
  let n := (walkCount r p j).toNat
  let st := (walkStride r p j).toInt
  n ≠ 0 && n ≤ 65535 && st % 4 = 0 && -(2 ^ 23 : Int) ≤ st && st ≤ 2 ^ 23 - 4

/-- `wset` (R178, R179). It acts at issue: a port that a later slot of its bundle pops or captures sees the new walker
(DESIGN CHOICE, log entry 80). -/
def execWset (w : Fin 6) (p : Fin 32) (levels : Fin 16) (imm : W32) (s : State) : Host.Outcome State Fault Refusal :=
  runPure s fun t =>
    let r := t.regs
    let a := wrapN 64 ((pairVal r p).toNat + imm.toInt)
    if !bit a 63 || bits a 62 28 ≠ 0 || a % 4 ≠ 0 || !((List.range levels.val).all (walkLevelOk r p)) then illegal
    else if r.w[w].busy then .error (.wait .other)
    else
      let lin := fold (opk 0x244 0) r.sTag[pairLo p] r.sTag[pairHi p] imm
      let lin := (List.range (2 * levels.val)).foldl
        (fun g j => mix g (r.sTag.toList.getD (2 * p.val + 2 + j) 0)) lin
      let field (n : Nat) (f : Nat → W32) (j : Nat) : BitVec n := if j < levels.val then (f j).setWidth n else 0
      let x : Walker :=
        { lineage := lin, stride := Vector.ofFn fun j => field 24 (walkStride r p) j.val,
          count := Vector.ofFn fun j => field 16 (walkCount r p) j.val, levels := Fin.ofNat 4 (levels.val - 1),
          configured := true, region := Fin.ofNat 64 (bits a 27 22), origin := BitVec.ofNat 22 a }
      .ok (addSig (setWalker t w x) lin)

/-! ## Barriers (R283 to R286) -/

/-- `mark` (R283, R284): it covers every colour, and older loads. -/
def execMark (sc : Scope) (s : State) : Host.Outcome State Fault Refusal :=
  runPure s fun t => .ok { addPend t (.barrier true sc 0xFF t.ord) with ord := t.ord + 1 }

/-- `fence` (R283, R285). -/
def execFence (sc : Scope) (mask : BitVec 8) (s : State) : Host.Outcome State Fault Refusal :=
  runPure s fun t => .ok { addPend t (.barrier false sc mask t.ord) with ord := t.ord + 1 }

/-! ## Regions (R104 to R106, R288) -/

/-- `rmap` (R105). -/
def execRmap (n : Fin 64) (p : Fin 32) (b : SSrc) (s : State) : Host.Outcome State Fault Refusal :=
  runPure s fun t => do
    let (len, _) ← readS t b
    let r := regionOf (s.opTile t.ot) n.val
    let a := (pairVal t.regs p).toNat
    if r.size = 0 || bits a 63 57 ≠ 0 || bits a 11 0 ≠ 0 || len.toNat ≠ r.size.toNat * 4096 then illegal
    else return { addPend t (.rmap n (BitVec.ofNat 57 a) t.ord) with ord := t.ord + 1 }

/-- `runmap` (R105). -/
def execRunmap (n : Fin 64) (s : State) : Host.Outcome State Fault Refusal :=
  runPure s fun t =>
    if (regionOf (s.opTile t.ot) n.val).size = 0 then illegal
    else .ok { addPend t (.runmap n t.ord) with ord := t.ord + 1 }

/-- `stamp` (R288). -/
def execStamp (n : Fin 64) (a : SSrc) (s : State) : Host.Outcome State Fault Refusal :=
  runPure s fun t => do
    let (v, g) ← readS t a
    if (regionOf (s.opTile t.ot) n.val).size = 0 then illegal
    else return addSig (addPend t (.stamp n v)) (fold (opk 0x240 0) g (BitVec.ofNat 32 n.val) 0)

/-- The 64 KiB pages of a range, each with the part of it that lies in the range. -/
def pageRuns (a len : Nat) : List (Nat × Nat) :=
  if len = 0 then []
  else (List.range ((a + len - 1) / 2 ^ 16 + 1 - a / 2 ^ 16)).map fun i =>
    let lo := max a ((a / 2 ^ 16 + i) * 2 ^ 16)
    (lo, min (a + len) ((a / 2 ^ 16 + i + 1) * 2 ^ 16) - lo)

/-- `rflush` (R287): every page of the range is translated at the bundle. -/
def execRflush (p : Fin 32) (b : SSrc) (s : State) : Host.Outcome State Fault Refusal :=
  runOp s fun t => do
    let (len, _) ← liftM (readS t b)
    let a := (pairVal t.regs p).toNat
    if bit a 63 || (s.pondOf t.op).isSome then throw (.trap .illegal 0)
    if bits a 62 57 ≠ 0 || 2 ^ 57 < a + len.toNat then throw (.trap .translation 0)
    let pas ← (pageRuns a len.toNat).mapM fun r => do
      let (s', x) := translate (← get) t.tile t.launch.pasid.toNat r.1 false
      set s'
      match x with
      | none => throw (.trap .translation 0)
      | some (pa, _) => return (pa, r.2)
    return { addPend t (.rflush pas t.ord t.pc) with ord := t.ord + 1 }

/-! ## Fills (R100) -/

/-- A region with a granule filled: it becomes valid. -/
def fillRegion (r : Region) (g : Nat) (bs : List Byte) : Region :=
  let cells := (frontCells r).filter fun e => e.1 / 4096 ≠ g
  let r := setFront r (writeBytes cells (4096 * g) bs)
  { r with gran := mput r.gran g .valid }

/-- A granule's 4 KiB by lines, each translated through a tile's TLB; no bytes where its page does not translate, which
WKERR keeps where it is malformed (R69). -/
def granuleBytes (op tile pasid va : Nat) : Nat → State → List Byte → State × Option (List Byte)
  | 0, s, acc => (s, some acc)
  | n + 1, s, acc =>
    match translateOp s op tile pasid (va + 64 * (63 - n)) false with
    | (s, none) => (s, none)
    | (s, some (pa, c)) =>
      let (s, bs) := opRead s op tile pa 64 c
      granuleBytes op tile pasid va n s (acc ++ bs)

/-- The line requests of a granule's fill or write-back at a virtual address (R437); an L1 copy serves a fill. -/
def granuleReqs (s : State) (otk pasid region g va : Nat) (write : Bool) : List PortReq :=
  (List.range 64).filterMap fun i =>
    match walk s pasid (va + 64 * i) with
    | .leaf _ large e =>
      some (portReq s (otk / 512) (lineOf (leafPa large e (va + 64 * i))) (.granule otk region g) (bits e 7 6 = 0 && !write))
    | _ => none

/-- A granule of a region filled from its global range, where that translates. -/
def fillFrom (s : State) (op tile pasid : Nat) (r : Region) (g : Nat) : State × Option Region :=
  let p := granuleBytes op tile pasid (r.gva.toNat + 4096 * g) 64 s []
  (p.1, p.2.map (fillRegion r g))

/-- Fills an empty granule; false where it does not translate. -/
def fillGranule (s : State) (tile pasid otk region g : Nat) : State × Bool :=
  match fillFrom s (otk / 512) tile pasid (regionOf (s.opTile otk) region) g with
  | (s, some r) => (s.setOpTile otk ((s.opTile otk).setRegion region r), true)
  | (s, none) => (s, false)

/-- The sequencer that waits for a fill. -/
def fillWaiter (s : State) (otk : Nat) (region : Fin 64) (g : Nat) : Option (Nat × Thread) :=
  s.threads.find? fun e => e.2.flow = .stalled (.fill otk region g)

/-- The completion of a fill that a sequencer waits for (R100): a step of the device. A page that no longer
translates gives the sequencer that touched it "translation fatal". A block that still sees an older mapping of the
region has its own copy filled (R106). -/
def execGranuleFill (otk : Nat) (region : Fin 64) (g : Nat) (s : State) : Host.Outcome State Fault Refusal :=
  match fillWaiter s otk region g with
  | none => .next s
  | some (k, t) =>
    let r := viewRegion s t region.val
    let pasid := t.launch.pasid.toNat
    if granOf r (4096 * g) ≠ some .empty then .next s
    else match wantLines s t.tile (granuleReqs s otk pasid region.val g (r.gva.toNat + 4096 * g) false) with
    | (s, false) => runEvent s
    | (s, true) =>
      let s := s.dropSent t.tile fun q => q.owner = .granule otk region.val g
      if (mfind t.blk.kept region.val).isSome then
        match fillFrom s t.op t.tile pasid r g with
        | (s, some r) =>
          runEvent (s.setThread k { t with blk := { t.blk with kept := mput t.blk.kept region.val r } })
        | (s, none) => runEvent (raiseTrap s k t .translation 0)
      else match fillGranule s t.tile pasid otk region.val g with
      | (s', true) => runEvent s'
      | (s', false) => runEvent (raiseTrap s' k t .translation 0)

end Sys2Proof.Machine
end

