-- ==== Sys2Proof/Machine/Gated.lean ====
section
/-! DEFINITION. Gated operations: capture at the bundle, issue after the seal (R42, R49, R282, R310). -/

namespace Sys2Proof.Machine

/-- Gated operations the block has captured so far, scratchpad atomics included (R42). -/
def gatedCount (t : Thread) : Nat :=
  t.blk.gated.length + (t.blk.stores.filter fun | .atom _ => true | _ => false).length

/-- One more gated operation within the declared limit (R42). -/
def chargeGated (t : Thread) : Op Unit := do
  match declared (← get) t with
  | some x => if x.gated.toNat < gatedCount t + 1 then throw (.trap .illegal 0)
  | none => throw (.trap .illegal 0)

/-- Captures an operation with the registers as they stand at its place. -/
def capture (i : Instr) (t : Thread) : Op Thread := do
  chargeGated t
  let g : Gated := { instr := i, regs := t.regs, bundle := t.pc, ord := t.ord }
  return { t with blk := { t.blk with gated := t.blk.gated ++ [g] }, ord := t.ord + 1 }

/-- Gated operations a pond run may use (R357). -/
def pondMay : Instr → Bool
  | .probe _ _ _ _ | .release _ _ | .waitA _ _ _ _ | .exit _ | .flPublish _ | .flPoll _ | .flCancel _ | .mLease _
  | .mFree _ | .mZero _ | .mWait | .mMma _ | .mMmas _ _ _ _ _ _ _ _ _ | .mCellp _ | .mProg _ _ | .mDrain _ _ _ _ _ _
  | .mFill _ _ _ | .mAdd _ _ _ _ | .mScale _ _ _ | .mBfly _ _ _ _ _ _ _ | .mBrev _ _ _ _ _ _ | .mTwid _ _ _ _ _ _ _
  | .mTmul _ _ _ => true
  | .flCopy x | .flXpose x | .flPerm x | .flGather x | .flFill x | .flPatch x | .flRope x | .flScatter x => x.eng = 0
  | _ => false

/-- A gated operation in its two phases: `cap` at its place in the block; `iss` after the seal, when it is the first
one left, with the sequencer from which it has been taken. -/
def runGated (i : Instr) (cap : Thread → Op Thread) (iss : Gated → Thread → Op Thread) (s : State) :
    Host.Outcome State Fault Refusal :=
  runOp s fun t => do
    if t.run = .issuing then
      match t.issue with
      | g :: rest =>
        if g.instr = i then
          if ((← get).pondOf t.op).isSome && !pondMay i then throw (.trap .illegal 0)
          let t ← iss g { t with issue := rest }
          return finishIssue (← get) t
        else return t
      | [] => return t
    else cap t

/-- A younger access waits behind the barriers before it (R284, R285). -/
def awaitBarriers (g : Gated) (t : Thread) : Op Unit := do
  let s ← get
  if (t.barriers.any fun b => b.ord < g.ord && !barrierMet s t b) then throw (.wait .queues)

/-- A register result of a gated operation, written at the start of the next block. -/
def giveResult (t : Thread) (d : Fin 64) (v : W32) : Thread := { t with results := t.results ++ [(d, v)] }

end Sys2Proof.Machine
end

