-- ==== Sys2Proof/Machine/Atomics.lean ====
section
/-! DEFINITION. Atomics, update-only lines and the colour queues (R93 to R95, R270 to R275, R279 to R282, R287). -/

namespace Sys2Proof.Machine

/-! ## Capture and issue (R279 to R282) -/

/-- The operands of an atomic as an operation names them. -/
structure AtForm where
  kind : AtKind
  wide : Bool
  base : Base
  off : Int
  b : Fin 64
  cmp : Option (Fin 64)
  dest : Option (Fin 64)
  col : Fin 8
  deriving DecidableEq, Repr

/-- A single register or an even pair as a 64-bit number (R279). -/
def atOperand (r : Regs) (wide : Bool) (n : Fin 64) : W64 :=
  if wide then pairVal r (evenPair n) else r.s[n].setWidth 64

def atBytes (f : AtForm) : Nat := if f.wide then 8 else 4

/-- The atomic an operation stands for, at a location, with the registers `r`. -/
def atBuild (f : AtForm) (r : Regs) (l : Loc) (ord : Nat) : Atomic :=
  { kind := f.kind, wide := f.wide, loc := l, v := atOperand r f.wide f.b,
    cmp := (f.cmp.map (atOperand r f.wide)).getD 0, dest := f.dest, col := f.col, ord := ord }

/-- Capture: the address is formed and checked at the bundle; a scratchpad atomic joins the block's stores (R95). -/
def atCapture (i : Instr) (f : AtForm) (t : Thread) : Op Thread := do
  let (a, _) ← liftM (baseAddr (viewOf (← get) t) t.regs f.base f.off (atBytes f) (atBytes f))
  match a with
  | .glob _ => capture i t
  | .scr r o =>
    chargeGated t
    touch t r o
    return { t with
      blk := { t.blk with stores := t.blk.stores ++ [.atom (atBuild f t.regs (.scr r o) t.ord)] }, ord := t.ord + 1 }

/-- The lines of physical ranges. -/
def rangesOn (pas : List (Nat × Nat)) (line : Nat) : Bool := pas.any fun r => r.1 / 64 ≤ line && line * 64 < r.1 + r.2

/-- Whether a queue entry writes or flushes bytes of a line through a cached mapping (R275). -/
def entryOn (x : QEntry) (line : Nat) : Bool :=
  match x with
  | .st y => (match y.loc with | .glob p c => c && lineOf p = line | .scr _ _ => false)
  | .atom y => (match y.loc with | .glob p c => c && lineOf p = line | .scr _ _ => false)
  | .flush pas _ _ _ _ => rangesOn pas line

/-- Whether an atomic combines with what its tile's update-only line records (R93). -/
def Uol.fits (u : Uol) (a : Atomic) : Bool := u.kind = a.kind && u.wide = a.wide && u.col = a.col

/-- A commutative atomic enters its tile's update-only line, which takes it (R93). -/
def enterUol (s : State) (tile key : Nat) (a : Atomic) (pa : Nat) : State :=
  let line := lineOf pa
  let off := pa % 64
  let u := (mfind (s.tile tile).uol line).getD { kind := a.kind, wide := a.wide, col := a.col, words := [], from_ := [] }
  let w := if a.wide then 64 else 32
  let v := match mfind u.words off with
    | some x => BitVec.ofNat 64 (atInt a.kind w x.toNat a.v.toNat)
    | none => a.v
  let u := { u with words := mput u.words off v, from_ := (key, a.ord) :: u.from_ }
  s.setTile tile { s.tile tile with uol := mput (s.tile tile).uol line u }

/-- Whether an older write of the sequencer to the line has not performed (R275), or an older matrix command still
reads there (R273). -/
def olderOnLine (s : State) (t : Thread) (a : Atomic) (line : Nat) : Bool :=
  ((queued t).any fun e => e.ord < a.ord && entryOn e line) || behindCommands s t a.ord a.loc a.bytes

/-- Whether an L1 can hold one more update-only line: it keeps room for the lines that its outstanding requests fetch,
and the lines it has are evicted through the port (R94, R437). -/
def uolRoom (t : Tile) : Bool := t.uol.length + Config.outstanding < Config.l1Lines

/-- Whether an older atomic of the sequencer waits to enter the line: the younger one follows it (R93, R270). -/
def olderWaits (t : Thread) (a : Atomic) (line : Nat) : Bool :=
  t.waiting.any fun x => x.ord < a.ord && (match x.loc with
    | .glob p _ => lineOf p = line
    | .scr _ _ => false)

/-- Whether nothing of its own sequencer stands before a commutative atomic (R270, R275). -/
def mayReach (s : State) (t : Thread) (a : Atomic) (pa : Nat) : Bool :=
  !olderOnLine s t a (lineOf pa) && !olderWaits t a (lineOf pa)

/-- Whether a commutative atomic enters its update-only line now: nothing older stands before it (R275), and the line
holds none that differs, which is merged first (R93). -/
def mayEnter (s : State) (t : Thread) (a : Atomic) (pa : Nat) : Bool :=
  mayReach s t a pa &&
    match mfind (s.tile t.tile).uol (lineOf pa) with
    | some u => u.fits a
    | none => uolRoom (s.tile t.tile)

/-- An atomic that differs from what the line records sends the whole line to be merged (R93): through the port, as an
eviction does, and the line is merged once its request has left. -/
def sendDiffering (s : State) (t : Thread) (a : Atomic) (pa : Nat) : State :=
  match mfind (s.tile t.tile).uol (lineOf pa) with
  | some u =>
    if u.fits a || !mayReach s t a pa then s
    else match wantLines s t.tile [portReq s t.op (lineOf pa) .evict false] with
    | (s, true) => mergeTileLine s t.tile (lineOf pa)
    | (s, false) => s
  | none => s

/-- Issue: translated once; a commutative atomic of a cached page goes to its update-only line or waits for it, a
returning one goes to its colour queue (R275, R281), and so does a commutative one of an uncached page, whose way to the
home the spec leaves open (DESIGN CHOICE, log entry 69). An uncorrectable error at the home ends the context (R282). -/
def atIssue (f : AtForm) (g : Gated) (t : Thread) : Op Thread := do
  awaitBarriers g t
  let (a, _) ← liftM (baseAddr (viewOf (← get) t) g.regs f.base f.off (atBytes f) (atBytes f))
  let l ← resolveRmw t a
  match loadWaits { t with queues := Vector.replicate 8 [], waiting := [] } l (atBytes f) g.ord with
  | some n => throw (.wait n)
  | none =>
    if ← hwStrike (.home t.key) then throw (.trap .dataError 0)
    let x := atBuild f g.regs l g.ord
    match l with
    | .glob pa true =>
      if f.dest.isSome then return enterQueue t f.col (.atom x)
      else
        modify fun s => sendDiffering s t x pa
        if mayEnter (← get) t x pa then
          modify fun s => enterUol s t.tile t.key x pa
          return t
        else return { t with waiting := t.waiting ++ [x] }
    | _ => return enterQueue t f.col (.atom x)

def runAtomic (i : Instr) (f : AtForm) (s : State) : Host.Outcome State Fault Refusal :=
  runGated i (atCapture i f) (atIssue f) s

/-- The form of a commutative atomic. -/
def AtOp.form (k : AtKind) (x : AtOp) : AtForm :=
  { kind := k, wide := x.wide, base := x.base, off := sext24 x.off, b := x.b, cmp := none, dest := none, col := x.col }

/-- `at.add` (R279, R280). -/
def execAtAdd (x : AtOp) (s : State) : Host.Outcome State Fault Refusal := runAtomic (.atAdd x) (AtOp.form .add x) s
/-- `at.min` (R279, R280). -/
def execAtMin (x : AtOp) (s : State) : Host.Outcome State Fault Refusal := runAtomic (.atMin x) (AtOp.form .min x) s
/-- `at.max` (R279, R280). -/
def execAtMax (x : AtOp) (s : State) : Host.Outcome State Fault Refusal := runAtomic (.atMax x) (AtOp.form .max x) s
/-- `at.and` (R279, R280). -/
def execAtAnd (x : AtOp) (s : State) : Host.Outcome State Fault Refusal := runAtomic (.atAnd x) (AtOp.form .and x) s
/-- `at.or` (R279, R280). -/
def execAtOr (x : AtOp) (s : State) : Host.Outcome State Fault Refusal := runAtomic (.atOr x) (AtOp.form .or x) s
/-- `at.xor` (R279, R280). -/
def execAtXor (x : AtOp) (s : State) : Host.Outcome State Fault Refusal := runAtomic (.atXor x) (AtOp.form .xor x) s

/-- `at.cas` (R279, R280): sB is the compare value, sC the new one. -/
def execAtCas (d : Fin 64) (base : Base) (b c : Fin 64) (wide : Bool) (col : Fin 8) (s : State) :
    Host.Outcome State Fault Refusal :=
  runAtomic (.atCas d base b c wide col)
    { kind := .cas, wide := wide, base := base, off := 0, b := c, cmp := some b, dest := some d, col := col } s

/-- `at.xchg` (R279, R280). -/
def execAtXchg (d : Fin 64) (x : AtOp) (s : State) : Host.Outcome State Fault Refusal :=
  runAtomic (.atXchg d x) { AtOp.form .xchg x with dest := some d } s

/-- `at.fadd` (R279, R280). -/
def execAtFadd (d : Fin 64) (base : Base) (off : BitVec 24) (b : Fin 64) (col : Fin 8) (s : State) :
    Host.Outcome State Fault Refusal :=
  runAtomic (.atFadd d base off b col)
    { kind := .fadd, wide := false, base := base, off := sext24 off, b := b, cmp := none, dest := some d, col := col } s

/-! ## The colour queues perform (R270, R274, R284 to R287) -/

/-- The bytes a queue entry writes. -/
def QEntry.bytes : QEntry → Option (Loc × Nat)
  | .st y => some (y.loc, y.data.length)
  | .atom a => some (a.loc, a.bytes)
  | .flush _ _ _ _ _ => none

/-- Whether a queue entry writes bytes of a location. -/
def entryOver (x : QEntry) (l : Loc) (n : Nat) : Bool := x.bytes.any fun b => locMeets b.1 b.2 l n
/-- Whether two queue entries write the same byte (R270). -/
def entriesMeet (x y : QEntry) : Bool := y.bytes.any fun b => entryOver x b.1 b.2

/-- Whether a queue entry stands behind a gated operation of its sequencer that has not issued: behind a returning
atomic, `take` or drain of its colour (R274, R256, R348), of its bytes (R270), or a commutative atomic of its line
(R275). -/
def behindGated (s : State) (t : Thread) (c : Fin 8) (x : QEntry) (g : Gated) : Bool :=
  match gatedCol g with
  | none => false
  | some k =>
    (gatedHolds g && g.ord < x.place && (x.isFlush || k = c))
      || (g.ord < x.ord && (match gatedLoc s t g with
        | some (.glob pa ca, n) => if ca && !gatedHolds g then entryOn x (lineOf pa)
            else entryOver x (.glob pa ca) n || (x.isFlush && entryOn x (lineOf pa))
        | _ => (match g.instr, x.bytes with
          | .mDrain _ a _ _ _ _, some (.glob pa ca, _) => handleOnPage s t.launch.pasid.toNat g.regs.h[a] pa ca
          | _, _ => false)))

/-- Whether an older landing-slot load of its sequencer has still to read bytes a write touches (R270, R273). -/
def behindSlots (t : Thread) (ord : Nat) (l : Loc) (n : Nat) : Bool :=
  t.regs.slots.toList.any fun y => y.state = .pending && y.ord < ord && y.pieces.any fun p => locMeets p.loc p.len l n

/-- Whether the head of a colour queue may perform: barriers before it are met, older writes and loads of its bytes have
performed, and it stands behind no older gated operation, waiting atomic or matrix command. -/
def mayPerform (s : State) (t : Thread) (c : Fin 8) (x : QEntry) : Bool :=
  (t.barriers.all fun b => x.ord < b.ord || barrierMet s t b)
    && ((queued t).all fun e => x.ord ≤ e.ord || !entriesMeet e x)
    && (x.bytes.all fun b => !behindCommands s t x.ord b.1 b.2 && !behindSlots t x.ord b.1 b.2)
    && (t.mq.all fun m => x.ord < m.ord || (drainsTo m).isNone || (c ≠ 0 && !x.isFlush))
    && (t.waiting.all fun a => x.ord < a.ord || !(match a.loc with | .glob p _ => entryOn x (lineOf p) | _ => false))
    && (t.issue.all fun g => !behindGated s t c x g)
    && (!x.isFlush || t.queues.toList.all fun q => q.head? = some x)

/-- Commutative atomics that waited enter their update-only lines where they now may, in program order (R93, R275). -/
def drainWaiting (s : State) (k : Nat) : State :=
  match mfind s.threads k with
  | none => s
  | some t =>
    let p := t.waiting.foldl (fun (p : State × List Atomic) a =>
      match a.loc with
      | .glob pa _ =>
        let t := { t with waiting := p.2 }
        let s := sendDiffering p.1 t a pa
        if mayEnter s t a pa then (enterUol s t.tile t.key a pa, p.2) else (s, p.2 ++ [a])
      | .scr _ _ => p) (s, [])
    p.1.setThread k { t with waiting := p.2 }

/-- So they do wherever the line they waited for has gone, whoever merged it (R93). -/
def startWaiting (s : State) : State :=
  (s.threads.filter fun e => e.2.waiting ≠ []).foldl (fun s e => drainWaiting s e.1) s

/-! ## Region write-back at once (R101) -/

/-- Whether a granule of a region holds a byte of a flushed range of physical addresses. -/
def granuleFlushed (s : State) (pasid : Nat) (r : Region) (g : Nat) (pas : List (Nat × Nat)) : Bool :=
  match peekAddr s pasid (r.gva.toNat + 4096 * g) with
  | none => false
  | some pa => pas.any fun x => x.1 < pa + 4096 && pa < x.1 + x.2

/-- Writes a granule's words to its global range as performed stores (R101). -/
def writeGranuleNow (s : State) (op tile pasid : Nat) (r : Region) (g : Nat) : State × Bool :=
  (List.range 512).foldl (fun (p : State × Bool) i =>
    match translateOp p.1 op tile pasid (r.gva.toNat + 4096 * g + 8 * i) true with
    | (s, none) => (s, false)
    | (s, some (pa, c)) => (physWrite s tile pa (readBytes (frontCells r) (4096 * g + 8 * i) 8) c, p.2)) (s, true)

/-- A dirty granule of an operator's tile. -/
structure Dirty where
  ot : Nat
  region : Nat
  gran : Nat
  deriving DecidableEq, Repr

/-- The dirty granules of an operator's tile that `f` selects. -/
def dirtyOf (s : State) (otk : Nat) (f : Region → Nat → Bool) : List Dirty :=
  (s.opTile otk).regions.flatMap fun e =>
    if e.2.mapped then (e.2.gran.filter fun g => g.2 = .dirty && f e.2 g.1).map fun g => ⟨otk, e.1, g.1⟩ else []

def opPasid (s : State) (op : Nat) : Nat := ((mfind s.ops op).map (·.pasid)).getD 0

/-- The line requests of a write-back of granules (R437). -/
def dirtyReqs (s : State) (ds : List Dirty) : List PortReq :=
  ds.flatMap fun d =>
    let r := regionOf (s.opTile d.ot) d.region
    granuleReqs s d.ot (opPasid s (d.ot / 512)) d.region d.gran (r.gva.toNat + 4096 * d.gran) true
def isDirtyReq (ds : List Dirty) (q : PortReq) : Bool :=
  match q.owner with
  | .granule otk n g => ds.contains ⟨otk, n, g⟩
  | _ => false

/-- Writes one granule back on a tile, and it becomes valid; false where it does not translate. -/
def writeBackNow (s : State) (tile : Nat) (d : Dirty) : State × Bool :=
  let r := regionOf (s.opTile d.ot) d.region
  let (s, ok) := writeGranuleNow s (d.ot / 512) tile (opPasid s (d.ot / 512)) r d.gran
  let r := regionOf (s.opTile d.ot) d.region
  (s.setOpTile d.ot ((s.opTile d.ot).setRegion d.region { r with gran := mput r.gran d.gran .valid }), ok)

/-- Writes granules back; those whose pages do not translate. -/
def writeBackAll (s : State) (tile : Nat) (ds : List Dirty) : State × List Dirty :=
  ds.foldl (fun (p : State × List Dirty) d =>
    let q := writeBackNow p.1 tile d
    (q.1, if q.2 then p.2 else p.2 ++ [d])) (s, [])

/-- The operators' tiles that stand on a physical tile, but for those of switched-out and held operators, whose regions a
flush of another sequencer leaves alone (DESIGN CHOICE, log entry 66). -/
def opTilesOn (s : State) (tile : Nat) : List Nat :=
  ((s.threads.filter fun e => e.2.tile = tile && (mfind s.ops e.2.op).any fun o => o.state ≠ .out && o.state ≠ .held).map
    fun e => e.2.ot).eraseDups

/-! ## Flushes (R108, R287) -/

/-- The dirty granules of a tile's regions that a flush overlaps (R101, R108). -/
def flushDirty (s : State) (tile : Nat) (pas : List (Nat × Nat)) : List Dirty :=
  (opTilesOn s tile).flatMap fun otk => dirtyOf s otk fun r g => granuleFlushed s (opPasid s (otk / 512)) r g pas

/-- The effects of a flush on the caches. -/
def flushLines (s : State) (pas : List (Nat × Nat)) : State :=
  let ls := (s.l2.map (·.1)).filter (rangesOn pas) ++ (s.tiles.flatMap fun e => (e.2.uol.map (·.1)).filter (rangesOn pas))
  let s := ls.foldl (fun s l => dropLine (writeBackLine (mergeLine s l) l) l) s
  { s with tiles := s.tiles.map fun e => (e.1, { e.2 with l1 := e.2.l1.filter (!rangesOn pas ·) }) }

/-- A sequencer of an operator's tile whose write-back fails: the one that asked for it, else the first of the tile
(DESIGN CHOICE, log entry 51). -/
def backOwner (s : State) (t : Thread) (d : Dirty) : Option (Nat × Thread) :=
  if t.ot = d.ot then some (t.key, t) else s.threads.find? fun e => e.2.ot = d.ot

/-- A flush performs (R108, R287): the tile's overlapping dirty granules are written back, the caches give the lines
up. A page that does not translate ends the context of the region's operator (R72, R101); of the sequencer's own the record
names the flush's word, `place` (R372). -/
def doFlush (s : State) (t : Thread) (pas : List (Nat × Nat)) (place : W64 × BitVec 16) : State :=
  let (s, bad) := writeBackAll s t.tile (flushDirty s t.tile pas)
  bad.foldl (fun s d => match backOwner s t d with
    | some (k, u) => raiseTrapFor s k ((mfind s.threads k).getD u) .translation 0 (if k = t.key then some place else none)
    | none => s) (flushLines s pas)

/-! ## A queue's head performs -/

/-- An atomic performs at its home (R280, R281), whose L2 alone holds the line for it (R90). -/
def performAtomic (s : State) (k : Nat) (t : Thread) (a : Atomic) : State :=
  match a.loc with
  | .scr _ _ => s
  | .glob pa c =>
    let n := a.bytes
    let (s, bs) := basinBytes s pa n c
    let (new, fl) := atApply a.kind (8 * n) (leOf bs) a.v.toNat a.cmp.toNat
    let s := physWrite s t.tile pa (leBytes n new) c
    match mfind s.threads k with
    | none => s
    | some t => s.setThread k { t with results := t.results ++ atResults a (leOf bs), lateFlags := t.lateFlags ||| fl }

/-- The lines of the next entries of a queue that one access has put there: no store instruction makes more than 256. -/
def linesAt (q : List QEntry) (ord : Nat) : List Nat :=
  (q.take 256).filterMap fun e => if e.ord = ord then (match e.bytes with
    | some (.glob p _, _) => some (lineOf p)
    | _ => none) else none

/-- The line requests of the head of a queue `q` (R391, R437): one for each line its access still writes through. -/
def entryReqs (s : State) (t : Thread) (q : List QEntry) (x : QEntry) : List PortReq :=
  match x with
  | .flush pas _ _ _ _ => dirtyReqs s (flushDirty s t.tile pas)
  | _ => (linesAt q x.ord).map fun l => portReq s t.op l (.place t.key x.ord) false

/-- The requests the head has used, `rest` standing behind it: a line's request serves every word its access writes
there. -/
def entryUsed (s : State) (t : Thread) (rest : List QEntry) (x : QEntry) (q : PortReq) : Bool :=
  match x with
  | .flush pas _ _ _ _ => isDirtyReq (flushDirty s t.tile pas) q
  | _ => q.owner = .place t.key x.ord && !(linesAt rest x.ord).contains q.line

/-- A cached write of a line merges its update-only data first. -/
def mergeFor (s : State) (x : QEntry) : State :=
  match x.bytes with
  | some (.glob p true, _) => mergeLine s (lineOf p)
  | _ => s

/-- The head of a colour queue performs once its line requests have left the port: a step of the device. -/
def execColourQueuePerform (k : Nat) (c : Fin 8) (s : State) : Host.Outcome State Fault Refusal :=
  match mfind s.threads k with
  | none => .next s
  | some t =>
    match t.queues[c] with
    | [] => .next s
    | x :: rest =>
      if !mayPerform s t c x then .next s
      else match wantLines s t.tile (entryReqs s t t.queues[c] x) with
      | (s, false) => runEvent s
      | (s, true) =>
        let t' := { t with queues := t.queues.map fun q => if q.head? = some x then q.tail else q }
        let s1 := mergeFor ((s.dropSent t.tile (entryUsed s t rest x)).setThread k t') x
        match x with
        | .st y =>
          match y.loc with
          | .glob pa ch => runEvent (drainWaiting (physWrite s1 t.tile pa y.data ch) k)
          | .scr _ _ => runEvent (drainWaiting s1 k)
        | .atom a => runEvent (drainWaiting (performAtomic s1 k t' a) k)
        | .flush pas _ _ b own => runEvent (drainWaiting (doFlush s1 t' pas (b, own)) k)

/-- The L1 of a tile evicts an update-only line, which merges (R94): a step of the device. It leaves through the port;
what a recall takes does not (DEDUCED, log entry 52). -/
def execUpdateOnlyLineEviction (tile line : Nat) (s : State) : Host.Outcome State Fault Refusal :=
  match mfind (s.tile tile).uol line with
  | none => .next s
  | some u =>
    match wantLines s tile [portReq s (keyOp (u.from_.headD (0, 0)).1) line .evict false] with
    | (s, false) => runEvent s
    | (s, true) => runEvent (startWaiting (mergeTileLine s tile line))

/-- The L2 writes a line back, and with `evict` gives it up with every copy (R90, R91): a step of the device. -/
def execL2WriteBack (line : Nat) (evict : Bool) (s : State) : Host.Outcome State Fault Refusal :=
  let s := writeBackLine s line
  runEvent (if evict then dropLine s line else s)

end Sys2Proof.Machine
end

