-- ==== Sys2Proof/Machine/Agent.lean ====
section
/-! DEFINITION. Accesses of the matrix array's load pipes and of the flumes: elements of handles, fills, writes into
a region's shadow and its publish (R100, R102, R111, R119, R121, R124, R241, R256). -/

namespace Sys2Proof.Machine

/-- An agent that works for a sequencer on a tile: the operator's tile, the physical tile whose TLB it uses, the PASID,
the network port it draws on (a tile's, or 416 on for the terrace flumes, R391), and whose its line requests are. -/
structure Agent where
  ot : Nat
  tile : Nat
  pasid : Nat
  port : Nat
  owner : PortOwner
  deriving DecidableEq, Repr

/-- The array's load pipes, for the command at a place. -/
def Thread.agent (t : Thread) (ord : Nat) : Agent :=
  { ot := t.ot, tile := t.tile, pasid := t.launch.pasid.toNat, port := t.tile, owner := .place t.key ord }

/-- The granules a range of a region touches. -/
def granulesOf (off n : Nat) : List Nat :=
  if n = 0 then [] else (List.range ((off + n - 1) / 4096 + 1 - off / 4096)).map fun i => off / 4096 + i

/-- Fills the empty granules of a range (R100), each through its tile's port; their pages are claimed of a victim
(R366). -/
def ensureFilled (g : Agent) (region : Nat) (grans : List Nat) : Op Unit := do
  for k in grans do
    let s ← get
    let r := regionOf (s.opTile g.ot) region
    if pageHeld s (g.ot / 512) g.tile r (4096 * k) then throw (.wait .other)
    let s := claimPage64 s (g.ot / 512) g.tile (granuleAt r (4096 * k) / 16)
    set s
    if granOf r (4096 * k) = some .empty then
      askLines g.tile (granuleReqs s g.ot g.pasid region k (r.gva.toNat + 4096 * k) false)
      let (s', ok) := fillGranule (← get) g.tile g.pasid g.ot region k
      set (s'.dropOwner (.granule g.ot region k))
      if !ok then throw (.trap .translation 0)

/-- Translates the words of a global access of an agent: of each, the physical address, the policy and the length. -/
def agentWords (g : Agent) (ps : List (Nat × Nat)) (write : Bool) : Op (List (Nat × Bool × Nat)) :=
  ps.mapM fun p => do
    let (s', x) := translateOp (← get) (g.ot / 512) g.tile g.pasid p.1 write
    set s'
    match x with
    | none => throw (.trap .translation 0)
    | some (pa, c) => return (pa, c, p.2)

/-- The line requests of an agent's access, one for the words of a line that follow one another: a tile's agents read
cached lines through the L1. -/
def agentReqs (s : State) (g : Agent) (ws : List (Nat × Bool × Nat)) (write : Bool) : List PortReq :=
  ws.foldr (fun w rs =>
    let r := portReq s (g.ot / 512) (lineOf w.1) g.owner (w.2.1 && !write && g.port < Config.tiles)
    if rs.head? = some r then rs else r :: rs) []

/-- Reads bytes as an agent. -/
def agentRead (g : Agent) (a : Addr) (n : Nat) : Op (List Byte) := do
  match a with
  | .scr r o =>
    ensureFilled g r (granulesOf o n)
    let reg := regionOf ((← get).opTile g.ot) r
    return (List.range n).map fun i => regionByte reg (o + i)
  | .glob _ =>
    let ws ← agentWords g ((addrPieces a n).map fun p => (p.1.low, p.2)) false
    askLines g.port (agentReqs (← get) g ws false)
    let bs ← ws.mapM fun w => do
      let s ← get
      let (s', bs) := if g.port < Config.tiles then opRead s (g.ot / 512) g.tile w.1 w.2.2 w.2.1 else basinBytes s w.1 w.2.2 w.2.1
      set s'
      return bs
    return bs.flatten

/-- The byte offset of an element from its handle's base, and whether it stands in the high half of its byte. -/
def elemPlace (h : HRec) (i0 i1 i2 : Int) : Int × Bool :=
  let o := elemOffHalf h (wrapIdx i0 (hExt0 h)) (wrapIdx i1 (hExt1 h)) (wrapIdx i2 (hExt2 h))
  (o / 2, hHalf h = 1 && o % 2 = 1)

/-- The code of a byte string as an element: half a byte for E2M1 (R110). -/
def elemCode (h : HRec) (high : Bool) (bs : List Byte) : Nat :=
  if hHalf h = 1 then (if high then leOf bs / 16 else leOf bs % 16) else leOf bs

/-- Reads element (i0, i1, i2) as an agent. -/
def elemRead (g : Agent) (h : HRec) (i0 i1 i2 : Int) : Op Nat := do
  let (o, high) := elemPlace h i0 i1 i2
  let a ← liftM (handleAddr ((← get).opTile g.ot) h o (elemBytes h))
  return elemCode h high (← agentRead g a (elemBytes h))

/-- The byte writes of one element at an address. -/
def elemWrites (h : HRec) (a : Addr) (high : Bool) (v : Nat) : List ByteWrite :=
  if hHalf h = 1 then [⟨a.low, if high then 0xF0 else 0x0F, BitVec.ofNat 8 (if high then v * 16 else v)⟩]
  else (leBytes (elemBytes h) v).zipIdx.map fun p => ⟨a.low + p.2, 0xFF, p.1⟩

/-- The byte writes of element (i0, i1, i2), its address checked. -/
def elemPut (ot : OpTile) (h : HRec) (i0 i1 i2 : Int) (v : Nat) : Except Stop (List ByteWrite) := do
  let (o, high) := elemPlace h i0 i1 i2
  let a ← handleAddr ot h o (elemBytes h)
  return elemWrites h a high v

def ByteWrite.onto (w : ByteWrite) (old : Byte) : Byte := (old &&& ~~~w.mask) ||| (w.val &&& w.mask)

/-- The bits of a byte that writes cover: both halves where two E2M1 elements share it (R102, R119). -/
def coveredBits (ws : List ByteWrite) (a : Nat) : Byte := ws.foldl (fun m w => if w.at_ = a then m ||| w.mask else m) 0

/-- Whether writes cover a granule in full. -/
def coversGranule (ws : List ByteWrite) (g : Nat) : Bool := (List.range 4096).all fun i => coveredBits ws (4096 * g + i) = 0xFF

/-- The cells of a backing with the writes made, the bytes of granules that were zero set to 0 first. -/
def writtenCells (r : Region) (ws : List ByteWrite) : List Host.Cell :=
  let base := (frontCells r).filter fun e => (granOf r e.1).isSome
  ws.foldl (fun m w => writeByte m w.at_ (w.onto (readByte m w.at_))) base

/-- A region after a publish (R102, R119): the backings swapped, the written granules dirty or valid, the tag set. -/
def publishInto (r : Region) (ws : List ByteWrite) (tag : Tag) : Region :=
  let cells := writtenCells r ws
  let r' := if r.front then { r with a := cells, front := false } else { r with b := cells, front := true }
  { r' with
    tag := tag
    gran := ws.foldl (fun m w => mput m (w.at_ / 4096) (if r.mapped then .dirty else .valid)) r.gran }

/-- Publishes writes into a region (R102, R119): the pages of the shadow backing are claimed of a victim (R366), and an
empty granule written in part is filled first. Bytes and tag change at once: every access, whatever mapping its block
sees, falls before or after. -/
def publishScr (g : Agent) (region : Nat) (ws : List ByteWrite) (tag : Tag) : Op Unit := do
  let touched := (ws.map fun w => w.at_ / 4096).eraseDups
  let s ← get
  let r := regionOf (s.opTile g.ot) region
  if touched.any fun k => pageHeld s (g.ot / 512) g.tile { r with front := !r.front } (4096 * k) then throw (.wait .other)
  ensureFilled g region (touched.filter fun k => !coversGranule ws k)
  modify fun s =>
    -- the write goes to the other backing
    let r := regionOf (s.opTile g.ot) region
    touched.foldl (fun s k => claimPage64 s (g.ot / 512) g.tile (granuleAt { r with front := !r.front } (4096 * k) / 16)) s
  modify fun s =>
    let ot := s.opTile g.ot
    s.setOpTile g.ot (ot.setRegion region (publishInto (regionOf ot region) ws tag))

/-- A scratchpad store of an agent into the front of a region (R121). -/
def frontStore (g : Agent) (region off : Nat) (bs : List Byte) : Op Unit := do
  ensureFilled g region (granulesOf off bs.length)
  modify fun s =>
    let ot := s.opTile g.ot
    s.setOpTile g.ot (ot.setRegion region (regionPuts (regionOf ot region) off bs))

/-- A byte as the writes of an agent find it at its home. -/
def homeNow (s : State) (pa : Nat) (cached : Bool) : Byte := if cached then homeByte s pa else readByte s.mem pa

/-- Writes of a global range, each aligned word at once, as performed stores (R256). -/
def globalWrites (g : Agent) (ws : List ByteWrite) : Op Unit := do
  let ls ← agentWords g (ws.map fun w => (w.at_, 1)) true
  askLines g.port (agentReqs (← get) g ls true)
  (ls.zip ws).forM fun x => modify fun s =>
    physWrite s g.tile x.1.1 [x.2.onto (homeNow s x.1.1 x.1.2.1)] x.1.2.1

/-- Whether every write of a sequencer before a place in program order has performed (R124, R241), its drains into
global memory among them (R256). A flush counts where it stands in the queues (R287). -/
def olderDone (t : Thread) (ord : Nat) : Bool :=
  (queued t).all (fun e => ord ≤ e.place) && t.waiting.all (fun a => ord ≤ a.ord)
    && t.mq.all fun c => ord ≤ c.ord || (drainsTo c).isNone

/-- What a command of the sequencer `k` does to the machine, at its place `ord`: a failed access ends its context and
names the command's bundle and label (R372), and one that waits leaves its line requests only. -/
def runAgent (s : State) (k ord : Nat) (place : W64 × BitVec 16) (f : Op Unit) : State :=
  match f.run s with
  | (.ok _, s') => s'.dropOwner (.place k ord)
  | (.error (.trap c n), s') => match mfind s'.threads k with
    | some t => raiseTrapFor s' k t c n (some place)
    | none => s'
  | (.error _, s') => keepPorts s s'

end Sys2Proof.Machine
end

