-- ==== Sys2Proof/Machine/Round.lean ====
section
/-! DEFINITION. The functions that round once from an irrational value (R14, R223), in fixed point of 320 fraction
bits: the value kept is within a few units of the exact one, and `st` says that the exact value lies between units. -/

namespace Sys2Proof.Machine

/-- Fraction bits of the fixed point. -/
def fixP : Nat := 320
/-- ln 2 in fixed point, rounded down. -/
def fixLn2 : Nat := 0xb17217f7d1cf79abc9e3b39803f2f6af40f343267298b62d8a0d175b8baafa2be7b876206debac98
/-- π in fixed point, rounded down. -/
def fixPi : Nat := 0x3243f6a8885a308d313198a2e03707344a4093822299f31d0082efa98ec4e6c89452821e638d01377

/-- Σ of `n` more terms x^k / k! from term `t` with index `k`; `alt` alternates two steps at a time. -/
def expSeries (x : Nat) : Nat → Nat → Nat → Nat
  | 0, _, _ => 0
  | n + 1, k, t => t + expSeries x n (k + 1) (t * x / 2 ^ fixP / (k + 1))

/-- e^x for x below 1, in fixed point. -/
def fixExp (x : Nat) : Nat := expSeries x 100 0 (2 ^ fixP)

/-- Σ (−1)^j x^(2j + i) / (2j + i)!: the cosine for i = 0, the sine for i = 1. -/
def trigSeries (x2 : Nat) : Nat → Nat → Int → Int
  | 0, _, _ => 0
  | n + 1, k, t => t + trigSeries x2 n (k + 2) (-(t * (x2 : Int) / ((2 ^ fixP : Nat) : Int) / (((k + 1) * (k + 2) : Nat) : Int)))

/-- Σ z^(2j+1) / (2j + 1). -/
def atanhSeries (z2 : Nat) : Nat → Nat → Nat → Nat
  | 0, _, _ => 0
  | n + 1, k, t => t / k + atanhSeries z2 n (k + 2) (t * z2 / 2 ^ fixP)

/-- ln t for t in [1, 2), in fixed point, as 2 · artanh((t − 1) / (t + 1)). -/
def fixLn (t : Nat) : Nat :=
  let z := (t - 2 ^ fixP) * 2 ^ fixP / (t + 2 ^ fixP)
  2 * atanhSeries (z * z / 2 ^ fixP) 110 1 z

/-- 2^a of a finite value. -/
def exp2Ex (neg : Bool) (m : Nat) (e : Int) : Ex :=
  -- far outside every format, only the side matters
  if m ≠ 0 && 12 < (Nat.log2 m : Int) + e then
    if neg then ⟨false, 1, -400, true⟩ else ⟨false, 1, 400, false⟩
  else
    let x : Int := if neg then -(m : Int) else m
    let d := (-e).toNat
    let n := if 0 ≤ e then x * 2 ^ e.toNat else x / ((2 ^ d : Nat) : Int)
    let frac : Nat := if 0 ≤ e then 0 else (x % ((2 ^ d : Nat) : Int)).toNat
    if frac = 0 then ⟨false, 1, n, false⟩
    else
      let y := fixExp (frac * fixLn2 / 2 ^ d)
      ⟨false, y, n - fixP, true⟩

/-- log2 of a finite positive value. -/
def log2Ex (m : Nat) (e : Int) : Ex :=
  let k := (Nat.log2 m : Int) + e
  let p := 2 ^ Nat.log2 m
  if m = p then ⟨k < 0, k.natAbs, 0, false⟩
  else
    let l := fixLn (m * 2 ^ fixP / p) * 2 ^ fixP / fixLn2
    let v : Int := k * ((2 ^ fixP : Nat) : Int) + (l : Int)
    ⟨v < 0, v.natAbs, -(fixP : Int), true⟩

/-- The largest r with r² ≤ n, by bits from bit `b` down. -/
def isqrtFrom (n : Nat) : Nat → Nat → Nat
  | 0, r => if (r + 1) * (r + 1) ≤ n then r + 1 else r
  | b + 1, r =>
    let c := r + 2 ^ (b + 1)
    isqrtFrom n b (if c * c ≤ n then c else r)
def isqrt (n : Nat) : Nat := isqrtFrom n (Nat.log2 n / 2 + 1) 0

/-- √a of a finite positive value. -/
def sqrtEx (m : Nat) (e : Int) : Ex :=
  let (m, e) := if e % 2 = 0 then (m, e) else (2 * m, e - 1)
  let n := m * 2 ^ 128
  let r := isqrt n
  ⟨false, r, e / 2 - 64, r * r ≠ n⟩

/-- 1/a of a finite value that is not 0. -/
def rcpEx (neg : Bool) (m : Nat) (e : Int) : Ex :=
  let n := 2 ^ (Nat.log2 m + 100)
  ⟨neg, n / m, -((Nat.log2 m + 100 : Nat) : Int) - e, n % m ≠ 0⟩

/-- 1/√a of a finite positive value. -/
def rsqEx (m : Nat) (e : Int) : Ex :=
  let (m, e) := if e % 2 = 0 then (m, e) else (2 * m, e - 1)
  let k := Nat.log2 m / 2 + 80
  let r := isqrt (2 ^ (2 * k) / m)
  ⟨false, r, -(k : Int) - e / 2, m * r * r ≠ 2 ^ (2 * k)⟩

/-- A table entry of the twiddle generator: the cosine or sine of a turn fraction, rounded once (R14). -/
def twiddleOne (f : FF) (v : Int) (exact : Bool) : Nat :=
  (f.round ⟨v < 0, v.natAbs, -(fixP : Int), !exact⟩ .rne false).1

/-- `twiddle(f, F)` (R14). -/
def twiddleIn (f : FF) (turn : Nat) : Nat × Nat :=
  let r := turn % 2 ^ 30
  let x : Nat := r * fixPi / 2 ^ 31
  let x2 := x * x / 2 ^ fixP
  let c := trigSeries x2 50 0 ((2 ^ fixP : Nat) : Int)
  let s := trigSeries x2 50 1 x
  let (c, s) := match turn / 2 ^ 30 % 4 with
    | 0 => (c, s)
    | 1 => (-s, c)
    | 2 => (-c, -s)
    | _ => (s, -c)
  (twiddleOne f c (r = 0), twiddleOne f s (r = 0))

/-- `twiddle(f)` in FP32. -/
def twiddle (turn : Nat) : Nat × Nat := twiddleIn ff32 turn

end Sys2Proof.Machine
end

