-- ==== Sys2Proof/Machine/Flume.lean ====
section
/-! DEFINITION. Class 3: the flumes (R115 to R138): issue and refusal, the work of each command, the sluice, arrival
words, tickets. -/

namespace Sys2Proof.Machine

/-! ## What a command names (R115, R129, R136) -/

/-- Parameter scalar `i`. -/
def FlumeCmd.par (c : FlumeCmd) (i : Nat) : Nat := (c.regs.s.toList.getD (c.x.par.val + i) 0).toNat
def FlumeCmd.hD (c : FlumeCmd) : HRec := c.regs.h[c.x.hD]
def FlumeCmd.hS (c : FlumeCmd) : HRec := c.regs.h[c.x.hS]
def FlumeCmd.arrAddr (c : FlumeCmd) : Nat := (pairVal c.regs c.x.arr).toNat
/-- A modifier bit. -/
def FlumeCmd.mod (c : FlumeCmd) (i : Nat) : Bool := c.x.mod.getLsbD i
/-- The 64-bit value of the third and fourth parameters. -/
def FlumeCmd.par64 (c : FlumeCmd) : Nat := c.par 2 + c.par 3 * 2 ^ 32

/-- Whether the command works in place on its own tile. -/
def inPlace : Instr → Bool
  | .flPatch _ | .flRope _ => true
  | _ => false
def isPublish : Instr → Bool
  | .flPublish _ => true
  | _ => false
def isMcast : Instr → Bool
  | .flMcast _ => true
  | _ => false

/-- Whether hS is read. -/
def usesSrc (c : FlumeCmd) : Bool :=
  match c.instr with
  | .flCopy _ | .flXpose _ | .flPerm _ | .flGather _ | .flScatter _ | .flMcast _ | .flRope _ => true
  | .flPatch _ => c.mod 0
  | _ => false

/-- The permutation code of R130. -/
def permCode (c : FlumeCmd) : Nat :=
  match c.instr with
  | .flXpose _ => 1
  | .flPerm _ => c.x.mod.toNat % 8
  | _ => 0
def permute {α : Type} (code : Nat) (a b c : α) : α × α × α :=
  match code with
  | 1 => (b, a, c)
  | 2 => (a, c, b)
  | 3 => (b, c, a)
  | 4 => (c, a, b)
  | 5 => (c, b, a)
  | _ => (a, b, c)

/-- A logical tile, if it is bound to the operator. -/
def boundTile (s : State) (c : FlumeCmd) (ltile : Nat) : Option Nat :=
  ((mfind s.ops (keyOp c.thread)).bind fun o => mfind o.tiles ltile).map fun _ => ltile
/-- The logical tile a route half names, if it is bound to the operator. -/
def routeTile (s : State) (c : FlumeCmd) (half : Nat) : Option Nat :=
  if half = 0xFFFF then some (keyLtile c.thread) else boundTile s c half
def physTile (s : State) (c : FlumeCmd) (ltile : Nat) : Nat :=
  if ltile = keyLtile c.thread then c.tile
  else ((mfind s.ops (keyOp c.thread)).bind fun o => mfind o.tiles ltile).getD c.tile
def spaceAt (s : State) (c : FlumeCmd) (h : HRec) (ltile : Nat) : FlDest :=
  if hScr h then .scr (opTileKey (keyOp c.thread) ltile) (physTile s c ltile) (hRegion h) else .glob

def routeD (c : FlumeCmd) : Nat := if inPlace c.instr then 0xFFFF else c.par 1 % 2 ^ 16
def routeS (c : FlumeCmd) : Nat := if inPlace c.instr then 0xFFFF else c.par 1 / 2 ^ 16

/-- The destinations, or none where a route names an unbound tile. -/
def destsOf (s : State) (c : FlumeCmd) : Option (List FlDest) :=
  if isMcast c.instr then
    (List.range (c.par 3)).mapM fun i => (boundTile s c (c.par 2 + i)).map (spaceAt s c c.hD)
  else if !hScr c.hD then some [.glob]
  else (routeTile s c (routeD c)).map fun l => [spaceAt s c c.hD l]

/-- The source, or none where its route names an unbound tile. -/
def sourceOf (s : State) (c : FlumeCmd) : Option FlDest :=
  if !hScr c.hS then some .glob else (routeTile s c (routeS c)).map (spaceAt s c c.hS)

def pasidOf (s : State) (c : FlumeCmd) : Nat := ((mfind s.ops (keyOp c.thread)).map (·.pasid)).getD 0
/-- The agent that acts for a command in one of its spaces; global accesses use the issuing tile's TLB. -/
def flAgent (s : State) (c : FlumeCmd) (d : FlDest) : Agent :=
  let port := if c.engine = 0 then c.tile else 415 + 4 * terraceOf c.tile + c.engine
  let own : PortOwner := .place c.thread c.ord
  match d with
  | .glob => ⟨opTileKey (keyOp c.thread) (keyLtile c.thread), c.tile, pasidOf s c, port, own⟩
  | .scr ot tile _ => ⟨ot, tile, pasidOf s c, port, own⟩

/-! ## The bytes a tensor covers (R127) -/

/-- Runs of bytes from lo to below hi. -/
abbrev Runs := List (Int × Int)

/-- Adds a run to rising, separate runs. -/
def addRun (r : Int × Int) : Runs → Runs
  | [] => [r]
  | q :: qs =>
    if r.2 < q.1 then r :: q :: qs
    else if q.2 < r.1 then q :: addRun r qs
    else addRun (min r.1 q.1, max r.2 q.2) qs

/-- The start of a tensor: a virtual address or a region offset. -/
def hStart (h : HRec) : Int := if hScr h then (hOffset h : Int) else (hBase h : Int)

/-- The bytes the extents of a handle cover, as rising runs. -/
def runsOf (h : HRec) : Runs :=
  if hEmpty h then []
  else
    let e := hHalf h
    let raw : Runs := (List.range (hExt2 h)).flatMap fun (a2 : Nat) =>
      match hLayout h with
      | 1 => (List.range (hExt1 h / 16)).map fun (t : Nat) =>
          let o : Int := (t : Int) * hStride1 h + (a2 : Int) * hStride2 h
          (o, o + (hExt0 h * 8 * e : Nat))
      | 0 => (List.range (hExt1 h)).map fun (a1 : Nat) =>
          let o : Int := (a1 : Int) * hStride1 h + (a2 : Int) * hStride2 h
          (o, o + ((hExt0 h * e + 1) / 2 : Nat))
      | _ => (List.range (hExt1 h)).flatMap fun a1 => (List.range (hExt0 h)).map fun a0 =>
          let o := elemOffHalf h a0 a1 a2 / 2
          (o, o + (elemBytes h : Nat))
    (raw.map fun r => (r.1 + hStart h, r.2 + hStart h)).foldr addRun []

/-- Bytes two sets of runs share. -/
def sharedBytes (a b : Runs) : Nat :=
  a.foldl (fun n x => b.foldl (fun n y => n + (min x.2 y.2 - max x.1 y.1).toNat) n) 0

/-- Whether two destinations are the same space. -/
def sameSpace (p q : Nat) (a b : FlDest) : Bool :=
  match a, b with
  | .glob, .glob => p = q
  | .scr o _ r, .scr o' _ r' => o = o' && r = r'
  | _, _ => false

/-- Whether bytes of a space meet a command's destinations. -/
def meetsDest (s : State) (p : Nat) (d : FlDest) (r : Runs) (e : FlumeCmd) (ds : List FlDest) : Bool :=
  ds.any (sameSpace p (pasidOf s e) d) && sharedBytes r (runsOf e.hD) ≠ 0

/-- Whether the destinations of two commands overlap. -/
def destsMeet (s : State) (c e : FlumeCmd) : Bool :=
  c.left.any fun d => meetsDest s (pasidOf s c) d (runsOf c.hD) e e.left

/-- Whether a command's bytes lie in the region, or overlap the global range, of another's (R136). -/
def sameHeld (s : State) (c e : FlumeCmd) : Bool :=
  c.dests.any fun d => e.dests.any fun d' => sameSpace (pasidOf s c) (pasidOf s e) d d'
    && (match d with
        | .scr _ _ _ => true
        | .glob => sharedBytes (runsOf c.hD) (runsOf e.hD) ≠ 0)

/-- What a command reads, but for an index list. -/
def readsOf (s : State) (c : FlumeCmd) : List (FlDest × HRec) :=
  (if usesSrc c then ((sourceOf s c).toList.map fun d => (d, c.hS)) else [])
    ++ (if inPlace c.instr then c.dests.map fun d => (d, c.hD) else [])

/-! ## Refusal (R118) -/

/-- The 64 KiB pages that runs touch, those below address 0 among them. -/
def pageNumbers (r : Runs) : List Int :=
  (r.flatMap fun x => (List.range ((x.2 - 1) / 65536 + 1 - x.1 / 65536).toNat).map fun (i : Nat) =>
    x.1 / 65536 + (i : Int)).eraseDups
/-- The pages of the address space among them. -/
def pagesOf (r : Runs) : List Nat := (pageNumbers r).filterMap fun p => if p < 0 then none else some p.toNat

def isE2m1 (h : HRec) : Bool := hFormat h = 13
def floatFormat (h : HRec) : Bool := hFormat h = 8 || hFormat h = 9 || hFormat h = 10
/-- Whether the command rotates pairs. -/
def rotates (c : FlumeCmd) : Bool :=
  match c.instr with
  | .flRope _ => true
  | .flPatch _ => c.mod 0
  | _ => false

def badEngine (c : FlumeCmd) : Bool :=
  c.x.eng = 0 && match c.instr with
    | .flPublish _ => false
    | .flScatter _ | .flMcast _ => true
    | .flPatch _ | .flRope _ => !hScr c.hD
    | _ => !hScr c.hD || routeD c ≠ 0xFFFF
        || (usesSrc c && hScr c.hS && routeS c ≠ 0xFFFF && routeS c ≠ keyLtile c.thread)

def badFormat (c : FlumeCmd) : Bool :=
  hMalformed c.hD || (usesSrc c && hMalformed c.hS)
    || (if rotates c then !floatFormat c.hD || hFormat c.hS ≠ 6 else usesSrc c && hFormat c.hD ≠ hFormat c.hS)
    || (isE2m1 c.hD && permCode c ≠ 0 && permCode c ≠ 2)

def badShape (c : FlumeCmd) : Bool :=
  let d := c.hD
  let z := c.hS
  let p := c.par 1
  let len := c.par 2
  let del := c.par 3 % 2 ^ 16
  let ins := c.par 3 / 2 ^ 16
  match c.instr with
  | .flCopy _ | .flXpose _ | .flPerm _ =>
    (hExt0 d, hExt1 d, hExt2 d) ≠ permute (permCode c) (hExt0 z) (hExt1 z) (hExt2 z)
  | .flMcast _ => (hExt0 d, hExt1 d, hExt2 d) ≠ (hExt0 z, hExt1 z, hExt2 z) || c.par 3 = 0 || 384 < c.par 3
  | .flGather _ | .flScatter _ => hExt0 d ≠ hExt0 z || hExt2 d ≠ hExt2 z
  | .flPatch _ =>
    2 ^ 24 ≤ p || len < p || len < p + del || hExt1 d + del < len + ins || (c.mod 0 && hExt0 d ≠ 2 * hExt0 z)
  | .flRope _ => 2 ^ 24 ≤ c.par 3 || hExt0 d ≠ 2 * hExt0 z
  | _ => false

/-- The destinations on tiles that are bound, whatever the other routes name. -/
def boundDests (s : State) (c : FlumeCmd) : List FlDest :=
  if isMcast c.instr then
    (List.range (c.par 3)).filterMap fun i => (boundTile s c (c.par 2 + i)).map (spaceAt s c c.hD)
  else (destsOf s c).getD []

/-- Commands that move a source elsewhere are refused beyond 256 KiB of overlap with any destination (R127). -/
def badOverlap (s : State) (c : FlumeCmd) : Bool :=
  usesSrc c && !inPlace c.instr && match sourceOf s c with
    | some d => (boundDests s c).any (sameSpace 0 0 d) && 262144 < sharedBytes (runsOf c.hS) (runsOf c.hD)
    | none => false

/-- Whether the destination is global, which limits its pages (R118). -/
def globalDest (c : FlumeCmd) : Bool := !hScr c.hD
/-- Whether the command writes a global range. -/
def touchesGlobal (c : FlumeCmd) : Bool := globalDest c && !isPublish c.instr && !isMcast c.instr

def badSize (c : FlumeCmd) : Bool := globalDest c && 4096 < (pageNumbers (runsOf c.hD)).length
def badLeafSize (s : State) (c : FlumeCmd) : Bool :=
  globalDest c && (pagesOf (runsOf c.hD)).any fun p =>
    match walk s (pasidOf s c) (p * 65536) with
    | .leaf _ large _ => large
    | _ => false

/-- Whether a handle's bytes lie where they may, in a space. -/
def inBounds (s : State) (d : FlDest) (h : HRec) : Bool :=
  match d with
  | .glob => (runsOf h).all fun r => 0 ≤ r.1 && r.2 ≤ (2 ^ 57 : Int)
  | .scr ot _ n =>
    let z := (regionOf (s.opTile ot) n).size.toNat
    z ≠ 0 && hField h 56 28 = 0 && (runsOf h).all fun r => 0 ≤ r.1 && r.2 ≤ (z * 4096 : Nat)

/-- The tile's key that receives the arrival word. -/
def arrivalTile (c : FlumeCmd) (d : FlDest) : Nat :=
  match d with
  | .glob => opTileKey (keyOp c.thread) (keyLtile c.thread)
  | .scr ot _ _ => ot

def arrivalOk (s : State) (c : FlumeCmd) (d : FlDest) : Bool :=
  let a := c.arrAddr
  a = 0 || (bit a 63 && bits a 62 28 = 0 && a % 8 = 0
    && (match scrAddr (s.opTile (arrivalTile c d)) (bits a 27 22) (bits a 21 0 : Nat) 8 with
        | .ok _ => true
        | .error _ => false))

/-- The index list of a gather or scatter: its entries (R131). -/
def indexCount (c : FlumeCmd) : Option Nat :=
  match c.instr with
  | .flGather _ => some (hExt1 c.hD)
  | .flScatter _ => some (hExt1 c.hS)
  | _ => none

def badAddress (s : State) (c : FlumeCmd) : Bool :=
  (isMcast c.instr && !hScr c.hD)
    || (match destsOf s c with
        | none => true
        | some ds => ds.any fun d =>
            !inBounds s d c.hD || (!c.hold && !arrivalOk s c d))
    || (usesSrc c && match sourceOf s c with
        | none => true
        | some d => !inBounds s d c.hS)
    || (match indexCount c with
        | none => false
        | some n => n ≠ 0 && (match valueAddr (s.opTile (opTileKey (keyOp c.thread) (keyLtile c.thread))) c.par64 (4 * n) with
            | .ok _ => false
            | .error _ => true))

/-- The held commands of a sequencer. -/
def heldOf (s : State) (k : Nat) : List (Nat × FlumeCmd) := s.flumes.filter fun e => e.2.thread = k && e.2.hold

/-- Held commands and those that accumulate into one destination with them, in `n` rounds. -/
def heldGrow (s : State) (hs : List (Nat × FlumeCmd)) : Nat → List Nat → List Nat
  | 0, ks => ks
  | n + 1, ks => heldGrow s hs n ((hs.filter fun e =>
      ks.contains e.1 || hs.any fun x => ks.contains x.1 && sameHeld s x.2 e.2).map (·.1))

/-- The held commands that write the destination a command names (R136): a global range is the union of those that
accumulated into it. -/
def heldGroup (s : State) (hs : List (Nat × FlumeCmd)) (c : FlumeCmd) : List (Nat × FlumeCmd) :=
  let ks := heldGrow s hs hs.length ((hs.filter fun e => sameHeld s c e.2).map (·.1))
  hs.filter fun e => ks.contains e.1

/-- The destinations a sequencer holds: the first command of each. -/
def heldDests (s : State) (k : Nat) : List (Nat × FlumeCmd) :=
  let hs := heldOf s k
  hs.filter fun e => ((heldGroup s hs e.2).head?.map (·.1)) = some e.1

def badHeld (s : State) (c : FlumeCmd) : Bool :=
  c.hold && 4 ≤ (heldDests s c.thread).length && (heldGroup s (heldOf s c.thread) c).isEmpty

/-- The refusal code of a command, the first that holds (R118). -/
def refusal (s : State) (c : FlumeCmd) : Option Nat :=
  if badEngine c then some 1
  else if badFormat c then some 2
  else if badShape c then some 3
  else if badOverlap s c then some 4
  else if badSize c then some 5
  else if badLeafSize s c then some 6
  else if badAddress s c then some 7
  else if badHeld s { c with dests := (destsOf s c).getD [] } then some 8
  else none

/-! ## Issue (R116, R117) -/

/-- The result of a command, unless nw discards it. -/
def flResult (t : Thread) (x : Fl) (v : Nat) : Thread := if x.nw then t else giveResult t x.d (BitVec.ofNat 32 v)

def nextTicket (n : Nat) : Nat := if n = 0x7FFFFFFF then 1 else n + 1

/-- Whether the reads of a command wait for an earlier command of its sequencer (R125). -/
def readWaits (s : State) (k before : Nat) (p : Nat) (rs : List (FlDest × Runs)) : Bool :=
  s.flumes.any fun e => e.2.thread = k && e.1 < before && (e.2.state = .queued || e.2.state = .writing)
    && !isPublish e.2.instr && rs.any fun r => meetsDest s p r.1 r.2 e.2 e.2.left

/-- What the sequencer's held writes leave at a byte of a space (R125). -/
def heldByte (s : State) (k p : Nat) (d : FlDest) (a : Nat) (b : Byte) : Byte :=
  (heldOf s k).foldl (fun b e =>
    if e.2.state = .held && e.2.dests.any (sameSpace p (pasidOf s e.2) d) then
      e.2.writes.foldl (fun b w => if w.at_ = a then w.onto b else b) b
    else b) b

/-- Reads bytes for a command through its sequencer's held writes. -/
def flBytes (c : FlumeCmd) (d : FlDest) (a : Addr) (n : Nat) : Op (List Byte) := do
  let bs ← agentRead (flAgent (← get) c d) a n
  let s ← get
  return bs.zipIdx.map fun b => heldByte s c.thread (pasidOf s c) d (a.low + b.2) b.1

/-- The index list, read at issue (R131). -/
def readIndex (g : Gated) (t : Thread) (c : FlumeCmd) : Op (List Nat) := do
  match indexCount c with
  | none => return []
  | some 0 => return []
  | some n =>
    awaitBarriers g t
    let s ← get
    let a ← liftM (valueAddr (s.opTile t.ot) c.par64 (4 * n))
    let d : FlDest := match a with
      | .glob _ => .glob
      | .scr r _ => .scr t.ot t.tile r
    if !olderDone t g.ord
        || readWaits s t.key s.nextFlume (pasidOf s c) [(d, [((a.low : Int), ((a.low + 4 * n : Nat) : Int))])] then
      throw (.wait .queues)
    let bs ← flBytes c d a (4 * n)
    return (List.range n).map fun i => leOf ((bs.drop (4 * i)).take 4)

/-- Issues a command: it waits behind 16 open ones, is refused, or is accepted. -/
def flIssue (x : Fl) (g : Gated) (t : Thread) : Op Thread := do
  let s ← get
  if 16 ≤ (s.flumes.filter fun e => e.2.thread = t.key).length then throw (.wait .other)
  let n := s.nextFlume
  let c : FlumeCmd :=
    { thread := t.key, ticket := t.ticket, instr := g.instr, x := x, regs := g.regs, tile := t.tile,
      engine := if x.eng = 15 then 1 + n % 4 else x.eng.val, ord := g.ord, bundle := g.bundle, own := t.lastLabel
      hold := x.mod.getLsbD 6 }
  match refusal s c with
  | some code => return flResult t x (2 ^ 31 + code)
  | none =>
    let ix ← readIndex g t c
    let ds := (destsOf s c).getD []
    modify fun s => { (s.dropOwner (.place t.key g.ord)) with
      flumes := mput s.flumes n { c with index := ix, dests := ds, left := ds }, nextFlume := n + 1 }
    return flResult { setTicket t t.ticket .queued with ticket := nextTicket t.ticket } x t.ticket

def runFlume (i : Instr) (x : Fl) (s : State) : Host.Outcome State Fault Refusal :=
  runGated i (capture i) (flIssue x) s

/-- `fl.copy` (R130). -/
def execFlCopy (x : Fl) (s : State) : Host.Outcome State Fault Refusal := runFlume (.flCopy x) x s
/-- `fl.xpose` (R130). -/
def execFlXpose (x : Fl) (s : State) : Host.Outcome State Fault Refusal := runFlume (.flXpose x) x s
/-- `fl.perm` (R130). -/
def execFlPerm (x : Fl) (s : State) : Host.Outcome State Fault Refusal := runFlume (.flPerm x) x s
/-- `fl.gather` (R131). -/
def execFlGather (x : Fl) (s : State) : Host.Outcome State Fault Refusal := runFlume (.flGather x) x s
/-- `fl.scatter` (R131). -/
def execFlScatter (x : Fl) (s : State) : Host.Outcome State Fault Refusal := runFlume (.flScatter x) x s
/-- `fl.fill` (R132). -/
def execFlFill (x : Fl) (s : State) : Host.Outcome State Fault Refusal := runFlume (.flFill x) x s
/-- `fl.mcast` (R133). -/
def execFlMcast (x : Fl) (s : State) : Host.Outcome State Fault Refusal := runFlume (.flMcast x) x s
/-- `fl.patch` (R134). -/
def execFlPatch (x : Fl) (s : State) : Host.Outcome State Fault Refusal := runFlume (.flPatch x) x s
/-- `fl.rope` (R135). -/
def execFlRope (x : Fl) (s : State) : Host.Outcome State Fault Refusal := runFlume (.flRope x) x s
/-- `fl.publish` (R136). -/
def execFlPublish (x : Fl) (s : State) : Host.Outcome State Fault Refusal := runFlume (.flPublish x) x s

def TicketState.code : TicketState → Nat
  | .queued => 1 | .writing => 2 | .held => 3 | .published => 4 | .cancelled => 5

/-- The state of a ticket of a sequencer, 0 where it is unknown (R137). -/
def ticketCode (t : Thread) (n : Nat) : Nat := ((t.tickets.find? fun e => e.1 = n).map fun e => e.2.code).getD 0

/-- `fl.poll` (R137). -/
def execFlPoll (x : Fl) (s : State) : Host.Outcome State Fault Refusal :=
  runGated (.flPoll x) (capture (.flPoll x)) (fun g t =>
    return flResult t x (ticketCode t (g.regs.s[x.par]).toNat)) s

/-- Which commands a cancel of `c` takes away (R138): it, and of a held one every held write into its destination. -/
def cancelled (s : State) (n : Nat) (c : FlumeCmd) (m : Nat) : Bool :=
  m = n || (c.state = .held && (heldGroup s ((heldOf s c.thread).filter (·.2.state = .held)) c).any (·.1 = m))

/-- `fl.cancel` (R138). -/
def execFlCancel (x : Fl) (s : State) : Host.Outcome State Fault Refusal :=
  runGated (.flCancel x) (capture (.flCancel x)) (fun g t => do
    let s ← get
    let n := (g.regs.s[x.par]).toNat
    let v := ticketCode t n
    match s.flumes.find? fun e => e.2.thread = t.key && e.2.ticket = n && (v = 1 || v = 2 || v = 3) with
    | none => return flResult t x v
    | some (m, c) =>
      let s' := cancelFlumes (s.setThread t.key t) fun k _ => cancelled s m c k
      set s'
      return flResult ((mfind s'.threads t.key).getD t) x v) s

/-! ## The work of a command (R130 to R135) -/

/-- Every index of a tensor. -/
def indices (h : HRec) : List (Nat × Nat × Nat) :=
  (List.range (hExt2 h)).flatMap fun i2 => (List.range (hExt1 h)).flatMap fun i1 =>
    (List.range (hExt0 h)).map fun i0 => (i0, i1, i2)

/-- Reads an element in one of the command's spaces. -/
def flElem (c : FlumeCmd) (d : FlDest) (h : HRec) (i0 i1 i2 : Nat) : Op Nat := do
  let (o, high) := elemPlace h (i0 : Int) (i1 : Int) (i2 : Int)
  let a ← liftM (handleAddr ((← get).opTile (flAgent (← get) c d).ot) h o (elemBytes h))
  return elemCode h high (← flBytes c d a (elemBytes h))

/-- The writes of one destination element. -/
def flPut (s : State) (c : FlumeCmd) (i0 i1 i2 v : Nat) : Except Stop (List ByteWrite) :=
  elemPut (s.opTile (flAgent s c (c.dests.headD .glob)).ot) c.hD (i0 : Int) (i1 : Int) (i2 : Int) v

/-- One pair turned (R135): the codes of the two elements. -/
def turnPair (f : FF) (sat : Bool) (angle x y : Nat) : Nat × Nat :=
  let (cc, ss) := twiddle angle
  let cv := ff32.decode cc
  let sv := ff32.decode ss
  let xv := f.decode x
  let yv := f.decode y
  let a := (sumTerms [(xv.mul cv).1, ((yv.mul sv).1).neg]).1
  let b := (sumTerms [(xv.mul sv).1, (yv.mul cv).1]).1
  ((f.put a .rne sat).1, (f.put b .rne sat).1)

/-- The rows of a tensor in work: element codes by flat index. -/
abbrev Rows := Map Nat

def flat (h : HRec) (i0 i1 i2 : Nat) : Nat := (i2 * hExt1 h + i1) * hExt0 h + i0
def formatOf (h : HRec) : FF := if hFormat h = 9 then (ffOf .f16).getD ff32 else if hFormat h = 10 then (ffOf .bf16).getD ff32 else ff32

/-- Rotates the pairs of one row by the angles of its pairs. -/
def turnRow (h : HRec) (sat : Bool) (angles : List Nat) (m : Rows) (row : Nat) : Rows :=
  (List.range (hExt2 h)).foldl (fun m i2 =>
    angles.zipIdx.foldl (fun m a =>
      let i := flat h (2 * a.2) row i2
      let (x, y) := turnPair (formatOf h) sat a.1 (mget 0 m i) (mget 0 m (i + 1))
      mput (mput m i x) (i + 1) y) m) m

/-- The turn fraction of every pair times δ (R135). -/
def angles (c : FlumeCmd) (d : FlDest) (delta : Int) : Op (List Nat) :=
  (List.range (hExt0 c.hS)).mapM fun j => do
    return wrapN 32 (delta * (← flElem c d c.hS j 0 0))

/-- Reads whole rows of hD. -/
def readRows (c : FlumeCmd) (d : FlDest) (rs : List Nat) : Op Rows :=
  rs.foldlM (fun m i1 => (List.range (hExt2 c.hD)).foldlM (fun m i2 =>
    (List.range (hExt0 c.hD)).foldlM (fun m i0 => do
      return mput m (flat c.hD i0 i1 i2) (← flElem c d c.hD i0 i1 i2)) m) m) []

/-- The writes of whole rows. -/
def putRows (c : FlumeCmd) (m : Rows) (rs : List Nat) : Op (List ByteWrite) := do
  let s ← get
  let ws ← rs.mapM fun i1 => (List.range (hExt2 c.hD)).mapM fun i2 => (List.range (hExt0 c.hD)).mapM fun i0 =>
    liftM (flPut s c i0 i1 i2 (mget 0 m (flat c.hD i0 i1 i2)))
  return ((ws.flatten).flatten).flatten

/-- The byte writes of a command, its whole source read first (R127, R130 to R135). -/
def flWork (c : FlumeCmd) (src dst : FlDest) : Op (List ByteWrite) := do
  let e1 := hExt1 c.hD
  if hEmpty c.hD || (usesSrc c && hEmpty c.hS) then return []
  match c.instr with
  | .flCopy _ | .flXpose _ | .flPerm _ | .flMcast _ =>
    let ws ← (indices c.hS).mapM fun i => do
      let v ← flElem c src c.hS i.1 i.2.1 i.2.2
      let j := permute (permCode c) i.1 i.2.1 i.2.2
      liftM (flPut (← get) c j.1 j.2.1 j.2.2 v)
    return ws.flatten
  | .flGather _ =>
    let ws ← (indices c.hD).mapM fun i => do
      let v ← flElem c src c.hS i.1 (c.index.getD i.2.1 0) i.2.2
      liftM (flPut (← get) c i.1 i.2.1 i.2.2 v)
    return ws.flatten
  | .flScatter _ =>
    let ws ← (List.range (hExt1 c.hS)).mapM fun j => (List.range (hExt2 c.hS)).mapM fun i2 =>
      (List.range (hExt0 c.hS)).mapM fun i0 => do
        let v ← flElem c src c.hS i0 j i2
        liftM (flPut (← get) c i0 (c.index.getD j 0) i2 v)
    return ((ws.flatten).flatten).flatten
  | .flFill _ =>
    let s ← get
    let ws ← (indices c.hD).mapM fun i => liftM (flPut s c i.1 i.2.1 i.2.2 (c.par64 % 16 ^ hHalf c.hD))
    return ws.flatten
  | .flRope _ =>
    let first := sgn 32 (c.par 2)
    let as ← angles c src (sgn 32 (c.par 1))
    let visits := (List.range (c.par 3)).map fun (v : Nat) => wrapIdx (first + (v : Int)) e1
    let rs := visits.eraseDups
    let m ← readRows c dst rs
    putRows c (visits.foldl (turnRow c.hD (c.mod 0) as) m) rs
  | .flPatch _ =>
    let p := c.par 1
    let len := c.par 2
    let del := c.par 3 % 2 ^ 16
    let ins := c.par 3 / 2 ^ 16
    let moved := len - p - del
    let old ← readRows c dst ((List.range moved).map fun k => (p + del + k) % e1)
    let m0 : Rows := []
    let row (m : Rows) (i1 from_ : Nat) : Rows := (List.range (hExt2 c.hD)).foldl (fun m i2 =>
      (List.range (hExt0 c.hD)).foldl (fun m i0 =>
        mput m (flat c.hD i0 i1 i2) (mget 0 old (flat c.hD i0 (from_ % e1) i2))) m) m
    let m1 := (List.range moved).foldl (fun m k => row m (p + ins + k) (p + del + k)) m0
    let movedRows := (List.range moved).map fun k => p + ins + k
    let m2 ← (if c.mod 0 then do
        let as ← angles c src ((ins : Int) - (del : Int))
        pure (movedRows.foldl (turnRow c.hD (c.mod 1) as) m1)
      else pure m1 : Op Rows)
    let a ← putRows c m2 movedRows
    let b ← putRows c [] ((List.range ins).map fun k => p + k)
    return a ++ b
  | _ => return []

/-! ## Starting (R120, R124, R125) -/

/-- Whether an earlier `fl.publish` of the sequencer has yet to publish held writes into the global range of a held
command: the command writes only what the publish leaves (R136). -/
def publishPending (s : State) (n : Nat) (c : FlumeCmd) : Bool :=
  c.hold && touchesGlobal c && s.flumes.any fun e => e.2.thread = c.thread && e.1 < n && isPublish e.2.instr
    && (heldGroup s ((heldOf s c.thread).filter (·.1 < e.1)) e.2).any fun h => sameHeld s h.2 c

/-- Whether a queued command may start: its sequencer's older writes have performed and the barriers before it are
met, no earlier command waits at its flume, none of its sequencer still writes what it reads, and none of its publishes
has to take the range first. -/
def mayStart (s : State) (n : Nat) (c : FlumeCmd) : Bool :=
  c.state = .queued && !isPublish c.instr
    && ((mfind s.threads c.thread).all fun t =>
        olderDone t c.ord && t.barriers.all fun b => c.ord < b.ord || barrierMet s t b)
    && !(s.flumes.any fun e => e.1 < n && e.2.state = .queued && !isPublish e.2.instr && e.2.engine = c.engine
          && (if c.engine = 0 then e.2.tile = c.tile else terraceOf e.2.tile = terraceOf c.tile))
    && !readWaits s c.thread n (pasidOf s c) ((readsOf s c).map fun r => (r.1, runsOf r.2)) && !publishPending s n c

/-- The pages of a global destination with their frames and policies; each translates, or the command fails before it
takes a frame (R72, R128). -/
def currentPages (c : FlumeCmd) (ps : List Nat) : Op (List (Nat × Nat × Bool)) :=
  ps.mapM fun p => do
    let s ← get
    let g := flAgent s c .glob
    let (s', x) := translateOp s (keyOp c.thread) g.tile g.pasid (p * 65536) true
    set s'
    match x with
    | none => throw (.trap .translation 0)
    | some (pa, cached) => return (p, pa, cached)

/-- The shadow frame that a held destination of the sequencer already has for a page. -/
def sharedFrame (s : State) (n : Nat) (c : FlumeCmd) (p : Nat) : Option (Nat × Nat) :=
  if c.hold then
    ((heldGroup s ((heldOf s c.thread).filter fun e => e.1 < n && e.2.state = .held) c).flatMap (·.2.frames)).find? (·.1 = p)
  else none

/-- Reserves and copies the shadow frames of a global destination; a page its held destination already shadows keeps
its frame. None where the pool is exhausted. -/
def shadowPages (n : Nat) (c : FlumeCmd) : List (Nat × Nat × Bool) → Op (Option (List (Nat × Nat)))
  | [] => return some []
  | (p, pa, cached) :: ps => do
    let s ← get
    match sharedFrame s n c p with
    | some f => return (← shadowPages n c ps).map (f :: ·)
    | none =>
      let ter := terraceOf c.tile
      let t := s.terraces.getD ter {}
      match t.frames with
      | [] => return none
      | f :: rest =>
        let s' := copyFrame s pa f cached
        set { s' with terraces := s'.terraces.setIfInBounds ter { t with frames := rest } }
        return (← shadowPages n c ps).map ((p, f) :: ·)

/-- Writes of virtual bytes into shadow frames. -/
def writeFrames (s : State) (frames : List (Nat × Nat)) (ws : List ByteWrite) : State :=
  { s with mem := ws.foldl (fun m w =>
      match frames.find? fun f => f.1 = w.at_ / 65536 with
      | some f =>
        let a := f.2 + w.at_ % 65536
        writeByte m a (w.onto (readByte m a))
      | none => m) s.mem }

/-- The line requests of a command's shadow writes (R391). -/
def shadowReqs (s : State) (c : FlumeCmd) (frames : List (Nat × Nat)) (ws : List ByteWrite) : List PortReq :=
  ((ws.filterMap fun w => (frames.find? fun f => f.1 = w.at_ / 65536).map fun f =>
    lineOf (f.2 + w.at_ % 65536)).eraseDups).map fun l => portReq s (keyOp c.thread) l (.place c.thread c.ord) false

/-- The next line requests of the copies of a command's pages, at most 64: of each page the 1,024 lines read, then the
1,024 written (R120, R391). -/
def copyReqs (s : State) (c : FlumeCmd) (pages : List (Nat × Nat × Bool)) (frames : List Nat) : List PortReq :=
  (List.range (min 64 (2048 * pages.length - c.paid))).map fun i =>
    let j := c.paid + i
    let base := if j % 2048 < 1024 then (pages.getD (j / 2048) (0, 0, false)).2.1 else frames.getD (j / 2048) 0
    portReq s (keyOp c.thread) (lineOf base + j % 1024) (.place c.thread c.ord) false

/-- The tag a command delivers as it is read (R123). -/
def deliveredTag (s : State) (c : FlumeCmd) (src : FlDest) : Tag :=
  if c.x.stamp then hTag c.hD
  else match c.instr with
    | .flFill _ => hTag c.hD
    | .flPatch _ | .flRope _ => hTag c.hD
    | _ => match src with
      | .glob => hTag c.hS
      | .scr ot _ r => (regionOf (s.opTile ot) r).tag

/-- A command reads its source, copies its pages and writes its shadow, as one action: its reads fall wholly before or
wholly after any publish and any other step, which R125 does not require of a global range (DESIGN CHOICE, log entry 53).
The pages are those of all of hD's extents, of `fl.patch`, `fl.rope` and `fl.scatter` too, which write some rows of them
(DESIGN CHOICE, log entry 67). -/
def doWork (n : Nat) (c : FlumeCmd) (ps : List (Nat × Nat × Bool)) : Op Unit := do
  let s ← get
  let src := (sourceOf s c).getD .glob
  let dst := c.dests.headD .glob
  let ws ← flWork c src dst
  match ← shadowPages n c ps with
  | none => throw (.wait .other)
  | some fs =>
    askLines (flAgent s c .glob).port (shadowReqs s c fs ws)
    let c' := { c with
      state := if c.hold then .held else .writing, writes := ws, frames := fs, tag := deliveredTag s c src }
    modify fun s => markTicket (writeFrames { s with flumes := mput s.flumes n c' } fs ws) c' c'.state

/-- A command that the pool has frames for works once the line requests of its page copies have left the flume's port,
64 at a time (R120, R391). -/
def startWork (n : Nat) (c : FlumeCmd) : Op Unit := do
  let ps ← (if touchesGlobal c then currentPages c (pagesOf (runsOf c.hD)) else pure [] : Op (List (Nat × Nat × Bool)))
  let s ← get
  let fresh := ps.filter fun p => (sharedFrame s n c p.1).isNone
  let free := (s.terraces.getD (terraceOf c.tile) {}).frames
  if free.length < fresh.length then throw (.wait .other)
  else if c.paid < 2048 * fresh.length then
    askLines (flAgent s c .glob).port (copyReqs s c fresh free)
    modify fun s => { s with flumes := mput s.flumes n { c with paid := c.paid + 64 } }
  else doWork n c ps

/-- A queued flume command runs (R124 to R128): a step of the device. A parity error restarts it, the third ends the
context. -/
def execFlumeCommandStart (n : Nat) (s : State) : Host.Outcome State Fault Refusal :=
  match mfind s.flumes n with
  | none => .next s
  | some c =>
    if !mayStart s n c then .next s
    else if s.hwErrors.contains (.flume n) then
      let s := { s with hwErrors := s.hwErrors.erase (.flume n), flumes := mput s.flumes n { c with errors := c.errors + 1, paid := 0 } }
      if c.errors + 1 < 3 then runEvent s
      else
        let s := cancelFlumes s fun m _ => m = n
        runEvent (match mfind s.threads c.thread with
          | some t => raiseTrapFor s c.thread t .dataError 0 (some (c.bundle, c.own))
          | none => s)
    else runEvent (runAgent s c.thread c.ord (c.bundle, c.own) (startWork n c))

/-! ## Publishing (R119 to R121, R125, R136) -/

/-- Whether an access translated to a frame has yet to perform (R71), in an update-only line too. -/
def frameBusy (s : State) (frame : Nat) : Bool :=
  let at_ (pa : Nat) : Bool := pa / 65536 = frame / 65536
  let on (l : Loc) : Bool := match l with
    | .glob pa _ => at_ pa
    | .scr _ _ => false
  (s.tiles.any fun e => e.2.uol.any fun u => at_ (64 * u.1)) || s.threads.any fun e =>
    (queued e.2).any (fun | .st x => on x.loc | .atom x => on x.loc | .flush ps _ _ _ _ => ps.any fun p => at_ p.1)
      || e.2.waiting.any (fun a => on a.loc)
      || e.2.blk.stores.any (fun | .st x => on x.loc | .atom x => on x.loc)
      || e.2.blk.pend.any (fun | .rflush ps _ _ => ps.any fun p => at_ p.1 | _ => false)
      || e.2.regs.slots.toList.any fun x => x.state = .pending && x.pieces.any fun p => on p.loc

/-- The frame a page of a PASID maps to now. -/
def pageFrame (s : State) (pasid page : Nat) : Option Nat := peekAddr s pasid (page * 65536)

/-- Moves a frame-table entry to the frame that takes its page over: virtual page, PASID and pins (R120). -/
def moveFrame (s : State) (old new : Nat) : State :=
  let e := homeRead s (frameEntry s old) 16
  let ne := bits e 127 71 * 2 ^ 71 + bits e 51 32 * 2 ^ 32 + bits e 31 16 * 2 ^ 16 + 6
  let s := homeWrite (s.noteHole (frameEntry s new)) (frameEntry s new) 16 ne
  let s := homeWrite s (frameEntry s old) 16 (bits e 5 4 * 16)
  let i := frameIndex old
  let j := frameIndex new
  { s with
    ops := s.ops.map fun o => match mfind o.2.pins i with
      | some n => (o.1, { o.2 with pins := mput (mdel o.2.pins i) j n })
      | none => o
    objs := s.objs.map fun o => (o.1, { o.2 with pages := o.2.pages.map fun p => if p = i then j else p }) }

/-- Drops every TLB entry of a page (R71). -/
def dropTlb (s : State) (pasid page : Nat) : State :=
  { s with tiles := s.tiles.map fun e => (e.1, { e.2 with
      tlb := e.2.tlb.filter fun x => !(x.pasid = pasid && (if x.large then x.page / 32 = page / 32 else x.page = page)) }) }

/-- Another agent replaces a frame's bytes: every run that watches a line of it stops (R356). -/
def noteFrame (s : State) (frame : Nat) : State :=
  { s with
    hostRes := s.hostRes.filter fun e => e.2 / 1024 ≠ frame / 65536
    ponds := s.ponds.map fun e =>
      if e.2.watch.any fun l => l / 1024 = frame / 65536 then (e.1, { e.2 with stopping := true }) else e }

/-- One page of a global publish; a malformed entry met at its walk is noted (R69). -/
def swapPage (c : FlumeCmd) (p : Nat × Nat) : Op Unit := do
  let s ← get
  let pasid := pasidOf s c
  match walk s pasid (p.1 * 65536) with
  | .leaf pte false e =>
    let old := leafPa false e 0
    let s := (cachedLines s old).foldl (fun s l => dropLine (writeBackLine (mergeLine s l) l) l) (noteFrame s old)
    let s := homeWrite s pte 8 (setBits (setBits e 38 16 (p.2 / 65536)) 5 4 3)
    set ((returnFrames (dropTlb (moveFrame s old p.2) pasid p.1) (terraceOf c.tile) [old]).noteWordIn fun pa =>
      pa / 65536 = p.2 / 65536)
  | .malformed a =>
    set (noteMalformed s (terraceOf c.tile) a)
    throw (.trap .translation 0)
  | _ => throw (.trap .translation 0)

/-- The arrival word (R121). -/
def writeArrival (c : FlumeCmd) (d : FlDest) (tag : Tag) : Op Unit := do
  let a := c.arrAddr
  if a ≠ 0 then
    let s ← get
    let g : Agent := { flAgent s c d with ot := arrivalTile c d }
    frontStore g (bits a 27 22) (bits a 21 0) (leBytes 8 (c.par 0 + tag.toNat * 2 ^ 32))

/-- The tag a publish delivers: a command in place leaves the region's own (R123). Where held commands publish together
that is the front's at the publish, and not an earlier one's of the group (DESIGN CHOICE, log entry 54). -/
def publishTag (s : State) (c : FlumeCmd) (d : FlDest) : Tag :=
  match d with
  | .scr ot _ r => if inPlace c.instr && !c.x.stamp then (regionOf (s.opTile ot) r).tag else c.tag
  | .glob => c.tag

/-- The shadow frames under which a group of commands publishes: for each page the first one's. -/
def groupFrames (cs : List FlumeCmd) : List (Nat × Nat) :=
  (cs.flatMap (·.frames)).foldl (fun fs f => if fs.any (·.1 = f.1) then fs else fs ++ [f]) []

/-- Publishes the writes of a group of commands, in the order of their acceptance, into one destination. Frames of a
page beyond its first return to the pool. -/
def publishGroup (d : FlDest) (cs : List FlumeCmd) : Op Tag := do
  let s ← get
  match cs.getLast? with
  | none => return 0
  | some l =>
    let tag := publishTag s l d
    match d with
    | .scr _ _ r => publishScr (flAgent s l d) r (cs.flatMap (·.writes)) tag
    | .glob =>
      let fs := groupFrames cs
      let spare := ((cs.flatMap (·.frames)).eraseDups.filter (!fs.contains ·)).map (·.2)
      modify fun s => returnFrames (writeFrames s fs (cs.flatMap (·.writes))) (terraceOf l.tile) spare
      fs.forM (swapPage l)
    return tag

/-- Whether two commands name one destination in part or whole: an `fl.publish` names its region or range (R136). -/
def sharesDest (s : State) (c e : FlumeCmd) : Bool :=
  if isPublish c.instr || isPublish e.instr then sameHeld s { c with dests := c.left } { e with dests := e.left }
  else destsMeet s c e

/-- Whether commands may publish now: no earlier command has an overlapping destination open, and every access
through a leaf that changes has performed (R125, R71). -/
def mayPublish (s : State) (cs : List (Nat × FlumeCmd)) : Bool :=
  cs.all fun c =>
    !(s.flumes.any fun e => e.1 < c.1 && !(cs.any fun x => x.1 = e.1) && sharesDest s c.2 e.2)
      && c.2.frames.all fun f => (pageFrame s (pasidOf s c.2) f.1).all fun old => !frameBusy s old

/-- Takes a command away as published. -/
def retireFlume (s : State) (n : Nat) (c : FlumeCmd) : State :=
  markTicket { s with flumes := mdel s.flumes n } c .published

/-- The current tag of a destination, for an `fl.publish` with nothing held. -/
def currentTag (s : State) (c : FlumeCmd) (d : FlDest) : Tag :=
  match d with
  | .scr ot _ r => (regionOf (s.opTile ot) r).tag
  | .glob => hTag c.hD

/-- Whether an `fl.publish` comes after every earlier command into its destination (R125): one with nothing held after all
of them, one that publishes held writes, whose bytes were reserved as those were accepted, after its sequencer's earlier
publishes. -/
def publishTurn (s : State) (n : Nat) (c : FlumeCmd) (held : Bool) : Bool :=
  !(s.flumes.any fun e => e.1 < n && sharesDest s c e.2 && (!held || (isPublish e.2.instr && e.2.thread = c.thread)))

/-- Whether every held command of an `fl.publish` has finished writing, its turn has come and its barriers are met. -/
def publishReady (s : State) (n : Nat) (c : FlumeCmd) : Bool :=
  let cs := heldGroup s ((heldOf s c.thread).filter (·.1 < n)) c
  cs.all (·.2.state = .held) && publishTurn s n c (!cs.isEmpty)
    && (mfind s.threads c.thread).all fun t => t.barriers.all fun b => c.ord < b.ord || barrierMet s t b

/-- The next publish of a command (R119 to R121, R133, R136): a step of the device. -/
def execFlumePublish (n : Nat) (s : State) : Host.Outcome State Fault Refusal :=
  match mfind s.flumes n with
  | none => .next s
  | some c =>
    match c.left with
    | [] => .next s
    | d :: rest =>
      if isPublish c.instr then
        let cs := heldGroup s ((heldOf s c.thread).filter (·.1 < n)) c
        if !publishReady s n c || !mayPublish s cs then .next s
        else runEvent (runAgent s c.thread c.ord (c.bundle, c.own) do
          let tag ← (if cs.isEmpty then return currentTag s c d else publishGroup d (cs.map (·.2)) : Op Tag)
          writeArrival c d tag
          modify fun s => retireFlume (cs.foldl (fun s e => retireFlume s e.1 e.2) s) n c)
      else if c.state ≠ .writing || !mayPublish s [(n, { c with left := [d] })] then .next s
      else runEvent (runAgent s c.thread c.ord (c.bundle, c.own) do
        let tag ← publishGroup d [c]
        writeArrival c d tag
        modify fun s =>
          if rest.isEmpty then retireFlume s n c
          else { s with flumes := mput s.flumes n { c with left := rest } })

end Sys2Proof.Machine
end

