-- ==== Sys2Proof/Machine/Pool.lean ====
section
/-! DEFINITION. The logical mesh, the ready pool and placement (R343, R364, R367, R368, R445). -/

namespace Sys2Proof.Machine

/-! ## The logical mesh (R343, R346) -/

def tileAt (x y : Nat) : Nat := 104 * (x / 8) + 13 * (x % 8) + y

/-- Physical rows of a logical column that are neither out of the mesh nor spare. -/
def meshRows (s : State) (x : Nat) : List Nat :=
  (List.range 13).filter fun y => bits (speedEntry s (tileAt x y)).toNat 7 6 = 0 && !(s.tile (tileAt x y)).gone

/-- The physical tile of a logical position. -/
def physAt (s : State) (x y : Nat) : Option Nat :=
  if x < 32 && y < 12 then ((meshRows s x)[y]?).map (tileAt x) else none

/-! ## What is taken (R343, R445) -/

/-- Whether an operator holds its sequencers. -/
def Operator.holds (o : Operator) : Bool :=
  match o.state with
  | .started | .ending _ | .reserved => true
  | .out | .held => false

def holdsSeqs (s : State) (op : Nat) : Bool := (mfind s.ops op).any (·.holds)

/-- Whether every write that an operator's seals have released has performed (R274, R256), and whether its flume commands
have, but for held ones (R328, R381). -/
def writesDone (s : State) (op : Nat) : Bool :=
  (s.threadsOf op).all fun e => (queued e.2).isEmpty && e.2.waiting.isEmpty
    && e.2.mq.all fun c => (drainsTo c).isNone
def effectsDone (s : State) (op : Nat) : Bool :=
  writesDone s op && s.flumes.all fun c => keyOp c.2.thread ≠ op || c.2.state = .held

/-- The sequencers of a tile that no operator holds. -/
def freeSeqs (s : State) (tile : Nat) : List (Fin 4) :=
  if (s.tile tile).retiring then []
  else (List.finRange 4).filter fun p =>
    !(s.threads.any fun e => e.2.tile = tile && e.2.pseq = p && holdsSeqs s e.2.op)

/-- Granules of a tile that the backings of started operators take (R445): a retired one whose sequencers wait for its
chain successor takes none. -/
def takenGranules (s : State) (tile : Nat) : List Nat :=
  (s.ops.filter fun o => o.2.holds && o.2.state ≠ .reserved).flatMap fun o =>
    (o.2.tiles.filter fun e => e.2 = tile).flatMap fun e =>
      ((s.opTile (opTileKey o.1 e.1)).regions).flatMap fun r =>
        (List.range r.2.size.toNat).flatMap fun i => [r.2.baseA.toNat + i, r.2.baseB.toNat + i]

/-- The lowest run of `n` granules not taken. -/
def findRun (taken : List Nat) (n : Nat) : Option Nat :=
  (List.range (Config.granules + 1 - n)).find? fun b => (List.range n).all fun i => !taken.contains (b + i)

/-- Granules for both backings of every region: number, size, tag, and the first granule of each backing. -/
def placeRegions : List (Nat × Nat × Tag) → List Nat → Option (List (Nat × Nat × Tag × Nat × Nat))
  | [], _ => some []
  | (n, size, tag) :: rs, taken =>
    match findRun taken size with
    | none => none
    | some a =>
      let taken := (List.range size).map (a + ·) ++ taken
      match findRun taken size with
      | none => none
      | some b => (placeRegions rs ((List.range size).map (b + ·) ++ taken)).map ((n, size, tag, a, b) :: ·)

/-! ## Rectangles -/

/-- What placement needs of a record or an operator: its shape, sequencers per tile, terraces and regions. -/
structure Shape where
  w : Nat
  h : Nat
  seqs : Nat
  terr : Nat
  regs : List (Nat × Nat × Tag)
  deriving DecidableEq, Repr

/-- The physical tiles of a rectangle, in logical order, where every position exists in an allowed terrace. -/
def rectTiles (s : State) (z : Shape) (r : Rect) : Option (List Nat) :=
  (List.range (z.w * z.h)).mapM fun l =>
    let x := r.x0 + l % z.w
    if bit z.terr (x / 8) then physAt s x (r.y0 + l / z.w) else none

def tileFits (s : State) (z : Shape) (tile : Nat) : Bool :=
  z.seqs ≤ (freeSeqs s tile).length && (placeRegions z.regs (takenGranules s tile)).isSome

def fitsAt (s : State) (z : Shape) (r : Rect) : Bool :=
  match rectTiles s z r with
  | some ts => ts.all (tileFits s z)
  | none => false

def allRects : List Rect := (List.range 384).map fun i => ⟨i % 32, i / 32⟩
def canPlace (s : State) (z : Shape) : Bool := allRects.any (fitsAt s z)

/-- Whether some rectangle of the allowed terraces could hold a shape, were every sequencer free (R340). -/
def shapeExists (s : State) (z : Shape) : Bool := allRects.any fun r => (rectTiles s z r).isSome

/-! ## The ready pool (R343, R367, R368) -/

def recKey (slot : Nat) (index : W32) : Nat := slot * 2 ^ 32 + index.toNat
def Rec.key (r : Rec) : Nat := recKey r.slot r.index
def Rec.word (r : Rec) (i : Nat) : Nat := (r.words.getD i 0).toNat

def Rec.width (r : Rec) : Nat := bits (r.word 3) 7 0
def Rec.height (r : Rec) : Nat := bits (r.word 3) 15 8
def Rec.seqs (r : Rec) : Nat := bits (r.word 3) 17 16 + 1
def Rec.objNo (r : Rec) : Nat := bits (r.word 0) 31 16
def Rec.kind (r : Rec) : Nat := bits (r.word 0) 63 60
def Rec.barrier (r : Rec) : Bool := bit (r.word 0) 59
def Rec.chain (r : Rec) : Bool := bit (r.word 0) 58
def Rec.vtag (r : Rec) : Nat := bits (r.word 0) 47 32
/-- The record's priority, at most the queue's (R337). -/
def Rec.prio (r : Rec) : Nat := min (bits (r.word 0) 56 52) r.maxpri

/-- The effective priority of a ready record now (R343). -/
def Rec.effPrio (s : State) (r : Rec) : Nat := min r.maxpri (r.prio + (s.time.toNat - r.readyAt) / Config.ageTicks)

def objRegions (s : State) (pasid number : Nat) : List (Nat × Nat × Tag) :=
  ((mfind s.objs (objKey pasid number)).map (·.regions)).getD []
def Rec.shape (s : State) (r : Rec) : Shape := ⟨r.width, r.height, r.seqs, r.terr, objRegions s r.pasid r.objNo⟩
def Operator.shape (s : State) (o : Operator) : Shape := ⟨o.width, o.height, o.seqs, o.terr, objRegions s o.pasid o.obj⟩

/-- Tiles the started operators of a context hold (R367). -/
def ctxTiles (s : State) (ctx : Nat) : Nat :=
  s.ops.foldl (fun n o => if o.2.ctx = ctx && o.2.pond.isNone then n + o.2.width * o.2.height else n) 0
def tmaxOk (s : State) (r : Rec) : Bool := ctxTiles s r.ctx + r.width * r.height ≤ ctxField s r.ctx 472 464

def Rec.isStarted (r : Rec) : Bool :=
  match r.state with
  | .started _ => true
  | _ => false
def Rec.isEnded (r : Rec) : Bool :=
  match r.state with
  | .ended _ => true
  | _ => false

/-- Whether a record has reached an end state (R341), its completion record written or not. -/
def Rec.isOver (r : Rec) : Bool :=
  match r.state with
  | .ended _ | .ending _ => true
  | _ => false

/-- Records of a queue before one. -/
def earlier (s : State) (r : Rec) : List Rec :=
  (s.recs.map (·.2)).filter fun e => e.slot = r.slot && 0 < (r.index - e.index).toNat && (r.index - e.index).toNat < 2 ^ 31

/-- Whether the pond run of a record's index still runs, so that the record is held (R360). -/
def pondHolds (s : State) (r : Rec) : Bool := s.ponds.any fun p => p.2.held && p.2.slot = r.slot && p.2.index = r.index

/-- The operator whose sequencers wait for a chain successor (R342). -/
def reservedFor (s : State) (r : Rec) : Option (Nat × Operator) :=
  if r.chained then s.ops.find? fun o => o.2.state = .reserved && o.2.slot = r.slot && o.2.index = r.index - 1 else none

/-- What the front end holds of a queue. -/
def State.queue (s : State) (slot : Nat) : Queue := mget {} s.queues slot

/-- Whether a record's operator was rolled back after a later record of its queue had started (R328): of a context that
drains it runs to completion, since only the last started may be abandoned (R381). -/
def mustComplete (s : State) (r : Rec) : Bool :=
  r.state = .ready && (s.queue r.slot).started.any fun i => i ≠ r.index && (i - r.index).toNat < 2 ^ 31

/-- A ready record that the pool may start: not one that starts on its predecessor's sequencers, nor a held one. -/
def poolRec (s : State) (r : Rec) : Bool :=
  r.state = .ready && (reservedFor s r).isNone && !pondHolds s r
    && (ctxField s r.ctx 367 364 = 1 || (ctxField s r.ctx 367 364 = 2 && mustComplete s r))

/-- An entry of the ready pool: a ready record, or a switched-out operator. -/
structure Item where
  isOp : Bool
  key : Nat
  prio : Nat
  age : Nat
  shape : Shape
  deriving DecidableEq, Repr

/-- What names an entry: records and operators have keys of their own. -/
def Item.id (a : Item) : Nat := 2 * a.key + if a.isOp then 1 else 0

/-- Whether one entry comes before another (R343); of two equal in priority and age, which the spec does not order, the
one with the lower key (DESIGN CHOICE, log entry 72). -/
def Item.before (a b : Item) : Bool :=
  b.prio < a.prio || (a.prio = b.prio && (a.age < b.age || (a.age = b.age && a.key < b.key)))

def insertItem (a : Item) : List Item → List Item
  | [] => [a]
  | b :: bs => if a.before b then a :: b :: bs else b :: insertItem a bs

/-- The ready pool, its head first. -/
def poolItems (s : State) : List Item :=
  let rs := (s.recs.filter fun e => poolRec s e.2).map fun e =>
    (⟨false, e.1, e.2.effPrio s, e.2.readyAt, e.2.shape s⟩ : Item)
  let os := (s.ops.filter fun e => e.2.state = .out && !e.2.abandoned).map fun e =>
    (⟨true, e.1, e.2.prio, e.2.readyAt, e.2.shape s⟩ : Item)
  (rs ++ os).foldl (fun l a => insertItem a l) []

/-- Whether every backing of an object's regions finds granules on each of some tiles (R445). -/
def granulesFor (s : State) (regs : List (Nat × Nat × Tag)) (tiles : List Nat) : Bool :=
  tiles.all fun t => (placeRegions regs (takenGranules s t)).isSome

/-- The physical sequencers of a switched-out operator are free again. -/
def ownSeqsFree (s : State) (op : Nat) : Bool :=
  (s.threadsOf op).all fun e => (freeSeqs s e.2.tile).contains e.2.pseq

/-- Its own tiles hold granules for its regions. -/
def ownGranules (s : State) (op : Nat) : Bool :=
  (mfind s.ops op).any fun o => granulesFor s (o.shape s).regs (o.tiles.map (·.2))

/-- Whether an entry is held back only by its context's Tmax, or by an earlier record of its queue (R345, R367). -/
def itemWaits (s : State) (a : Item) : Bool :=
  !a.isOp && match mfind s.recs a.key with
    | some r => !tmaxOk s r || (earlier s r).any fun e => !e.isStarted && !e.isOver
    | none => true

/-- Whether an entry can be placed now: a switched-out operator, once its own sequencers are free and no command of its that
cannot be interrupted runs on (R248), there or, where its own tiles lack granules, on another rectangle of its shape (R368,
R445). -/
def placeable (s : State) (a : Item) : Bool :=
  !itemWaits s a &&
    if a.isOp then ownSeqsFree s a.key && ((s.threadsOf a.key).all fun e => !midCommand e.2)
      && (ownGranules s a.key || canPlace s a.shape)
    else canPlace s a.shape

/-- The entry that has been passed over at the head for 1 ms: nothing below it starts until it has been placed (R343). -/
def headBlocks (s : State) : Option Nat :=
  match s.headSince with
  | some (k, t) => if Config.headTicks ≤ s.time.toNat - t then some k else none
  | none => none

/-- The entries that the pool may start, in its order: those of the pool, down to one that blocks the rest. -/
def poolOpen (s : State) : List Item :=
  let live := (poolItems s).filter fun a => !itemWaits s a
  match live.find? fun a => headBlocks s = some a.id with
  | some b => live.takeWhile (fun a => a.id ≠ b.id) ++ [b]
  | none => live

/-- The entry the pool starts next: the first that can be placed. -/
def nextItem (s : State) : Option Item := (poolOpen s).find? (placeable s)

/-- The first rectangle a shape fits. -/
def firstFit (s : State) (z : Shape) : Rect := (allRects.find? (fitsAt s z)).getD ⟨0, 0⟩

/-- The machine were the pond runs off their tiles. -/
def withoutRuns (s : State) : State :=
  { s with ops := s.ops.map fun o => if o.2.pond.isSome then (o.1, { o.2 with state := .out }) else o }

/-- The tiles an entry would take in a machine. -/
def itemTiles (s : State) (a : Item) : List Nat :=
  if a.isOp && ownGranules s a.key then ((mfind s.ops a.key).map fun o => o.tiles.map (·.2)).getD []
  else (rectTiles s a.shape (firstFit s a.shape)).getD []

/-- Whether a run holds a tile of those given. -/
def runOn (s : State) (ts : List Nat) (p : Pond) : Bool :=
  (mfind s.ops p.op).any fun o => o.tiles.any fun e => ts.contains e.2

/-- Whether a ready chain successor needs granules that a run's backings hold on its reserved tiles (R342, R358). -/
def successorNeeds (s : State) (p : Pond) : Bool :=
  s.recs.any fun e => e.2.state = .ready && match reservedFor s e.2 with
    | some (_, o) =>
      let ts := o.tiles.map (·.2)
      let regs := objRegions s e.2.pasid e.2.objNo
      !granulesFor s regs ts && granulesFor (withoutRuns s) regs ts && runOn s ts p
    | none => false

/-- Whether an entry of the pool needs a tile of a run to be placed, or a chain successor its granules (R358). -/
def runNeeded (s : State) (p : Pond) : Bool :=
  successorNeeds s p ||
    (poolOpen s).any fun a => !placeable s a && placeable (withoutRuns s) a && runOn s (itemTiles (withoutRuns s) a) p

/-- Whether an entry of the pool, of at least priority `prio`, could be placed on a tile were the operator `op` off it
(R313). -/
def poolWants (s : State) (op tile prio : Nat) : Bool :=
  let s' := { s with ops := s.ops.map fun o => if o.1 = op then (o.1, { o.2 with state := .out }) else o }
  (poolItems s).any fun a => prio ≤ a.prio && !itemWaits s a && allRects.any fun r =>
    fitsAt s' a.shape r && ((rectTiles s' a.shape r).any fun ts => ts.contains tile)

end Sys2Proof.Machine
end

