-- ==== Sys2Proof/Machine/Front.lean ====
section
/-! DEFINITION. The front end: its accesses to memory, queues, doorbells, records and their ends, the launch
predictor's history, withdrawal (R333 to R345, R352, R353, R360 to R363). -/

namespace Sys2Proof.Machine

/-! ## Accesses of the device and the host at .basin scope (R383) -/

/-- A write of physical bytes at the home by an agent that has no L1: every copy of the line goes (R91). -/
def basinPut (s : State) (pa : Nat) (data : List Byte) (cached : Bool) : State :=
  let s := mergeLine s (lineOf pa)
  if cached then
    let l := l2Line s (lineOf pa)
    let s := { s with
      l2 := mput s.l2 (lineOf pa) { l with remote := [], host := false }
      tiles := s.tiles.map fun e => (e.1, { e.2 with l1 := e.2.l1.filter (· ≠ lineOf pa) }) }
    (homeWriteBytes s pa data).noteWord (lineOf pa)
  else (({ s with mem := writeBytes s.mem pa data }).noteWrite (lineOf pa)).noteWord (lineOf pa)

/-- The physical address of a virtual one, with the permission an access needs. A malformed entry that the front end, the
loader or the host meets is in no terrace's WKERR, since the spec names none for them (DESIGN CHOICE, log entry 83). -/
def basinAddr (s : State) (pasid va : Nat) (write : Bool) : Option (Nat × Bool) :=
  match walk s pasid va with
  | .leaf _ large e => if bit e (if write then 3 else 2) then some (leafPa large e va, bits e 7 6 = 0) else none
  | _ => none

/-- A read of virtual bytes, by aligned words; none where a page is missing or unreadable. -/
def basinRead (s : State) (pasid va n : Nat) : State × Option (List Byte) :=
  (pieces n va n).foldl (fun (p : State × Option (List Byte)) q =>
    match p.2, basinAddr p.1 pasid q.1 false with
    | some acc, some (pa, c) =>
      let (s, bs) := basinBytes p.1 pa q.2 c
      (s, some (acc ++ bs))
    | _, _ => (p.1, none)) (s, some [])

/-- A write of virtual bytes, by aligned words; none where a page is missing or not writable. -/
def basinWrite (s : State) (pasid va : Nat) (data : List Byte) : Option State :=
  (pieces data.length va data.length).foldl (fun (s : Option State) q =>
    match s with
    | none => none
    | some s =>
      match walk s pasid q.1, basinAddr s pasid q.1 true with
      | .leaf pte _ _, some (pa, c) =>
        some (basinPut (setPteBit s pte 5) pa ((data.drop (q.1 - va)).take q.2) c)
      | _, _ => none) (some s)

def basinWord (s : State) (pasid va n : Nat) : State × Option Nat :=
  let (s, bs) := basinRead s pasid va n
  (s, bs.map leOf)

/-! ## Queue directory (R333, R335) -/

def dirAddr (s : State) (slot : Nat) : Nat := bits s.basin.qdbase.toNat 38 18 * 2 ^ 18 + 32 * slot

def Queue.valid (q : Queue) : Bool := q.loaded && bit q.entry 0
def Queue.pasid (q : Queue) : Nat := bits q.entry 127 108
def Queue.uva (q : Queue) : Nat := bits q.entry 255 199
def Queue.ctx (q : Queue) : Nat := bits q.entry 95 84
def Queue.maxpri (q : Queue) : Nat := bits q.entry 83 79
def Queue.terr (q : Queue) : Nat := bits q.entry 78 75
def Queue.agroup (q : Queue) : Nat := bits q.entry 74 68

/-- Stores what the front end holds of a queue, and its own fields of the directory entry. -/
def putQueue (s : State) (slot : Nat) (q : Queue) : State :=
  let a := dirAddr s slot
  let s := s.noteHole a
  let e := homeRead s a 32
  let e := setBits (setBits (setBits e 191 160 q.kidx.toNat) 159 128 q.ridx.toNat) 7 4 q.err
  { homeWrite s a 32 e with queues := mput s.queues slot q }

/-- A directory entry as the device knows it: its cached copy, else the table's. -/
def dirEntry (s : State) (slot : Nat) : Nat :=
  let q := s.queue slot
  if q.loaded then q.entry else homeRead s (dirAddr s slot) 32

/-- The eight slots of a key, in the order in which they are sought (R334). -/
def keySlots (pasid : BitVec 20) (qnum : BitVec 12) : List Nat :=
  (List.range 8).map fun j => ((mix (pasid.setWidth 32) (qnum.setWidth 32)).toNat + j) % 8192

/-- The queue of a key (R333, R334): the first valid slot that holds it; an invalid slot that never held a queue ends the
search. -/
def findKey (s : State) (pasid : BitVec 20) (qnum : BitVec 12) : List Nat → Option Nat
  | [] => none
  | i :: is =>
    let e := dirEntry s i
    if bit e 0 then (if bits e 127 96 = pasid.toNat * 2 ^ 12 + qnum.toNat then some i else findKey s pasid qnum is)
    else if bit e 1 then findKey s pasid qnum is else none
def lookupQueue (s : State) (pasid : BitVec 20) (qnum : BitVec 12) : Option Nat := findKey s pasid qnum (keySlots pasid qnum)

/-! ## The user half (R336, R337, R362) -/

/-- The merged halves: ring base, ring size in records, write index, withdraw word, read index. -/
structure UserHalf where
  base : Nat
  size : Nat
  widx : W32
  withdraw : Nat
  ridx : W32
  deriving DecidableEq, Repr

/-- Reads and merges the user half, or gives the error: 3 also where bits 5:0 of its address in the directory entry, which
R333 says are 0, are not (DESIGN CHOICE, log entry 31). -/
def userHalf (s : State) (q : Queue) : State × Except Nat UserHalf :=
  match basinWord s q.pasid q.uva 64 with
  | (s, none) => (s, .error 1)
  | (s, some u) =>
    let base := bits u 63 0
    if bits q.entry 204 199 ≠ 0 || bits base 63 57 ≠ 0 || bits base 5 0 ≠ 0 || bits u 127 100 ≠ 0 || bits u 511 224 ≠ 0
        || bits u 159 144 ≠ 0 then (s, .error 3)
    else
      let code := max (bits q.entry 63 60) (min (bits u 99 96) (bits q.entry 67 64))
      (s, .ok ⟨base, 2 ^ (code + 4), BitVec.ofNat 32 (bits u 95 64), bits u 191 128, BitVec.ofNat 32 (bits u 223 192)⟩)

/-! ## The ends of records (R342, R345, R363) -/

def setRec (s : State) (r : Rec) : State := { s with recs := mput s.recs r.key r }

/-- Writes a completion record, bytes 8 to 15 first, and ends the record; an address that does not translate sets the
queue's err to 4 (R345). -/
def endRecord (s : State) (r : Rec) (status : Nat) : State :=
  let done := r.word 6
  let s1 := setRec s { r with state := .ended status }
  if done = 0 then s1
  else
    let exit := if status = 0 || status = 3 then r.exitValue.toNat else 0
    let hi := exit + status * 2 ^ 32 + (if r.pond then 2 ^ 40 else 0)
    let lo := bits (r.word 7) 31 0 + status * 2 ^ 32
    match (basinWrite s1 r.pasid (done + 8) (leBytes 8 hi)).bind fun s => basinWrite s r.pasid done (leBytes 8 lo) with
    | some s => s
    | none => putQueue s1 r.slot { s1.queue r.slot with err := 4 }

/-- The chain predecessor of a record. -/
def predRec (s : State) (r : Rec) : Option Rec := mfind s.recs (recKey r.slot (r.index - 1))

/-- Whether the completion record of an ended record may be written (R363). -/
def endMay (s : State) (r : Rec) (status : Nat) : Bool :=
  status ≠ 1 || ((!r.chained || (predRec s r).all (!·.isStarted)) && (!r.barrier || (earlier s r).all (!·.isStarted)))

/-- What becomes of one record that has been read. -/
def settleRec (s : State) (r : Rec) : State :=
  match r.state with
  | .waiting =>
    let pred : Option RecState := if r.chained then (predRec s r).map (·.state) else none
    match pred with
    | some (.ended 0) | none =>
      if r.waitMet && (!r.barrier || (earlier s r).all (·.isOver)) then
        setRec s { r with state := .ready, readyAt := s.time.toNat }
      else s
    | some (.ended _) | some (.ending (_ + 1)) => setRec s { r with state := .ending 6 }
    | _ => s
  | .ending st => if endMay s r st then endRecord s r st else s
  | _ => s

def settleRecs (s : State) : State :=
  s.recs.foldl (fun s e => match mfind s.recs e.1 with
    | some r => settleRec s r
    | none => s) s

/-- The operator whose access a line request serves, where it is one's alone. -/
def PortOwner.op : PortOwner → Option Nat
  | .unit k | .place k _ => some (keyOp k)
  | .granule otk _ _ => some (otk / 512)
  | .evict => none

/-- Takes an operator off its tiles, its scratchpad and accumulators gone. -/
def dropOperator (s : State) (op : Nat) : State :=
  let s := cancelFlumes s fun _ c => keyOp c.thread = op
  let s := dropPins s op
  let gone (k : Nat) : Bool := keyOp k = op
  { s with
    ops := mdel s.ops op
    threads := s.threads.filter fun e => e.2.op ≠ op
    opTiles := s.opTiles.filter fun e => e.1 / 512 ≠ op
    tiles := s.tiles.map fun e => (e.1, { e.2 with
      leaseQ := e.2.leaseQ.filter fun r => !gone r.thread
      turn := if e.2.turn.any gone then none else e.2.turn
      portQ := e.2.portQ.filter fun r => r.owner.op ≠ some op
      sent := e.2.sent.filter fun r => r.owner.op ≠ some op }) }

/-- A pending launch lapses with its successor's retirement, even one that the front end has forgotten since, or with
the context (R342, R374). -/
def lapsed (s : State) (o : Operator) : Bool :=
  o.state = .reserved && (ctxField s o.ctx 367 364 = 4 ||
    match mfind s.recs (recKey o.slot (o.index + 1)) with
    | some r => r.isOver
    | none => let past := ((s.queue o.slot).ridx - (o.index + 1)).toNat; 0 < past && past < 2 ^ 31)

def settleTwice : Nat → State → State
  | 0, s => s
  | n + 1, s => settleTwice n (settleRecs s)

/-- After any event of the front end: records become ready or end, chains break, reservations lapse. -/
def frontSettle (s : State) : State :=
  let s := settleTwice (s.recs.length + 1) s
  ((s.ops.filter fun o => lapsed s o.2).map (·.1)).foldl dropOperator s

/-! ## Withdrawal (R362, R363) -/

/-- A run whose predicted tag, or whose held record's tag, is withdrawn (R363). -/
def voidPonds (s : State) (slot tag : Nat) : State :=
  let held (p : Pond) : Bool := p.held && (mfind s.recs (recKey p.slot p.index)).any fun r => r.vtag = tag
  { s with ponds := s.ponds.map fun e =>
      if e.2.slot = slot && (bits (e.2.words.getD 0 0).toNat 47 32 = tag || held e.2) then
        (e.1, { e.2 with stopping := true }) else e }

/-- Acts on the withdraw word of a queue if its serial is new; records kicked and not yet read await it (R363). -/
def actWithdraw (s : State) (slot : Nat) (q : Queue) (w : Nat) : State × Queue :=
  let serial : W32 := BitVec.ofNat 32 (w / 2 ^ 32)
  let tag := w % 2 ^ 16
  if serial = q.serial then (s, q)
  else if tag = 0 then (s, { q with serial := serial })
  else
    let void (r : Rec) : Rec :=
      if r.slot = slot && r.vtag = tag && (r.state = .waiting || r.state = .ready) then { r with state := .ending 1 } else r
    let s := voidPonds s slot tag
    let s := { s with recs := s.recs.map fun e => (e.1, void e.2) }
    (s, { q with serial := serial, voids := if q.kidx = q.ridx then q.voids else (BitVec.ofNat 16 tag, q.kidx) :: q.voids })

/-- Acts on every write of the withdraw word that has performed, in their order. -/
def actWords (s : State) (slot : Nat) (q : Queue) : State × Queue :=
  q.words.foldl (fun p w => actWithdraw p.1 slot p.2 w.toNat) (s, { q with words := [] })

/-! ## Loading a queue, merging, kicks (R335 to R338, R382) -/

/-- Merges the halves: the withdraw words act, an error is kept. -/
def mergeQueue (s : State) (slot : Nat) (q : Queue) : State × Queue × Option UserHalf :=
  match userHalf s q with
  | (s, .error e) => (s, { q with err := if q.err = 0 then e else q.err }, none)
  | (s, .ok u) =>
    let (s, q) := actWords s slot q
    let (s, q) := actWithdraw s slot q u.withdraw
    (s, q, some u)

/-- A kick of an installed queue (R338). -/
def kickQueue (s : State) (slot : Nat) (q : Queue) (k : W32) : State :=
  let (s, q, u) := mergeQueue s slot q
  match u with
  | none => putQueue s slot q
  | some u =>
    if q.err ≠ 0 || !serialGe k (q.kidx + 1) u.size then putQueue s slot q
    else if u.size < (k - q.ridx).toNat then putQueue s slot { q with qovr := q.qovr + 1 }
    else putQueue s slot { q with kidx := k }

/-- Installs or rewrites a queue from its directory entry (R335, R382): a new queue takes its indices from the user
half's read index, the write index is a kick, err and the history are cleared, a pond run of the queue stops. -/
def installQueue (s : State) (slot : Nat) : State :=
  let a := dirAddr s slot
  let s := s.noteHole a
  let e := homeRead s a 32
  let old := s.queue slot
  let s := { s with ponds := s.ponds.map fun p => if p.2.slot = slot then (p.1, { p.2 with stopping := true }) else p }
  if !bit e 0 then { s with queues := mput s.queues slot { qovr := old.qovr } }
  else
    let same := old.valid && bits old.entry 127 96 = bits e 127 96
    let q := { old with entry := e, loaded := true, err := 0, stopped := false, hist := [], words := if same then old.words else [] }
    match userHalf s q with
    | (s, .error x) => putQueue s slot (if same then { q with err := x } else { q with err := x, kidx := 0, ridx := 0, voids := [], started := none })
    | (s, .ok u) =>
      let q := if same then q
        else { q with kidx := u.ridx, ridx := u.ridx, serial := BitVec.ofNat 32 (u.withdraw / 2 ^ 32), voids := [], started := none }
      kickQueue s slot q u.widx

/-! ## Packets of the rider cores (R386, R388, log entry 22) -/

/-- Whether a rider core runs packets: the first 16 do, a spare once it is in use. -/
def Rider.works (r : Rider) (c : Fin 18) : Bool := !r.failed && (c.val < 16 || r.used)
def Rider.free (r : Rider) (c : Fin 18) : Bool := r.works c && (r.packet.isNone || r.done)

def State.setRider (s : State) (c : Fin 18) (r : Rider) : State := { s with riders := s.riders.set c r }

/-- The grant of a queue's user half, with the rights that its page gives (R386): none where no page maps it. -/
def userGrant (s : State) (q : Queue) : List (Nat × Grant) :=
  match walk s q.pasid q.uva with
  | .leaf _ large e => [(0, ⟨leafPa large e q.uva, 64, bit e 2, bit e 3⟩)]
  | _ => []

/-- A core takes a packet, with grants of the queue's user half and its directory entry. -/
def takePacket (s : State) (c : Fin 18) (p : Nat × W32) : State :=
  s.setRider c { s.riders[c] with
    packet := some p, done := false, fault := false
    grants := userGrant s (s.queue p.1) ++ [(1, ⟨dirAddr s p.1, 32, true, true⟩)] }

/-- Packets that wait go to the cores that are free, the oldest first. -/
def handPackets : Nat → State → State
  | 0, s => s
  | n + 1, s =>
    match s.packets, (List.finRange 18).find? fun c => s.riders[c].free c with
    | p :: ps, some c => handPackets n (takePacket { s with packets := ps } c p)
    | _, _ => s
/-- The packet of a doorbell's handler. -/
def handPacket (s : State) (slot : Nat) (k : W32) : State :=
  handPackets (s.packets.length + 1) { s with packets := s.packets ++ [(slot, k)] }
/-- The packets of a queue complete. -/
def donePacket (s : State) (slot : Nat) : State :=
  let close (r : Rider) : Rider := if r.packet.any (·.1 = slot) then { r with done := true, grants := [] } else r
  let s := { s with riders := s.riders.map close }
  handPackets s.packets.length s

/-- A kick at a slot (R338). -/
def kickSlot (slot : Nat) (k : W32) (s : State) : Host.Outcome State Fault Refusal :=
  let s := if (s.queue slot).valid then s else installQueue s slot
  let q := s.queue slot
  if !q.valid then runEvent { s with basin := { s.basin with qdrop := s.basin.qdrop + 1 } }
  else runEvent (frontSettle (handPacket (kickQueue s slot q k) slot k))

/-- A doorbell write (R338, R384), or a kick for a key, which the device looks up (R334): a step of the host. A kick for
a key that has no queue is dropped as one at an invalid slot is. -/
def execDoorbellKick (slot : Door) (offset bytes : Nat) (k : W32) (s : State) : Host.Outcome State Fault Refusal :=
  if bytes ≠ 4 || offset ≠ 0 then .next s
  else match slot with
    | .slot n => if 8192 ≤ n then .next s else kickSlot n k s
    | .key p q =>
      match lookupQueue s p q with
      | some n => kickSlot n k s
      | none => runEvent { s with basin := { s.basin with qdrop := s.basin.qdrop + 1 } }

/-- The withdraw word of a queue is written (R362): a step of the front end. Writes act one at a time, in the order in
which they performed; with none noted the word as it stands acts. -/
def execWithdrawal (slot : Nat) (s : State) : Host.Outcome State Fault Refusal :=
  let q := s.queue slot
  if !q.valid then .next s
  else
    let act (s : State) (q : Queue) (w : Nat) : Host.Outcome State Fault Refusal :=
      let (s, q) := actWithdraw s slot q w
      runEvent (frontSettle (putQueue s slot q))
    match q.words with
    | w :: ws => act s { q with words := ws } w.toNat
    | [] =>
      match basinWord s q.pasid (q.uva + 16) 8 with
      | (s', some w) => act s' q w
      | (_, none) => .next s

/-! ## Code objects and labels (R340, R378) -/

/-- The first unit of the block with a label, from an address on. -/
def findBlock (s : State) (pasid : Nat) (form : Form) (label : BitVec 16) : Nat → Nat → Option Nat
  | 0, _ => none
  | n + 1, a =>
    let t : Thread := { op := 0, ltile := 0, seq := 0, tile := 0, pseq := 0, form := form,
                        launch := { pasid := BitVec.ofNat 20 pasid } }
    match findSeal s t 256 a with
    | none => none
    | some (x, at_) => if x.own = label then some a else findBlock s pasid form label n (afterSeal at_)

/-- The form an object starts in and the first unit of a block in it. -/
def blockAt (s : State) (o : CodeObj) (label : BitVec 16) : Option (Form × Nat) :=
  if 0 < o.jexLen then (findBlock s o.pasid .jexcy label (o.jexLen / 32 + 1) o.jexBase).bind fun a =>
    if a < o.jexBase + o.jexLen then some (.jexcy, a) else none
  else (findBlock s o.pasid .native label (o.natLen / 32 + 1) o.natBase).bind fun a =>
    if a < o.natBase + o.natLen then some (.native, a) else none

/-- A malformed record (R340). -/
def malformed (s : State) (r : Rec) : Bool :=
  let w0 := r.word 0
  let label (n : Nat) : BitVec 16 := BitVec.ofNat 16 n
  let fields := 2 ≤ r.kind || bits w0 51 48 ≠ 0 || (r.kind = 0 && r.word 1 ≠ 0)
    || bits (r.word 2) 63 57 ≠ 0 || r.word 2 % 8 ≠ 0 || bits (r.word 3) 63 18 ≠ 0
    || r.width = 0 || 32 < r.width || r.height = 0 || 12 < r.height
    || bits (r.word 4) 63 57 ≠ 0 || r.word 4 % 8 ≠ 0 || bits (r.word 5) 63 35 ≠ 0 || 6 ≤ bits (r.word 5) 34 32
    || bits (r.word 6) 63 57 ≠ 0 || r.word 6 % 16 ≠ 0
  fields || (match mfind s.objs (objKey r.pasid r.objNo) with
    | none => true
    | some o =>
      r.objNo = 0 || o.pending || !o.entries.contains (label (bits w0 15 0))
        || (r.kind = 1 && (!o.entries.contains (label (bits (r.word 1) 63 48))
              || (blockAt s o (label (bits (r.word 1) 47 32))).isNone)))
    || (r.chained && (predRec s r).any fun p => bits (p.word 3) 17 0 ≠ bits (r.word 3) 17 0)
    || !shapeExists s (r.shape s) || ctxField s r.ctx 472 464 < r.width * r.height

/-! ## The predictor's history (R352, R353) -/

/-- The argument words of a record, if the front end can read them. -/
def readArgs (s : State) (pasid va n : Nat) : State × Option (List W64) :=
  if 2 ^ 57 < va + 8 * n then (s, none)
  else
    match basinRead s pasid va (8 * n) with
    | (s, some bs) => (s, some ((List.range n).map fun i => BitVec.ofNat 64 (leOf ((bs.drop (8 * i)).take 8))))
    | (s, none) => (s, none)

def Rec.hints (r : Rec) : Nat := bits (r.word 7) 63 32

/-- A record enters its queue's history. -/
def noteHistory (s : State) (q : Queue) (r : Rec) : State × Queue :=
  let plain := !r.chain && !r.chained && !bit (r.word 0) 57
    && !((mfind s.objs (objKey r.pasid r.objNo)).any (·.nopredict)) && r.hints ≤ 64
  if !plain then (s, q)
  else
    match readArgs s r.pasid (r.word 2) r.hints with
    | (s, none) => (s, q)
    | (s, some as) =>
      let h : Hist :=
        { prio := bits (r.word 0) 56 52, w0 := BitVec.ofNat 64 (setBits (r.word 0) 56 52 0), w1 := r.words.getD 1 0, w2 := r.words.getD 2 0,
          w3 := r.words.getD 3 0, args := as }
      (s, { q with hist := (h :: q.hist).take 16 })

def Hist.fields (h : Hist) : List W64 := [h.w0, h.w1, h.w3, h.w2] ++ h.args

/-- The prediction of a history (R353): fields in the order of `Hist.fields`. -/
def predict (hs : List Hist) : Option (List W64) :=
  match hs with
  | a :: b :: c :: _ =>
    if a.args.length ≠ b.args.length || a.args.length ≠ c.args.length then none
    else
      let fs := List.zip a.fields (List.zip b.fields c.fields)
      if fs.all fun f => f.1 - f.2.1 = f.2.1 - f.2.2 then some (fs.map fun f => f.1 + (f.1 - f.2.1)) else none
  | _ => none

/-! ## Reading records (R341, R342, R360) -/

/-- Whether the wait word of a record now satisfies its condition; none where it cannot be read. -/
def waitHolds (s : State) (r : Rec) : State × Option Bool :=
  if r.word 4 = 0 then (s, some true)
  else
    match basinWord s r.pasid (r.word 4) 4 with
    | (s, none) => (s, none)
    | (s, some v) =>
      let a : W32 := BitVec.ofNat 32 v
      let b : W32 := BitVec.ofNat 32 (bits (r.word 5) 31 0)
      (s, some (match bits (r.word 5) 34 32 with
        | 0 => a = b
        | 1 => a ≠ b
        | 2 => a.toInt < b.toInt
        | 3 => b.toInt ≤ a.toInt
        | 4 => a.toNat < b.toNat
        | _ => b.toNat ≤ a.toNat))

/-- Tests the wait word of a waiting record; a page that is missing stops the queue's reads (R337). -/
def testWait (s : State) (r : Rec) : State :=
  match waitHolds s r with
  | (s, none) => putQueue (setRec s { r with unread := true }) r.slot
      { s.queue r.slot with err := if (s.queue r.slot).err = 0 then 2 else (s.queue r.slot).err }
  | (s, some b) => if b then setRec s { r with waitMet := true } else if r.unread then setRec s { r with unread := false } else s

/-- Whether a record equals a run's prediction (R360). -/
def matchesPond (s : State) (r : Rec) (p : Pond) : State × Bool :=
  let clear (w : Nat) : Nat := setBits (setBits (setBits w 56 52 0) 59 59 0) 47 32 0
  let words := clear (r.word 0) = clear (p.words.getD 0 0).toNat && r.word 1 = (p.words.getD 1 0).toNat
    && r.word 3 = (p.words.getD 3 0).toNat && r.word 2 = (p.words.getD 2 0).toNat
  match readArgs s r.pasid (r.word 2) p.args.length with
  | (s, none) => (s, false)
  | (s, some as) => (s, words && as = p.args)

/-- The record at a run's index is compared: a match holds it, a mismatch stops the run. -/
def comparePonds (s : State) (r : Rec) : State :=
  (s.ponds.filter fun e => e.2.slot = r.slot && e.2.index = r.index).foldl (fun s e =>
    let (s, ok) := matchesPond s r e.2
    { s with ponds := s.ponds.map fun x =>
        if x.1 = e.1 then (x.1, if ok then { x.2 with held := true } else { x.2 with stopping := true }) else x }) s

/-- The run of a record that can never be claimed stops. -/
def stopPondOf (s : State) (r : Rec) : State :=
  { s with ponds := s.ponds.map fun e =>
      if e.2.slot = r.slot && e.2.index = r.index then (e.1, { e.2 with stopping := true }) else e }

/-- Whether a withdrawal awaits a record that is only now read (R363). -/
def voided (q : Queue) (r : Rec) : Bool :=
  q.voids.any fun v => v.1.toNat = r.vtag && (v.2 - r.index - 1).toNat < 2 ^ 31

def openRecs (s : State) (p : Rec → Bool) : Nat :=
  ((s.recs.map (·.2)).filter fun r => p r && (r.state = .waiting || r.state = .ready)).length

/-- Records of a queue that have ended are forgotten, but for the last one read. -/
def pruneRecs (s : State) (slot : Nat) (ridx : W32) : State :=
  { s with recs := s.recs.filter fun e => e.2.slot ≠ slot || !e.2.isEnded || e.2.index = ridx - 1 }

/-- The front end reads the next record of a queue (R341): a step of the device. Where the page that takes the read index
is missing or not writable, for which the spec names no outcome, err is 1 (DESIGN CHOICE, log entry 31). -/
def execRecordRead (slot : Nat) (s : State) : Host.Outcome State Fault Refusal :=
  let q := s.queue slot
  if !q.valid || q.err ≠ 0 || q.stopped || q.ridx = q.kidx || ctxField s q.ctx 367 364 ≠ 1
      || 64 ≤ openRecs s (fun r => r.slot = slot) || 16384 ≤ openRecs s (fun _ => true) then .next s
  else
    let s := donePacket s slot
    let (s, q, u) := mergeQueue s slot q
    match u with
    | none => runEvent (frontSettle (putQueue s slot q))
    | some u =>
      match basinRead s q.pasid (u.base + 64 * (q.ridx.toNat % u.size)) 64 with
      | (s, none) => runEvent (frontSettle (putQueue s slot { q with err := 1 }))
      | (s, some bs) =>
        let s := pruneRecs s slot q.ridx
        let r0 : Rec :=
          { slot := slot, index := q.ridx, ctx := q.ctx, pasid := q.pasid,
            words := (List.range 8).map fun i => BitVec.ofNat 64 (leOf ((bs.drop (8 * i)).take 8)),
            maxpri := q.maxpri, terr := q.terr, agroup := q.agroup }
        let r := { r0 with chained := (predRec s r0).any (·.chain) }
        let bad := malformed s r
        let q' := { q with ridx := q.ridx + 1, voids := q.voids.filter fun v => (v.2 - q.ridx - 1).toNat ≠ 0 }
        let (s, q') := if bad then (s, q') else noteHistory s q' r
        let (s, q') := match basinWrite s q.pasid (q.uva + 24) (leBytes 4 q'.ridx.toNat) with
          | some s => (s, q')
          | none => (s, { q' with err := 1 })
        let s := putQueue s slot q'
        if bad then runEvent (frontSettle (setRec (stopPondOf s r) { r with state := .ending 5 }))
        else if voided q r then runEvent (frontSettle (setRec (stopPondOf s r) { r with state := .ending 1 }))
        else runEvent (frontSettle (testWait (comparePonds (setRec s r) r) r))

/-- A wait word is written, or can be read again (R337, R342): a step of the front end. Records already read continue
whatever the queue's err; one whose wait word could not be read (err = 2) is tested again only after the entry has been
rewritten. -/
def execWaitWordSatisfied (slot : Nat) (index : W32) (s : State) : Host.Outcome State Fault Refusal :=
  match mfind s.recs (recKey slot index) with
  | none => .next s
  | some r =>
    if r.state = .waiting && !r.waitMet && !r.unread then runEvent (frontSettle (testWait s r)) else .next s

end Sys2Proof.Machine
end

