-- ==== Sys2Proof/Machine/Vector.lean ====
section
/-! DEFINITION. Class 4: vector and mask operations (file 08). -/

namespace Sys2Proof.Machine

/-! ## Frames (R213 to R217) -/

/-- The result lanes, lowest first, as one number. -/
def packList (w : Nat) (xs : List Nat) : Nat := xs.foldr (fun x a => x % 2 ^ w + a * 2 ^ w) 0

/-- Whether element `i` of a type is active: bit i governs both elements of byte i of a 4-bit type (R214). -/
def elemActive (r : Regs) (m : Fin 16) (w i : Nat) : Bool := maskActive r m (if w = 4 then i / 2 else i)

/-- The tag of a vector result (R217). -/
def vTagOf (r : Regs) (key : Tag) (a b c : Tag) (m : Fin 16) : Tag :=
  if m = 0 then fold key a b c else mix (fold key a b c) r.qTag[m]

/-- Flags raised in the block (R157). -/
def raise (t : Thread) (f : FlagSet) : Thread := { t with blk := { t.blk with held := t.blk.held ||| f } }

/-- Writes the elements of a vector result: `w` bits each, `n` of them, `f i` for those that `act` selects. -/
def putLanes (t : Thread) (lat reg : Nat) (nw : Bool) (d : VDst) (g key : Tag) (w n : Nat) (act : Nat → Bool)
    (f : Nat → Nat × FlagSet) : Op Thread := do
  let rs := (List.range n).map fun i => if act i then f i else (0, 0)
  let x := BitVec.ofNat 8192 (packList w (rs.map (·.1)))
  let t := raise t (rs.foldl (fun a r => a ||| r.2) 0)
  if w = 4 then putV t lat reg nw d x g key 1 1024 fun i => act (2 * i)
  else putV t lat reg nw d x g key (w / 8) n act

/-- A rounding mode as an operation reads it. -/
def modeOf (t : Thread) (r : Rnd) : Rnd := rndMode r t.regs.fmt

/-- An operation of one source whose lanes are of the type; `key` is its class and opcode. -/
def vector1 (key lat reg : Nat) (x : V1) (f : Rnd → Nat → Nat × FlagSet) (s : State) :
    Host.Outcome State Fault Refusal :=
  runOp s fun t => do
    let (t, a, ga) ← readV t x.a
    let k := opk key (tyTo x.ty)
    let w := x.ty.width
    putLanes t lat reg x.nw x.d (vTagOf t.regs k ga 0 0 x.msk) k w x.ty.elems (elemActive t.regs x.msk w)
      fun i => f (modeOf t x.rnd) (laneOf w a.toNat i)

/-- An operation of two sources, lane by lane. -/
def vector2 (key lat reg : Nat) (x : V2) (f : Rnd → Nat → Nat → Nat × FlagSet) (s : State) :
    Host.Outcome State Fault Refusal :=
  runOp s fun t => do
    let (t, a, ga) ← readV t x.a
    let (t, b, gb) ← readV t x.b
    let k := opk key (tyTo x.ty)
    let w := x.ty.width
    putLanes t lat reg x.nw x.d (vTagOf t.regs k ga gb 0 x.msk) k w x.ty.elems (elemActive t.regs x.msk w)
      fun i => f (modeOf t x.rnd) (laneOf w a.toNat i) (laneOf w b.toNat i)

/-- An operation of three sources, lane by lane. -/
def vector3 (key lat reg : Nat) (x : V3) (f : Rnd → Nat → Nat → Nat → Nat × FlagSet) (s : State) :
    Host.Outcome State Fault Refusal :=
  runOp s fun t => do
    let (t, a, ga) ← readV t x.a
    let (t, b, gb) ← readV t x.b
    let (t, c, gc) ← readV t x.c
    let k := opk key (tyTo x.ty)
    let w := x.ty.width
    putLanes t lat reg x.nw x.d (vTagOf t.regs k ga gb gc x.msk) k w x.ty.elems (elemActive t.regs x.msk w)
      fun i => f (modeOf t x.rnd) (laneOf w a.toNat i) (laneOf w b.toNat i) (laneOf w c.toNat i)

/-- An operation of two sources whose lane `i` depends on whole vectors. -/
def vectorWhole (key : Nat) (x : V2) (f : Nat → Nat → Nat → Nat) (s : State) : Host.Outcome State Fault Refusal :=
  runOp s fun t => do
    let (t, a, ga) ← readV t x.a
    let (t, b, gb) ← readV t x.b
    let k := opk key (tyTo x.ty)
    let w := x.ty.width
    putLanes t 6 8 x.nw x.d (vTagOf t.regs k ga gb 0 x.msk) k w x.ty.elems (elemActive t.regs x.msk w)
      fun i => (f a.toNat b.toNat i, 0)

/-! ## Elements -/

/-- An element as an exact integer (R191, R219). -/
def elemInt (ty : Ty) (x : Nat) : Int := if ty.isSigned then sgn ty.width x else x

/-- A pattern of a floating type in the order of its values, −0 below +0. -/
def orderKey (f : FF) (x : Nat) : Int :=
  let mag := x % 2 ^ (f.width - 1)
  if bit x (f.width - 1) then -(mag : Int) - 1 else mag
def isNan (f : FF) (x : Nat) : Bool := f.decode x = .nan

def withFF (ty : Ty) (g : FF → Nat × FlagSet) : Nat × FlagSet :=
  match ffOf ty with
  | some f => g f
  | none => (0, 0)

/-! ## Arithmetic (R219 to R221) -/

/-- `a + b`, `a − b` and `a · b` of R220. -/
def laneAdd (ty : Ty) (sat : Bool) (m : Rnd) (a b : Nat) : Nat × FlagSet :=
  if ty.isInt then fitInt ty (elemInt ty a + elemInt ty b) sat
  else withFF ty fun f => f.add (f.decode a) (f.decode b) m sat
def laneSub (ty : Ty) (sat : Bool) (m : Rnd) (a b : Nat) : Nat × FlagSet :=
  if ty.isInt then fitInt ty (elemInt ty a - elemInt ty b) sat
  else withFF ty fun f => f.add (f.decode a) (f.decode b).neg m sat
def laneMul (ty : Ty) (sat : Bool) (m : Rnd) (a b : Nat) : Nat × FlagSet :=
  if ty.isInt then fitInt ty (elemInt ty a * elemInt ty b) sat
  else withFF ty fun f => f.mul (f.decode a) (f.decode b) m sat

/-- `|a − b|`, rounded once. -/
def laneAbd (ty : Ty) (sat : Bool) (m : Rnd) (a b : Nat) : Nat × FlagSet :=
  if ty.isInt then fitInt ty ((elemInt ty a - elemInt ty b).natAbs : Nat) sat
  else withFF ty fun f =>
    match f.decode a, (f.decode b).neg with
    | .fin x p e, .fin y q g =>
      f.round { Ex.add ⟨x, p, e, false⟩ ⟨y, q, g, false⟩ false with neg := false } m sat
    | u, v =>
      let (c, fl) := f.add u v m sat
      (if f.decode c = .nan then c else c % 2 ^ (f.width - 1), fl)

/-- The smaller (or larger) of two values (R221). -/
def fltPick (f : FF) (wantMax : Bool) (a b : Nat) : Nat :=
  if isNan f a then (if isNan f b then f.qnan else b)
  else if isNan f b then a
  else if (orderKey f a < orderKey f b) = !wantMax then a else b
def lanePick (ty : Ty) (wantMax : Bool) (a b : Nat) : Nat × FlagSet :=
  if ty.isInt then
    (if (decide (elemInt ty a < elemInt ty b)) = !wantMax then a else b, 0)
  else withFF ty fun f => (fltPick f wantMax a b, 0)

def laneAbs (ty : Ty) (sat : Bool) (a : Nat) : Nat × FlagSet :=
  if ty.isInt then fitInt ty ((elemInt ty a).natAbs : Nat) sat
  else withFF ty fun f => (if isNan f a then f.qnan else a % 2 ^ (f.width - 1), 0)
def laneNeg (ty : Ty) (sat : Bool) (a : Nat) : Nat × FlagSet :=
  if ty.isInt then fitInt ty (-elemInt ty a) sat
  else withFF ty fun f => (if isNan f a then f.qnan else a ^^^ 2 ^ (f.width - 1), 0)

/-- `v.add` (R219, R220). -/
def execVAdd (x : V2) (s : State) : Host.Outcome State Fault Refusal := vector2 0x400 2 4 x (laneAdd x.ty x.sat) s
/-- `v.sub` (R219, R220). -/
def execVSub (x : V2) (s : State) : Host.Outcome State Fault Refusal := vector2 0x401 2 4 x (laneSub x.ty x.sat) s
/-- `v.mul` (R219, R220). -/
def execVMul (x : V2) (s : State) : Host.Outcome State Fault Refusal := vector2 0x402 4 6 x (laneMul x.ty x.sat) s
/-- `v.fma` (R219, R220). -/
def execVFma (x : V3) (s : State) : Host.Outcome State Fault Refusal :=
  vector3 0x403 4 6 x (fun m a b c => withFF x.ty fun f => f.fma (f.decode a) (f.decode b) (f.decode c) m x.sat) s
/-- `v.fms` (R219, R220). -/
def execVFms (x : V3) (s : State) : Host.Outcome State Fault Refusal :=
  vector3 0x404 4 6 x (fun m a b c => withFF x.ty fun f => f.fma (f.decode a) (f.decode b) (f.decode c).neg m x.sat) s
/-- `v.min` (R221). -/
def execVMin (x : V2) (s : State) : Host.Outcome State Fault Refusal :=
  vector2 0x405 2 4 x (fun _ => lanePick x.ty false) s
/-- `v.max` (R221). -/
def execVMax (x : V2) (s : State) : Host.Outcome State Fault Refusal :=
  vector2 0x406 2 4 x (fun _ => lanePick x.ty true) s
/-- `v.abs` (R221). -/
def execVAbs (x : V1) (s : State) : Host.Outcome State Fault Refusal :=
  vector1 0x407 2 4 x (fun _ => laneAbs x.ty x.sat) s
/-- `v.neg` (R221). -/
def execVNeg (x : V1) (s : State) : Host.Outcome State Fault Refusal :=
  vector1 0x408 2 4 x (fun _ => laneNeg x.ty x.sat) s
/-- `v.abd` (R219, R220). -/
def execVAbd (x : V2) (s : State) : Host.Outcome State Fault Refusal := vector2 0x409 4 6 x (laneAbd x.ty x.sat) s
/-- `v.mulh` (R219, R220). -/
def execVMulh (x : V2) (s : State) : Host.Outcome State Fault Refusal :=
  vector2 0x40A 4 6 x (fun _ a b =>
    (wrapN x.ty.width (elemInt x.ty a * elemInt x.ty b / ((2 ^ x.ty.width : Nat) : Int)), 0)) s
/-- `v.madd` (R219, R220). -/
def execVMadd (x : V3) (s : State) : Host.Outcome State Fault Refusal :=
  vector3 0x40B 4 6 x (fun _ a b c =>
    fitInt x.ty (elemInt x.ty a * elemInt x.ty b + elemInt x.ty c) x.sat) s

/-! ## Dot products (R222) -/

/-- The exact sum of products and one more term, with its flags (R151, R160). -/
def dotSum (xs : List (FV × FV)) (c : FV) : FV × FlagSet :=
  let ps := xs.map fun p => p.1.mul p.2
  let operandNan := c = .nan || xs.any fun p => p.1 = .nan || p.2 = .nan
  let (v, fl) := sumTerms (c :: ps.map (·.1))
  (v, if operandNan then 0 else ps.foldl (fun a p => a ||| p.2) fl)

/-- One 32-bit lane of a dot product. -/
def dotLane (ty : Ty) (sat : Bool) (m : Rnd) (a b c i : Nat) : Nat × FlagSet :=
  let w := ty.width
  let k := 32 / w
  let js := List.range k
  if ty.isInt then
    let d := if ty.isSigned then Ty.si32 else Ty.ui32
    fitInt d (js.foldl (fun t j => t + elemInt ty (laneOf w a (k * i + j)) * elemInt ty (laneOf w b (k * i + j)))
      (elemInt d (laneOf 32 c i))) sat
  else
    let (v, fl) := dotSum (js.map fun j => (decodeElem ty (laneOf w a (k * i + j)), decodeElem ty (laneOf w b (k * i + j))))
      (ff32.decode (laneOf 32 c i))
    let (r, g) := ff32.put v m sat
    (r, fl ||| g)

/-- `v.dot` (R222). -/
def execVDot (x : V3) (s : State) : Host.Outcome State Fault Refusal :=
  runOp s fun t => do
    let (t, a, ga) ← readV t x.a
    let (t, b, gb) ← readV t x.b
    let (t, c, gc) ← readV t x.c
    let k := opk 0x40C (tyTo x.ty)
    putLanes t 6 8 x.nw x.d (vTagOf t.regs k ga gb gc x.msk) k 32 256 (maskActive t.regs x.msk)
      (dotLane x.ty x.sat (modeOf t x.rnd) a.toNat b.toNat c.toNat)

/-! ## Transcendentals (R223) -/

/-- −0 or +0, an infinity, and the canonical NaN of a format. -/
def zeroOf (f : FF) (neg : Bool) : Nat := signCode f neg 0
def infOf (f : FF) (neg : Bool) : Nat := signCode f neg (f.infCode.getD 0)

def rcpLane (f : FF) (sat : Bool) (m : Rnd) (a : Nat) : Nat × FlagSet :=
  match f.decode a with
  | .nan => (f.qnan, 0)
  | .inf n => (zeroOf f n, 0)
  | .fin n 0 _ => (infOf f n, fDZ)
  | .fin n x e => f.round (rcpEx n x e) m sat
def rsqLane (f : FF) (sat : Bool) (m : Rnd) (a : Nat) : Nat × FlagSet :=
  match f.decode a with
  | .nan => (f.qnan, 0)
  | .inf n => if n then (f.qnan, fNV) else (zeroOf f false, 0)
  | .fin n 0 _ => (infOf f n, fDZ)
  | .fin n x e => if n then (f.qnan, fNV) else f.round (rsqEx x e) m sat
def sqrtLane (f : FF) (sat : Bool) (m : Rnd) (a : Nat) : Nat × FlagSet :=
  match f.decode a with
  | .nan => (f.qnan, 0)
  | .inf n => if n then (f.qnan, fNV) else (infOf f false, 0)
  | .fin n 0 _ => (zeroOf f n, 0)
  | .fin n x e => if n then (f.qnan, fNV) else f.round (sqrtEx x e) m sat
def exp2Lane (f : FF) (sat : Bool) (m : Rnd) (a : Nat) : Nat × FlagSet :=
  match f.decode a with
  | .nan => (f.qnan, 0)
  | .inf n => (if n then zeroOf f false else infOf f false, 0)
  | .fin n x e => f.round (exp2Ex n x e) m sat
def log2Lane (f : FF) (sat : Bool) (m : Rnd) (a : Nat) : Nat × FlagSet :=
  match f.decode a with
  | .nan => (f.qnan, 0)
  | .inf n => if n then (f.qnan, fNV) else (infOf f false, 0)
  | .fin _ 0 _ => (infOf f true, fDZ)
  | .fin n x e => if n then (f.qnan, fNV) else f.round (log2Ex x e) m sat

/-- `v.rcp` (R223). -/
def execVRcp (x : V1) (s : State) : Host.Outcome State Fault Refusal :=
  vector1 0x410 8 10 x (fun m a => withFF x.ty fun f => rcpLane f x.sat m a) s
/-- `v.rsq` (R223). -/
def execVRsq (x : V1) (s : State) : Host.Outcome State Fault Refusal :=
  vector1 0x411 8 10 x (fun m a => withFF x.ty fun f => rsqLane f x.sat m a) s
/-- `v.sqrt` (R223). -/
def execVSqrt (x : V1) (s : State) : Host.Outcome State Fault Refusal :=
  vector1 0x412 8 10 x (fun m a => withFF x.ty fun f => sqrtLane f x.sat m a) s
/-- `v.exp2` (R223). -/
def execVExp2 (x : V1) (s : State) : Host.Outcome State Fault Refusal :=
  vector1 0x413 8 10 x (fun m a => withFF x.ty fun f => exp2Lane f x.sat m a) s
/-- `v.log2` (R223). -/
def execVLog2 (x : V1) (s : State) : Host.Outcome State Fault Refusal :=
  vector1 0x414 8 10 x (fun m a => withFF x.ty fun f => log2Lane f x.sat m a) s

/-! ## Conversion, scaling and rounding (R224 to R226) -/

/-- `v.cvt` (R224). -/
def execVCvt (x : V1) (src : Ty) (part : Fin 16) (s : State) : Host.Outcome State Fault Refusal :=
  runOp s fun t => do
    let (t, a, ga) ← readV t x.a
    let k := opk 0x418 (tyTo x.ty)
    let ns := src.elems
    let nd := x.ty.elems
    let p := part.val
    let w := x.ty.width
    let named (i : Nat) : Bool := nd ≤ ns || (p * ns ≤ i && i < (p + 1) * ns)
    let from_ (i : Nat) : Nat := if nd < ns then p * nd + i else if ns < nd then i - p * ns else i
    putLanes t 4 6 x.nw x.d (vTagOf t.regs k ga 0 0 x.msk) k w nd (fun i => named i && elemActive t.regs x.msk w i)
      fun i => convertElem src x.ty (laneOf src.width a.toNat (from_ i)) (modeOf t x.rnd) x.sat

/-- One lane of `v.scl`. -/
def sclLane (dst src : Ty) (scale : FV) (sat : Bool) (m : Rnd) (a : Nat) : Nat × FlagSet :=
  let (v, fl) := (decodeElem src a).mul scale
  let (c, g) := toFloat v dst m sat
  (c, fl ||| g)

/-- `v.scl` (R225). -/
def execVScl (x : V2) (src scale : Ty) (s : State) : Host.Outcome State Fault Refusal :=
  runOp s fun t => do
    let (t, a, ga) ← readV t x.a
    let (t, b, gb) ← readV t x.b
    let k := opk 0x419 (tyTo x.ty)
    let w := x.ty.width
    let v := decodeElem scale (laneOf scale.width b.toNat 0)
    putLanes t 4 6 x.nw x.d (vTagOf t.regs k ga gb 0 x.msk) k w x.ty.elems
      (fun i => i < 256 && elemActive t.regs x.msk w i)
      fun i => sclLane x.ty src v x.sat (modeOf t x.rnd) (laneOf 32 a.toNat i)

/-- One lane of `v.rnd`. -/
def rndLane (f : FF) (m : Rnd) (a : Nat) : Nat × FlagSet :=
  match f.decode a with
  | .nan => (f.qnan, 0)
  | .inf _ | .fin _ 0 _ => (a, 0)
  | .fin n x e =>
    let (y, inexact) := roundUnits ⟨n, x, e, false⟩ 0 m
    ((f.round ⟨n, y, 0, false⟩ .rne false).1, flagIf inexact fNX)

/-- `v.rnd` (R226). -/
def execVRnd (x : V1) (s : State) : Host.Outcome State Fault Refusal :=
  vector1 0x41A 4 6 x (fun m a => withFF x.ty fun f => rndLane f m a) s

/-! ## Comparison, classification, selection (R227 to R229) -/

/-- The relation of a condition on two elements (R227). -/
def elemCc (cc : Cc) (ty : Ty) (a b : Nat) : Bool :=
  if ty.isInt then
    match cc with
    | .eq => a = b
    | .ne => a ≠ b
    | .lt => elemInt ty a < elemInt ty b
    | .ge => elemInt ty b ≤ elemInt ty a
    | .ltb => a < b
    | .geb => b ≤ a
  else match ffOf ty with
    | none => false
    | some f =>
      let key (x : Nat) : Int := if bit x (f.width - 1) then -((x % 2 ^ (f.width - 1) : Nat) : Int) else x
      if isNan f a || isNan f b then cc = .ne
      else match cc with
        | .eq => key a = key b
        | .ne => key a ≠ key b
        | .lt => key a < key b
        | .ge => key b ≤ key a
        | .ltb | .geb => false

/-- A mask result (R227): bits of inactive lanes keep their old values, bits at or above N are 0. -/
def putMask (t : Thread) (d : Fin 16) (n : Nat) (m : Fin 16) (f : Nat → Bool) (g : Tag) : Thread :=
  let is := List.range n
  let x := packList 1 (is.map fun i => ofBool (maskActive t.regs m i && f i))
  let w := packList 1 (is.map fun i => ofBool (maskActive t.regs m i))
  putDest t 4 (.q d (BitVec.ofNat 1024 x) (BitVec.ofNat 1024 (w + (2 ^ 1024 - 2 ^ n)))) g

/-- `v.cmp` (R227). -/
def execVCmp (cc : Cc) (d : Fin 16) (a b : VSrc) (ty : Ty) (msk : Fin 16) (s : State) :
    Host.Outcome State Fault Refusal :=
  runOp s fun t => do
    let (t, x, ga) ← readV t a
    let (t, y, gb) ← readV t b
    let w := ty.width
    return putMask t d ty.elems msk (fun i => elemCc cc ty (laneOf w x.toNat i) (laneOf w y.toNat i))
      (vTagOf t.regs (opk 0x420 (tyTo ty)) ga gb 0 msk)

/-- The class of an element, as the number of its set bit (R228). -/
def elemClass (f : FF) (x : Nat) : Nat :=
  match f.decode x with
  | .nan => 0
  | .inf n => if n then 1 else 7
  | .fin n m _ => if m = 0 then 4 else if m < 2 ^ f.m then (if n then 3 else 5) else (if n then 2 else 6)

/-- `v.class` (R228). -/
def execVClass (d : Fin 16) (a : VSrc) (set : BitVec 8) (ty : Ty) (msk : Fin 16) (s : State) :
    Host.Outcome State Fault Refusal :=
  runOp s fun t => do
    let (t, x, ga) ← readV t a
    let w := ty.width
    return putMask t d ty.elems msk
      (fun i => match ffOf ty with
        | some f => set.getLsbD (elemClass f (laneOf w x.toNat i))
        | none => false)
      (vTagOf t.regs (opk 0x421 (tyTo ty)) ga 0 0 msk)

/-- `v.sel` (R229). -/
def execVSel (x : V2) (q : Fin 16) (s : State) : Host.Outcome State Fault Refusal :=
  runOp s fun t => do
    let (t, a, ga) ← readV t x.a
    let (t, b, gb) ← readV t x.b
    let k := opk 0x422 (tyTo x.ty)
    let w := x.ty.width
    putLanes t 2 4 x.nw x.d (vTagOf t.regs k ga gb t.regs.qTag[q] x.msk) k w x.ty.elems (elemActive t.regs x.msk w)
      fun i => (laneOf w (if t.regs.q[q].getLsbD i then a.toNat else b.toNat) i, 0)

/-! ## Logic, shifts and bit counts (R230, R231) -/

/-- `v.and` (R230). -/
def execVAnd (x : V2) (s : State) : Host.Outcome State Fault Refusal := vector2 0x428 2 4 x (fun _ a b => (a &&& b, 0)) s
/-- `v.or` (R230). -/
def execVOr (x : V2) (s : State) : Host.Outcome State Fault Refusal := vector2 0x429 2 4 x (fun _ a b => (a ||| b, 0)) s
/-- `v.xor` (R230). -/
def execVXor (x : V2) (s : State) : Host.Outcome State Fault Refusal := vector2 0x42A 2 4 x (fun _ a b => (a ^^^ b, 0)) s
/-- `v.not` (R230). -/
def execVNot (x : V1) (s : State) : Host.Outcome State Fault Refusal :=
  vector1 0x42B 2 4 x (fun _ a => (2 ^ x.ty.width - 1 - a, 0)) s
/-- `v.shl` (R231). -/
def execVShl (x : V2) (s : State) : Host.Outcome State Fault Refusal :=
  vector2 0x42C 2 4 x (fun _ a n => (if x.ty.width ≤ n then 0 else a * 2 ^ n % 2 ^ x.ty.width, 0)) s
/-- `v.shr` (R231). -/
def execVShr (x : V2) (s : State) : Host.Outcome State Fault Refusal :=
  vector2 0x42D 2 4 x (fun _ a n => (if x.ty.width ≤ n then 0 else a / 2 ^ n, 0)) s
/-- `v.sra` (R231). -/
def execVSra (x : V2) (s : State) : Host.Outcome State Fault Refusal :=
  vector2 0x42E 2 4 x (fun _ a n =>
    (wrapN x.ty.width (sgn x.ty.width a / ((2 ^ min n x.ty.width : Nat) : Int)), 0)) s
/-- `v.popc` (R231). -/
def execVPopc (x : V1) (s : State) : Host.Outcome State Fault Refusal :=
  vector1 0x42F 4 6 x (fun _ a => (popcN x.ty.width a, 0)) s
/-- `v.clz` (R231). -/
def execVClz (x : V1) (s : State) : Host.Outcome State Fault Refusal :=
  vector1 0x430 4 6 x (fun _ a => (clzN x.ty.width a, 0)) s

/-! ## Reductions and scans (R232) -/

/-- A running exact sum of elements of one floating format, in units of its smallest subnormal. -/
structure SumAcc where
  nan : Bool := false
  pinf : Bool := false
  ninf : Bool := false
  some_ : Bool := false
  /-- Every term so far is −0. -/
  negZero : Bool := true
  total : Int := 0
  deriving DecidableEq, Repr

def SumAcc.add (f : FF) (a : SumAcc) (x : Nat) : SumAcc :=
  match f.decode x with
  | .nan => { a with nan := true, some_ := true }
  | .inf n => { a with pinf := a.pinf || !n, ninf := a.ninf || n, some_ := true, negZero := false }
  | .fin n m e =>
    let v := scaleTo (if n then -(m : Int) else m) e f.qmin
    { a with some_ := true, negZero := a.negZero && m = 0 && n, total := a.total + v }

/-- The value of a sum, rounded once (R160, R232). -/
def SumAcc.result (f : FF) (a : SumAcc) (m : Rnd) (sat : Bool) : Nat × FlagSet :=
  if a.nan then (f.qnan, 0)
  else if a.pinf && a.ninf then (f.qnan, fNV)
  else if a.pinf then (infOf f false, 0)
  else if a.ninf then (infOf f true, 0)
  else f.round (exOf a.total f.qmin (a.some_ && a.negZero)) m sat

/-- What a reduction carries along a segment. -/
inductive Carry where
  | sum (x : Int)
  | fsum (x : SumAcc)
  | pick (x : Option Nat)
  deriving DecidableEq, Repr

/-- The reductions: add, or the larger or smaller. -/
inductive RedKind where
  | add
  | pick (wantMax : Bool)
  deriving DecidableEq, Repr

def carryInit (k : RedKind) (ty : Ty) : Carry :=
  match k with
  | .add => if ty.isInt then .sum 0 else .fsum {}
  | .pick _ => .pick none
def carryStep (k : RedKind) (ty : Ty) (c : Carry) (x : Nat) : Carry :=
  match c with
  | .sum t => .sum (t + elemInt ty x)
  | .fsum a => match ffOf ty with
    | some f => .fsum (a.add f x)
    | none => .fsum a
  | .pick none => match ffOf ty with
    | some f => .pick (some (if isNan f x then f.qnan else x))
    | none => .pick (some x)
  | .pick (some y) => match k with
    | .pick wantMax => .pick (some (lanePick ty wantMax y x).1)
    | .add => c
/-- The identity of max and min (R232). -/
def pickIdentity (ty : Ty) (wantMax : Bool) : Nat :=
  if ty.isInt then wrapN ty.width (if wantMax then intMin ty else intMax ty)
  else match ffOf ty with
    | some f => infOf f wantMax
    | none => 0
def carryResult (k : RedKind) (ty : Ty) (m : Rnd) (sat : Bool) (c : Carry) : Nat × FlagSet :=
  match c with
  | .sum t => fitInt ty t sat
  | .fsum a => match ffOf ty with
    | some f => a.result f m sat
    | none => (0, 0)
  | .pick (some x) => (x, 0)
  | .pick none => match k with
    | .pick wantMax => (pickIdentity ty wantMax, 0)
    | .add => (0, 0)

/-- A lane of a reduction's source: a segment head, contributing, and its element. -/
structure RLane where
  head : Bool
  act : Bool
  x : Nat
  deriving DecidableEq, Repr

/-- The carries after each lane of a scan: inclusive and exclusive. -/
def scanCarries (k : RedKind) (ty : Ty) : List RLane → Carry → List (Carry × Carry)
  | [], _ => []
  | l :: ls, c =>
    let c := if l.head then carryInit k ty else c
    let c' := if l.act then carryStep k ty c l.x else c
    (c', c) :: scanCarries k ty ls c'

/-- For each lane, the carry at the end of its segment, and that carry itself where the lane is a head. -/
def segTotals : List RLane → List Carry → List (Carry × Option Carry)
  | l :: ls, c :: cs =>
    let rest := segTotals ls cs
    let total := match ls, rest with
      | l' :: _, (d, _) :: _ => if l'.head then c else d
      | _, _ => c
    (total, if l.head then some total else none) :: rest
  | _, _ => []

/-- The lanes of a source with its head flags (R232): lane 0 is always a head. -/
def redLanes (t : Thread) (x : VRed) (a : VReg) : List RLane :=
  (List.range x.ty.elems).map fun i =>
    { head := i = 0 || (x.seg && t.regs.q[x.q].getLsbD i), act := maskActive t.regs x.msk i,
      x := laneOf x.ty.width a.toNat i }

/-- A reduction or scan: every lane of the destination is written. -/
def reduce (key : Nat) (k : RedKind) (scan : Bool) (x : VRed) (s : State) : Host.Outcome State Fault Refusal :=
  runOp s fun t => do
    let (t, a, ga) ← readV t x.a
    let lanes := redLanes t x a
    let cs := scanCarries k x.ty lanes (carryInit k x.ty)
    let res (c : Carry) : Nat × FlagSet := carryResult k x.ty (modeOf t x.rnd) x.sat c
    let out : List (Nat × FlagSet) :=
      if scan then cs.map fun c => res (if x.excl then c.2 else c.1)
      else (segTotals lanes (cs.map (·.1))).map fun c => match c.2 with
        | some c => res c
        | none => (0, 0)
    let key := opk key (tyTo x.ty)
    let g := vTagOf t.regs key ga (if x.seg then t.regs.qTag[x.q] else 0) 0 x.msk
    let v := BitVec.ofNat 8192 (packList x.ty.width (out.map (·.1)))
    let t := raise t (out.foldl (fun f r => f ||| r.2) 0)
    putV t 6 8 x.nw x.d v g key (x.ty.width / 8) x.ty.elems fun _ => true

/-- `v.red.add` (R232). -/
def execVRedAdd (x : VRed) (s : State) : Host.Outcome State Fault Refusal := reduce 0x438 .add false x s
/-- `v.red.max` (R232). -/
def execVRedMax (x : VRed) (s : State) : Host.Outcome State Fault Refusal := reduce 0x439 (.pick true) false x s
/-- `v.red.min` (R232). -/
def execVRedMin (x : VRed) (s : State) : Host.Outcome State Fault Refusal := reduce 0x43A (.pick false) false x s
/-- `v.scan` (R232). -/
def execVScan (x : VRed) (s : State) : Host.Outcome State Fault Refusal := reduce 0x43B .add true x s

/-! ## Permutation and movement (R233 to R236) -/

/-- `v.perm` (R233). -/
def execVPerm (x : V2) (s : State) : Host.Outcome State Fault Refusal :=
  vectorWhole 0x440 x (fun a b i => laneOf x.ty.width a (laneOf x.ty.width b i % x.ty.elems)) s

/-- `v.bcast vD, vA, sB` (R233). -/
def execVBcast (x : V1) (b : SSrc) (s : State) : Host.Outcome State Fault Refusal :=
  runOp s fun t => do
    let (t, a, ga) ← readV t x.a
    let (n, gb) ← liftM (readS t b)
    let k := opk 0x441 (tyTo x.ty)
    let w := x.ty.width
    putLanes t 2 4 x.nw x.d (vTagOf t.regs k ga gb 0 x.msk) k w x.ty.elems (elemActive t.regs x.msk w)
      fun _ => (laneOf w a.toNat (n.toNat % x.ty.elems), 0)

/-- A scalar source as an element: a pair for `.si64` (R233, R234). -/
def scalarElem (t : Thread) (b : SSrc) (ty : Ty) : Except Stop (Nat × Tag) :=
  match ty, b with
  | .si64, .reg n => .ok ((pairVal t.regs (evenPair n)).toNat, pairTag t.regs (evenPair n))
  | _, b => (readS t b).map fun x => (x.1.toNat % 2 ^ ty.width, x.2)

/-- `v.bcast vD, sB` (R233). -/
def execVBcastScalar (nw : Bool) (d : VDst) (b : SSrc) (ty : Ty) (msk : Fin 16) (s : State) :
    Host.Outcome State Fault Refusal :=
  runOp s fun t => do
    let (v, gb) ← liftM (scalarElem t b ty)
    let k := opk 0x441 (tyTo ty)
    putLanes t 2 4 nw d (vTagOf t.regs k 0 gb 0 msk) k ty.width ty.elems (elemActive t.regs msk ty.width)
      fun _ => (v, 0)

/-- `v.shuf` (R233). -/
def execVShuf (x : V2) (k : Fin 4) (s : State) : Host.Outcome State Fault Refusal :=
  let n := x.ty.elems
  let w := x.ty.width
  vectorWhole 0x442 x (fun a b i =>
    match k.val with
    | 0 => laneOf w (if i % 2 = 0 then a else b) (i / 2)
    | 1 => laneOf w (if i % 2 = 0 then a else b) (n / 2 + i / 2)
    | 2 => if i < n / 2 then laneOf w a (2 * i) else laneOf w b (2 * (i - n / 2))
    | _ => if i < n / 2 then laneOf w a (2 * i + 1) else laneOf w b (2 * (i - n / 2) + 1)) s

/-- `v.slide` (R233). -/
def execVSlide (x : V2) (c : SSrc) (s : State) : Host.Outcome State Fault Refusal :=
  runOp s fun t => do
    let (t, a, ga) ← readV t x.a
    let (t, b, gb) ← readV t x.b
    let (m, gc) ← liftM (readS t c)
    let k := opk 0x443 (tyTo x.ty)
    let w := x.ty.width
    let n := x.ty.elems
    putLanes t 6 8 x.nw x.d (vTagOf t.regs k ga gb gc x.msk) k w n (elemActive t.regs x.msk w)
      fun i =>
        let j := i + m.toNat
        (if j < n then laneOf w a.toNat j else if j < 2 * n then laneOf w b.toNat (j - n) else 0, 0)

/-- `v.brev` (R233). -/
def execVBrev (x : V1) (b : Fin 16) (s : State) : Host.Outcome State Fault Refusal :=
  runOp s fun t => do
    let (t, a, ga) ← readV t x.a
    let k := opk 0x444 (tyTo x.ty)
    let w := x.ty.width
    let n := if b = 0 then Nat.log2 x.ty.elems else b.val
    putLanes t 6 8 x.nw x.d (vTagOf t.regs k ga 0 0 x.msk) k w x.ty.elems (elemActive t.regs x.msk w)
      fun i => (laneOf w a.toNat (i / 2 ^ n * 2 ^ n + revBits n (i % 2 ^ n)), 0)

/-- `v.mov` (R233). -/
def execVMov (x : V1) (s : State) : Host.Outcome State Fault Refusal := vector1 0x445 2 4 x (fun _ a => (a, 0)) s

/-- `v.ins` (R234). -/
def execVIns (d : Fin 96) (a b : SSrc) (ty : Ty) (s : State) : Host.Outcome State Fault Refusal :=
  runOp s fun t => do
    let (v, ga) ← liftM (scalarElem t a ty)
    let (n, gb) ← liftM (readS t b)
    let k := opk 0x446 (tyTo ty)
    putLanes t 6 8 false (.reg d) (fold k ga gb t.vTag[d]) k ty.width ty.elems (fun i => i = n.toNat % ty.elems)
      fun _ => (v, 0)

/-- `v.get` (R234). -/
def execVGet (d : Fin 64) (a : VSrc) (b : SSrc) (ty : Ty) (s : State) : Host.Outcome State Fault Refusal :=
  runOp s fun t => do
    let (t, v, ga) ← readV t a
    let (n, gb) ← liftM (readS t b)
    let x := laneOf ty.width v.toNat (n.toNat % ty.elems)
    let g := fold (opk 0x447 (tyTo ty)) ga gb 0
    if ty = .si64 then return putPair t 4 (evenPair d) (BitVec.ofNat 64 x) g
    return putDest t 4 (.s d (BitVec.ofNat 32 (wrapN 32 (elemInt ty x)))) g

/-- Narrows an element to `w` bits (R235). -/
def narrow (ty : Ty) (sat : Bool) (w x : Nat) : Nat × FlagSet :=
  let v := elemInt ty x
  let lo : Int := if ty.isSigned then -((2 ^ (w - 1) : Nat) : Int) else 0
  let hi : Int := if ty.isSigned then ((2 ^ (w - 1) : Nat) : Int) - 1 else ((2 ^ w : Nat) : Int) - 1
  if sat && (v < lo || hi < v) then (wrapN w (if v < lo then lo else hi), fSA) else (wrapN w v, 0)

/-- `v.pack` (R235). -/
def execVPack (x : V2) (s : State) : Host.Outcome State Fault Refusal :=
  runOp s fun t => do
    let (t, a, ga) ← readV t x.a
    let (t, b, gb) ← readV t x.b
    let k := opk 0x448 (tyTo x.ty)
    let n := x.ty.elems
    let w := x.ty.width / 2
    putLanes t 6 8 x.nw x.d (vTagOf t.regs k ga gb 0 x.msk) k w (2 * n) (elemActive t.regs x.msk w)
      fun i => narrow x.ty x.sat w
        (if i < n then laneOf x.ty.width a.toNat i else laneOf x.ty.width b.toNat (i - n))

/-- `v.unpack` (R235). -/
def execVUnpack (x : V1) (half int4 : Bool) (s : State) : Host.Outcome State Fault Refusal :=
  runOp s fun t => do
    let (t, a, ga) ← readV t x.a
    let k := opk 0x449 (tyTo x.ty)
    let ws := if int4 then 4 else x.ty.width
    let w := 2 * ws
    let nd := 8192 / w
    putLanes t 6 8 x.nw x.d (vTagOf t.regs k ga 0 0 x.msk) k w nd (elemActive t.regs x.msk w)
      fun i =>
        let e := laneOf ws a.toNat (ofBool half * nd + i)
        (if x.ty.isSigned then wrapN w (sgn ws e) else e, 0)

/-- `v.iota` (R236). -/
def execVIota (nw : Bool) (d : VDst) (a : SSrc) (ty : Ty) (msk : Fin 16) (s : State) :
    Host.Outcome State Fault Refusal :=
  runOp s fun t => do
    let (v, ga) ← liftM (readS t a)
    let k := opk 0x44A (tyTo ty)
    let start : Int := if ty.isSigned then v.toInt else v.toNat
    putLanes t 2 4 nw d (vTagOf t.regs k ga 0 0 msk) k ty.width ty.elems (elemActive t.regs msk ty.width)
      fun i => (wrapN ty.width (start + i), 0)

/-! ## Mask operations (R237, R238) -/

/-- A result that writes a whole mask register, readable two units later (R35). -/
def putQ (t : Thread) (d : Fin 16) (x : QReg) (g : Tag) : Thread := putDest t 2 (.q d x (BitVec.allOnes 1024)) g

/-- `q.and` (R237). -/
def execQAnd (x : Q3) (s : State) : Host.Outcome State Fault Refusal :=
  runPure s fun t => .ok (putQ t x.d (t.regs.q[x.a] &&& t.regs.q[x.b])
    (fold (opk 0x450 0) t.regs.qTag[x.a] t.regs.qTag[x.b] 0))
/-- `q.or` (R237). -/
def execQOr (x : Q3) (s : State) : Host.Outcome State Fault Refusal :=
  runPure s fun t => .ok (putQ t x.d (t.regs.q[x.a] ||| t.regs.q[x.b])
    (fold (opk 0x451 0) t.regs.qTag[x.a] t.regs.qTag[x.b] 0))
/-- `q.xor` (R237). -/
def execQXor (x : Q3) (s : State) : Host.Outcome State Fault Refusal :=
  runPure s fun t => .ok (putQ t x.d (t.regs.q[x.a] ^^^ t.regs.q[x.b])
    (fold (opk 0x452 0) t.regs.qTag[x.a] t.regs.qTag[x.b] 0))
/-- `q.not` (R237). -/
def execQNot (d a : Fin 16) (s : State) : Host.Outcome State Fault Refusal :=
  runPure s fun t => .ok (putQ t d (~~~t.regs.q[a]) (fold (opk 0x453 0) t.regs.qTag[a] 0 0))
/-- `q.mov` (R237). -/
def execQMov (d a : Fin 16) (s : State) : Host.Outcome State Fault Refusal :=
  runPure s fun t => .ok (putQ t d t.regs.q[a] (fold (opk 0x456 0) t.regs.qTag[a] 0 0))

/-- `q.cnt` (R238). -/
def execQCnt (d : Fin 64) (a : Fin 16) (ty : Ty) (s : State) : Host.Outcome State Fault Refusal :=
  runPure s fun t =>
    .ok (putDest t 2 (.s d (BitVec.ofNat 32 (popcN (maskLanes ty) t.regs.q[a].toNat)))
      (fold (opk 0x454 (tyTo ty)) t.regs.qTag[a] 0 0))
/-- `q.first` (R238). -/
def execQFirst (d : Fin 64) (a : Fin 16) (ty : Ty) (s : State) : Host.Outcome State Fault Refusal :=
  runPure s fun t =>
    .ok (putDest t 2 (.s d (BitVec.ofNat 32 (ctzN (maskLanes ty) t.regs.q[a].toNat)))
      (fold (opk 0x455 (tyTo ty)) t.regs.qTag[a] 0 0))

end Sys2Proof.Machine
end

