-- ==== Sys2Proof/Machine/MatrixMath.lean ====
section
/-! DEFINITION. The arithmetic of the matrix array: cells, products, cell programs, butterfly stages (file 09,
R158 to R164). A cell's arithmetic does not depend on how a command is cut into steps. -/

namespace Sys2Proof.Machine

/-- A value with the flags it raised. -/
abbrev Fl2 (α : Type) := α × FlagSet

def rows : Nat := 128
def cols : Nat := 192

/-! ## Accumulators as cells -/

/-- The cells from index `i` on, `n` of them. -/
def denseFrom : Map W32 → Nat → Nat → List W32
  | _, _, 0 => []
  | [], i, n + 1 => 0 :: denseFrom [] (i + 1) n
  | (k, v) :: r, i, n + 1 => if k = i then v :: denseFrom r (i + 1) n else 0 :: denseFrom ((k, v) :: r) (i + 1) n
def Accum.dense (a : Accum) : List W32 := denseFrom a.cells 0 (rows * cols)

/-- Cells as a table: a cell of 0 is not listed. -/
def sparse (xs : List W32) : Map W32 := (xs.zipIdx.map fun p => (p.2, p.1)).filter fun e => e.2 ≠ 0
def cellOf (xs : List W32) (m n : Nat) : W32 := xs.getD (m * cols + n) 0

/-- Every cell in order of rows, with what `f` makes of it. -/
def mapCells (xs : List W32) (f : Nat → Nat → W32 → Fl2 W32) : Fl2 (List W32) :=
  let ys := xs.zipIdx.map fun p => f (p.2 / cols) (p.2 % cols) p.1
  (ys.map (·.1), ys.foldl (fun a y => a ||| y.2) 0)

/-! ## Sums of products (R151, R160) -/

def FV.isNan (x : FV) : Bool := x = .nan

/-- An exact sum of products; a term may enter with its sign flipped. -/
def sumProducts (xs : List (FV × FV × Bool)) : Fl2 FV :=
  let ps := xs.map fun p => ((p.1.mul p.2.1).1, (p.1.mul p.2.1).2, p.2.2)
  let (v, fl) := sumTerms (ps.map fun p => if p.2.2 then p.1.neg else p.1)
  (v, if xs.any (fun p => p.1.isNan || p.2.1.isNan) then 0 else ps.foldl (fun a p => a ||| p.2.1) fl)

/-- `rne` of an exact value into FP32 with `satovf` and sat = 0. -/
def rne32 (v : Fl2 FV) : Fl2 Nat :=
  let (c, fl) := ff32.put v.1 .rne false
  (c, fl ||| v.2)

/-! ## Products (R159, R161, R163, R250, R251) -/

/-- The block scales of one cell: the block length and the scales of A and B by block. -/
structure Scales where
  len : Nat
  a : List FV
  b : List FV
  deriving DecidableEq, Repr

/-- One scaled block (R161). -/
def scaledBlock (p : Fl2 FV) (sa sb : FV) : Fl2 FV :=
  if sa.isNan || sb.isNan then (.nan, p.2)
  else
    let (sc, fs) := sa.mul sb
    if sc.isNan then (.nan, p.2 ||| fs)
    else
      let (v, fv) := p.1.mul sc
      (v, p.2 ||| fv)

/-- A list in pieces of `n`. -/
def chunks (n : Nat) : Nat → List α → List (List α)
  | 0, _ => []
  | f + 1, xs => if xs.isEmpty || n = 0 then [] else xs.take n :: chunks n f (xs.drop n)

/-- The exact value of a group, its blocks scaled first where the product is block-scaled; `k0` is its first K. -/
def groupValue (xs : List (FV × FV)) (sc : Option Scales) (k0 : Nat) : Fl2 FV :=
  let plain (ys : List (FV × FV)) : Fl2 FV := sumProducts (ys.map fun p => (p.1, p.2, false))
  match sc with
  | none => plain xs
  | some z =>
    let bs := (chunks z.len xs.length xs).zipIdx.map fun p =>
      let q := k0 / z.len + p.2
      scaledBlock (plain p.1) (z.a.getD q .nan) (z.b.getD q .nan)
    let (v, fl) := sumTerms (bs.map (·.1))
    (v, bs.foldl (fun a b => a ||| b.2) fl)

/-- One group into an FP32 cell (R159). -/
def accumF (cell : W32) (acc first : Bool) (g : Fl2 FV) : Fl2 W32 :=
  let (gs, f1) := rne32 g
  if !acc && first then (BitVec.ofNat 32 gs, f1)
  else
    let (c, f2) := ff32.add (ff32.decode cell.toNat) (ff32.decode gs) .rne false
    (BitVec.ofNat 32 c, f1 ||| f2)

/-- One group into an INT32 cell (R163). -/
def accumI (cell : W32) (acc first sat : Bool) (xs : List (Int × Int)) : Fl2 W32 :=
  let base : Int := if !acc && first then 0 else cell.toInt
  let (c, f) := fitInt .si32 (xs.foldl (fun t p => t + p.1 * p.2) base) sat
  (BitVec.ofNat 32 c, f)

/-- The group length G (R240). -/
def groupLen (tyA tyB : Ty) : Nat := if tyB = .ds8 || tyA = .e2m1 then 64 else 32

/-- One group of K into a cell, `xs` its element codes. -/
def groupCell (tyA tyB : Ty) (acc first sat : Bool) (sc : Option Scales) (k0 : Nat) (cell : W32)
    (xs : List (Nat × Nat)) : Fl2 W32 :=
  if mmaCell tyA tyB = some false then
    accumI cell acc first sat (xs.map fun p => (elemInt tyA p.1, elemInt tyB p.2))
  else
    accumF cell acc first (groupValue (xs.map fun p => (decodeElem tyA p.1, decodeElem tyB p.2)) sc k0)

/-! ## Cell programs (R252 to R254) -/

/-- Step `i` of a program. -/
def progStep (p : W64) (i : Nat) : Nat := p.toNat / 16 ^ i % 16
/-- The program's length. -/
def progLen (p : W64) : Nat := ((List.range 16).find? fun i => progStep p i = 15).getD 16
/-- A program that `m.prog` takes (R253). -/
def progOk (p : W64) : Bool := 0 < progLen p && (List.range (progLen p)).all fun i => progStep p i ≤ 5

/-- The term of a step on FP32 operands, exact. -/
def termF (code : Nat) (a b : FV) : Fl2 FV :=
  if code = 2 then
    match a, b.neg with
    | .fin x m e, .fin y n g =>
      let d := Ex.add ⟨x, m, e, false⟩ ⟨y, n, g, false⟩ false
      (.fin false d.m d.e, 0)
    | .nan, _ | _, .nan => (.nan, 0)
    | .inf x, .inf y => if x = y then (.inf false, 0) else (.nan, fNV)
    | _, _ => (.inf false, 0)
  else a.mul b

/-- A value in the order of R252: −0 below +0; both scaled to one exponent. -/
def fvLess (a b : FV) : Bool :=
  match a, b with
  | .nan, _ | _, .nan => false
  | .inf x, .inf y => x && !y
  | .inf x, _ => x
  | _, .inf y => !y
  | .fin x m e, .fin y n g =>
    let q := min e g
    let u := scaleTo (if x then -(m : Int) else m) e q
    let v := scaleTo (if y then -(n : Int) else n) g q
    u < v || (u = v && m = 0 && x && !y)

/-- One step on an FP32 cell. -/
def stepF (code : Nat) (cell : W32) (empty : Bool) (a b : FV) : Fl2 W32 :=
  let (t, ft) := termF code a b
  let t' := if code = 1 then t.neg else t
  let c := ff32.decode cell.toNat
  let put (r : Nat × FlagSet) : Fl2 W32 := (BitVec.ofNat 32 r.1, r.2 ||| ft)
  if empty then put (ff32.put t' .rne false)
  else if code = 3 || code = 4 then
    if c.isNan || t.isNan then (BitVec.ofNat 32 ff32.qnan, if c.isNan then 0 else ft)
    else if (if code = 3 then fvLess c t else fvLess t c) then put (ff32.put t .rne false) else (cell, ft)
  else
    match t', c with
    | .fin x m e, .fin y n g =>
      put (ff32.round (Ex.add ⟨x, m, e, false⟩ ⟨y, n, g, false⟩ (x && y)) .rne false)
    | _, _ =>
      let (r, fr) := ff32.add c t' .rne false
      (BitVec.ofNat 32 r, fr ||| (if c.isNan then 0 else ft))

/-- One step on an INT32 cell. -/
def stepI (code : Nat) (cell : W32) (empty sat : Bool) (a b : Int) : Fl2 W32 :=
  let t : Int := if code = 2 then ((a - b).natAbs : Nat) else a * b
  let fit (x : Int) : Fl2 W32 :=
    let (c, f) := fitInt .si32 x sat
    (BitVec.ofNat 32 c, f)
  let c := cell.toInt
  if empty then fit (if code = 1 then -t else t)
  else match code with
    | 1 => fit (c - t)
    | 3 => if c < t then fit t else (cell, 0)
    | 4 => if t < c then fit t else (cell, 0)
    | _ => fit (c + t)

/-- A cell as a program runs on it: its bits, whether it is still empty, the flags. -/
structure ProgCell where
  cell : W32
  empty : Bool
  fl : FlagSet
  deriving DecidableEq, Repr

/-- The steps of K elements from `k0` on. -/
def progCell (p : W64) (tyA tyB : Ty) (sat : Bool) (k0 : Nat) (c : ProgCell) (xs : List (Nat × Nat)) : ProgCell :=
  xs.zipIdx.foldl (fun c x =>
    let code := progStep p ((k0 + x.2) % progLen p)
    if code = 5 then c
    else
      let r := if mmaCell tyA tyB = some false then
          stepI code c.cell c.empty sat (elemInt tyA x.1.1) (elemInt tyB x.1.2)
        else stepF code c.cell c.empty (decodeElem tyA x.1.1) (decodeElem tyB x.1.2)
      { cell := r.1, empty := false, fl := c.fl ||| r.2 }) c

/-! ## Butterfly mode (R258 to R264) -/

/-- The radices of a transform in stage order (R259). -/
def radices (a b c : Nat) : List Nat :=
  List.replicate c 5 ++ List.replicate b 3 ++ List.replicate (a / 2) 4 ++ List.replicate (a % 2) 2

/-- The turn fraction (R260). -/
def turnOf (k n : Nat) : Nat := (k * 2 ^ 32 + n / 2) / n % 2 ^ 32

def points : Nat := 12288
/-- The real and imaginary parts of a point (R258). -/
def pointOf (xs : List W32) (p : Nat) : W32 × W32 := (cellOf xs (p / 96) (2 * (p % 96)), cellOf xs (p / 96) (2 * (p % 96) + 1))

/-- The cells of points given in order. -/
def ofPoints (ps : List (W32 × W32)) : List W32 := ps.flatMap fun p => [p.1, p.2]

def f32v (x : W32) : FV := ff32.decode x.toNat
def negIf (b : Bool) (x : Nat) : Nat := if b then x ^^^ 2 ^ 31 else x
def halve (e : Nat) (v : Fl2 FV) : Fl2 FV :=
  (match v.1 with
   | .fin n m g => .fin n m (g - e)
   | x => x, v.2)

/-- Point `u` of one butterfly of radix `r` over the points `xs`, already turned (R261). -/
def bflyOut (r : Nat) (inv : Bool) (e u : Nat) (xs : List (Nat × Nat)) : Fl2 (W32 × W32) :=
  let terms := xs.zipIdx.map fun p =>
    let (wc, ws) := twiddle (turnOf (p.2 * u % r) r)
    (ff32.decode p.1.1, ff32.decode p.1.2, ff32.decode wc, ff32.decode (negIf (!inv) ws))
  let (re, f1) := rne32 (halve e (sumProducts (terms.flatMap fun t =>
    [(t.1, t.2.2.1, false), (t.2.1, t.2.2.2, true)])))
  let (im, f2) := rne32 (halve e (sumProducts (terms.flatMap fun t =>
    [(t.1, t.2.2.2, false), (t.2.1, t.2.2.1, false)])))
  ((BitVec.ofNat 32 re, BitVec.ofNat 32 im), f1 ||| f2)

/-- A point turned by a twiddle: (x · c − y · s, x · s + y · c), each rounded (R261, R264). -/
def turnPoint (x : W32 × W32) (c s : Nat) : Fl2 (Nat × Nat) :=
  let (a, f1) := rne32 (sumProducts [(f32v x.1, ff32.decode c, false), (f32v x.2, ff32.decode s, true)])
  let (b, f2) := rne32 (sumProducts [(f32v x.1, ff32.decode s, false), (f32v x.2, ff32.decode c, false)])
  ((a, b), f1 ||| f2)

/-- What stage `st` leaves at point `p` (R261). -/
def bflyPoint (xs : List W32) (n r m : Nat) (inv : Bool) (e p : Nat) : Fl2 (W32 × W32) :=
  if n * (points / n) ≤ p then (pointOf xs p, 0)
  else
    let d := n / (m * r)
    let base0 := p / n * n
    let i := p - base0
    let g := i / (m * r)
    let u := i % (m * r) / m
    let j := i % m
    let base := base0 + g * m * r + j
    let ys := (List.range r).map fun q =>
      let (c, s) := twiddle (turnOf (q * j * d) n)
      turnPoint (pointOf xs (base + q * m)) c (negIf (!inv) s)
    let (v, f) := bflyOut r inv e u (ys.map (·.1))
    (v, ys.foldl (fun a y => a ||| y.2) f)

def collect (ps : List (Fl2 (W32 × W32))) : Fl2 (List W32) :=
  (ofPoints (ps.map (·.1)), ps.foldl (fun a p => a ||| p.2) 0)

/-- `m.bfly` (R261). -/
def bflyCells (xs : List W32) (a b c s e : Nat) (inv : Bool) : Fl2 (List W32) :=
  let rs := radices a b c
  let m := (rs.take s).foldl (· * ·) 1
  collect ((List.range points).map (bflyPoint xs (bflyLen a b c) (rs.getD s 2) m inv e))

/-- The digit reversal of R262: the digits of `p` over the stage radices, each of weight `m`, re-weighted. -/
def digitRev (n : Nat) : List Nat → Nat → Nat → Nat
  | [], _, _ => 0
  | r :: rs, m, p => p % r * (n / (m * r)) + digitRev n rs (m * r) (p / r)

/-- `m.brev` (R262). -/
def brevCells (xs : List W32) (a b c : Nat) (bitMode : Bool) : List W32 :=
  let n := bflyLen a b c
  ofPoints ((List.range points).map fun p =>
    if n * (points / n) ≤ p then pointOf xs p
    else pointOf xs (p / n * n + (if bitMode then revBits a (p % n) else digitRev n (radices a b c) 1 (p % n))))

/-- `m.twid` (R263). -/
def twidCells (xs : List W32) (n : Nat) (inv bf16 : Bool) : List W32 :=
  ofPoints ((List.range points).map fun p =>
    let k := wrapIdx (pointOf xs p).1.toInt n
    let (c, s) := if bf16 then
        (match ffOf .bf16 with
         | some f => ((twiddleIn f (turnOf k n)).1 * 2 ^ 16, (twiddleIn f (turnOf k n)).2 * 2 ^ 16)
         | none => (0, 0))
      else twiddle (turnOf k n)
    (BitVec.ofNat 32 c, BitVec.ofNat 32 (negIf (!inv) s)))

/-- `m.tmul` (R264). -/
def tmulCells (xs ys : List W32) (conj : Bool) : Fl2 (List W32) :=
  collect ((List.range points).map fun p =>
    let y := pointOf ys p
    let ((a, b), f) := turnPoint (pointOf xs p) y.1.toNat (negIf conj y.2.toNat)
    ((BitVec.ofNat 32 a, BitVec.ofNat 32 b), f))

end Sys2Proof.Machine
end

