-- ==== Sys2Proof/Machine/Matrix.lean ====
section
/-! DEFINITION. Class 5: matrix commands, leases and the array's turns (R239 to R258, R265 to R267). -/

namespace Sys2Proof.Machine

/-! ## Capture and issue (R181, R242, R243, R246, R247) -/

/-- The captured state of a read port: its walker stands in the snapshot with the operand lineage of R242; the
sequencer's own walker is past the command's pops (R181). -/
def capturePort (t : Thread) (p : Fin 4 × Nat) : Op Thread := do
  let k := portWalker p.1
  let w ← liftM (useWalker t.regs k)
  return setWalker t k (walkerSteps p.2 w)

/-- The snapshot's walkers with their operand lineages. -/
def operandLineages (ot : OpTile) (r : Regs) (ports : List (Fin 4 × Nat)) : Regs :=
  { r with w := Vector.ofFn fun i =>
      if ports.any (fun p => portWalker p.1 = i) then
        { r.w[i] with lineage := mix r.w[i].lineage (regionOf ot r.w[i].region.val).tag }
      else r.w[i] }

/-- Captures a matrix command. -/
def matrixCapture (i : Instr) (t : Thread) : Op Thread := do
  chargeGated t
  let ports := matrixPorts i
  let g : Gated :=
    { instr := i, regs := operandLineages (viewOf (← get) t) t.regs ports, bundle := t.pc, ord := t.ord }
  let t ← ports.foldlM capturePort t
  return { t with blk := { t.blk with gated := t.blk.gated ++ [g] }, ord := t.ord + 1 }

/-- The accumulators a sequencer has requested and not been granted. -/
def requested (s : State) (t : Thread) : BitVec 4 :=
  (s.tile t.tile).leaseQ.foldl (fun m r => if r.thread = t.key then m ||| r.mask else m) 0

/-- Issues a matrix command that names the accumulators `accs` and passes `ok`. -/
def matrixIssue (accs : BitVec 4) (ok : Regs → Bool) (g : Gated) (t : Thread) : Op Thread := do
  let s ← get
  if 16 ≤ t.mq.length then throw (.wait .other)
  if accs &&& ~~~(t.acc ||| requested s t) ≠ 0 || !ok g.regs then throw (.trap .illegal 0)
  return { t with mq := t.mq ++ [{ instr := g.instr, regs := { g.regs with fmt := t.regs.fmt }, ord := g.ord,
                                   bundle := g.bundle, own := t.lastLabel }] }

def accBit (a : Fin 4) : BitVec 4 := BitVec.ofNat 4 (2 ^ a.val)

def runMatrix (i : Instr) (accs : BitVec 4) (ok : Regs → Bool) (s : State) : Host.Outcome State Fault Refusal :=
  runGated i (matrixCapture i) (matrixIssue accs ok) s

/-- A handle operand of a type (R241). -/
def handleIs (h : HRec) (ty : Ty) : Bool := !hMalformed h && !hEmpty h && hFormat h = tyTo ty
def srcIs (r : Regs) (a : MSrc) (ty : Ty) : Bool :=
  match a with
  | .handle h => handleIs r.h[h] ty
  | .port _ => true

/-- The newcomer's first `m.lease` ends the turn of its victim, but for a command that has begun and cannot be interrupted
(R249). -/
def endVictimTurn (s : State) (t : Thread) : State :=
  match (s.tile t.tile).turn.bind (mfind s.threads ·) with
  | some v => if newcomer s t.op v && !midCommand v then
      s.setTile t.tile { s.tile t.tile with turn := none, turnCount := 0, lastServed := v.pseq } else s
  | none => s

/-- Whether a sequencer holds what another waits for without using it (R245). -/
def leaseIdle (s : State) (k : Nat) (t : Thread) : Bool :=
  !away s t && t.mq.isEmpty && (s.tile t.tile).leaseQ.any fun r => r.thread ≠ k && r.mask &&& t.acc ≠ 0

/-- A request for accumulators arrives: a holder's idle time counts from here, unless another request it keeps waiting has
started it (R245). -/
def startIdle (s : State) (tile : Nat) : State :=
  { s with threads := s.threads.map fun e =>
      if e.2.tile = tile && !leaseIdle s e.1 e.2 then (e.1, { e.2 with leaseSince := s.time.toNat }) else e }

/-- `m.lease` (R243): requested at issue, granted later; it claims the accumulators it names of a victim (R366). -/
def execMLease (mask : BitVec 4) (s : State) : Host.Outcome State Fault Refusal :=
  runGated (.mLease mask) (matrixCapture (.mLease mask)) (fun g t => do
    let s := startIdle (← get) t.tile
    let u ← matrixIssue 0 (fun _ => true) g t
    if t.acc ≠ 0 || requested s t ≠ 0 then throw (.trap .illegal 0)
    let tl := s.tile t.tile
    set (claimAccs (endVictimTurn (s.setTile t.tile { tl with leaseQ := tl.leaseQ ++ [⟨t.key, mask⟩] }) t) t.op t.tile mask)
    return u) s

/-- `m.free` (R243). -/
def execMFree (mask : BitVec 4) (s : State) : Host.Outcome State Fault Refusal :=
  runMatrix (.mFree mask) 0 (fun _ => true) s

/-- `m.zero` (R255). -/
def execMZero (acc : Fin 4) (s : State) : Host.Outcome State Fault Refusal :=
  runMatrix (.mZero acc) (accBit acc) (fun _ => true) s

/-- `m.wait` (R246): a command of the queue, it holds the start of the next block. -/
def execMWait (s : State) : Host.Outcome State Fault Refusal :=
  runGated .mWait (matrixCapture .mWait) (fun g t => do
    let t ← matrixIssue 0 (fun _ => true) g t
    return { t with mwait := some g.ord }) s

/-- `m.mma` (R250). -/
def execMMma (x : MMul) (s : State) : Host.Outcome State Fault Refusal :=
  runMatrix (.mMma x) (accBit x.acc) (fun r => srcIs r x.a x.tyA && srcIs r x.b x.tyB) s

/-- The next handle register. -/
def nextH (h : Fin 32) : Fin 32 := Fin.ofNat 32 (h.val + 1)

/-- `m.mmas` (R251). -/
def execMMmas (acc : Fin 4) (a b : Fin 32) (tyA tyB scale : Ty) (bsz : Fin 4) (add : Bool) (k : BitVec 16) (s : State) :
    Host.Outcome State Fault Refusal :=
  runMatrix (.mMmas acc a b tyA tyB scale bsz add k) (accBit acc) (fun r =>
    handleIs r.h[a] tyA && handleIs r.h[b] tyB && handleIs r.h[nextH a] scale && handleIs r.h[nextH b] scale
      && hGroup r.h[a] = bsz.val && hGroup r.h[b] = bsz.val) s

/-- `m.cellp` (R254): the program is read at issue. -/
def execMCellp (x : MMul) (s : State) : Host.Outcome State Fault Refusal :=
  runGated (.mCellp x) (matrixCapture (.mCellp x)) (fun g t => do
    let t ← matrixIssue (accBit x.acc) (fun r => srcIs r x.a x.tyA && srcIs r x.b x.tyB) g t
    let p := t.progs.toList.getD (x.modi.toNat / 2 ^ 14) 0
    return { t with mq := t.mq.map fun c => if c.ord = g.ord then { c with prog := p } else c }) s

/-- Whether a queued command writes memory. -/
def drains (c : MCmd) : Bool :=
  match c.instr with
  | .mDrain _ _ _ _ _ _ => true
  | _ => false

/-- `m.prog` (R246, R253): it reads its word at issue, behind its sequencer's older writes and drains, and needs no
lease. -/
def execMProg (a : Fin 32) (slot : Fin 4) (s : State) : Host.Outcome State Fault Refusal :=
  runGated (.mProg a slot) (matrixCapture (.mProg a slot)) (fun g t => do
    awaitBarriers g t
    if !olderDone t g.ord || t.mq.any drains then throw (.wait .queues)
    let t ← matrixIssue 0 (fun _ => true) g t
    let h := g.regs.h[a]
    if hMalformed h || hEmpty h || hFormat h ≠ 0 then throw (.trap .illegal 0)
    let (o, _) := elemPlace h 0 0 0
    let ad ← liftM (handleAddr ((← get).opTile t.ot) h o 8)
    let w := BitVec.ofNat 64 (leOf (← agentRead (t.agent g.ord) ad 8))
    modify fun s => s.dropOwner (.place t.key g.ord)
    if !progOk w then throw (.trap .illegal 0)
    return { t with progs := t.progs.set slot w }) s

/-- `m.drain` (R256). -/
def execMDrain (src : Fin 4) (a : Fin 32) (tyD tyS : Ty) (sat : Bool) (rnd : Rnd) (s : State) :
    Host.Outcome State Fault Refusal :=
  runMatrix (.mDrain src a tyD tyS sat rnd) (accBit src) (fun r =>
    handleIs r.h[a] tyD && (hScr r.h[a] || tyD ≠ .e2m1 || hExt0 r.h[a] % 2 = 0)) s

/-- `m.fill` (R255). -/
def execMFill (acc : Fin 4) (a : MSrc) (ty : Ty) (s : State) : Host.Outcome State Fault Refusal :=
  runMatrix (.mFill acc a ty) (accBit acc) (fun r => srcIs r a ty) s

/-- `m.add` (R257). -/
def execMAdd (acc src : Fin 4) (ty : Ty) (sat : Bool) (s : State) : Host.Outcome State Fault Refusal :=
  runMatrix (.mAdd acc src ty sat) (accBit acc ||| accBit src) (fun _ => true) s

/-- `m.scale` (R257). -/
def execMScale (acc : Fin 4) (a : MSrc) (ty : Ty) (s : State) : Host.Outcome State Fault Refusal :=
  runMatrix (.mScale acc a ty) (accBit acc) (fun r => srcIs r a ty) s

/-- `m.bfly` (R261). -/
def execMBfly (acc : Fin 4) (a : BitVec 4) (b : BitVec 3) (c : BitVec 2) (st : BitVec 4) (e : BitVec 2) (inv : Bool)
    (s : State) : Host.Outcome State Fault Refusal :=
  runMatrix (.mBfly acc a b c st e inv) (accBit acc) (fun _ => true) s

/-- `m.brev` (R262). -/
def execMBrev (acc src : Fin 4) (a : BitVec 4) (b : BitVec 3) (c : BitVec 2) (bits : Bool) (s : State) :
    Host.Outcome State Fault Refusal :=
  runMatrix (.mBrev acc src a b c bits) (accBit acc ||| accBit src) (fun _ => true) s

/-- `m.twid` (R263). -/
def execMTwid (acc src : Fin 4) (a : BitVec 5) (b : BitVec 4) (c : BitVec 3) (inv bf16 : Bool) (s : State) :
    Host.Outcome State Fault Refusal :=
  runMatrix (.mTwid acc src a b c inv bf16) (accBit acc ||| accBit src) (fun _ => true) s

/-- `m.tmul` (R264). -/
def execMTmul (acc src : Fin 4) (conj : Bool) (s : State) : Host.Outcome State Fault Refusal :=
  runMatrix (.mTmul acc src conj) (accBit acc ||| accBit src) (fun _ => true) s

/-! ## Operands (R241, R242) -/

/-- Pops `n` vectors through a port, as one number, the first lowest. -/
def popPort (g : Agent) : Nat → Regs → Fin 4 → Op (Regs × Nat)
  | 0, r, _ => return (r, 0)
  | n + 1, r, p => do
    let k := portWalker p
    let a ← liftM (walkerAddr ((← get).opTile g.ot) r.w[k])
    let bs ← agentRead g a 1024
    let (r, rest) ← popPort g n { r with w := r.w.set k (walkerAdvance r.w[k]) } p
    return (r, leOf bs + rest * 2 ^ 8192)

/-- The pieces of an operand pair for `n` steps: for each step the A piece and the B piece, 0 for a handle. -/
def popSteps (g : Agent) (a b : MSrc) : Nat → Regs → Op (Regs × List (Nat × Nat))
  | 0, r => return (r, [])
  | n + 1, r => do
    let (r, x) ← (match a with
      | .port p => popPort g 2 r p
      | .handle _ => pure (r, 0) : Op (Regs × Nat))
    let (r, y) ← (match b with
      | .port p => popPort g 3 r p
      | .handle _ => pure (r, 0) : Op (Regs × Nat))
    let (r, rest) ← popSteps g a b n r
    return (r, (x, y) :: rest)

/-- The elements of a line (a row of A or a column of B) for K from `k0`, `n` of them. -/
def lineOfPieces (w ks : Nat) (place : Nat → Nat) (ps : List Nat) (n : Nat) : List Nat :=
  (ps.flatMap fun p => (List.range ks).map fun j => laneOf w p (place j)).take n

/-- The rows of A and the columns of B for K from `k0` to `k1`. -/
def readOperands (g : Agent) (r : Regs) (a b : MSrc) (tyA tyB : Ty) (k0 k1 : Nat) :
    Op (Regs × List (List Nat) × List (List Nat)) := do
  let ks := stepSize tyA tyB
  let ns := List.range (k1 - k0)
  let (r', ps) ← popSteps g a b (ceilDiv (k1 - k0) ks) r
  let as ← (List.range rows).mapM fun (m : Nat) => (match a with
    | .handle h => ns.mapM fun k => elemRead g r.h[h] (k0 + k : Nat) (m : Int) 0
    | .port _ => pure (lineOfPieces tyA.width ks (fun j => m * ks + j) (ps.map (·.1)) (k1 - k0)) : Op (List Nat))
  let bs ← (List.range cols).mapM fun (n : Nat) => (match b with
    | .handle h => ns.mapM fun k => elemRead g r.h[h] (n : Int) (k0 + k : Nat) 0
    | .port _ => pure (lineOfPieces tyB.width ks (fun j => j * cols + n) (ps.map (·.2)) (k1 - k0)) : Op (List Nat))
  return (r', as, bs)

/-! ## Execution -/

/-- The type field, key and modifier of a matrix word (R26, R266). -/
def matrixKey (i : Instr) : Tag × W32 :=
  match encFields i with
  | some (.M f) => (opk f.key f.tyA, BitVec.ofNat 32 f.mod)
  | _ => (0, 0)

/-- lin(op) of R266. -/
def linOf (r : Regs) : MSrc → Tag
  | .handle h => r.hTag[h]
  | .port p => r.w[portWalker p].lineage

def accumOf (ot : OpTile) (a : Fin 4) : Accum := ot.acc[a]
def OpTile.setAcc (ot : OpTile) (a : Fin 4) (x : Accum) : OpTile := { ot with acc := ot.acc.set a x }

/-- Writes an accumulator of the sequencer's operator. -/
def putAcc (t : Thread) (a : Fin 4) (xs : List W32) (tag : Tag) : Op Unit :=
  modify fun s => s.setOpTile t.ot ((s.opTile t.ot).setAcc a { cells := sparse xs, tag := tag })

/-- The parts of K a command can be interrupted after, and how many it has: groups, or chunks of 64 (R248). -/
def partLen : Instr → Nat
  | .mMma x => groupLen x.tyA x.tyB
  | .mMmas _ _ _ tyA tyB _ _ _ _ => groupLen tyA tyB
  | _ => 64
def kOf : Instr → Nat
  | .mMma x => x.modi.toNat
  | .mMmas _ _ _ _ _ _ _ _ k => k.toNat
  | .mCellp x => x.modi.toNat % 2 ^ 14
  | _ => 0
def partsOf (i : Instr) : Nat := ceilDiv (kOf i) (partLen i)

/-- The block scales of every row and column (R251). -/
def readScales (g : Agent) (r : Regs) (a b : Fin 32) (ty : Ty) (len k : Nat) : Op (List (List FV) × List (List FV)) := do
  let qs := List.range (ceilDiv k len)
  let as ← (List.range rows).mapM fun (m : Nat) => qs.mapM fun (q : Nat) => do
    return decodeElem ty (← elemRead g r.h[nextH a] (q : Int) (m : Int) 0)
  let bs ← (List.range cols).mapM fun (n : Nat) => qs.mapM fun (q : Nat) => do
    return decodeElem ty (← elemRead g r.h[nextH b] (n : Int) (q : Int) 0)
  return (as, bs)

/-- The groups of one cell from group `g0` on. -/
def runGroups (tyA tyB : Ty) (acc sat : Bool) (sc : Option Scales) (g0 : Nat) (cell : W32) (xs : List (Nat × Nat)) :
    Fl2 W32 :=
  let len := groupLen tyA tyB
  (chunks len xs.length xs).zipIdx.foldl (fun (c : Fl2 W32) p =>
    let (v, f) := groupCell tyA tyB acc (g0 + p.2 = 0) sat sc ((g0 + p.2) * len) c.1 p.1
    (v, c.2 ||| f)) (cell, 0)

/-- Runs `n` parts of a product command. -/
def advance (t : Thread) (c : MCmd) (n : Nat) : Op MCmd := do
  let k := kOf c.instr
  let len := partLen c.instr
  let k0 := c.done * len
  let k1 := min k ((c.done + n) * len)
  let ot := (← get).opTile t.ot
  match c.instr with
  | .mMma x =>
    let (r, as, bs) ← readOperands (t.agent c.ord) c.regs x.a x.b x.tyA x.tyB k0 k1
    let (xs, fl) := mapCells (accumOf ot x.acc).dense fun m j cell =>
      runGroups x.tyA x.tyB x.add x.sat none c.done cell (List.zip (as.getD m []) (bs.getD j []))
    putAcc t x.acc xs (accumOf ot x.acc).tag
    return { c with regs := r, done := c.done + n, flags := c.flags ||| fl }
  | .mMmas acc a b tyA tyB scale bsz add _ =>
    let (r, as, bs) ← readOperands (t.agent c.ord) c.regs (.handle a) (.handle b) tyA tyB k0 k1
    let bl := 4 * 2 ^ bsz.val
    let (sa, sb) ← readScales (t.agent c.ord) c.regs a b scale bl k
    let (xs, fl) := mapCells (accumOf ot acc).dense fun m j cell =>
      runGroups tyA tyB add false (some ⟨bl, sa.getD m [], sb.getD j []⟩) c.done cell
        (List.zip (as.getD m []) (bs.getD j []))
    putAcc t acc xs (accumOf ot acc).tag
    return { c with regs := r, done := c.done + n, flags := c.flags ||| fl }
  | .mCellp x =>
    let (r, as, bs) ← readOperands (t.agent c.ord) c.regs x.a x.b x.tyA x.tyB k0 k1
    let empty0 := !x.add && (List.range k0).all fun i => progStep c.prog (i % progLen c.prog) = 5
    let (xs, fl) := mapCells (accumOf ot x.acc).dense fun m j cell =>
      let p := progCell c.prog x.tyA x.tyB x.sat k0 ⟨cell, empty0, 0⟩ (List.zip (as.getD m []) (bs.getD j []))
      (if p.empty && k1 = k then 0 else p.cell, p.fl)
    putAcc t x.acc xs (accumOf ot x.acc).tag
    return { c with regs := r, done := c.done + n, flags := c.flags ||| fl }
  | _ => return c

/-- The cells `m.fill` loads (R255). -/
def fillCells (g : Agent) (r : Regs) : MSrc → Op (List W32)
  | .port p => do
    let (_, v) ← popPort g 96 r p
    return (List.range (rows * cols)).map fun i => BitVec.ofNat 32 (laneOf 32 v i)
  | .handle h => (List.range (rows * cols)).mapM fun i => do
    if i / cols < hExt1 r.h[h] && i % cols < hExt0 r.h[h] then
      return BitVec.ofNat 32 (← elemRead g r.h[h] (i % cols : Nat) (i / cols : Nat) 0)
    else return 0

/-- The scale of `m.scale` (R257). -/
def readScale (g : Agent) (r : Regs) (ty : Ty) : MSrc → Op FV
  | .port p => do
    let (_, v) ← popPort g 1 r p
    return decodeElem ty (laneOf ty.width v 0)
  | .handle h => do return decodeElem ty (← elemRead g r.h[h] 0 0 0)

/-- `m.drain` (R256): into a region in one publish; into global memory as performed stores, of which a step performs the
aligned words that `State.drainPicks` names, or every word left (R436, log entry 74). -/
def drain (t : Thread) (c : MCmd) (src : Fin 4) (a : Fin 32) (tyD tyS : Ty) (sat : Bool) (rnd : Rnd) : Op MCmd := do
  let ot := (← get).opTile t.ot
  let h := c.regs.h[a]
  let mode := rndMode rnd c.regs.fmt
  let xs := (accumOf ot src).dense
  let is := (List.range (min (hExt1 h) rows)).flatMap fun m => (List.range (min (hExt0 h) cols)).map fun n => (m, n)
  let vs := is.map fun p => (p, convertElem tyS tyD (cellOf xs p.1 p.2).toNat mode sat)
  let ws ← vs.mapM fun v => liftM (elemPut ot h (v.1.2 : Nat) (v.1.1 : Nat) 0 v.2.1)
  let fl := vs.foldl (fun f v => f ||| v.2.2) (0 : FlagSet)
  if hScr h then
    publishScr (t.agent c.ord) (hRegion h) ws.flatten (accumOf ot src).tag
    return { c with flags := fl }
  else
    let left := ws.flatten.filter fun w => !c.gone.contains (w.at_ / 8)
    let picks := (← get).drainPicks
    let now := (picks.head?.map fun p => left.filter fun w => p.contains (w.at_ / 8)).getD left
    globalWrites (t.agent c.ord) now
    modify fun s => { s with drainPicks := picks.tail }
    let more := now.length < left.length
    return { c with
      flags := fl, started := more, gone := if more then c.gone ++ picks.headD [] else c.gone }

/-- The whole of a command that is not a product, or the rest of one that is; the accumulator's new tag (R266). -/
def runCommand (t : Thread) (c : MCmd) : Op MCmd := do
  let ot := (← get).opTile t.ot
  let (key, imm) := matrixKey c.instr
  let tagOf (a : Fin 4) : Tag := (accumOf ot a).tag
  match c.instr with
  | .mMma x | .mCellp x =>
    let c ← advance t c (partsOf c.instr - c.done)
    let g := fold key (linOf c.regs x.a) (linOf c.regs x.b) (if x.add then tagOf x.acc else 0)
    putAcc t x.acc (accumOf ((← get).opTile t.ot) x.acc).dense g
    return c
  | .mMmas acc a b _ _ _ _ add _ =>
    let c ← advance t c (partsOf c.instr - c.done)
    let g := fold key (mix c.regs.hTag[a] c.regs.hTag[nextH a]) (mix c.regs.hTag[b] c.regs.hTag[nextH b])
      (if add then tagOf acc else 0)
    putAcc t acc (accumOf ((← get).opTile t.ot) acc).dense g
    return c
  | .mZero acc =>
    putAcc t acc [] (fold key 0 0 0)
    return c
  | .mFill acc a _ =>
    let xs ← fillCells (t.agent c.ord) c.regs a
    putAcc t acc xs (fold key (linOf c.regs a) 0 0)
    return c
  | .mAdd acc src ty sat =>
    let ys := (accumOf ot src).dense
    let (xs, fl) := mapCells (accumOf ot acc).dense fun m n x =>
      let y := cellOf ys m n
      let (v, f) := if ty = .si32 then fitInt .si32 (x.toInt + y.toInt) sat
        else ff32.add (ff32.decode x.toNat) (ff32.decode y.toNat) .rne false
      (BitVec.ofNat 32 v, f)
    putAcc t acc xs (fold key (tagOf acc) (tagOf src) 0)
    return { c with flags := fl }
  | .mScale acc a ty =>
    let v ← readScale (t.agent c.ord) c.regs ty a
    let (xs, fl) := mapCells (accumOf ot acc).dense fun _ _ x =>
      let (r, f) := ff32.mul (ff32.decode x.toNat) v .rne false
      (BitVec.ofNat 32 r, f)
    putAcc t acc xs (fold key (tagOf acc) (linOf c.regs a) 0)
    return { c with flags := fl }
  | .mBfly acc a b cc st e inv =>
    let (xs, fl) := bflyCells (accumOf ot acc).dense a.toNat b.toNat cc.toNat st.toNat e.toNat inv
    putAcc t acc xs (fold key (tagOf acc) imm 0)
    return { c with flags := fl }
  | .mBrev acc src a b cc bm =>
    putAcc t acc (brevCells (accumOf ot src).dense a.toNat b.toNat cc.toNat bm) (fold key (tagOf src) imm 0)
    return c
  | .mTwid acc src a b cc inv bf =>
    putAcc t acc (twidCells (accumOf ot src).dense (bflyLen a.toNat b.toNat cc.toNat) inv bf)
      (fold key (tagOf src) imm 0)
    return c
  | .mTmul acc src conj =>
    let (xs, fl) := tmulCells (accumOf ot acc).dense (accumOf ot src).dense conj
    putAcc t acc xs (fold key (tagOf acc) (tagOf src) 0)
    return { c with flags := fl }
  | .mDrain src a tyD tyS sat rnd => drain t c src a tyD tyS sat rnd
  | _ => return c

/-! ## Turns (R243, R244, R248, R249) -/

/-- Whether a command takes the array. -/
def usesArray : Instr → Bool
  | .mLease _ | .mFree _ | .mWait | .mProg _ _ => false
  | _ => true

/-- The accumulators a command names, or requests. -/
def commandAccs : Instr → BitVec 4
  | .mLease m => m
  | .mZero a | .mFill a _ _ | .mScale a _ _ | .mBfly a _ _ _ _ _ _ | .mMmas a _ _ _ _ _ _ _ _ => accBit a
  | .mMma x | .mCellp x => accBit x.acc
  | .mDrain a _ _ _ _ _ => accBit a
  | .mAdd a b _ _ | .mBrev a b _ _ _ _ | .mTwid a b _ _ _ _ _ | .mTmul a b _ => accBit a ||| accBit b
  | _ => 0

def interruptible : Instr → Bool
  | .mMma _ | .mCellp _ | .mMmas _ _ _ _ _ _ _ _ _ => true
  | _ => false

/-- The newcomer has leased or asked for accumulators while this sequencer is out, or has had some of its own spilled, which
its resume restores (R249). -/
def displaced (s : State) (t : Thread) : Bool :=
  away s t && (t.acc &&& (s.opTile t.ot).accOut ≠ 0 || (s.threads.any fun e => e.2.tile = t.tile && e.2.acc ≠ 0 && newcomer s e.2.op t)
    || (s.tile t.tile).leaseQ.any fun r => (mfind s.threads r.thread).any fun u => newcomer s u.op t)

/-- Whether a command can run now: its accumulators are granted and, unless it has begun (R248), not displaced, older barriers are met, older writes have performed,
and no accepted flume command, held ones among them, has reserved bytes that a drain publishes (R125, R241, R243,
R256, R284). -/
def commandReady (s : State) (t : Thread) (c : MCmd) : Bool :=
  commandAccs c.instr &&& ~~~t.acc = 0 && (c.started || !displaced s t)
    && (t.barriers.all fun b => c.ord < b.ord || barrierMet s t b)
    && (!usesArray c.instr || olderDone t c.ord)
    && (match c.instr with
        | .mDrain _ a _ _ _ _ => !hScr c.regs.h[a] || s.flumes.all fun e => isPublish e.2.instr
            || !meetsDest s 0 (.scr t.ot t.tile (hRegion c.regs.h[a])) (runsOf c.regs.h[a]) e.2 e.2.left
        | _ => true)

def opPrio (s : State) (op : Nat) : Nat := ((mfind s.ops op).map (·.prio)).getD 0

/-- Whether a sequencer holds accumulators and has a command ready (R244). -/
def arrayWants (s : State) (t : Thread) : Bool :=
  t.acc ≠ 0 && match t.mq with
    | c :: _ => commandReady s t c
    | [] => false

/-- The sequencers of a tile that wait for the array. -/
def arrayWaiters (s : State) (tile : Nat) : List (Nat × Thread) :=
  s.threads.filter fun e => e.2.tile = tile && arrayWants s e.2

/-- Places of a physical sequencer number after the one last served. -/
def afterServed (last p : Fin 4) : Nat := (p.val + 3 - last.val) % 4

/-- The sequencer the next turn goes to (R244). -/
def nextTurn (s : State) (tile : Nat) : Option Nat :=
  let last := (s.tile tile).lastServed
  ((arrayWaiters s tile).foldl (fun (best : Option (Nat × Thread)) e =>
    match best with
    | none => some e
    | some b =>
      let p := opPrio s e.2.op
      let q := opPrio s b.2.op
      if q < p || (q = p && afterServed last e.2.pseq < afterServed last b.2.pseq) then some e else some b) none).map (·.1)

/-- The turn of the array, given to the next sequencer where none holds it. -/
def takeTurn (s : State) (tile : Nat) : State :=
  match (s.tile tile).turn with
  | some _ => s
  | none => s.setTile tile { s.tile tile with turn := nextTurn s tile, turnCount := 0, turnSince := s.time.toNat }

/-- A turn ends where its sequencer has no command ready any more, or is gone (R244). -/
def keepTurns (s : State) : State :=
  (s.tiles.filter fun e => e.2.turn.isSome).foldl (fun s e =>
    match e.2.turn.bind (mfind s.threads ·) with
    | some t => if t.tile = e.1 && arrayWants s t then s
        else s.setTile e.1 { s.tile e.1 with turn := none, turnCount := 0, lastServed := if t.tile = e.1 then t.pseq else e.2.lastServed }
    | none => s.setTile e.1 { s.tile e.1 with turn := none, turnCount := 0 }) s

/-- The end of a sequencer's turn. -/
def endTurn (s : State) (tile : Nat) (p : Fin 4) : State :=
  s.setTile tile { s.tile tile with turn := none, turnCount := 0, lastServed := p }

/-- Walkers are no longer busy once no command left names them (R181). They hold the state the command advanced them to, as
later operations of its block have left it (DESIGN CHOICE, log entry 87). -/
def freeWalkers (t : Thread) : Thread :=
  let ports := ((t.mq.map (·.instr)) ++ t.issue.map (·.instr)).flatMap fun i => (matrixPorts i).map fun p => portWalker p.1
  let one (w : Walker) (i : Fin 6) : Walker := if ports.contains i then w else { w with busy := false }
  let clear (r : Regs) : Regs := { r with w := Vector.ofFn fun i => one r.w[i] i }
  { t with regs := clear t.regs, blk := { t.blk with start := clear t.blk.start } }

/-- Takes a completed command from its queue; its flags reach the next block that begins (R158). `m.free` also gives up
accumulators that are still to be restored (R243, R249). -/
def retireCommand (s : State) (k : Nat) (c : MCmd) : State :=
  match mfind s.threads k with
  | none => s
  | some t =>
    let gone : BitVec 4 := match c.instr with
      | .mFree m => m
      | _ => 0
    let acc := t.acc &&& ~~~gone
    let tl := s.tile t.tile
    let q := tl.leaseQ.filterMap fun r =>
      if r.thread = k && r.mask &&& gone ≠ 0 then
        (if r.mask &&& ~~~gone = 0 then none else some { r with mask := r.mask &&& ~~~gone })
      else some r
    let s := if q = tl.leaseQ then s else s.setTile t.tile { tl with leaseQ := q }
    s.setThread k (freeWalkers { t with mq := t.mq.tail, mprog := 0, acc := acc, lateFlags := t.lateFlags ||| c.flags })

/-- The clocks of a tile in an interval of device time (R6, R346). -/
def tileClocks (s : State) (tile ticks : Nat) : Nat := ticks * ((speedEntry s tile).toNat % 64) / Config.floorUnits

/-- Whether a turn has reached its clock limit (R244). -/
def turnOver (s : State) (tile : Nat) : Bool := 8192 ≤ tileClocks s tile (s.time.toNat - (s.tile tile).turnSince)

/-- Whether a command stops at an interruptible point before its end (R248). -/
def stopsInside (c : MCmd) : Bool := interruptible c.instr && c.done + 1 < partsOf c.instr

/-- The end of a command within a turn: 16 commands end it, or its clock limit, and so does a sequencer with none ready
(R244). -/
def countTurn (s : State) (k : Nat) (t : Thread) : State :=
  let tl := s.tile t.tile
  let more := (arrayWaiters s t.tile).any fun e => e.1 = k
  if 16 ≤ tl.turnCount + 1 || turnOver s t.tile || !more then endTurn s t.tile t.pseq
  else s.setTile t.tile { tl with turnCount := tl.turnCount + 1 }

/-- The oldest matrix command of a sequencer completes (R246), or a drain into global memory performs some of its words: a
step of the device. An uncorrectable error in an accumulator ends the context (R267). -/
def execMatrixCommandComplete (k : Nat) (s : State) : Host.Outcome State Fault Refusal :=
  match mfind s.threads k with
  | none => .next s
  | some t =>
    match t.mq with
    | [] => .next s
    | c :: rest =>
      if !commandReady s t c then .next s
      else if !usesArray c.instr then
        let s' := retireCommand s k c
        runEvent (drainWaiting (if (s.tile t.tile).turn = some k then countTurn s' k t else s') k)
      else
        let s := takeTurn s t.tile
        if (s.tile t.tile).turn ≠ some k || (turnOver s t.tile && stopsInside c) then runEvent s
        else if s.hwErrors.contains (.accum k) then
          runEvent (raiseTrapFor { s with hwErrors := s.hwErrors.erase (.accum k) } k t .dataError 0 (some (c.bundle, c.own)))
        else match (runCommand t c).run s with
          | (.ok c', s') =>
            if c'.started then
              runEvent ((s'.dropOwner (.place k c.ord)).setThread k { t with mq := c' :: rest })
            else runEvent (drainWaiting (countTurn (retireCommand (s'.dropOwner (.place k c.ord)) k c') k t) k)
          | (.error (.trap cl n), s') => runEvent (raiseTrapFor s' k t cl n (some (c.bundle, c.own)))
          | (.error _, s') => runEvent (keepPorts s s')

/-- The array's turn reaches its clock limit (R244): a step of the device. An interruptible command stops at its
next interruptible point, and MPROG records it; a drain that has begun ends first (R248). -/
def execArrayTurnEnd (tile : Nat) (s : State) : Host.Outcome State Fault Refusal :=
  let tl := s.tile tile
  match tl.turn with
  | none => .next s
  | some k =>
    if !turnOver s tile then .next s
    else match mfind s.threads k with
      | none => runEvent (s.setTile tile { tl with turn := none })
      | some t =>
        if t.tile ≠ tile then runEvent (s.setTile tile { tl with turn := none })
        else match t.mq with
        | c :: rest =>
          if c.started then .next s
          else if stopsInside c && commandReady s t c then
            match (advance t c 1).run s with
            | (.ok c', s') =>
              let t' := { t with mq := c' :: rest, mprog := BitVec.ofNat 32 (2 ^ 31 + c'.done % 4096) }
              runEvent (endTurn ((s'.dropOwner (.place k c.ord)).setThread k t') tile t.pseq)
            | (.error (.trap cl n), s') => runEvent (raiseTrapFor s' k t cl n (some (c.bundle, c.own)))
            | (.error _, s') => runEvent (keepPorts s s')
          else runEvent (endTurn s tile t.pseq)
        | [] => runEvent (endTurn s tile t.pseq)

/-! ## Leases (R243, R245) -/

/-- Whether request `r` is ordered before `q`, `older` telling that it came first. -/
def leaseBefore (s : State) (r q : LeaseReq) (older : Bool) : Bool :=
  let p (x : LeaseReq) : Nat := ((mfind s.threads x.thread).map fun t => opPrio s t.op).getD 0
  p q < p r || (p q = p r && older)

/-- Whether a waiting request can be granted (R243). -/
def grantable (s : State) (tile : Nat) (q : LeaseReq) : Bool :=
  let rs := (s.tile tile).leaseQ
  (s.threads.all fun e => e.2.tile ≠ tile || e.1 = q.thread || e.2.acc &&& q.mask = 0
      || (mfind s.threads q.thread).any fun t => newcomer s t.op e.2)
    && (rs.zipIdx.all fun p => p.1 = q || p.1.mask &&& q.mask = 0
        || !leaseBefore s p.1 q (rs.zipIdx.any fun z => z.1 = q && p.2 < z.2))

/-- A request for accumulators is granted whole (R243): a step of the device. -/
def execLeaseGrant (tile thread : Nat) (s : State) : Host.Outcome State Fault Refusal :=
  match (s.tile tile).leaseQ.find? (fun r => r.thread = thread), mfind s.threads thread with
  | some q, some t =>
    if grantable s tile q then
      let tl := s.tile tile
      runEvent ((s.setTile tile { tl with leaseQ := tl.leaseQ.erase q }).setThread thread { t with acc := t.acc ||| q.mask })
    else .next s
  | _, _ => .next s

def Operator.isEnding (o : Operator) : Bool :=
  match o.state with
  | .ending _ => true
  | _ => false

/-- An operator's sequencers release every accumulator, and their requests go. -/
def dropAcc (s : State) (op : Nat) : State :=
  { s with
    threads := s.threads.map fun e => if e.2.op = op then (e.1, { e.2 with acc := 0 }) else e
    tiles := s.tiles.map fun e => (e.1, { e.2 with leaseQ := e.2.leaseQ.filter fun r => keyOp r.thread ≠ op }) }

/-- The lease of a sequencer times out (R245): a step of the device. Of an operator that is ending already it only
releases the accumulators (DEDUCED, log entry 55). -/
def execLeaseTimeout (thread : Nat) (s : State) : Host.Outcome State Fault Refusal :=
  match mfind s.threads thread with
  | none => .next s
  | some t =>
    if leaseIdle s thread t && Config.leaseTimeout ≤ tileClocks s t.tile (s.time.toNat - t.leaseSince) then
      if (mfind s.ops t.op).any (·.isEnding) then runEvent { s with
        threads := s.threads.map fun e => if e.2.op = t.op then (e.1, { e.2 with acc := 0 }) else e }
      else runEvent (raiseTrap s thread t .lease 0)
    else .next s

end Sys2Proof.Machine
end

