-- ==== Sys2Proof/Machine/Waits.lean ====
section
/-! DEFINITION. The gated operations that wait, yield and leave, `probe` and `release`, and the steps that answer them
(R72 to R83, R310 to R315, R347 to R350). -/

namespace Sys2Proof.Machine

/-! ## Leaving (R313 to R315) -/

/-- `trap` (R314): the sequencer stops before its next block; everything else of its block stands. -/
def execTrap (code : W32) (s : State) : Host.Outcome State Fault Refusal :=
  runGated (.trap code) (capture (.trap code)) (fun _ _ => throw (.trap .program code)) s

/-- `exit` (R315): the sequencer's work in the operator ends. -/
def execExit (a : Fin 64) (s : State) : Host.Outcome State Fault Refusal :=
  runGated (.exit a) (capture (.exit a)) (fun g t => do
    let t := { t with run := .exited, exitValue := g.regs.s[a], issue := [], flow := .redirected }
    modify fun s => settleTrap (s.setThread t.key t) t.op
    return t) s

/-- `yield` (R313): a pre-emption request for its own operator, if the pool holds what may take the tile. -/
def execYield (s : State) : Host.Outcome State Fault Refusal :=
  runGated .yield (capture .yield) (fun _ t => do
    let s ← get
    match mfind s.ops t.op with
    | none => return t
    | some o =>
      if !poolWants s t.op t.tile o.prio then return t
      if !o.stopping then set (s.setOp t.op { o with stopping := true, stopAt := s.time.toNat })
      return { t with point := true }) s

/-! ## `wait.a` (R311) -/

/-- The relations of R25 on 32-bit values. -/
def relHolds (c : Cc) (a b : W32) : Bool :=
  match c with
  | .eq => a = b
  | .ne => a ≠ b
  | .lt => a.toInt < b.toInt
  | .ge => b.toInt ≤ a.toInt
  | .ltb => a.toNat < b.toNat
  | .geb => b.toNat ≤ a.toNat

/-- The address of a `wait.a`: a multiple of 8 in a region of the tile. -/
def waitAddr (ot : OpTile) (r : Regs) (p : Fin 32) : Except Stop Addr :=
  let a := (pairVal r p).toNat
  if !bit a 63 || a % 8 ≠ 0 then illegal else valueAddr ot a 8

/-- The word a `wait.a` watches. -/
def waitWord (s : State) (ot : Nat) : Addr → W32
  | .scr r o =>
    let reg := regionOf (s.opTile ot) r
    BitVec.ofNat 32 (leOf ((List.range 4).map fun i => regionByte reg (o + i)))
  | .glob _ => 0

/-- `wait.a`: it sleeps until the word satisfies the relation. -/
def execWaitA (d : Fin 64) (p : Fin 32) (b : Fin 64) (cc : Cc) (s : State) : Host.Outcome State Fault Refusal :=
  runGated (.waitA d p b cc) (fun t => do
      let _ ← liftM (waitAddr ((← get).opTile t.ot) t.regs p)
      capture (.waitA d p b cc) t) (fun g t => do
    awaitBarriers g t
    let a ← liftM (waitAddr ((← get).opTile t.ot) g.regs p)
    let bs ← loadAddr { t with barriers := [], ord := g.ord, blk := { t.blk with pend := [] } } a 4
    let v := BitVec.ofNat 32 (leOf bs)
    if relHolds cc v g.regs.s[b] then return giveResult t d v else throw (.wait .other)) s

/-- A write to the word that a sleeping sequencer watches completes its wait, switched out or not (R311, R365): a step
of the device. Its wait at the seal ends there (R369). -/
def execWaitAWake (thread : Nat) (s : State) : Host.Outcome State Fault Refusal :=
  match mfind s.threads thread with
  | none => .next s
  | some t =>
    match t.issue with
    | g :: rest =>
      match g.instr with
      | .waitA d p b cc =>
        match waitAddr (s.opTile t.ot) g.regs p with
        | .ok (.scr r o) =>
          let v := waitWord s t.ot (.scr r o)
          let asleep := match t.flow with
            | .stalled .other => true
            | _ => t.parked = some g.ord
          let mayRead := (t.barriers.all fun b => g.ord < b.ord || barrierMet s t b)
            && (loadWaits t (.scr r o) 4 g.ord).isNone
          if asleep && mayRead && granOf (regionOf (s.opTile t.ot) r) o ≠ some .empty && relHolds cc v g.regs.s[b] then
            let t := giveResult { t with
              issue := rest, flow := .normal, parked := none, waited := false, waitEnd := s.time.toNat } d v
            runEvent (s.setThread thread (if t.run = .issuing then finishIssue s t else t))
          else .next s
        | _ => .next s
      | _ => .next s
    | [] => .next s

/-! ## The headgate and barriers (R347 to R350) -/

/-- The object a `take` or `bar` names: a global address, aligned and translated for reading and writing at issue. -/
def gateAddr (g : Gated) (t : Thread) (p : Fin 32) (align : Nat) : Op (Nat × Bool) := do
  let a := (pairVal g.regs p).toNat
  if bit a 63 || a % align ≠ 0 then throw (.trap .illegal 0)
  match ← resolveRmw t (← liftM (valueAddr {} a align)) with
  | .glob pa c => return (pa, c)
  | .scr _ _ => throw (.trap .illegal 0)

/-- A read-modify-write at the home (R90, R348, R350). -/
def gateRead (pa n : Nat) (c : Bool) : Op Nat := do
  let (s', bs) := basinBytes (← get) pa n c
  set s'
  return leOf bs
def gateWrite (t : Thread) (pa n v : Nat) (c : Bool) : Op Unit :=
  modify fun s => physWrite s t.tile pa (leBytes n v) c

/-- The share of a `take` (R348): `u` is the speed of the tile, in 25 MHz units. -/
def takeShare (next end_ chunk u : Nat) : Nat :=
  if end_ ≤ next then 0 else min (max 1 (chunk * u / 44)) (end_ - next)

/-- Its line request leaves through the tile's port (R391). -/
def askGate (g : Gated) (t : Thread) (pa : Nat) : Op Unit := do
  askLines t.tile [portReq (← get) t.op (lineOf pa) (.place t.key g.ord) false]

/-- Whether a colour-0 returning atomic of 32 bytes in this place could perform (R256, R270, R275, R281, R348). A flush
counts where it stands in the queues, behind its block's atomics (R287). -/
def takeMayGo (s : State) (t : Thread) (ord pa : Nat) (c : Bool) : Bool :=
  ((t.queues[0]).all fun e => ord ≤ e.place)
    && ((queued t).all fun e => ord ≤ e.place || !(entryOver e (.glob pa c) 32 || (e.isFlush && entryOn e (lineOf pa))))
    && !(c && t.waiting.any fun a => a.ord < ord && (match a.loc with
        | .glob p _ => lineOf p = lineOf pa
        | .scr _ _ => false))
    && (t.mq.all fun m => ord ≤ m.ord || (drainsTo m).isNone)
    && !behindCommands s t ord (.glob pa c) 32

/-- `take` (R348). -/
def execTake (d p : Fin 32) (s : State) : Host.Outcome State Fault Refusal :=
  runGated (.take d p) (capture (.take d p)) (fun g t => do
    awaitBarriers g t
    let (pa, c) ← gateAddr g t p 32
    if !takeMayGo (← get) t g.ord pa c then throw (.wait .queues)
    askGate g t pa
    modify fun s => mergeLine s (lineOf pa)
    let next ← gateRead pa 4 c
    let end_ ← gateRead (pa + 4) 4 c
    let chunk ← gateRead (pa + 8) 4 c
    let takes ← gateRead (pa + 16) 4 c
    let n := takeShare next end_ chunk ((speedEntry (← get) t.tile).toNat % 64)
    if n ≠ 0 then gateWrite t pa 4 (next + n) c
    gateWrite t (pa + 16) 4 (takes + 1) c
    modify fun s => s.dropOwner (.place t.key g.ord)
    return giveResult (giveResult t (pairLo d) (BitVec.ofNat 32 next)) (pairHi d) (BitVec.ofNat 32 n)) s

/-- Whether no update-only line of the device holds an older operand of a sequencer (R350). -/
def ownMerged (s : State) (t : Thread) (ord : Nat) : Bool :=
  s.tiles.all fun e => e.2.uol.all fun u => u.2.from_.all fun x => x.1 ≠ t.key || ord ≤ x.2

/-- The 8-byte words of the straggler record that an arrival writes. -/
def stragglerWords (recd k : Nat) (last : Bool) : List Nat :=
  (recd + 64 + 8 * k) :: if last then (List.range 8).map fun i => recd + 8 * i else []

/-- Writes 8 bytes of the straggler record. -/
def stragglerWrite (t : Thread) (a v : Nat) : Op Unit := do
  let bs := leBytes 8 v
  let ps := addrPieces (.glob a) 8
  ps.forM fun p => do
    match ← resolve t p.1 true with
    | .glob pa c => modify fun s => physWrite s t.tile pa ((bs.drop (p.1.low - a)).take p.2) c
    | .scr _ _ => throw (.trap .translation 0)

/-- The arrival of a `bar` (R349, R350), one indivisible action: every word of the record translates first. It tells
whether the generation is complete. -/
def barArrive (t : Thread) (pa : Nat) (c : Bool) : Op Bool := do
  let parties ← gateRead pa 4 c
  if parties = 0 then throw (.trap .illegal 0)
  let k ← gateRead (pa + 4) 4 c
  let gen ← gateRead (pa + 8) 4 c
  let recd ← gateRead (pa + 16) 8 c
  let now := (← get).time.toNat
  let done := k + 1 = parties
  if 2 ^ 57 < recd + 64 + 8 * (k + 1) then throw (.trap .translation 0)
  (stragglerWords recd k done).forM fun a => (addrPieces (.glob a) 8).forM fun p => do
    let _ ← resolve t p.1 true
  if k = 0 then gateWrite t (pa + 24) 8 now c
  let first ← gateRead (pa + 24) 8 c
  let lag := min 0xFFFFFFFF (now - first)
  stragglerWrite t (recd + 64 + 8 * k) (t.seqid.toNat + lag * 2 ^ 32)
  if done then
    stragglerWrite t recd (parties + (gen + 1) % 2 ^ 32 * 2 ^ 32)
    stragglerWrite t (recd + 8) first
    stragglerWrite t (recd + 16) now
    stragglerWrite t (recd + 24) (t.seqid.toNat + lag * 2 ^ 32)
    [32, 40, 48, 56].forM fun o => stragglerWrite t (recd + o) 0
    gateWrite t (pa + 8) 4 (gen + 1) c
    gateWrite t (pa + 4) 4 0 c
    let wake (e : Thread) : Thread :=
      if e.bar = some (pa, false) then
        { e with bar := some (pa, true), flow := if e.run = .issuing then .normal else e.flow } else e
    modify fun s => { s with threads := s.threads.map fun e => (e.1, wake e.2) }
    return true
  else
    gateWrite t (pa + 4) 4 (k + 1) c
    return false

/-- `bar` (R350): it arrives once its older writes have performed and its update-only data has merged, and completes
with its generation. -/
def execBar (p : Fin 32) (s : State) : Host.Outcome State Fault Refusal :=
  match mfind s.threads s.cur with
  | none => .next s
  | some t0 =>
    match t0.run, t0.bar, t0.issue with
    | .issuing, some (_, true), _ =>
      runGated (.bar p) (capture (.bar p)) (fun _ t => return { t with bar := none }) s
    | .issuing, some (_, false), _ => .next (s.setThread s.cur (t0.stall .other))
    | .issuing, none, g :: _ =>
      if (s.pondOf t0.op).isSome then .next (raiseTrap s s.cur t0 .illegal 0)
      else
        let f : Op (Nat × Bool) := do
          awaitBarriers g t0
          let (pa, c) ← gateAddr g t0 p 64
          askGate g t0 pa
          if (← gateRead pa 4 c) = 0 then throw (.trap .illegal 0)
          let s ← get
          if !olderDone t0 g.ord || !ownMerged s t0 g.ord then throw (.wait .queues)
          let last ← barArrive t0 pa c
          return (pa, last)
        match f.run s with
        | (.error (.wait n), s') => .next (stopAt (keepPorts s s') s.cur t0 (.wait n))
        | (.error e, s') => .next (stopAt s' s.cur t0 e)
        | (.ok (pa, last), s') =>
          -- the last arrival completes its own wait as well
          .next ((s'.dropOwner (.place t0.key g.ord)).setThread s.cur
            { t0 with bar := some (pa, last), flow := if last then .redirected else .stalled .other })
    | _, _, _ => runGated (.bar p) (capture (.bar p)) (fun _ t => return t) s

/-! ## `probe` and page requests (R74 to R83) -/

/-- What a walk of one page of a range gives. -/
inductive PageIs where
  | ok (pa : Nat)
  | missing
  | malformed
  deriving DecidableEq, Repr

/-- A page as a probe of a kind finds it. -/
def probePage (s : State) (pasid kind page : Nat) : PageIs :=
  match walk s pasid (page * 65536) with
  | .leaf _ large e =>
    let pa := leafPa large e (page * 65536)
    let can := (kind = 1 || bit e 2) && (kind = 0 || bit e 3)
    if can && !frameLeaving s pa large then .ok pa else .missing
  | .malformed _ => .malformed
  | .missing | .hole => .missing

/-- Records the malformed entry a walk meets, and a hole under WKPTB. -/
def noteWalk (s : State) (tile pasid page : Nat) : State :=
  match walk s pasid (page * 65536) with
  | .malformed a => noteMalformed s (terraceOf tile) a
  | .hole => { s with hole := true }
  | _ => s

/-- A leaf enters a tile's TLB (R70, R74). -/
def loadTlb (s : State) (tile pasid page : Nat) : State :=
  match tlbFind (s.tile tile).tlb pasid (page * 65536), walk s pasid (page * 65536) with
  | none, .leaf pte large e =>
    let va := page * 65536
    let frame := if large then bits e 38 21 * 2 ^ 21 else bits e 38 16 * 2 ^ 16
    let ent : TlbEntry :=
      { pasid := pasid, page := if large then va / 2 ^ 21 * 32 else page, large := large, frame := frame,
        cached := bits e 7 6 = 0, readable := bit e 2, writable := bit e 3, dirty := bit e 5, pte := pte }
    let t := s.tile tile
    setFrameAccessed (setPteBit (s.setTile tile { t with tlb := tlbAdd t.tlb ent }) pte 4) frame
  | _, _ => s

/-- The pages of a range. -/
def probePages (va len : Nat) : List Nat :=
  (List.range ((va + len - 1) / 65536 + 1 - va / 65536)).map fun i => va / 65536 + i

/-- A request of a PASID whose range and kind cover a missing set (R79). -/
def coveringReq (s : State) (pasid kind lo hi : Nat) : Option PageReq :=
  s.reqs.find? fun r => r.pasid = pasid && r.first ≤ lo && hi ≤ r.last && (r.kind = 2 || r.kind = kind)

/-- The last action of a probe (R74, R88): it pins every page of its range or none. -/
def probePin (t : Thread) (kind : Nat) (pages : List Nat) : Op (Option Nat) := do
  let s ← get
  let pasid := t.launch.pasid.toNat
  let found := pages.map fun p => probePage s pasid kind p
  if found.any (fun | .ok _ => false | _ => true) then return none
  let fs := (found.filterMap fun | .ok pa => some (frameIndex pa) | _ => none).eraseDups
  match pinFrames (s.noteHole s.basin.frtb.toNat) t.op pasid fs with
  | .error st => return some st
  | .ok s' =>
    set (pages.foldl (fun s p => loadTlb s t.tile pasid p) s')
    return some 0

/-- A probe at issue: its status, or none while it waits. -/
def probeStep (t : Thread) (va len kind : Nat) : Op (Thread × Option Nat) := do
  let pasid := t.launch.pasid.toNat
  if len = 0 then return (t, some 0)
  if 2 ^ 57 ≤ va || 2 ^ 57 < va + len then return (t, some 4)
  let pages := probePages va len
  match t.probe with
  | some (_, _, none) => return (t, none)
  | some (_, missing, some st) =>
    let t := { t with probe := none }
    if st ≠ 0 then return (t, some st)
    let s ← get
    if missing.any fun p => (match probePage s pasid kind p with | .ok _ => false | _ => true) then
      set (missing.foldl (fun s p => noteWalk s t.tile pasid p) s)
      return (t, some 3)
    return (t, ← probePin t kind pages)
  | none =>
    let s ← get
    match pasidEntry s pasid with
    | .error _ =>
      set (noteWalk s t.tile pasid (va / 65536))
      return (t, some 3)
    | .ok (_, limit) =>
      if limit < pages.length then return (t, some 2)
      match pages.find? fun p => probePage s pasid kind p = .malformed with
      | some p =>
        set (noteWalk s t.tile pasid p)
        return (t, some 3)
      | none =>
        let missing := pages.filter fun p => probePage s pasid kind p = .missing
        match missing with
        | [] => return (t, ← probePin t kind pages)
        | m :: _ =>
          if (s.pondOf t.op).isSome then throw (.trap .illegal 0)
          match coveringReq s pasid kind m (missing.getLastD m) with
          | some r => return ({ t with probe := some (r.seq, missing, none) }, none)
          | none => return (t, none)

/-- `probe` (R73 to R75); nw = 1 discards the status (R21). -/
def execProbe (d : Option (Fin 64)) (p : Fin 32) (b : Fin 64) (kind : BitVec 2) (s : State) :
    Host.Outcome State Fault Refusal :=
  match mfind s.threads s.cur with
  | none => .next s
  | some t0 =>
    match t0.run, t0.issue with
    | .issuing, g :: _ =>
      match (probeStep t0 (pairVal g.regs p).toNat (g.regs.s[b]).toNat kind.toNat).run s with
      | (.error e, s') => .next (stopAt s' s.cur t0 e)
      | (.ok (t, none), s') => .next (s'.setThread s.cur (t.stall .other))
      | (.ok (t, some st), s') =>
        runGated (.probe d p b kind) (capture (.probe d p b kind))
          (fun _ t => return match d with
            | none => t
            | some d => giveResult t d (BitVec.ofNat 32 st)) (s'.setThread s.cur t)
    | _, _ => runGated (.probe d p b kind) (capture (.probe d p b kind)) (fun _ t => return t) s

/-- Whether a region has granules that a touch would fill. -/
def unfilled (ot : OpTile) (n : Nat) : Bool := (regionOf ot n).gran.any (·.2 = .empty)

/-- Whether a matrix command may still translate global addresses: of its handles, or to fill its operands (R100). -/
def commandTranslates (ot : OpTile) (c : MCmd) : Bool :=
  ((matrixHandles c.instr).any fun h => !hScr c.regs.h[h] || unfilled ot (hRegion c.regs.h[h]))
    || (matrixPorts c.instr).any fun p => unfilled ot c.regs.w[portWalker p.1].region.val

/-- Whether older flushes, flume or matrix commands of a sequencer may still translate global addresses (R72, R77): a
flush whose block releases pages after it stands before the release (`flushPlace`). -/
def mayTranslate (s : State) (t : Thread) (ord : Nat) : Bool :=
  (t.mq.any fun c => c.ord < ord && commandTranslates (s.opTile t.ot) c)
    || ((queued t).any fun e => e.isFlush && e.place ≤ ord)
    || s.flumes.any fun e => e.2.thread = t.key && e.2.ord < ord && (e.2.state = .queued || e.2.state = .writing)

/-- `release` (R73, R77): one pin of the operator off each frame of the range. A page of it that is not present or malformed
is passed over, with no trap and no record (DESIGN CHOICE, log entry 85). -/
def execRelease (p : Fin 32) (b : Fin 64) (s : State) : Host.Outcome State Fault Refusal :=
  runGated (.release p b) (capture (.release p b)) (fun g t => do
    let s ← get
    if mayTranslate s t g.ord then throw (.wait .other)
    let va := (pairVal g.regs p).toNat
    let len := (g.regs.s[b]).toNat
    if len = 0 || 2 ^ 57 ≤ va || 2 ^ 57 < va + len then return t
    let fs := ((probePages va len).filterMap fun q =>
      (peekAddr s t.launch.pasid.toNat (q * 65536)).map frameIndex).eraseDups
    modify fun s => fs.foldl (fun s f =>
      if ((mfind s.ops t.op).bind fun o => mfind o.pins f).isSome then unpinFrame s t.op f 1 else s) s
    return t) s

/-- Writes a record of the page-request ring and moves its tail (R81). -/
def sendPageRequest (s : State) (r : PageReq) : State :=
  let tail := s.basin.prqtail.toNat % 2048
  let a := bits s.basin.prqbase.toNat 38 15 * 2 ^ 15 + 32 * (tail % 1024)
  let v := r.seq.toNat + r.pasid * 2 ^ 32 + r.ctx * 2 ^ 52 + r.first * 65536 * 2 ^ 64 + r.last * 65536 * 2 ^ 128
    + r.kind * 2 ^ 192
  let s := homeWrite (s.noteHole a) a 32 v
  let ctl := s.basin.prqctl.toNat
  { s with
    reqs := s.reqs ++ [r]
    reqSeq := s.reqSeq + 1
    basin := { s.basin with
      prqtail := BitVec.ofNat 64 ((tail + 1) % 2048)
      irqs := if bit ctl 0 then BitVec.ofNat 16 (bits ctl 31 16) :: s.basin.irqs else s.basin.irqs } }

/-- Room for one more request: 256 of a terrace, and a free record of the ring (R80, R81). -/
def requestRoom (s : State) (ter : Nat) : Bool :=
  (s.reqs.filter fun r => r.terrace = ter).length < 256
    && (s.basin.prqtail.toNat + 2048 - s.basin.prqhead.toNat % 2048) % 2048 ≠ 1024

/-- The page request of a waiting probe is sent (R79 to R81): a step of the device. -/
def execPageRequest (thread : Nat) (s : State) : Host.Outcome State Fault Refusal :=
  match mfind s.threads thread with
  | none => .next s
  | some t =>
    match t.issue, t.probe with
    | g :: _, none =>
      match g.instr with
      | .probe _ p b k =>
        let pasid := t.launch.pasid.toNat
        let va := (pairVal g.regs p).toNat
        let len := (g.regs.s[b]).toNat
        if len = 0 || 2 ^ 57 < va + len || pinLimit s pasid < (probePages va len).length then .next s
        else
          let found := (probePages va len).map fun q => (q, probePage s pasid k.toNat q)
          let missing := (found.filter fun q => q.2 = .missing).map (·.1)
          match missing with
          | [] => .next s
          | m :: _ =>
            let waiting := (match t.flow with | .stalled _ => true | _ => t.parked = some g.ord)
            if !waiting || found.any (fun q => q.2 = .malformed) || !requestRoom s (terraceOf t.tile)
                || (coveringReq s pasid k.toNat m (missing.getLastD m)).isSome then .next s
            else
              let r : PageReq :=
                { seq := s.reqSeq, ctx := t.launch.ctx.toNat, pasid := pasid, terrace := terraceOf t.tile, kind := k.toNat,
                  first := m, last := missing.getLastD m }
              runEvent ((sendPageRequest s r).setThread thread { t with probe := some (r.seq, missing, none) })
      | _ => .next s
    | _, _ => .next s

/-- The host answers a page request (R80 to R83). -/
def answerRequest (s : State) (v : W64) : State :=
  let seq : W32 := v.setWidth 32
  let st := bits v.toNat 39 32
  let st := if st = 0 || st = 1 then st else 3
  if bits v.toNat 63 40 ≠ 0 || !(s.reqs.any fun r => r.seq = seq) then
    { s with basin := { s.basin with prdrop := s.basin.prdrop + 1 } }
  else
    { s with
      reqs := s.reqs.filter fun r => r.seq ≠ seq
      threads := s.threads.map fun e =>
        match e.2.probe with
        | some (q, m, none) => if q = seq then (e.1, { e.2 with
            probe := some (q, m, some st), flow := if e.2.run = .issuing then .normal else e.2.flow }) else e
        | _ => e }

/-- A write of PRANS (R81): a step of the host. -/
def execPrans (v : W64) (s : State) : Host.Outcome State Fault Refusal :=
  runEvent (answerRequest { s with basin := { s.basin with prans := v } } v)

end Sys2Proof.Machine
end

