-- ==== Sys2Proof/Machine/Launch.lean ====
section
/-! DEFINITION. Starting, ending, pre-empting and resuming operators, and the launch predictor's runs (R290, R308,
R342 to R345, R354 to R361, R364 to R369). -/

namespace Sys2Proof.Machine

/-! ## The launch (R97, R308, R344) -/

/-- The registers a launch writes; every other holds its operator-start value (R168). -/
def launchRegs (s : State) (o : CodeObj) (r : Rec) (form : Form) (ltile j : Nat) : Regs :=
  let z : Regs := {}
  let arg := r.word 2
  let vals : List Nat :=
    [r.seqs, arg % 2 ^ 32, arg / 2 ^ 32, ltile, j, r.width + r.height * 2 ^ 16,
      if r.kind = 1 then bits (r.word 1) 31 0 else 0]
  let label (n : Nat) : W64 :=
    let a := match form with
      | .jexcy => findBlock s o.pasid form (BitVec.ofNat 16 n) (o.jexLen / 32 + 1) o.jexBase
      | .native => findBlock s o.pasid form (BitVec.ofNat 16 n) (o.natLen / 32 + 1) o.natBase
    BitVec.ofNat 64 (a.getD 0)
  { z with
    s := Vector.ofFn fun i => if 1 ≤ i.val && i.val ≤ 7 then BitVec.ofNat 32 (vals.getD (i.val - 1) 0) else 0
    preds := { taken := BitVec.ofNat 16 (bits (r.word 0) 15 0) }
    loops := if r.kind = 1 then
        [{ start := label (bits (r.word 1) 63 48), exit := label (bits (r.word 1) 47 32),
           remaining := bits (r.word 1) 31 0, armed := true }]
      else [] }

/-- What `sysr` reads of a launch (R208, R209, R212). -/
def launchInfo (s : State) (o : CodeObj) (r : Rec) : Launch :=
  { ctx := BitVec.ofNat 12 r.ctx, pasid := BitVec.ofNat 20 r.pasid, arg := BitVec.ofNat 64 (r.word 2),
    constBase := BitVec.ofNat 64 o.constBase, constLen := o.constLen,
    dataBase := if o.dataLen = 0 then 0 else BitVec.ofNat 64 o.dataBase,
    obj := o.number, test := bit (homeRead s (ctxAddr s r.ctx) 64) 368 }

/-- A sequencer at operator start. -/
def launchThread (s : State) (o : CodeObj) (r : Rec) (op ltile j tile : Nat) (p : Fin 4) : Thread :=
  match blockAt s o (BitVec.ofNat 16 (bits (r.word 0) 15 0)) with
  | none => { op := op, ltile := ltile, seq := Fin.ofNat 4 j, tile := tile, pseq := p, run := .exited }
  | some (form, a) =>
    let t : Thread :=
      { op := op, ltile := ltile, seq := Fin.ofNat 4 j, tile := tile, pseq := p, form := form, pc := BitVec.ofNat 64 a,
        regs := launchRegs s o r form ltile j, launch := launchInfo s o r }
    { (swapForm s t).begin with blockSince := s.time.toNat, waitEnd := s.time.toNat }

/-- The regions of an operator's tile, placed on free granules, local and zero (R96, R97, R99). -/
def launchTile (s : State) (regs : List (Nat × Nat × Tag)) (tile : Nat) : OpTile :=
  match placeRegions regs (takenGranules s tile) with
  | none => {}
  | some rs => { regions := rs.foldl (fun m r =>
      mput m r.1 { tag := r.2.2.1, size := BitVec.ofNat 9 r.2.1, baseA := BitVec.ofNat 10 r.2.2.2.1,
                   baseB := BitVec.ofNat 10 r.2.2.2.2 }) [] }

/-- Starts an operator for a record on tiles, each with the physical sequencers given. -/
def launch (s : State) (r : Rec) (prio : Nat) (pond : Option (Fin 4)) (places : List (Nat × List (Fin 4))) : State :=
  match mfind s.objs (objKey r.pasid r.objNo) with
  | none => s
  | some o =>
    let op := s.nextOp
    let oper : Operator :=
      { slot := r.slot, index := r.index, ctx := r.ctx, pasid := r.pasid, obj := r.objNo,
        tiles := places.zipIdx.map fun p => (p.2, p.1.1), seqs := r.seqs, prio := prio, width := r.width,
        height := r.height, terr := r.terr, agroup := r.agroup, pond := pond, rolled := r.rolled }
    let ts := places.zipIdx.flatMap fun p => p.1.2.zipIdx.map fun q => launchThread s o r op p.2 q.2 p.1.1 q.1
    let ots := places.zipIdx.map fun p => (opTileKey op p.2, launchTile s o.regions p.1.1)
    { s with
      nextOp := op + 1
      ops := mput s.ops op oper
      threads := ts.foldl (fun m t => mput m t.key t) s.threads
      opTiles := ots.foldl (fun m e => mput m e.1 e.2) s.opTiles }

/-- The tiles and sequencers of a rectangle for a launch. -/
def placesAt (s : State) (z : Shape) (r : Rect) : List (Nat × List (Fin 4)) :=
  ((rectTiles s z r).getD []).map fun t => (t, (freeSeqs s t).take z.seqs)

/-- The head of the pool, among the entries that count as one (R343, R367). -/
def poolHead (s : State) : Option Item := ((poolItems s).filter fun a => !itemWaits s a).head?

/-- Notes that a head that cannot be placed is passed over, or no longer is. One that blocks the pool stays noted while
it waits there, whatever comes before it (R343). -/
def passOver (s : State) : State :=
  if (poolOpen s).any fun a => headBlocks s = some a.id then s
  else
    match poolHead s with
    | none => { s with headSince := none }
    | some a =>
      if placeable s a then { s with headSince := none }
      else if s.headSince.any fun h => h.1 = a.id then s
      else { s with headSince := some (a.id, s.time.toNat) }

/-- The head of the pool is passed over (R343): a step of the front end. -/
def execHeadPassedOver (s : State) : Host.Outcome State Fault Refusal := runEvent (passOver s)

/-- The latest record of a queue that has started or been claimed (R381). -/
def noteStarted (s : State) (r : Rec) : State :=
  let q := s.queue r.slot
  if q.started.any fun i => (i - r.index).toNat < 2 ^ 31 then s
  else { s with queues := mput s.queues r.slot { q with started := some r.index } }

/-- The pool starts its next record on a rectangle (R343 to R345): a step of the device. -/
def execRecordPlacement (r : Rect) (s : State) : Host.Outcome State Fault Refusal :=
  match nextItem s with
  | none => .next s
  | some a =>
    if a.isOp || !fitsAt s a.shape r then .next s
    else match mfind s.recs a.key with
      | none => .next s
      | some x =>
        let s := passOver s
        let op := s.nextOp
        let s1 := launch s x (x.effPrio s) none (placesAt s a.shape r)
        let s1 := noteStarted (setRec s1 { x with state := .started op }) x
        runEvent (frontSettle { s1 with headSince := if s1.headSince.any (fun h => h.1 = a.id) then none else s1.headSince })

/-- A ready chain successor starts on its predecessor's sequencers (R342, R344), once its object's regions find granules
there (R445) and no run holds it (R360): a step of the device. -/
def execChainSuccessorStart (slot : Nat) (index : W32) (s : State) : Host.Outcome State Fault Refusal :=
  match mfind s.recs (recKey slot index) with
  | none => .next s
  | some r =>
    match reservedFor s r with
    | none => .next s
    | some (old, o) =>
      if r.state ≠ .ready || !r.chained || pondHolds s r || ctxField s r.ctx 367 364 ≠ 1 then .next s
      else
        let places := o.tiles.map fun e =>
          (e.2, ((s.threadsOf old).filter fun t => t.2.ltile = e.1).map fun t => t.2.pseq)
        let s1 := dropOperator s old
        if !granulesFor s1 (r.shape s1).regs (places.map (·.1)) then .next s
        else runEvent (frontSettle (noteStarted
          (setRec (launch s1 r (r.effPrio s1) none places) { r with state := .started s1.nextOp }) r))

/-! ## Completion (R290, R315, R345, R371) -/

/-- The operator's exit value: of the sequencer with the lowest SEQID whose value is not 0 (R315). -/
def exitValueOf (s : State) (op : Nat) : W32 :=
  (((s.threadsOf op).filter fun e => e.2.run = .exited && e.2.exitValue ≠ 0).head?.map fun e => e.2.exitValue).getD 0

/-- Whether everything an operator issued has completed and its update-only data has merged (R94, R290, R315). -/
def operatorDone (s : State) (op : Nat) (o : Operator) : Bool :=
  let ts := s.threadsOf op
  (match o.state with
    | .started => ts.all fun e => e.2.run = .exited
    | .ending _ => o.fate.isNone && ts.all fun e => e.2.idle
    | _ => false)
    && ts.all (fun e => (queued e.2).isEmpty && e.2.waiting.isEmpty && e.2.mq.isEmpty)
    && (s.tiles.all fun e => e.2.uol.all fun u => u.2.from_.all fun x => keyOp x.1 ≠ op)
    && s.flumes.all fun c => keyOp c.2.thread ≠ op || c.2.state = .held

/-- Writes back every dirty granule of an operator's tile once its lines have left the port; a tile that fails. -/
def releaseTile (tile otk : Nat) : Op (Option Nat) := do
  let ds := dirtyOf (← get) otk fun _ _ => true
  askLines tile (dirtyReqs (← get) ds)
  let s ← get
  let (s, bad) := writeBackAll s tile ds
  set (s.dropSent tile (isDirtyReq ds))
  return bad.head?.map (·.ot)

/-- Writes back the regions of an operator (R101), its update-only lines merged before (R290 leaves the order of the two
open: DESIGN CHOICE, log entry 56); a sequencer of the tile whose write-back does not translate, if there is one. -/
def releaseWrites (op : Nat) (back : Bool) : Op (Option Nat) := do
  if !back then return none
  let ts := (← get).threadsOf op
  let tiles := (ts.map fun e => (e.2.tile, e.2.ot)).eraseDups
  let bad ← tiles.mapM fun x => releaseTile x.1 x.2
  return bad.findSome? fun o => o.bind fun otk => (ts.find? fun e => e.2.ot = otk).map (·.1)

/-- An operator retires and its record ends (R342, R345). -/
def retireOperator (s : State) (op : Nat) (o : Operator) (status : Nat) : State :=
  let exit := exitValueOf s op
  match mfind s.recs (recKey o.slot o.index) with
  | none => frontSettle (dropOperator s op)
  | some r =>
    let keep := status = 0 && r.chain
    let s := if keep then
        (dropPins (cancelFlumes (dropAcc s op) fun _ c => keyOp c.thread = op) op).setOp op
          { o with state := .reserved, pins := [] }
      else dropOperator s op
    frontSettle (endRecord s { r with exitValue := exit } status)

/-- An operator completes: its writes are released, its completion record is written (R290, R345): a step of the
device. -/
def execOperatorCompletion (op : Nat) (s : State) : Host.Outcome State Fault Refusal :=
  match mfind s.ops op with
  | none => .next s
  | some o =>
    if o.pond.isSome || !operatorDone s op o then .next s
    else
      let status := match o.state with
        | .ending n => n
        | _ => 0
      match (releaseWrites op (ctxField s o.ctx 367 364 = 1 || ctxField s o.ctx 367 364 = 2)).run s with
      | (.ok none, s) => runEvent (retireOperator s op ((mfind s.ops op).getD o) status)
      | (.ok (some k), s) =>
        match mfind s.threads k with
        | some t => runEvent (settleTrap (raiseTrap s k t .translation 0) op)
        | none => runEvent s
      | (.error _, s') => runEvent (keepPorts s s')

/-! ## Pre-emption (R364 to R369) -/

/-- Victims are asked to stop (R364): a step of the front end. Pond runs on the tiles that the head takes stop with
them, or alone where that suffices (R358). -/
def execPreemption (victims : List Nat) (s : State) : Host.Outcome State Fault Refusal :=
  match poolHead s with
  | none => .next s
  | some a =>
    if placeable s a then .next s
    else
      let stop (s' : State) (e : Nat × Pond) : Nat × Pond :=
        if runOn s (itemTiles s' a) e.2 then (e.1, { e.2 with stopping := true }) else e
      let s1 := withoutRuns s
      if placeable s1 a then runEvent { s with ponds := s.ponds.map (stop s1) }
      else
        let may (op : Nat) : Bool := (mfind s.ops op).any fun o =>
          o.state = .started && o.pond.isNone && o.prio < a.prio && !o.stopping
        let away (o : Nat × Operator) : Nat × Operator :=
          if victims.contains o.1 then (o.1, { o.2 with state := .out }) else o
        let mark (o : Nat × Operator) : Nat × Operator :=
          if victims.contains o.1 then (o.1, { o.2 with stopping := true, stopAt := s.time.toNat }) else o
        let s2 := { s1 with ops := s1.ops.map away }
        if victims.isEmpty || !victims.all may || !placeable s2 a then .next s
        else runEvent { s with ops := s.ops.map mark, ponds := s.ponds.map (stop s2) }

/-- Whether every sequencer of an operator stands at a pre-emption point, its landing slots landed (R365). -/
def allStopped (s : State) (op : Nat) : Bool :=
  (s.threadsOf op).all fun e => e.2.idle && e.2.regs.slots.toList.all fun x => x.state ≠ .pending

/-- An uncorrectable error while an operator's state is spilled or restored ends its context (R367, R370). -/
def spillFails (s : State) (op : Nat) : Option State :=
  if s.hwErrors.contains (.spill op) then
    let s := { s with hwErrors := s.hwErrors.erase (.spill op) }
    some (match (s.threadsOf op).head? with
      | some (k, t) => raiseTrap s k t .dataError 0
      | none => s)
  else none

/-- A victim whose sequencers have stopped is switched out, with what R365 spills at once, and returns to the ready pool
(R365, R368): a step of the device. One that a migration abandons, or whose tile is being retired, is not (R328, R381). -/
def execSwitchOut (op : Nat) (s : State) : Host.Outcome State Fault Refusal :=
  match mfind s.ops op with
  | none => .next s
  | some o =>
    if o.state ≠ .started || !o.stopping || o.fate.isSome || !allStopped s op || !mayLeave s op then .next s
    else if (s.threadsOf op).all fun e => e.2.run = .exited then runEvent (s.setOp op { o with stopping := false })
    else if o.abandoned then .next s
    else match spillFails s op with
    | some s => runEvent s
    | none =>
      let out (t : Thread) : Thread := if t.run = .stopped then { t with run := .out } else t
      runEvent (spillNow { s.setOp op { o with stopping := false, state := .out, readyAt := s.time.toNat } with
        threads := s.threads.map fun e => if e.2.op = op then (e.1, out e.2) else e } op)

/-- Whether no entry of the pool before an operator's can be placed (R368). -/
def mayResume (s : State) (op : Nat) : Bool :=
  let mine (a : Item) : Bool := a.isOp && a.key = op
  (poolOpen s).any mine && ((poolOpen s).takeWhile (!mine ·)).all fun a => !placeable s a

/-- An operator continues on tiles: new granules for its regions, its sequencers where their last seals left them, the
regions its flume commands publish into with their tiles (R128). Requests it makes again for accumulators start the idle time of those that hold them (R245). -/
def resumeOn (s : State) (op : Nat) (o : Operator) (places : List (Nat × List (Fin 4))) : State :=
  let s := (places.map (·.1)).foldl startIdle s
  let regs := objRegions s o.pasid o.obj
  let rebase (tile : Nat) (ot : OpTile) : OpTile :=
    match placeRegions regs (takenGranules s tile) with
    | none => ot
    | some rs => { ot with regions := rs.foldl (fun m r =>
        mput m r.1 { regionOf ot r.1 with baseA := BitVec.ofNat 10 r.2.2.2.1, baseB := BitVec.ofNat 10 r.2.2.2.2 }) ot.regions }
  let dest (t : Thread) : Nat × List (Fin 4) := places.getD t.ltile (t.tile, [])
  -- accumulators that others of the tile hold come back by a request of their own (R243, R249)
  let lost (t : Thread) : BitVec 4 := s.threads.foldl (fun m e =>
    if e.2.op ≠ op && e.2.tile = (dest t).1 && !away s e.2 then m ||| (e.2.acc &&& t.acc) else m) 0
  let move (t : Thread) : Thread :=
    { resumeHeld t with
      tile := (dest t).1, pseq := (dest t).2.getD t.seq.val t.pseq, acc := t.acc &&& ~~~lost t, banksOut := 0
      waitEnd := s.time.toNat }
  let mine := s.threadsOf op
  let leaves (k tile : Nat) : Bool := mine.any fun e => e.1 = k && (dest e.2).1 ≠ tile
  let asked (tile : Nat) : List LeaseReq := mine.filterMap fun e =>
    let m := lost e.2 ||| (if e.2.tile = tile then 0 else requested s e.2)
    if (dest e.2).1 = tile && m ≠ 0 then some ⟨e.1, m⟩ else none
  let tiles := (s.tiles.map fun e => (e.1, { e.2 with
      leaseQ := e.2.leaseQ.filter fun r => !leaves r.thread e.1
      turn := if e.2.turn.any fun k => leaves k e.1 then none else e.2.turn }) : Map Tile)
  let tiles := ((mine.map fun e => (dest e.2).1).eraseDups).foldl (fun m k =>
    if asked k = [] then m else mput m k { mget {} m k with leaseQ := (mget {} m k).leaseQ ++ asked k }) tiles
  { s.setOp op { o with state := .started, images := [], tiles := places.zipIdx.map fun p => (p.2, p.1.1) } with
    threads := s.threads.map fun e => if e.2.op = op then (e.1, move e.2) else e
    tiles := tiles
    flumes := s.flumes.map fun e =>
      let moved (d : FlDest) : FlDest := match d with
        | .scr ot tile n => if ot / 512 = op then .scr ot (places.getD (ot % 512) (tile, [])).1 n else d
        | .glob => d
      (e.1, { e.2 with dests := e.2.dests.map moved, left := e.2.left.map moved })
    opTiles := s.opTiles.map fun e =>
      if e.1 / 512 = op then
        (e.1, { rebase (places.getD (e.1 % 512) (0, [])).1 e.2 with pagesOut := [], accOut := 0 }) else e }

/-- A switched-out operator resumes on its own sequencers, or on another rectangle of its shape once what it still has
resident is spilled (R368): a step of the device. It is the head of the pool no more (R343). A command of its that has
begun and cannot be interrupted completes first (R248). -/
def execOperatorResume (op : Nat) (r : Rect) (s : State) : Host.Outcome State Fault Refusal :=
  match mfind s.ops op with
  | none => .next s
  | some o =>
    if o.state ≠ .out || o.abandoned || !mayResume s op || (s.threadsOf op).any (fun e => midCommand e.2) then .next s
    else match spillFails s op with
    | some s => runEvent s
    | none =>
      let z := o.shape s
      let own := o.tiles.map fun e => (e.2, ((s.threadsOf op).filter fun t => t.2.ltile = e.1).map fun t => t.2.pseq)
      let s1 := { s with headSince := if s.headSince.any (fun h => h.1 = 2 * op + 1) then none else s.headSince }
      if ownSeqsFree s op && ownGranules s op then runEvent (resumeOn s1 op o own)
      else if fitsAt s z r then
        let s2 := spillRest s1 op o
        runEvent (resumeOn s2 op ((mfind s2.ops op).getD o) (placesAt s z r))
      else .next s

/-- Whether a sequencer runs a block beyond the limit: it takes its deadline there and runs on to no seal (R369). -/
def pastDeadline (s : State) (t : Thread) : Bool :=
  let limit := s.basin.prdl.toNat % 2 ^ 32
  (mfind s.ops t.op).any fun o => limit ≠ 0 && o.stopping && t.run = .running
    && limit * Config.deadlineUnit ≤ s.time.toNat - max o.stopAt t.waitEnd

/-- The pre-emption deadline (R369): a step of the device. -/
def execPreemptionDeadline (thread : Nat) (s : State) : Host.Outcome State Fault Refusal :=
  match mfind s.threads thread with
  | none => .next s
  | some t =>
    if pastDeadline s t then runEvent (raiseTrap s thread t .deadline 0) else .next s

/-! ## Pond runs (R351 to R361) -/

def prEnable (s : State) : Bool := bit s.basin.prctl.toNat 0
/-- The largest number of concurrent runs (R351). -/
def prRuns (s : State) : Nat := min 4 (bits s.basin.prctl.toNat 3 1)
/-- The free frames of a run slot (R351): those it was given, until a run has used some. -/
def pondFrames (s : State) (i : Nat) : List Nat :=
  (mfind s.pondFree i).getD
    ((List.range 4096).map fun f => bits s.basin.prctl.toNat 29 21 * 2 ^ 30 + i * 2 ^ 28 + f * 2 ^ 16)
/-- A run ends: the frames given are free in its slot, with those it did not use (R360, R361). -/
def endPond (s : State) (i : Nat) (p : Pond) (back : List Nat) : State :=
  { s with ponds := mdel s.ponds i, pondFree := mput s.pondFree i (back ++ p.free) }

/-- The record a prediction stands for, its priority that of the newest entry (R353; `Rec.prio` clamps it). -/
def predictedRec (s : State) (slot : Nat) (q : Queue) : Option (Rec × List W64) :=
  match predict q.hist, q.hist with
  | some (w0 :: w1 :: w3 :: w2 :: as), h :: _ =>
    let w0 := BitVec.ofNat 64 (setBits w0.toNat 56 52 h.prio)
    some ({ slot := slot, index := q.kidx, ctx := q.ctx, pasid := q.pasid, words := [w0, w1, w2, w3, 0, 0, 0, 0],
            maxpri := q.maxpri, terr := q.terr, agroup := q.agroup }, as)
  | _, _ => let _ := s; none

/-- Whether a rectangle of a shape lies within another. -/
def rectWithin (z : Shape) (r : Rect) (y : Shape) (q : Rect) : Bool :=
  r.x0 ≤ q.x0 && q.x0 + y.w ≤ r.x0 + z.w && r.y0 ≤ q.y0 && q.y0 + y.h ≤ r.y0 + z.h

/-- Whether a ready record of the pool could be placed within a rectangle (R354). -/
def recordWants (s : State) (z : Shape) (r : Rect) : Bool :=
  (poolItems s).any fun a => !a.isOp && !itemWaits s a
    && allRects.any fun q => rectWithin z r a.shape q && fitsAt s a.shape q

/-- The predictor starts a run (R354), in a context that is live (R374, R381), of an object that is not flagged
`.nopredict` (R339): a step of the front end. -/
def execPondRunStart (run : Fin 4) (slot : Nat) (r : Rect) (s : State) : Host.Outcome State Fault Refusal :=
  let q := s.queue slot
  if !prEnable s || prRuns s ≤ s.ponds.length || (mfind s.ponds run.val).isSome || !q.valid
      || s.ponds.any (fun e => e.2.slot = slot) || q.ridx ≠ q.kidx || ctxField s q.ctx 367 364 ≠ 1
      || (s.recs.any fun e => e.2.slot = slot && !e.2.isStarted && !e.2.isOver) then .next s
  else
    match predictedRec s slot q with
    | none => .next s
    | some (x, as) =>
      let z := x.shape s
      if malformed s x || (mfind s.objs (objKey x.pasid x.objNo)).any (·.nopredict) || !fitsAt s z r || recordWants s z r
      then .next s
      else
        let op := s.nextOp
        let s1 := launch s x x.prio (some run) (placesAt s z r)
        let p : Pond :=
          { slot := slot, index := q.kidx, op := op, words := x.words, args := as, free := pondFrames s run.val }
        runEvent { s1.setPond run.val p with basin := { s1.basin with pondrun := s1.basin.pondrun + 1 } }

/-- A stopped run, or one whose tiles an entry of the pool needs, is discarded (R358, R361): a step of the front end. -/
def execPondRunStop (run : Fin 4) (s : State) : Host.Outcome State Fault Refusal :=
  match mfind s.ponds run.val with
  | none => .next s
  | some p =>
    if !p.stopping && !runNeeded s p then .next s
    else
      let s := dropOperator (endPond s run.val p (p.pages.map (·.2))) p.op
      runEvent (frontSettle { s with basin := { s.basin with ponddsc := s.basin.ponddsc + 1 } })

/-- A run has finished, its writes in the pond (R359): a step of the front end. -/
def execPondRunClaimable (run : Fin 4) (s : State) : Host.Outcome State Fault Refusal :=
  match mfind s.ponds run.val with
  | none => .next s
  | some p =>
    match mfind s.ops p.op with
    | none => .next s
    | some o =>
      if p.stopping || p.claimable || !operatorDone s p.op o then .next s
      else
        match (releaseWrites p.op true).run s with
        | (.ok bad, s) =>
          match mfind s.ponds run.val with
          | none => runEvent s
          | some p => runEvent (s.setPond run.val { p with
              stopping := p.stopping || bad.isSome, claimable := bad.isNone, exitValue := exitValueOf s p.op })
        | (.error _, s') => runEvent (keepPorts s s')

/-- The lines of a pond page that were left unwatched come up to date from the real frame (R360). -/
def refreshLines (s : State) (p : Pond) (page frame old : Nat) : State :=
  ((List.range 1024).filter fun i => p.argLine (page * 1024 + i)).foldl (fun s i =>
    let (s, bs) := basinBytes s (old + 64 * i) 64 true
    basinPut s (frame + 64 * i) bs true) s

/-- One page of a claim: leaf and frame-table entries swap with the real frame (R120, R360). Of a page under a 2 MiB
leaf, which has no leaf of its own, the real frame takes the pond frame's bytes (DESIGN CHOICE, log entry 58). Runs that
watch lines of the page stop (R356). -/
def claimPage (s : State) (pasid : Nat) (p : Pond) (page frame : Nat) : State :=
  match walk s pasid (page * 65536) with
  | .leaf pte true e =>
    let old := leafPa true e (page * 65536)
    let s := copyFrame (refreshLines (noteFrame s old) p page frame old) frame old true
    (homeWrite s pte 8 (setBits ((homeRead s pte 8)) 5 4 3)).noteWordIn fun pa => pa / 65536 = old / 65536
  | .leaf pte false e =>
    let old := leafPa false e 0
    let s := refreshLines (noteFrame s old) p page frame old
    let s := (cachedLines s old).foldl (fun s l => dropLine (writeBackLine (mergeLine s l) l) l) s
    let s := homeWrite s pte 8 (setBits (setBits e 38 16 (frame / 65536)) 5 4 3)
    (dropTlb (moveFrame s old frame) pasid page).noteWordIn fun pa => pa / 65536 = frame / 65536
  | _ => s

/-- The claim of a finished run, one action of the front end (R360): a step of the device. -/
def execPondClaim (run : Fin 4) (s : State) : Host.Outcome State Fault Refusal :=
  match mfind s.ponds run.val with
  | none => .next s
  | some p =>
    match mfind s.ops p.op, mfind s.recs (recKey p.slot p.index) with
    | some o, some r =>
      if p.stopping || !p.claimable || !p.held || r.state ≠ .ready
          || ((earlier s r).any fun e => !e.isStarted && !e.isOver)
          || p.pages.any (fun e => (pageFrame s o.pasid e.1).any (frameBusy s)) then .next s
      else
        let real := p.pages.filterMap fun e =>
          match walk s o.pasid (e.1 * 65536) with
          | .leaf _ false l => some (leafPa false l 0)
          | .leaf _ true _ => some e.2
          | _ => none
        let s := p.pages.foldl (fun s e => claimPage s o.pasid p e.1 e.2) s
        let s := dropOperator (endPond s run.val p real) p.op
        let s := { s with basin := { s.basin with pondclm := s.basin.pondclm + 1 } }
        runEvent (frontSettle (endRecord (noteStarted s r) { r with exitValue := p.exitValue, pond := true } 0))
    | _, _ => .next s

/-- A write of PRCTL (R351): clearing enable stops every run; another base gives the slots other frames. -/
def writePrctl (s : State) (v : Nat) : State :=
  let moved := bits v 29 21 ≠ bits s.basin.prctl.toNat 29 21
  let s := { s with
    basin := { s.basin with prctl := BitVec.ofNat 32 (bits v 29 21 * 2 ^ 21 + v % 16) }
    pondFree := if moved then [] else s.pondFree }
  if prEnable s then s else { s with ponds := s.ponds.map fun e => (e.1, { e.2 with stopping := true }) }
def execPrctl (v : W64) (s : State) : Host.Outcome State Fault Refusal := runEvent (writePrctl s v.toNat)

end Sys2Proof.Machine
end

