-- ==== Sys2Proof/Machine/Validate.lean ====
section
/-! DEFINITION. The loader's validator: what of R48 and of R34, R42, R96, R293, R294, R301, R304, R305 a code
object shows without running. -/

namespace Sys2Proof.Machine

/-- A block as it stands in a section: the offset of its first unit, its units before the seal, and its seal. -/
structure CodeBlock where
  at_ : Nat
  units : List (List Instr)
  data : SealData
  deriving DecidableEq, Repr

/-- Splits the words of a section into its blocks; none where a unit does not decode (R38, R44, R48). -/
def splitBlocks (f : Form) : Nat → Nat → Nat → List (List Instr) → List W64 → Option (List CodeBlock)
  | 0, _, _, _, _ => none
  | _, _, _, acc, [] => if acc.isEmpty then some [] else none
  | n + 1, start, pos, acc, w :: ws =>
    let unit := match f, ws with
      | .jexcy, _ => (decodeJexcy (w :: ws)).toOption.map fun i => [i]
      | .native, a :: v :: m :: _ => (decodeBundle w a v m).toOption
      | .native, _ => none
    match unit with
    | none => none
    | some [.sealOp x] =>
      (splitBlocks f n (pos + 32) (pos + 32) [] (ws.drop 3)).map (⟨start, acc.reverse, x⟩ :: ·)
    | some is =>
      match f with
      | .jexcy => splitBlocks f n start (pos + 8) (is :: acc) ws
      | .native => splitBlocks f n start (pos + 32) (is :: acc) (ws.drop 3)

def blocksOf (f : Form) (ws : List W64) : Option (List CodeBlock) := splitBlocks f (ws.length + 1) 0 0 [] ws

def CodeBlock.ops (b : CodeBlock) : List Instr := b.units.flatten

/-! ## Declared figures (R42) -/

/-- Class and opcode of an operation, its destination field, and whether it writes back. -/
def keyOf (i : Instr) : Nat × Nat × Bool :=
  match encFields i with
  | some (.T f) => (f.key, f.dst, f.nw = 0)
  | some (.I f) => (f.key, f.dst, f.nw = 0)
  | some (.K f) => (f.key, f.dst, f.nw = 0)
  | some (.B f) => (f.key, 0, false)
  | some (.D f) => (f.key, 0, false)
  | some (.M f) => (f.key, 0, false)
  | none => (0, 0, false)

/-- A gated operation (R50 to R55). -/
def isGated (i : Instr) : Bool :=
  let k := (keyOf i).1
  k = 0x020 || k = 0x021 || k = 0x022 || k = 0x030 || k = 0x031 || k = 0x032 || (0x220 ≤ k && k ≤ 0x22A)
    || k = 0x238 || k = 0x239 || (0x300 ≤ k && k < 0x400) || 0x500 ≤ k

/-- An operation whose result is a vector. -/
def vectorResult (k : Nat) : Bool := k = 0x214 || (0x400 ≤ k && k ≤ 0x44A && k ≠ 0x420 && k ≠ 0x421 && k ≠ 0x447)

/-- The v register an operation writes. -/
def vWritten (i : Instr) : Option Nat :=
  let k := keyOf i
  if vectorResult k.1 && k.2.2 && k.2.1 < 96 then some k.2.1 else none

/-- The bytes an operation buffers as stores. -/
def storeCount (i : Instr) : Nat :=
  let k := keyOf i
  match k.1 with
  | 0x208 => 1 | 0x209 => 2 | 0x20A => 4 | 0x20B => 8 | 0x212 => 1024 | 0x213 => 1024 | 0x219 => 32
  | n => if vectorResult n && k.2.2 && 96 ≤ k.2.1 then 1024 else 0

def figuresOk (b : CodeBlock) : Bool :=
  let x := b.data
  x.len.toNat = b.units.length && x.vectors.toNat ≤ 32 && x.stores.toNat ≤ 512 && x.gated.toNat ≤ 8
    && (b.ops.filterMap vWritten).eraseDups.length ≤ x.vectors.toNat
    && ceilDiv ((b.ops.map storeCount).foldl (· + ·) 0) 32 ≤ x.stores.toNat
    && (b.ops.filter isGated).length ≤ x.gated.toNat

/-! ## Latches (R33 to R35, R48) -/

/-- The latch group a result enters and its latch time. -/
def latchTime (i : Instr) : Option (Nat × Nat) :=
  let k := keyOf i
  let n := k.1
  if 0x100 ≤ n && n < 0x200 then
    if n = 0x131 || 0x138 ≤ n then none
    else if 0x104 ≤ n && n ≤ 0x106 then some (0, 3)
    else if 0x108 ≤ n && n ≤ 0x10B then some (0, 12) else some (0, 1)
  else if 0x400 ≤ n && vectorResult n && k.2.1 < 96 then
    if [0x400, 0x401, 0x405, 0x406, 0x407, 0x408, 0x422, 0x428, 0x429, 0x42A, 0x42B, 0x42C, 0x42D, 0x42E, 0x441, 0x445,
        0x44A].contains n then some (1, 2)
    else if n = 0x40C || (0x438 ≤ n && n ≤ 0x449) then some (1, 6)
    else if 0x410 ≤ n && n ≤ 0x414 then some (1, 8) else some (1, 4)
  else none

/-- The latches an operation reads. -/
def latchReads (i : Instr) : List Nat :=
  let fs := match encFields i with
    | some (.T f) => [f.a, f.b, f.c]
    | some (.I f) => [f.b]
    | some (.K f) => [f.a]
    | _ => []
  (fs.filter (128 ≤ ·)).map (· - 128)

/-- Every latch read of a native block finds its latch filled by the reading bundle. -/
def latchesOk (b : CodeBlock) : Bool :=
  let fills := b.units.zipIdx.flatMap fun u => u.1.filterMap fun i => (latchTime i).map fun l => (l.1, u.2 + l.2)
  b.units.zipIdx.all fun u => u.1.all fun i => (latchReads i).all fun n =>
    let (g, pos) := if n < 2 then (0, n) else (1, n - 2)
    pos < (fills.filter fun f => f.1 = g && f.2 ≤ u.2).length

/-! ## Transfers (R293, R294, R301, R302) -/

def isTransfer : Instr → Bool
  | .br _ _ _ | .jmp _ | .call _ | .ret | .jtab _ _ => true
  | _ => false
def isIndirect : Instr → Bool
  | .ret | .jtab _ _ => true
  | _ => false

def opensLoop (b : CodeBlock) : Nat := (b.ops.filter fun | .loop _ | .loopi _ | .lpipe _ _ => true | _ => false).length
def breaksLoop (b : CodeBlock) : Bool := b.ops.any fun | .lbrk _ => true | _ => false

/-- One transfer at most, in its place (R294), with its indirect class (R293), and none in a block that opens or closes
a loop or may break one (R297, R316). -/
def transfersOk (b : CodeBlock) : Bool :=
  (b.ops.filter isTransfer).length ≤ 1
    && (b.units.zipIdx.all fun u => u.2 + 2 = b.units.length || !u.1.any isTransfer)
    && (b.ops.any isIndirect == (b.data.ind ≠ 0))
    && (!b.ops.any isTransfer || (opensLoop b = 0 && !b.data.lend && !breaksLoop b))
    && b.ops.all fun | .lpipe _ n => 1 ≤ n.toNat && n.toNat ≤ 8 | _ => true

/-- The offset of the unit each `prep` of a block reaches (R296), from the section's start. -/
def prepTargets (f : Form) (b : CodeBlock) : List Int :=
  b.units.zipIdx.flatMap fun u => u.1.filterMap fun
    | .prep _ off => some ((b.at_ : Int) + (u.2 + off.toInt) * unitBytes f)
    | _ => none

/-- No gated operation after `trap` or `exit` in its block (R310). -/
def endsOk (b : CodeBlock) : Bool :=
  let rest := b.ops.dropWhile fun | .trap _ => false | .exit _ => false | _ => true
  (rest.drop 1).all fun i => !isGated i

/-! ## Loops (R304) -/

/-- The blocks from the exit of a loop on, from its body's first block; none where no block closes it. -/
def loopRest : Nat → List CodeBlock → Option (List CodeBlock)
  | _, [] => none
  | level, b :: bs =>
    if b.data.lend && level = 0 then some bs
    else loopRest (level - (if b.data.lend then 1 else 0) + opensLoop b) bs

/-- The block that closes the level open at a block, from the block on; none where none does. -/
def loopClose : Nat → List CodeBlock → Option CodeBlock
  | _, [] => none
  | level, b :: bs =>
    if b.data.lend && level = 0 then some b
    else loopClose (level - (if b.data.lend then 1 else 0) + opensLoop b) bs

/-- The loop rules over the blocks of a section in address order; the stack holds the labels of the open bodies'
first blocks and of their exits. A loop needs an exit block for its labels to name. Outside every loop opened in the section
stand the blocks of a pipelined loop's prologue and kernel, whose exit is the block their closing seal falls through to
(R308). -/
def loopsOk (entries : List (BitVec 16)) : List (BitVec 16 × BitVec 16) → List CodeBlock → Bool
  | _, [] => true
  | stack, b :: bs =>
    let x : SealData := b.data
    let close := match stack, x.lend with
      | _, false => true
      | (f, e) :: _, true => x.taken = f && x.fall = e
      | [], true => entries.contains x.taken
    let brk := match stack with
      | (_, e) :: _ => x.lend || !breaksLoop b || x.taken = e
      | [] => x.lend || !breaksLoop b || (loopClose (opensLoop b) bs).any fun c => x.taken = c.data.fall
    let stack := if x.lend then stack.tail else stack
    match opensLoop b with
    | 0 => close && brk && loopsOk entries stack bs
    | 1 => match bs, loopRest 0 bs with
      | first :: _, some (exit :: _) =>
        close && brk && x.taken = exit.data.own && loopsOk entries ((first.data.own, exit.data.own) :: stack) bs
      | _, _ => false
    | _ => false

/-! ## A code object -/

/-- Whether the validator accepts a section. -/
def sectionOk (f : Form) (entries : List (BitVec 16)) (ws : List W64) : Bool :=
  match blocksOf f ws with
  | none => false
  | some bs =>
    (bs.all fun b => figuresOk b && transfersOk b && endsOk b && (f = .jexcy || latchesOk b)
      && (prepTargets f b).all fun a => bs.any fun c => (c.at_ : Int) = a) && loopsOk entries [] bs

/-- The declared regions, in granules (R96). -/
def regionGranules (img : ObjImage) : List (Nat × Nat × Tag) := img.regions.map fun r => (r.1, ceilDiv r.2.1 4096, r.2.2)

def regionsOk (img : ObjImage) : Bool :=
  let gs := (regionGranules img).map fun r => r.2.1
  2 * gs.foldl (· + ·) 0 ≤ Config.granules && gs.all (· ≤ 384) && img.regions.all fun r => r.1 < 64

/-- Whether the validator accepts the object, its native section left out where it is not bound. -/
def objectOk (img : ObjImage) (native : Option (List W64)) : Bool :=
  (native.all (sectionOk .native img.entries)) && img.jexcy.all (sectionOk .jexcy img.entries)
    && regionsOk img

end Sys2Proof.Machine
end

