-- ==== Sys2Proof/Machine/Context.lean ====
section
/-! DEFINITION. Contexts and their commands, migration, code objects (R373 to R382). -/

namespace Sys2Proof.Machine

/-! ## Context commands (R373 to R375) -/

def ctxState (s : State) (ctx : Nat) : Nat := ctxField s ctx 367 364
def setCtxState (s : State) (ctx v : Nat) : State := setCtxField s ctx 367 364 v

/-- A well-formed entry: its fields within their limits, its areas in memory (R367, R373). -/
def ctxWellFormed (s : State) (ctx : Nat) : Bool :=
  let spill := ctxField s ctx 511 473
  let tmax := ctxField s ctx 472 464
  let event := ctxField s ctx 443 405
  let esize := ctxField s ctx 404 401
  let bytes := 64 * 2 ^ (esize + 4)
  spill % tileImage = 0 && 1 ≤ tmax && tmax ≤ 384 && !isHole spill && !isHole (spill + tmax * tileImage - 1)
    && event % 64 = 0 && esize ≤ 8 && !isHole event && !isHole (event + bytes - 1)

/-- The result of a command (R375). -/
def ctxDone (s : State) (result : Nat) : State := { s with basin := { s.basin with ctxstat := BitVec.ofNat 64 result } }

def stopCtxPonds (s : State) (ctx : Nat) : State :=
  let mine (p : Pond) : Bool := (mfind s.ops p.op).any (·.ctx = ctx)
  { s with ponds := s.ponds.map fun e => if mine e.2 then (e.1, { e.2 with stopping := true }) else e }

def ctxCreate (s : State) (ctx : Nat) : State :=
  if ctxState s ctx ≠ 0 then ctxDone s 2
  else if !ctxWellFormed s ctx then ctxDone s 1
  else ctxDone (setCtxState s ctx 1) 0

/-- A kill starts; it completes when the writes that have passed their seals have performed. -/
def ctxKill (s : State) (ctx : Nat) : State :=
  if ctxState s ctx = 0 then ctxDone s 2
  else
    let s := frontSettle (killContext s ctx none)
    { s with basin := { s.basin with ctxstat := BitVec.ofNat 64 (2 ^ 63), killing := some ctx } }

/-- Whether a context has a record waiting, ready or started. -/
def ctxBusy (s : State) (ctx : Nat) : Bool :=
  s.recs.any fun e => e.2.ctx = ctx && (e.2.state = .waiting || e.2.state = .ready || e.2.isStarted)

def dropReserved (s : State) (ctx : Nat) : State :=
  ((s.ops.filter fun o => o.2.ctx = ctx && o.2.state = .reserved).map (·.1)).foldl dropOperator s

def ctxDestroy (s : State) (ctx : Nat) : State :=
  if ctxState s ctx = 4 || (ctxState s ctx = 1 && !ctxBusy s ctx) then
    ctxDone (setCtxState (dropReserved (stopCtxPonds s ctx) ctx) ctx 0) 0
  else ctxDone s 2

/-- The held operator of a record. -/
def heldOp (s : State) (ctx : Option Nat) (slot : Nat) (index : W32) : Option (Nat × Operator) :=
  s.ops.find? fun o => o.2.state = .held && o.2.slot = slot && o.2.index = index && ctx.all (o.2.ctx = ·)

/-- A held operator returns to the ready pool (R368, R375). -/
def ctxResume (s : State) (ctx : Option Nat) (slot : Nat) (index : W32) : State :=
  match heldOp s ctx slot index with
  | none => ctxDone s 3
  | some (op, o) => ctxDone (passOver (s.setOp op { o with state := .out, readyAt := s.time.toNat })) 0

/-- A held operator ends with status 3 (R371, R375). -/
def ctxEnd (s : State) (ctx : Option Nat) (slot : Nat) (index : W32) : State :=
  match heldOp s ctx slot index with
  | none => ctxDone s 3
  | some (op, o) => ctxDone (s.setOp op { o with state := .ending 3 }) 0

/-- Whether a started record is the last of its queue that has started, so that no chain successor of it has (R381). -/
def lastStarted (s : State) (r : Rec) : Bool := (s.queue r.slot).started.all (· = r.index)

/-- The operators a migration abandons: one that a trap is to hold too, once it is held. -/
def migrates (s : State) (ctx : Nat) (o : Operator) : Bool :=
  o.ctx = ctx && o.pond.isNone && o.fate.all (· = .held)
    && (match o.state with | .started | .out | .held => true | _ => false)
    && (mfind s.objs (objKey o.pasid o.obj)).any (·.restartable)
    && (mfind s.recs (recKey o.slot o.index)).any (lastStarted s)

/-- A live context drains (R381). -/
def ctxMigrate (s : State) (ctx : Nat) : State :=
  if ctxState s ctx ≠ 1 then ctxDone s 2
  else
    let mark (o : Operator) : Operator :=
      if migrates s ctx o then
        { o with abandoned := true, stopping := o.state = .started, stopAt := if o.stopping then o.stopAt else s.time.toNat } else o
    ctxDone (setCtxState { stopCtxPonds s ctx with ops := s.ops.map fun e => (e.1, mark e.2) } ctx 2) 0

/-- One command; a kill under way holds the others back (R375). -/
def ctxCommand (s : State) (v : W64) : State :=
  let s := { s with basin := { s.basin with ctxcmd := v } }
  let ctx := bits v.toNat 59 48
  let slot := bits v.toNat 44 32
  let index : W32 := v.setWidth 32
  if s.basin.killing.isSome then { s with basin := { s.basin with ctxq := s.basin.ctxq ++ [v] } }
  else
    let s := s.noteHole (ctxAddr s ctx)
    match bits v.toNat 63 60 with
    | 1 => ctxCreate s ctx
    | 2 => ctxKill s ctx
    | 3 => ctxDestroy s ctx
    | 4 => ctxResume s (some ctx) slot index
    | 5 => ctxEnd s (some ctx) slot index
    | 6 => ctxMigrate s ctx
    | _ => s

def ctxWord (op ctx slot : Nat) (index : W32) : W64 :=
  BitVec.ofNat 64 (op * 2 ^ 60 + ctx % 4096 * 2 ^ 48 + slot % 8192 * 2 ^ 32 + index.toNat)

/-- The context of a held operator, for the word of a command that names it. -/
def heldCtx (s : State) (slot : Nat) (index : W32) : Nat := ((heldOp s none slot index).map (·.2.ctx)).getD 0

def execCtxCreate (ctx : Nat) (s : State) : Host.Outcome State Fault Refusal := runEvent (ctxCommand s (ctxWord 1 ctx 0 0))
def execCtxKill (ctx : Nat) (s : State) : Host.Outcome State Fault Refusal := runEvent (ctxCommand s (ctxWord 2 ctx 0 0))
def execCtxDestroy (ctx : Nat) (s : State) : Host.Outcome State Fault Refusal := runEvent (ctxCommand s (ctxWord 3 ctx 0 0))
def execCtxResumeOperator (slot : Nat) (index : W32) (s : State) : Host.Outcome State Fault Refusal :=
  runEvent (ctxCommand s (ctxWord 4 (heldCtx s slot index) slot index))
def execCtxEndOperator (slot : Nat) (index : W32) (s : State) : Host.Outcome State Fault Refusal :=
  runEvent (ctxCommand s (ctxWord 5 (heldCtx s slot index) slot index))
def execCtxMigrate (ctx : Nat) (s : State) : Host.Outcome State Fault Refusal := runEvent (ctxCommand s (ctxWord 6 ctx 0 0))

/-- The commands written during a kill act in order (R375). -/
def runCommands : Nat → State → State
  | 0, s => s
  | n + 1, s =>
    match s.basin.ctxq with
    | [] => s
    | v :: vs =>
      if s.basin.killing.isSome then s
      else runCommands n (ctxCommand { s with basin := { s.basin with ctxq := vs } } v)

/-- Whether nothing of a killed context is left: its operators are gone, with their writes performed, its records
ended, its runs discarded. -/
def killOver (s : State) (ctx : Nat) : Bool :=
  !(s.ops.any fun o => o.2.ctx = ctx) && !(s.recs.any fun r => r.2.ctx = ctx && !r.2.isEnded)
    && !(s.ponds.any fun p => (mfind s.ops p.2.op).any (·.ctx = ctx))

/-- A kill completes (R374): a step of the device. -/
def execKillComplete (s : State) : Host.Outcome State Fault Refusal :=
  match s.basin.killing with
  | none => .next s
  | some ctx =>
    let s := frontSettle s
    if !killOver s ctx then .next s
    else
      let s := ctxDone { s with basin := { s.basin with killing := none } } 0
      runEvent (runCommands s.basin.ctxq.length s)

/-! ## Migration (R381) -/

/-- An abandoned operator that stands at a pre-emption point, and whose writes have performed: they stand (R381). One
whose sequencers have all exited meets no such point any more: it completes. -/
def mayAbandon (s : State) (e : Nat × Operator) : Bool :=
  e.2.abandoned && e.2.fate.isNone && writesDone s e.1 && (s.threadsOf e.1).any (·.2.run ≠ .exited) && match e.2.state with
    | .started => allStopped s e.1
    | .out | .held => true
    | _ => false

/-- Its state is dropped and its record is as if it had not been read. -/
def abandonOp (s : State) (e : Nat × Operator) : State :=
  let s := dropOperator s e.1
  match mfind s.recs (recKey e.2.slot e.2.index) with
  | some r => setRec s { r with state := .ready }
  | none => s

/-- The lowest index of a queue that has not retired (R381). -/
def lowestOpen (s : State) (slot : Nat) (q : Queue) : W32 :=
  let opens := (s.recs.map (·.2)).filter fun r => r.slot = slot && !r.isEnded
  opens.foldl (fun (n : W32) r => if (q.ridx - n).toNat < (q.ridx - r.index).toNat then r.index else n) q.ridx

/-- The read index of a queue goes back to its lowest open record, whose records are read again. -/
def rewindQueue (s : State) (e : Nat × Queue) : State :=
  let n := lowestOpen s e.1 e.2
  let s := { s with recs := s.recs.filter fun r => r.2.slot ≠ e.1 || r.2.isEnded }
  match basinWrite s e.2.pasid (e.2.uva + 24) (leBytes 4 n.toNat) with
  | some s => putQueue s e.1 { e.2 with ridx := n }
  | none => putQueue s e.1 { e.2 with ridx := n, err := if e.2.err = 0 then 1 else e.2.err }

/-- A draining context with nothing started, and no record rolled back that has to complete, is checkpointed (R381): a step
of the device. -/
def execMigrationCheckpoint (ctx : Nat) (s : State) : Host.Outcome State Fault Refusal :=
  if ctxState s ctx ≠ 2 then .next s
  else
    let s := (s.ops.filter fun e => e.2.ctx = ctx && mayAbandon s e).foldl abandonOp s
    if (s.recs.any fun e => e.2.ctx = ctx && (e.2.isStarted || mustComplete s e.2 || (match e.2.state with | .ending _ => true | _ => false)))
        || (s.ponds.any fun p => (mfind s.ops p.2.op).any (·.ctx = ctx)) then runEvent s
    else
      let s := (s.queues.filter fun q => q.2.valid && q.2.ctx = ctx).foldl rewindQueue (dropReserved s ctx)
      runEvent (setCtxState s ctx 3)

/-! ## Code objects (R377, R378) -/

/-- The status word of a loader request. -/
def loaderWord (code count : Nat) : W32 := BitVec.ofNat 32 (code * 2 ^ 24 + min count 0xFFFFFF)
def loaderSays (s : State) (code count : Nat) : State := { s with loaderOut := loaderWord code count :: s.loaderOut }

/-- Whether a sequencer holds a code address in an object. -/
def holdsCode (o : CodeObj) (t : Thread) : Bool :=
  t.run ≠ .exited && (t.pc :: heldAddrs t.regs).any fun a => inSection o .jexcy a.toNat || inSection o .native a.toNat

/-- The reference count of an object (R377). -/
def refCount (s : State) (o : CodeObj) : Nat :=
  let live (k : Nat) : Bool := (mfind s.ops k).any fun p => p.pasid = o.pasid && p.pond.isNone && ctxState s p.ctx ≠ 4
  (s.threads.filter fun e => live e.2.op && holdsCode o e.2).length
    + (s.recs.filter fun e => e.2.pasid = o.pasid && e.2.objNo = o.number && (e.2.state = .waiting || e.2.state = .ready)).length

/-- Removes an object: its pins go, its number is free, runs of it stop. -/
def removeObject (s : State) (o : CodeObj) : State :=
  let s := o.pages.foldl (fun s f => setFramePins s (framePa f) (framePins s (framePa f) - 1)) s
  let mine (p : Pond) : Bool := (mfind s.ops p.op).any fun x => x.pasid = o.pasid && x.obj = o.number
  { s with
    objs := mdel s.objs (objKey o.pasid o.number)
    ponds := s.ponds.map fun e => if mine e.2 then (e.1, { e.2 with stopping := true }) else e }

/-- The bytes of a section. -/
def wordBytes (ws : List W64) : List Byte := ws.flatMap fun w => leBytes 8 w.toNat

/-- The frames of the pages an area takes, where each is mapped with the permissions the loader needs (log entry
15) and is not leaving, since no frame is both pinned and leaving (R88). -/
def areaFrames (s : State) (pasid va len : Nat) (writable : Bool) : Option (List Nat) :=
  (List.range (ceilDiv len 65536)).mapM fun i =>
    match walk s pasid (va + 65536 * i) with
    | .leaf _ large e =>
      if bit e 2 && (bit e 3 == writable) && !frameLeaving s (leafPa large e (va + 65536 * i)) large then some (frameIndex (leafPa large e (va + 65536 * i))) else none
    | _ => none

/-- The loader writes bytes of a PASID through the leaf, whatever its permissions. -/
def loaderPut (s : State) (pasid va : Nat) (data : List Byte) : State :=
  (pieces data.length va data.length).foldl (fun s q =>
    match walk s pasid q.1 with
    | .leaf _ large e => basinPut s (leafPa large e q.1) ((data.drop (q.1 - va)).take q.2) (bits e 7 6 = 0)
    | _ => s) s

/-- The native and Jexcy first units of the blocks that an object brings in both forms. -/
def pairedBlocks (jexBase natBase : Nat) (jex nat : List CodeBlock) : List (Nat × Nat) :=
  jex.filterMap fun b => (nat.find? fun c => c.data.own = b.data.own).map fun c => (jexBase + b.at_, natBase + c.at_)

/-- The units after the seals of those pairs of blocks. -/
def pairedFalls (jexBase natBase : Nat) (jex nat : List CodeBlock) : List (Nat × Nat) :=
  jex.filterMap fun b => (nat.find? fun c => c.data.own = b.data.own).map fun c =>
    (jexBase + b.at_ + 8 * b.units.length + 32, natBase + c.at_ + 32 * c.units.length + 32)

/-- The object an image makes under a number. -/
def objectOf (img : ObjImage) (number : Nat) (native : Option (List W64)) : CodeObj :=
  let base := Config.objectBase + number * Config.objectSpan
  let jex := (img.jexcy.getD [])
  let nat := (native.getD [])
  { pasid := img.pasid, number := number, jexBase := base, jexLen := 8 * jex.length
    natBase := base + Config.areaSpan, natLen := 8 * nat.length
    constBase := base + 2 * Config.areaSpan, constLen := img.consts.length
    dataBase := base + 3 * Config.areaSpan, dataLen := img.data.length
    entries := img.entries, regions := regionGranules img, restartable := img.restartable, nopredict := img.nopredict
    translated := pairedBlocks base (base + Config.areaSpan) ((blocksOf .jexcy jex).getD []) ((blocksOf .native nat).getD [])
    falls := pairedFalls base (base + Config.areaSpan) ((blocksOf .jexcy jex).getD []) ((blocksOf .native nat).getD []) }

/-- An area's bytes with the base VA of an area added to the base field of the records that name a label (R61, R109). -/
def relocated (o : CodeObj) (bases : List (Bool × Nat × Bool)) (inData : Bool) (bs : List Byte) : List Byte :=
  (bases.filter fun b => b.1 == inData).foldl (fun bs b =>
    let e := leOf ((bs.drop b.2.1).take 8)
    let va := bits e 56 0 + if b.2.2 then o.dataBase else o.constBase
    bs.take b.2.1 ++ (leBytes 8 (setBits e 56 0 va)).take (bs.length - b.2.1) ++ bs.drop (b.2.1 + 8)) bs

/-- The frames of every area of an object. -/
def objectFrames (s : State) (o : CodeObj) : Option (List Nat) := do
  let a ← areaFrames s o.pasid o.jexBase o.jexLen false
  let b ← areaFrames s o.pasid o.natBase o.natLen false
  let c ← areaFrames s o.pasid o.constBase o.constLen false
  let d ← areaFrames s o.pasid o.dataBase o.dataLen true
  return a ++ b ++ c ++ d

def pinAll (s : State) (fs : List Nat) : State := fs.foldl (fun s f => setFramePins s (framePa f) (framePins s (framePa f) + 1)) s

/-- A request of the loader: a load under a number the service picks (R47, R48, R96, R377). -/
def execCodeObjectLoad (img : ObjImage) (number : Nat) (s : State) : Host.Outcome State Fault Refusal :=
  let native := if img.stepping = Config.stepping then img.native else none
  if (s.objs.filter fun e => e.2.pasid = img.pasid).length = 65535 then runEvent (loaderSays s 4 0)
  else if number = 0 || 65535 < number || 2 ^ 20 ≤ img.pasid || (mfind s.objs (objKey img.pasid number)).isSome then .next s
  else if native.isNone && img.jexcy.isNone then runEvent (loaderSays s (if img.native.isSome then 2 else 3) 0)
  else if !objectOk img native then runEvent (loaderSays s 3 0)
  else
    let o := objectOf img number native
    match objectFrames s o with
    | none => runEvent (loaderSays s 4 0)
    | some fs =>
      if (fs.any fun f => framePins s (framePa f) = 65535) || [o.jexLen, o.natLen, o.constLen, o.dataLen].any (Config.areaSpan < ·)
      then runEvent (loaderSays s 4 0)
      else
        let s := pinAll s fs
        let s := loaderPut s o.pasid o.jexBase (wordBytes (img.jexcy.getD []))
        let s := loaderPut s o.pasid o.natBase (wordBytes (native.getD []))
        let s := loaderPut s o.pasid o.constBase (relocated o img.bases false img.consts)
        let s := loaderPut s o.pasid o.dataBase (relocated o img.bases true img.data)
        runEvent (loaderSays { s with objs := mput s.objs (objKey o.pasid number) { o with pages := fs } } 0 0)

/-- A request of the loader: an unload (R378). -/
def execCodeObjectUnload (pasid number : Nat) (s : State) : Host.Outcome State Fault Refusal :=
  match mfind s.objs (objKey pasid number) with
  | none => runEvent (loaderSays s 5 0)
  | some o =>
    if refCount s o = 0 && !o.pending then runEvent (loaderSays (removeObject s o) 0 0)
    else runEvent (loaderSays { s with objs := mput s.objs (objKey pasid number) { o with pending := true } } 1 (refCount s o))

/-- A request of the loader: a query (R377, R378). -/
def execCodeObjectQuery (pasid number : Nat) (s : State) : Host.Outcome State Fault Refusal :=
  match mfind s.objs (objKey pasid number) with
  | none => runEvent (loaderSays s 5 0)
  | some o => runEvent (loaderSays s (if o.pending then 1 else 0) (refCount s o))

/-- A pending object whose count has reached 0 is removed (R378): a step of the device. -/
def execCodeObjectRemoval (pasid number : Nat) (s : State) : Host.Outcome State Fault Refusal :=
  match mfind s.objs (objKey pasid number) with
  | none => .next s
  | some o => if o.pending && refCount s o = 0 then runEvent (loaderSays (removeObject s o) 0 0) else .next s

/-! ## Translation (R46, R379) -/

/-- Bytes a plain access of a block touches, as its word names them: the base operand, the offset and the length. -/
abbrev AccessRange := Nat × Int × Nat

/-- The order of a block's accesses (R291): an operation that no access crosses, named by its whole word, or accesses of
one class that stand together: of a load 0, of a store its colour and 1. -/
inductive OrderItem where
  | whole (w : Nat)
  | run (cls : Nat) (ranges : List AccessRange)
  deriving DecidableEq, Repr

/-- Whether no access crosses an operation: a `mark`, a `fence`, an `rflush` or a gated one (R52, R291). -/
def isOrdered (i : Instr) : Bool :=
  let k := (keyOf i).1
  k = 0x230 || k = 0x231 || k = 0x23E || isGated i

/-- The loads and stores of an operation word: base and offset, or for gathers and scatters the whole word. -/
def wordAccess (i : Instr) : List OrderItem :=
  match encFields i with
  | some (.I f) =>
    let off := sgn 24 (f.imm % 2 ^ 24)
    let load (n : Nat) : List OrderItem := [.run 0 [(f.a, off, n)]]
    let store (n : Nat) : List OrderItem := [.run (f.col + 1) [(f.a, off, n)]]
    match f.key with
    | 0x200 | 0x201 => load 1
    | 0x202 | 0x203 => load 2
    | 0x204 => load 4
    | 0x205 => load 8
    | 0x210 => load 1024
    | 0x218 => load 32
    | 0x208 => store 1
    | 0x209 => store 2
    | 0x20A => store 4
    | 0x20B => store 8
    | 0x212 => store 1024
    | 0x219 => store 32
    | _ => []
  | some (.T f) =>
    let all : AccessRange := (2 ^ 16 + f.word, 0, 1)
    if f.key = 0x211 then [.run 0 [all]] else if f.key = 0x213 then [.run (f.mod % 8 + 1) [all]] else []
  | _ => []

/-- What an operation adds to the order of its block's accesses: its pops (R180), what it loads or stores, and its write
through a port, a store of colour 0. -/
def orderOf (i : Instr) : List OrderItem :=
  if isOrdered i then [.whole (((encFields i).map (·.word)).getD 0)]
  else
    let pops : List OrderItem := (vSrcs i).filterMap fun | .port w => some (.run 0 [(2 ^ 12 + w.val, 0, 1)]) | _ => none
    let puts : List OrderItem := (vDsts i).filterMap fun
      | .port w => some (.run 1 [(2 ^ 12 + 8 + w.val, 0, 1)])
      | .reg _ => none
    pops ++ wordAccess i ++ puts

def rangeBefore (a b : AccessRange) : Bool :=
  a.1 < b.1 || (a.1 = b.1 && (a.2.1 < b.2.1 || (a.2.1 = b.2.1 && a.2.2 ≤ b.2.2)))
def insertRange (a : AccessRange) (l : List AccessRange) : List AccessRange :=
  l.takeWhile (fun b => !rangeBefore a b) ++ a :: l.dropWhile fun b => !rangeBefore a b

/-- Ranges that follow one another are one (R291: accesses may be merged and split). -/
def joinRanges (l : List AccessRange) : List AccessRange :=
  l.foldr (fun a acc => match acc with
    | b :: r => if a.1 = b.1 && a.2.1 + a.2.2 = b.2.1 then (a.1, a.2.1, a.2.2 + b.2.2) :: r else a :: acc
    | [] => [a]) []

/-- Puts an item before others: accesses of one class that stand together have no order among themselves. -/
def pushOrder (a : OrderItem) (l : List OrderItem) : List OrderItem :=
  match a, l with
  | .run c as, .run d bs :: r => if c = d then .run c (as.foldr insertRange bs) :: r else a :: l
  | _, _ => a :: l

/-- The order of the accesses of operations: which accesses stand on each side of every operation that none crosses and
of accesses of another class (R291, log entry 21). -/
def accessOrder (is : List Instr) : List OrderItem :=
  ((is.flatMap orderOf).foldr pushOrder []).map fun
    | .run c as => .run c (joinRanges as)
    | .whole w => .whole w

/-- Whether bundles at `at_` are one native block that stands for a Jexcy block of the object: its targets are the same
blocks, and the order of its accesses is one that R291 allows. -/
def standsFor (o : CodeObj) (at_ : Nat) (b : CodeBlock) (ws : List W64) : Bool :=
  let targets := (prepTargets .jexcy b).map fun a => BitVec.ofInt 64 (o.jexBase + a)
  match blocksOf .native ws with
  | some [c] =>
    figuresOk c && transfersOk c && endsOk c && latchesOk c
      && ((prepTargets .native c).all fun a =>
        (counterpart o .native (BitVec.ofInt 64 (at_ + a))).any (targets.contains ·)) && c.data.own = b.data.own && c.data.taken = b.data.taken
      && c.data.fall = b.data.fall && c.data.ind = b.data.ind && c.data.sig = b.data.sig && c.data.shape = b.data.shape
      && c.data.lend = b.data.lend && accessOrder c.ops = accessOrder b.ops
  | _ => false

/-- The words of a code section in memory. -/
def sectionWords (s : State) (pasid base len : Nat) : List W64 :=
  (List.range (len / 8)).map fun i => (peekWord s pasid (base + 8 * i)).getD 0

/-- Writes a bundle index in the native half of the entries of one jump table that name a word index (R301). -/
def patchTable (o : CodeObj) (u bundle : Nat) (s : State) (off : Nat) : State :=
  let n := bits ((peekWord s o.pasid (o.constBase + off)).getD 0).toNat 15 0
  (List.range (n + 1)).foldl (fun s i =>
    let a := o.constBase + off + 8 + 8 * i
    let e := ((peekWord s o.pasid a).getD 0).toNat
    if bits e 31 0 = u then loaderPut s o.pasid a (leBytes 8 (setBits e 63 32 bundle)) else s) s

/-- The jump tables an object's code names. -/
def tablesOf (bs : List CodeBlock) : List Nat :=
  (bs.flatMap fun b => b.ops.filterMap fun | .jtab _ off => some off.toNat | _ => none).eraseDups

/-- The background translator marks a block translated (R46, R379): a step of the rider cores. The unit after each
block it writes stays free, so that its address names where the block falls through (log entry 21). -/
def execBlockTranslation (pasid number : Nat) (label : BitVec 16) (bundles : List W64) (s : State) :
    Host.Outcome State Fault Refusal :=
  match mfind s.objs (objKey pasid number) with
  | none => .next s
  | some o =>
    let bs := (blocksOf .jexcy (sectionWords s pasid o.jexBase o.jexLen)).getD []
    match bs.find? fun b => b.data.own = label with
    | none => .next s
    | some b =>
      let at_ := o.natBase + o.natLen
      let o' := { o with
        natLen := o.natLen + 8 * bundles.length + 32, translated := (o.jexBase + b.at_, at_) :: o.translated
        falls := (o.jexBase + b.at_ + 8 * b.units.length + 32, at_ + 8 * bundles.length) :: o.falls }
      if (o.translated.any fun p => p.1 = o.jexBase + b.at_) || !standsFor o' at_ b bundles then .next s
      else match areaFrames s pasid o.natBase o.natLen false, areaFrames s pasid o'.natBase o'.natLen false with
        | some old, some fs =>
          let new := fs.drop old.length
          let s := loaderPut (pinAll s new) pasid at_ (wordBytes bundles)
          let s := (tablesOf bs).foldl (patchTable o (b.at_ / 8) (o.natLen / 32)) s
          runEvent { s with objs := mput s.objs (objKey pasid number) { o' with pages := o.pages ++ new } }
        | _, _ => .next s

end Sys2Proof.Machine
end

