-- ==== Sys2Proof/Machine/Device.lean ====
section
/-! DEFINITION. Tile retirement, TLB and directory invalidation, the clock sweeper and eviction, channel sparing
(R65, R71, R84 to R88, R328, R329, R335, R395, R396). -/

namespace Sys2Proof.Machine

/-! ## The service log (R396) -/

/-- Appends a record to the service log, a ring of 4,096 records. -/
def logEvent (s : State) (kind place unit : Nat) (detail : W64) : State :=
  let r : LogRec := { kind := kind, place := place, unit := unit, time := s.time, detail := detail }
  { s with svc := { s.svc with log := (s.svc.log ++ [r]).drop (s.svc.log.length + 1 - 4096), logged := s.svc.logged + 1 } }

/-- The detail of a record whose content the spec leaves open (log entry 11). -/
def logOpen (s : State) (kind place unit : Nat) : State :=
  logEvent { s with freshTick := s.freshTick + 1 } kind place unit (Config.freeWord s.freshTick)

/-! ## Retirement (R328, R329) -/

def setSpeed (s : State) (tile : Nat) (v : Nat) : State := { s with speedt := mput s.speedt tile (BitVec.ofNat 8 v) }

/-- The pond runs with a sequencer on a tile, and the operators that have not all exited there and that no trap is ending
already. -/
def opsOn (s : State) (tile : Nat) : List (Nat × Operator) :=
  s.ops.filter fun o => o.2.state = .started && o.2.tiles.any (fun e => e.2 = tile)
    && (o.2.pond.isSome || (o.2.fate.all (· = .held) && !(s.threadsOf o.1).all fun t => t.2.run = .exited))

/-- What a retirement does to one operator: a run is discarded, a restartable operator rolls back to its launch, any
other ends with the seal-mismatch trap, of status 2 or, at fault itself, 3; the record names the failing seal (R372). A
rolled-back one remembers every block of its whose count has reached 3, on whichever tile (R329). -/
def retireOp (tile : Nat) (culprits : List Culprit) (spare : Bool) (s : State) (e : Nat × Operator) : State :=
  let (op, o) := e
  let mine := culprits.filter fun c => keyOp c.thread = op
  let atFault := (s.tiles.flatMap fun e => e.2.culprits).filter fun c => keyOp c.thread = op
  match o.pond with
  | some i => { s with ponds := s.ponds.map fun p => if p.1 = i.val then (p.1, { p.2 with stopping := true }) else p }
  | none =>
    let restart := (mfind s.objs (objKey o.pasid o.obj)).any (·.restartable)
    if restart && (spare || mine = []) then
      let s := dropOperator s op
      match mfind s.recs (recKey o.slot o.index) with
      | some r => setRec s { r with state := .ready, rolled := atFault.map (·.block) ++ o.rolled }
      | none => s
    else
      let s := s.setOp op { o with trapStatus := if mine ≠ [] && !spare then 3 else 2 }
      let pick := mine.findSome? fun c => (mfind s.threads c.thread).map fun t => (c.thread, t, some (c.at_, c.own))
      let ts := (s.threadsOf op).filter fun t => t.2.tile = tile && t.2.run ≠ .exited
      match pick <|> ((ts.head? <|> (s.threadsOf op).head?).map fun e => (e.1, e.2, none)) with
      | some (k, t, place) => raiseTrapFor s k t .sealMismatch 0 place
      | none => s

/-- A pending launch on a retired tile lapses; its successor goes through the ready pool (log entry 16). -/
def dropReservedOn (s : State) (tile : Nat) : State :=
  ((s.ops.filter fun o => o.2.state = .reserved && o.2.tiles.any (fun e => e.2 = tile)).map (·.1)).foldl dropOperator s

/-- A tile is retired once its sequencers have stopped, their gated operations have all issued and what their seals released
has taken effect (R328): a step of the device. It waits for gated operations that wait (DEDUCED, log entry 75). -/
def execTileRetirement (tile : Nat) (s : State) : Host.Outcome State Fault Refusal :=
  let tl := s.tile tile
  let there := (s.threads.filter fun e => e.2.tile = tile && holdsSeqs s e.2.op).map (·.2)
  if !tl.retiring || tl.gone || !there.all (·.idle) || there.any (released s)
      || !((opsOn s tile).all fun o => o.2.pond.isSome || effectsDone s o.1) then .next s
  else
    let spare := spareOf s tile
    let s := (opsOn s tile).foldl (retireOp tile tl.culprits spare.isSome) (dropReservedOn s tile)
    let s := s.setTile tile { s.tile tile with gone := true, culprits := [] }
    let s := setSpeed s tile ((speedEntry s tile).toNat % 64 + 128)
    let s := match spare with
      | some t => if t = tile then s else setSpeed s t ((speedEntry s t).toNat % 64)
      | none => s
    runEvent (frontSettle (logOpen s 1 (terraceOf tile) tile))

/-- The rider cores test a retired tile (R328): one that passes becomes its column's spare. -/
def execRetiredTileTest (tile : Nat) (passes : Bool) (s : State) : Host.Outcome State Fault Refusal :=
  if !(s.tile tile).gone || s.threads.any (fun e => e.2.tile = tile && holdsSeqs s e.2.op) then .next s
  else if !passes then .next s
  else
    let s := setSpeed s tile ((speedEntry s tile).toNat % 64 + 64)
    let s := s.setTile tile { s.tile tile with gone := false, retiring := false }
    runEvent (logOpen s 2 (terraceOf tile) tile)

/-! ## TLB invalidation (R71, R72) -/

/-- Whether a thread has an access before a place in program order, translated and not yet performed. -/
def oldAccess (s : State) (k ord : Nat) : Bool :=
  let glob (l : Loc) : Bool := match l with
    | .glob _ _ => true
    | .scr _ _ => false
  match mfind s.threads k with
  | none => false
  | some t =>
    (queued t).any (fun
      | .st x => x.ord < ord && glob x.loc
      | .atom x => x.ord < ord && glob x.loc
      | .flush _ o _ _ _ => o < ord)
      || t.waiting.any (fun a => a.ord < ord && glob a.loc)
      || t.blk.stores.any (fun
        | .st x => x.ord < ord && glob x.loc
        | .atom x => x.ord < ord && glob x.loc)
      || t.blk.pend.any (fun | .rflush _ o _ => o < ord | _ => false)
      || t.regs.slots.toList.any (fun x => x.state = .pending && x.ord < ord && x.pieces.any fun p => glob p.loc)
      || s.tiles.any fun e => e.2.uol.any fun u => u.2.from_.any fun f => f.1 = k && f.2 < ord

/-- A write of WKINV (R71, R401): old entries leave every TLB, and the accesses made through them are awaited. -/
def startInvalidation (s : State) (v : W64) : State :=
  let size := bits v.toNat 1 0
  let pasid := bits v.toNat 51 32
  let kept := BitVec.ofNat 64 (size + pasid * 2 ^ 32)
  if size = 3 then { s with basin := { s.basin with wkinv := BitVec.ofNat 64 (kept.toNat + bits s.basin.wkinv.toNat 63 63 * 2 ^ 63) } }
  else
    let page := s.basin.wkinva.toNat
    let hit (x : TlbEntry) : Bool := x.pasid = pasid && match size with
      | 0 => !x.large && x.page = page
      | 1 => x.large && x.page / 32 = page / 32
      | _ => true
    let mine := s.threads.filter fun e => e.2.launch.pasid.toNat = pasid
    { s with
      tiles := s.tiles.map fun e => (e.1, { e.2 with tlb := e.2.tlb.filter fun x => !hit x })
      basin := { s.basin with
        wkinv := BitVec.ofNat 64 (kept.toNat + 2 ^ 63)
        wkwait := s.basin.wkwait ++ mine.map fun e => (e.1, e.2.ord) } }

def execWkinv (v : W64) (s : State) : Host.Outcome State Fault Refusal := runEvent (startInvalidation s v)

/-- An invalidation completes (R71): a step of the device. -/
def execTlbInvalidationComplete (s : State) : Host.Outcome State Fault Refusal :=
  if !bit s.basin.wkinv.toNat 63 || s.basin.wkwait.any (fun w => oldAccess s w.1 w.2) then .next s
  else runEvent { s with basin := { s.basin with
    wkinv := BitVec.ofNat 64 (s.basin.wkinv.toNat % 2 ^ 63), wkwait := [] } }

/-! ## Directory invalidation (R335) -/

def startDirectory (s : State) (v : W64) : State :=
  let slot := v.toNat % 8192
  { s with basin := { s.basin with qdinv := BitVec.ofNat 64 (slot + 2 ^ 63), qdwait := s.basin.qdwait ++ [slot] } }
def execQdinv (v : W64) (s : State) : Host.Outcome State Fault Refusal := runEvent (startDirectory s v)

/-- The wait words a stopped queue could not read are read again, whatever the merge of the rewritten entry finds (R337). -/
def retestWaits (s : State) (slot : Nat) : State :=
  ((s.recs.map (·.2)).filter fun r => r.slot = slot && r.state = .waiting && !r.waitMet).foldl testWait s

/-- No cached copy of the old entries remains (R335, R338): a step of the front end. -/
def execDirectoryInvalidationComplete (s : State) : Host.Outcome State Fault Refusal :=
  if s.basin.qdwait = [] then .next s
  else
    let s := s.basin.qdwait.foldl (fun s slot => retestWaits (installQueue s slot) slot) s
    runEvent (frontSettle { s with basin := { s.basin with
      qdinv := BitVec.ofNat 64 (s.basin.qdinv.toNat % 2 ^ 63), qdwait := [] } })

/-! ## The clock sweeper (R84 to R86) -/

/-- Frames of a stack. -/
def stackFrames : Nat := Config.stackBytes / 2 ^ 16

def framePaOf (stack : Fin 8) (f : Nat) : Nat := stack.val * 2 ^ 36 + f * 2 ^ 16
/-- A frame-table entry, by stack and frame. -/
def frameAt (s : State) (stack : Fin 8) (f : Nat) : Nat := homeRead s (frameEntry s (framePaOf stack f)) 16
def setFrameAt (s : State) (stack : Fin 8) (f v : Nat) : State :=
  let a := frameEntry s (framePaOf stack f)
  homeWrite (s.noteHole a) a 16 v

/-- The first frame of a 2 MiB page, where the frame belongs to one. -/
def frameHead (s : State) (stack : Fin 8) (f : Nat) : Nat := if bit (frameAt s stack (f / 32 * 32)) 3 then f / 32 * 32 else f

/-- A pin on any of the 32 frames of a 2 MiB page counts as a pin on all of them. -/
def framePinned (s : State) (stack : Fin 8) (f : Nat) : Bool :=
  let g := frameHead s stack f
  let n := if bit (frameAt s stack g) 3 then 32 else 1
  (List.range n).any fun i => bits (frameAt s stack (g + i)) 31 16 ≠ 0

def queueLen (k : Stack) : Nat := (k.swqtail.toNat % 4096 + 4096 - k.swqhead.toNat % 4096) % 4096
def State.setStack (s : State) (i : Fin 8) (k : Stack) : State := { s with sweepers := s.sweepers.set i k }

/-- Clears the accessed bit of a frame and of its leaf, and the TLB entries that map the frame. -/
def clearAccessed (s : State) (stack : Fin 8) (f : Nat) : State :=
  let e := frameAt s stack f
  let s := setFrameAt s stack f (setBits e 2 2 0)
  let s := match walk s (bits e 51 32) (bits e 127 71) with
    | .leaf pte _ l => homeWrite s pte 8 (setBits l 4 4 0)
    | _ => s
  { s with tiles := s.tiles.map fun t => (t.1, { t.2 with tlb := t.2.tlb.filter fun x => x.frame ≠ framePaOf stack f }) }

/-- Appends a frame to the stack's cold queue. -/
def coldAppend (s : State) (stack : Fin 8) (f : Nat) : State :=
  let k := s.sweepers[stack]
  let a := bits k.swqbase.toNat 38 14 * 2 ^ 14 + 4 * (k.swqtail.toNat % 4096)
  let s := setFrameAt s stack f (setBits (frameAt s stack f) 4 4 1)
  let s := homeWrite (s.noteHole a) a 4 f
  s.setStack stack { k with swqtail := BitVec.ofNat 64 ((k.swqtail.toNat + 1) % 4096) }

/-- The rule of a visit. -/
def visitFrame (s : State) (stack : Fin 8) (f : Nat) : State :=
  let e := frameAt s stack f
  if frameHead s stack f ≠ f || !bit e 1 || framePinned s stack f || bit e 4 || bit e 5 then s
  else if bit e 2 then clearAccessed s stack f
  else coldAppend s stack f

/-- Whether the sweeper sweeps now: from below `low` until `high` (R86). -/
def sweepsNow (k : Stack) : Bool :=
  let high := bits k.swctl.toNat 47 36
  let low := bits k.swctl.toNat 35 24
  bit k.swctl.toNat 0 && low ≤ high && queueLen k < high && (k.sweeping || queueLen k < low)

/-- The sweeper visits the frame at its hand (R86): a step of the device. The visit that brings the queue to `high` ends
the sweep. -/
def execSweeperVisit (stack : Fin 8) (s : State) : Host.Outcome State Fault Refusal :=
  let k := s.sweepers[stack]
  if !sweepsNow k then .next (s.setStack stack { k with sweeping := false })
  else
    let f := bits k.swctl.toNat 23 1 % stackFrames
    let s := visitFrame s stack f
    let k := s.sweepers[stack]
    runEvent (s.setStack stack { k with
      sweeping := queueLen k < bits k.swctl.toNat 47 36, swctl := BitVec.ofNat 64 (setBits k.swctl.toNat 23 1 ((f + 1) % stackFrames)) })

/-- A write of SWLEAVE (R87): the result is decided from the frame-table entry alone. Which bits hold the frame number the
spec leaves open: bits 61:0 name it, a number that is no frame of the stack gives 3, and bits 31:0 read back, bits 61:32
as 0 (DESIGN CHOICE, log entry 64). -/
def leaveFrame (s : State) (stack : Fin 8) (v : W64) : State :=
  let n := v.toNat % 2 ^ 62
  let done (s : State) (r : Nat) : State :=
    let k := s.sweepers[stack]
    s.setStack stack { k with swleave := BitVec.ofNat 64 (r * 2 ^ 62 + n % 2 ^ 32) }
  if stackFrames ≤ n then done s 3
  else
    let f := frameHead s stack n
    let e := setBits (frameAt s stack f) 4 4 0
    let r := if !bit e 1 || bit e 5 then 3 else if framePinned s stack f then 1 else if bit e 2 then 2 else 0
    done (setFrameAt s stack f (if r = 0 then setBits e 5 5 1 else e)) r
def execSwleave (stack : Fin 8) (v : W64) (s : State) : Host.Outcome State Fault Refusal := runEvent (leaveFrame s stack v)

/-- A write of SWFREE (R87): it clears in use and leaving. Which bits hold the frame number the spec leaves open: the whole
register names it and reads back, and a number that is no frame of the stack does nothing (DESIGN CHOICE, log entry 64). Of a
frame inside a 2 MiB page its own entry alone is cleared (DESIGN CHOICE, log entry 26). -/
def freeFrame (s : State) (stack : Fin 8) (v : W64) : State :=
  let n := v.toNat
  let k := s.sweepers[stack]
  let s := s.setStack stack { k with swfree := v }
  if stackFrames ≤ n then s else setFrameAt s stack n (setBits (setBits (frameAt s stack n) 1 1 0) 5 5 0)
def execSwfree (stack : Fin 8) (v : W64) (s : State) : Host.Outcome State Fault Refusal := runEvent (freeFrame s stack v)

/-! ## Channel sparing (R65, R395) -/

/-- The rider cores copy a wearing channel to a spare behind a copy pointer: the copy begins, and its pointer reaches
the end. -/
def execChannelSparing (stack : Fin 8) (channel : Fin 64) (s : State) : Host.Outcome State Fault Refusal :=
  let k := s.sweepers[stack]
  match k.copying with
  | none =>
    if 4 ≤ k.spared.length || k.spared.contains channel.val then .next s
    else runEvent (s.setStack stack { k with copying := some (channel.val, 0) })
  | some (c, _) =>
    if c ≠ channel.val then .next s
    else runEvent (logOpen (s.setStack stack { k with copying := none, spared := c :: k.spared }) 3 stack.val c)

end Sys2Proof.Machine
end

