-- ==== Sys2Proof/Machine/Fabric.lean ====
section
/-! DEFINITION. Rider cores and their grants, fabric ports, allotments (R386 to R393). -/

namespace Sys2Proof.Machine

/-! ## Rider cores (R386 to R388) -/

/-- The first spare rider core that is neither in use nor failed. -/
def spareRider (s : State) : Option (Fin 18) :=
  ([16, 17] : List (Fin 18)).find? fun c => !s.riders[c].failed && !s.riders[c].used

/-- A packet's handler runs from its start and is idempotent (R388): a kick that has taken effect changes nothing when it
comes again (R338), and one that has counted as an overrun does not count again. -/
def rerunPacket (s : State) (p : Nat × W32) : State :=
  let q := s.queue p.1
  if q.valid then
    let s := kickQueue s p.1 q p.2
    { s with queues := mput s.queues p.1 { s.queue p.1 with qovr := q.qovr } }
  else s

/-- A rider core fails: one of the two spares takes its packet, which runs again from its start (R388, R395). With no
spare left the packet waits for a core that is free (DESIGN CHOICE, log entry 22). -/
def execRiderCoreFailover (core : Fin 18) (s : State) : Host.Outcome State Fault Refusal :=
  let r := s.riders[core]
  if r.failed then .next s
  else
    let s1 := s.setRider core { r with failed := true, used := false, packet := none, grants := [] }
    let open_ := if r.done then none else r.packet
    if !r.works core then runEvent s1
    else match spareRider s1 with
      | none => runEvent (handPackets (s1.packets.length + 1) { s1 with packets := open_.toList ++ s1.packets })
      | some c =>
        let s2 := logOpen (s1.setRider c { s1.riders[c] with used := true }) 6 0 core.val
        runEvent (match open_ with
          | some p => frontSettle (rerunPacket (takePacket s2 c p) p)
          | none => handPackets s2.packets.length s2)

/-- Whether an access stays within a grant and its rights; the grants of a completed packet are gone. -/
def grantAllows (r : Rider) (grant offset size : Nat) (write : Bool) : Bool :=
  match mfind r.grants grant with
  | some g => offset + size ≤ g.len && (if write then g.write else g.read)
  | none => false

/-- A precise grant fault (R386): the core's packet is abandoned, its queue stops with err = 3. -/
def grantFault (s : State) (core : Fin 18) : State :=
  let r := s.riders[core]
  let s := s.setRider core { r with fault := true, done := true, grants := [] }
  let s := match r.packet with
    | some p => putQueue s p.1 { s.queue p.1 with err := 3 }
    | none => s
  handPackets s.packets.length s

/-- The fused fields of RLIM, its bits 47:16, with winsize in its stated range (R387). -/
def rlimFields : Nat :=
  let v := Config.rlimFused.toNat
  setBits v 7 0 (max 12 (min 40 (bits v 7 0)))

/-- An access of a rider core (R386, R387): of its local memory, through its grant unit, or through an outward window,
`grant` then being the window; an outward transfer that exceeds its window is dropped. -/
def execGrantFault (core : Fin 18) (grant offset size : Nat) (op : RiderOp) (s : State) :
    Host.Outcome State Fault Refusal :=
  let r := s.riders[core]
  if !r.works core then .next s
  else
    let base := ((mfind r.grants grant).map (·.base)).getD 0 + offset
    match op with
    | .localLoad =>
      if Config.riderBytes < offset + size then .next s
      else runEvent (s.setRider core { r with seen := readBytes r.mem offset size })
    | .localStore data =>
      if Config.riderBytes < offset + size then .next s
      else runEvent (s.setRider core { r with mem := writeBytes r.mem offset (data.take size) })
    | .load =>
      if grantAllows r grant offset size false then
        let (s, bs) := (pieces size base size).foldl (fun (p : State × List Byte) q =>
          let (s, bs) := basinBytes p.1 q.1 q.2 true
          (s, p.2 ++ bs)) (s, [])
        runEvent (s.setRider core { r with seen := bs })
      else runEvent (grantFault s core)
    | .store data =>
      if grantAllows r grant offset size true then
        runEvent ((pieces size base size).foldl
          (fun s q => basinPut s q.1 (((data.take size).drop (q.1 - base)).take q.2) true) s)
      else runEvent (grantFault s core)
    | .outward data =>
      if bits rlimFields 15 8 ≤ grant || 2 ^ bits rlimFields 7 0 < offset + data.length then .next s
      else runEvent (s.setRider core { r with sent := (grant, offset, data) :: r.sent })

/-! ## Fabric ports (R389, R390) -/

/-- Eight steps of the reflected CRC-32. -/
def crcStep : Nat → Nat → Nat
  | 0, c => c
  | n + 1, c => crcStep n (if c % 2 = 1 then c / 2 ^^^ 0xEDB88320 else c / 2)
/-- CRC-32 with initial value and final XOR 0xFFFF_FFFF (R389). -/
def crc32 (bs : List Byte) : Nat := bs.foldl (fun c b => crcStep 8 (c ^^^ b.toNat)) 0xFFFFFFFF ^^^ 0xFFFFFFFF

/-- Whether a flit carries its own CRC over header and payload (R389; its place is log entry 17). -/
def flitGood (f : List Byte) : Bool := f.length = 256 && crc32 (f.take 252) = leOf (f.drop 252)
def flitSeq (f : List Byte) : BitVec 12 := BitVec.ofNat 12 (leOf (f.take 2))

/-- A flit of at most 244 bytes of payload; the rest is zeros (log entry 17). -/
def flitOf (seq : BitVec 12) (payload : List Byte) : List Byte :=
  let b := leBytes 8 seq.toNat ++ (payload ++ List.replicate 244 0).take 244
  b ++ leBytes 4 (crc32 b)

def State.setPort (s : State) (i : Fin 18) (p : Port) : State := { s with ports := s.ports.set i p }

/-- Transfers that wait become flits on the wire, as far as the replay buffer has room. -/
def Port.send : Nat → Port → Port
  | 0, p => p
  | n + 1, p =>
    match p.queue with
    | (i, x) :: rest =>
      if 512 ≤ p.replay.length then p
      else
        let f := flitOf p.tx x
        Port.send n { p with tx := p.tx + 1, queue := rest, replay := p.replay ++ [(i, f)], wire := f :: p.wire }
    | [] => p

/-- A flit arrives (R390): delivered in sequence, dropped if it came before, or negatively acknowledged. -/
def receiveFlit (p : Port) (flit : List Byte) : Port :=
  if !flitGood flit then { p with nak := true }
  else
    let back := (p.rx - flitSeq flit).toNat
    if back = 0 then { p with rx := p.rx + 1, nak := false, inbox := (flit.drop 8).take 244 :: p.inbox }
    else if back ≤ 512 then p
    else { p with nak := true }

/-- The partner has taken the flits up to a sequence number: they leave the replay buffer. -/
def ackFlits (p : Port) (seq : BitVec 12) : Port :=
  let n := (seq - (p.tx - BitVec.ofNat 12 p.replay.length)).toNat + 1
  if p.replay.length < n then p
  else
    let p := { p with replay := p.replay.drop n, fails := 0, replayed := false }
    p.send p.queue.length

/-- A transfer of an issuer, in flits; one for a port that is down completes with an error status. -/
def sendPayload (p : Port) (issuer : Nat) (x : List Byte) : Port :=
  let p := { p with
    transfers := p.transfers + 1
    queue := p.queue ++ (List.range (ceilDiv x.length 244)).map fun i => ((issuer, p.transfers), (x.drop (244 * i)).take 244) }
  p.send p.queue.length

/-- What reaches a fabric port (R389, R390). -/
def execFlitReceive (port : Fin 18) (flit : FlitIn) (s : State) : Host.Outcome State Fault Refusal :=
  let p := s.ports[port]
  match flit with
  | .flit f => if p.down then .next s else runEvent (s.setPort port (receiveFlit p f))
  | .ack seq => if p.down then .next s else runEvent (s.setPort port (ackFlits p seq))
  | .send i x =>
    runEvent (s.setPort port (if p.down then { p with errors := i :: p.errors } else sendPayload p i x))

/-- A negative acknowledgement has the replay buffer sent again (R390); one that answers a replay says that it failed, and
after the sixteenth the port replays no more before its lane check. -/
def execFlitReplay (port : Fin 18) (s : State) : Host.Outcome State Fault Refusal :=
  let p := s.ports[port]
  if p.down || p.replay = [] || 16 ≤ p.fails then .next s
  else
    let fails := if p.replayed then p.fails + 1 else p.fails
    let p := { p with fails := fails, replayed := true }
    runEvent (s.setPort port (if 16 ≤ fails then p else { p with wire := (p.replay.map (·.2)).reverse ++ p.wire }))

/-- The issuers of the transfers on a port of which a flit waits or is not yet taken, one for each transfer. -/
def Port.issuers (p : Port) : List Nat := (p.replay.map (·.1) ++ p.queue.map (·.1)).eraseDups.map (·.1)

/-- One lane that fails the check is replaced by a spare of its direction, or takes the port down: the transfers queued
on it complete at their issuers with an error status (R390, R395). -/
def failLane (port : Fin 18) (s : State) (lane : Bool × Nat) : State :=
  let p := s.ports[port]
  if p.down then s
  else if (p.lanes.filter (·.1 = lane.1)).length < 2 then
    logOpen (s.setPort port { p with lanes := lane :: p.lanes }) 4 port.val lane.2
  else
    logOpen (s.setPort port { p with
      down := true, errors := p.issuers ++ p.errors, replay := [], queue := [] })
      7 port.val 0

/-- After 16 failed replays of a flit the port checks its lanes (R390). -/
def execLaneCheck (port : Fin 18) (bad : List (Bool × Fin 16)) (s : State) : Host.Outcome State Fault Refusal :=
  if s.ports[port].fails < 16 then .next s
  else
    let s := (bad.map fun l => (l.1, l.2.val)).eraseDups.foldl (failLane port) s
    runEvent (s.setPort port { s.ports[port] with fails := 0, replayed := false })

/-! ## Allotments (R391 to R393, R437) -/

def allotOf (s : State) (g : Nat) : Nat := (mget 0x3FF000 s.allot g).toNat
def shareOf (s : State) (g : Nat) : Nat := min 1000 (bits (allotOf s g) 9 0)
def depthOf (s : State) (g : Nat) : Nat := bits (allotOf s g) 21 12
def Tile.group (t : Tile) (g : Nat) : PortGroup := mget {} t.groups g
def Tile.setGroup (t : Tile) (g : Nat) (x : PortGroup) : Tile := { t with groups := mput t.groups g x }

/-- The groups with a share; at reset there are none. -/
def sharers (s : State) : List Nat := (s.allot.map (·.1)).filter fun g => g < 128 && shareOf s g ≠ 0

/-- The first loop of R392. -/
def refillGroup (s : State) (t : Tile) (g : Nat) : Tile :=
  let x := t.group g
  let cred := x.cred + 1024 * shareOf s g
  let tok := x.tok + cred / 1000
  let depth : Int := depthOf s g
  if depth < tok then { t.setGroup g ⟨depth, cred % 1000⟩ with pool := t.pool + (tok - depth) }
  else t.setGroup g ⟨tok, cred % 1000⟩

/-- The groups with a waiting request and room for tokens. -/
def wanting (s : State) (t : Tile) : List Nat :=
  (List.range 128).filter fun g => t.portQ.any (·.group = g) && (t.group g).tok < depthOf s g

/-- One refill of a port (R392). -/
def refillPort (s : State) (t : Tile) : Tile :=
  let t := (sharers s).foldl (refillGroup s) t
  let ws := wanting s t
  let total : Int := ((ws.map (shareOf s)).foldl (· + ·) 0 : Nat)
  let give (p : Tile × Int) (g : Nat) : Tile × Int :=
    let x := p.1.group g
    let n := min (depthOf s g - x.tok) (if total = 0 then 0 else t.pool * shareOf s g / total)
    (p.1.setGroup g { x with tok := x.tok + n }, p.2 + n)
  let (t', given) := ws.foldl give (t, 0)
  { t' with pool := min (t.pool - given) 1024 }

def refillTimes (s : State) : Nat → Tile → Tile
  | 0, t => t
  | n + 1, t => refillTimes s n (refillPort s t)

/-- The clocks of a port's tile since device time 0; a terrace flume's port runs at the floor (log entry 18). -/
def portClock (s : State) (tile : Nat) : Nat := if tile < Config.tiles then tileClocks s tile s.time.toNat else s.time.toNat

/-- The refills that are due at a port, one every 1,024 clocks (R392), not yet done. -/
def refillsDue (s : State) (tile : Nat) : Nat := portClock s tile / 1024 - (s.tile tile).refills

/-- A port with its next `n` refills done. After 4,096 of one table every bucket and the pool are full, and a credit
comes again after 125 refills, so a long run of them ends as a shorter one does. -/
def refillBy (s : State) (tile n : Nat) : State :=
  let t := s.tile tile
  let t' := if sharers s = [] && t.pool ≤ 1024 then t else refillTimes s (if n ≤ 4096 then n else 4096 + (n - 4096) % 125) t
  s.setTile tile { t' with refills := t.refills + n }

/-- A port with every refill done that is due. -/
def catchUp (s : State) (tile : Nat) : State :=
  if refillsDue s tile = 0 then s else refillBy s tile (refillsDue s tile)
/-- Every port that holds anything is refilled as its clocks pass. -/
def refillPorts (s : State) : State := (s.tiles.map (·.1)).foldl catchUp s
/-- Every port of the device: 416 tiles, 16 terrace flumes. -/
def catchUpAll (s : State) : State := (List.range (Config.tiles + 16)).foldl catchUp s

/-- A port is refilled every 1,024 clocks (R392): a step of the device. -/
def execAllotRefill (tile : Nat) (s : State) : Host.Outcome State Fault Refusal :=
  if refillsDue s tile = 0 then .next s else runEvent (refillBy s tile 1)

/-- The group a port serves next: round robin after the one served last, among those that hold a token (R393). -/
def nextGroup (t : Tile) : Option Nat :=
  ((List.range 128).map fun i => (t.lastGroup + 1 + i) % 128).find? fun g =>
    t.portQ.any (·.group = g) && 0 < (t.group g).tok

/-- A line request leaves a port (R391), with every request that has joined its fetch (R437), and lets its access perform;
a fetch brings its line into the L1. -/
def sendLine (s : State) (tile : Nat) (r : PortReq) : State :=
  let t := s.tile tile
  let x := t.group r.group
  let leaves (q : PortReq) : Bool := q = r || r.joins q
  let s := s.setTile tile { t.setGroup r.group { x with tok := x.tok - 1 } with
    portQ := t.portQ.filter (!leaves ·), sent := t.sent ++ t.portQ.filter leaves, lastGroup := r.group
    sentAt := portClock s tile + 1 }
  if r.fetch then (physRead s tile (64 * r.line) 64 true).1 else s

/-- A port sends one line request, at most one per clock, the first of the group it serves (R391, R393): a step of the
device. -/
def execPortSend (tile : Nat) (s : State) : Host.Outcome State Fault Refusal :=
  let t := s.tile tile
  match nextGroup t with
  | none => .next s
  | some g =>
    match t.portQ.find? (·.group = g) with
    | some r => if portClock s tile < t.sentAt then .next s else runEvent (sendLine s tile r)
    | none => .next s

end Sys2Proof.Machine
end

