-- ==== Sys2Proof/Machine/Scalar.lean ====
section
/-! DEFINITION. Class 1: the scalar and address instructions (file 07). -/

namespace Sys2Proof.Machine

/-! ## Shared shapes -/

/-- An operation of two scalar sources (R188, R189). -/
def scalar3 (s : State) (key lat reg : Nat) (x : S3) (f : W32 → W32 → W32) : Host.Outcome State Fault Refusal :=
  runPure s fun t => do
    let (a, ta) ← readS t x.a
    let (b, tb) ← readS t x.b
    return putS t lat reg x.nw x.d (f a b) (fold (opk key 0) ta tb 0)

/-- An operation of one scalar source; `c` is the further source of its fold. -/
def scalar2 (s : State) (key : Nat) (x : S2) (c : Tag) (f : W32 → W32) : Host.Outcome State Fault Refusal :=
  runPure s fun t => do
    let (a, ta) ← readS t x.a
    return putS t 1 2 x.nw x.d (f a) (fold (opk key 0) ta 0 c)

/-- An operation with an immediate. -/
def scalarK (s : State) (key : Nat) (x : SK) (f : W32 → W32 → W32) : Host.Outcome State Fault Refusal :=
  runPure s fun t => do
    let (a, ta) ← readS t x.a
    return putS t 1 2 x.nw x.d (f a x.imm) (fold (opk key 0) ta x.imm 0)

/-- An operation on pairs (R199). -/
def pair3 (s : State) (key : Nat) (x : P3) (f : W64 → W64 → W64) : Host.Outcome State Fault Refusal :=
  runPure s fun t =>
    .ok (putPair t 2 x.d (f (pairVal t.regs x.a) (pairVal t.regs x.b))
      (fold (opk key 0) (pairTag t.regs x.a) (pairTag t.regs x.b) 0))

/-! ## Values -/

/-- `div` (R192). -/
def divS (a b : W32) : W32 :=
  if b = 0 then 0xFFFFFFFF
  else if a = 0x80000000 && b = 0xFFFFFFFF then 0x80000000 else BitVec.ofInt 32 (a.toInt.tdiv b.toInt)
def divU (a b : W32) : W32 := if b = 0 then 0xFFFFFFFF else BitVec.ofNat 32 (a.toNat / b.toNat)
def remS (a b : W32) : W32 :=
  if b = 0 then a else if a = 0x80000000 && b = 0xFFFFFFFF then 0 else BitVec.ofInt 32 (a.toInt.tmod b.toInt)
def remU (a b : W32) : W32 := if b = 0 then a else BitVec.ofNat 32 (a.toNat % b.toNat)
/-- The shifts (R193): the count is all 32 bits of the second source. -/
def shlW (a n : W32) : W32 := if 32 ≤ n.toNat then 0 else a <<< n.toNat
def shrW (a n : W32) : W32 := if 32 ≤ n.toNat then 0 else a >>> n.toNat
def sraW (a n : W32) : W32 :=
  if 32 ≤ n.toNat then (if a.getLsbD 31 then 0xFFFFFFFF else 0) else a.sshiftRight n.toNat
/-- `ext.s` (R198). -/
def extSW (w : Nat) (a : W32) : W32 :=
  let x := a.toNat % 2 ^ w
  BitVec.ofNat 32 (if bit x (w - 1) then x + 2 ^ 32 - 2 ^ w else x)
def extZW (w : Nat) (a : W32) : W32 := BitVec.ofNat 32 (a.toNat % 2 ^ w)

/-! ## Meanings -/

/-- `add` (R191). -/
def execAdd (x : S3) (s : State) : Host.Outcome State Fault Refusal :=
  scalar3 s 0x100 1 2 x (· + ·)

/-- `sub` (R191). -/
def execSub (x : S3) (s : State) : Host.Outcome State Fault Refusal :=
  scalar3 s 0x101 1 2 x (· - ·)

/-- `addi` (R191). -/
def execAddi (x : SK) (s : State) : Host.Outcome State Fault Refusal :=
  scalarK s 0x102 x (· + ·)

/-- `mul` (R191). -/
def execMul (x : S3) (s : State) : Host.Outcome State Fault Refusal :=
  scalar3 s 0x104 3 4 x (· * ·)

/-- `mulh` (R191). -/
def execMulh (x : S3) (s : State) : Host.Outcome State Fault Refusal :=
  scalar3 s 0x105 3 4 x fun a b => BitVec.ofInt 32 (a.toInt * b.toInt / 2 ^ 32)

/-- `mulhz` (R191). -/
def execMulhz (x : S3) (s : State) : Host.Outcome State Fault Refusal :=
  scalar3 s 0x106 3 4 x fun a b => BitVec.ofNat 32 (a.toNat * b.toNat / 2 ^ 32)

/-- `div` (R192). -/
def execDiv (x : S3) (s : State) : Host.Outcome State Fault Refusal :=
  scalar3 s 0x108 12 13 x divS

/-- `divz` (R192). -/
def execDivz (x : S3) (s : State) : Host.Outcome State Fault Refusal :=
  scalar3 s 0x109 12 13 x divU

/-- `rem` (R192). -/
def execRem (x : S3) (s : State) : Host.Outcome State Fault Refusal :=
  scalar3 s 0x10A 12 13 x remS

/-- `remz` (R192). -/
def execRemz (x : S3) (s : State) : Host.Outcome State Fault Refusal :=
  scalar3 s 0x10B 12 13 x remU

/-- `and` (R193). -/
def execAnd (x : S3) (s : State) : Host.Outcome State Fault Refusal :=
  scalar3 s 0x110 1 2 x (· &&& ·)

/-- `or` (R193). -/
def execOr (x : S3) (s : State) : Host.Outcome State Fault Refusal :=
  scalar3 s 0x111 1 2 x (· ||| ·)

/-- `xor` (R193). -/
def execXor (x : S3) (s : State) : Host.Outcome State Fault Refusal :=
  scalar3 s 0x112 1 2 x (· ^^^ ·)

/-- `andi` (R193). -/
def execAndi (x : SK) (s : State) : Host.Outcome State Fault Refusal :=
  scalarK s 0x114 x (· &&& ·)

/-- `ori` (R193). -/
def execOri (x : SK) (s : State) : Host.Outcome State Fault Refusal :=
  scalarK s 0x115 x (· ||| ·)

/-- `xori` (R193). -/
def execXori (x : SK) (s : State) : Host.Outcome State Fault Refusal :=
  scalarK s 0x116 x (· ^^^ ·)

/-- `shl` (R193). -/
def execShl (x : S3) (s : State) : Host.Outcome State Fault Refusal :=
  scalar3 s 0x118 1 2 x shlW

/-- `shr` (R193). -/
def execShr (x : S3) (s : State) : Host.Outcome State Fault Refusal :=
  scalar3 s 0x119 1 2 x shrW

/-- `sra` (R193). -/
def execSra (x : S3) (s : State) : Host.Outcome State Fault Refusal :=
  scalar3 s 0x11A 1 2 x sraW

/-- `shli` (R193). -/
def execShli (x : SK) (s : State) : Host.Outcome State Fault Refusal :=
  scalarK s 0x11C x shlW

/-- `shri` (R193). -/
def execShri (x : SK) (s : State) : Host.Outcome State Fault Refusal :=
  scalarK s 0x11D x shrW

/-- `srai` (R193). -/
def execSrai (x : SK) (s : State) : Host.Outcome State Fault Refusal :=
  scalarK s 0x11E x sraW

/-- `min` (R194). -/
def execMin (x : S3) (s : State) : Host.Outcome State Fault Refusal :=
  scalar3 s 0x120 1 2 x fun a b => if a.toInt ≤ b.toInt then a else b

/-- `max` (R194). -/
def execMax (x : S3) (s : State) : Host.Outcome State Fault Refusal :=
  scalar3 s 0x121 1 2 x fun a b => if a.toInt ≤ b.toInt then b else a

/-- `minz` (R194). -/
def execMinz (x : S3) (s : State) : Host.Outcome State Fault Refusal :=
  scalar3 s 0x122 1 2 x fun a b => if a.toNat ≤ b.toNat then a else b

/-- `maxz` (R194). -/
def execMaxz (x : S3) (s : State) : Host.Outcome State Fault Refusal :=
  scalar3 s 0x123 1 2 x fun a b => if a.toNat ≤ b.toNat then b else a

/-- `sel` (R195): the condition's tag enters the fold whichever operand is chosen. -/
def execSel (x : S3) (c : Fin 4) (s : State) : Host.Outcome State Fault Refusal :=
  runPure s fun t => do
    let (a, ta) ← readS t x.a
    let (b, tb) ← readS t x.b
    return putS t 1 2 x.nw x.d (if t.regs.c[c] then a else b) (fold (opk 0x124 0) ta tb t.regs.cTag[c])

/-- `clz` (R196). -/
def execClz (x : S2) (s : State) : Host.Outcome State Fault Refusal :=
  scalar2 s 0x128 x 0 fun a => BitVec.ofNat 32 (clzN 32 a.toNat)

/-- `ctz` (R196). -/
def execCtz (x : S2) (s : State) : Host.Outcome State Fault Refusal :=
  scalar2 s 0x129 x 0 fun a => BitVec.ofNat 32 (ctzN 32 a.toNat)

/-- `popc` (R196). -/
def execPopc (x : S2) (s : State) : Host.Outcome State Fault Refusal :=
  scalar2 s 0x12A x 0 fun a => BitVec.ofNat 32 (popcN 32 a.toNat)

/-- `li` (R197). -/
def execLi (nw : Bool) (d : Fin 64) (imm : W32) (s : State) : Host.Outcome State Fault Refusal :=
  runPure s fun t => .ok (putS t 1 2 nw d imm (fold (opk 0x130 0) 0 imm 0))

/-- `lui` (R197): the pair takes imm32 · 2^32. -/
def execLui (d : Fin 32) (imm : W32) (s : State) : Host.Outcome State Fault Refusal :=
  runPure s fun t => .ok (putPair t 2 d (imm ++ (0 : W32)) (fold (opk 0x131 0) 0 imm 0))

/-- `mov` (R197). -/
def execMov (x : S2) (s : State) : Host.Outcome State Fault Refusal := scalar2 s 0x132 x 0 id

/-- `ext.s` (R198): the width is the fold's third source. -/
def execExtS (x : S2) (w : Fin 32) (s : State) : Host.Outcome State Fault Refusal :=
  scalar2 s 0x134 x (BitVec.ofNat 32 w.val) (extSW w.val)

/-- `ext.z` (R198). -/
def execExtZ (x : S2) (w : Fin 32) (s : State) : Host.Outcome State Fault Refusal :=
  scalar2 s 0x135 x (BitVec.ofNat 32 w.val) (extZW w.val)

/-- `add.p` (R199). -/
def execAddP (x : P3) (s : State) : Host.Outcome State Fault Refusal := pair3 s 0x138 x (· + ·)

/-- `addi.p` (R199): the immediate is sign-extended. -/
def execAddiP (d a : Fin 32) (imm : W32) (s : State) : Host.Outcome State Fault Refusal :=
  runPure s fun t =>
    .ok (putPair t 2 d (pairVal t.regs a + imm.signExtend 64) (fold (opk 0x139 0) (pairTag t.regs a) imm 0))

/-- `sub.p` (R199). -/
def execSubP (x : P3) (s : State) : Host.Outcome State Fault Refusal := pair3 s 0x13A x (· - ·)

/-- `shl.p` (R199). -/
def execShlP (d a : Fin 32) (b : SSrc) (s : State) : Host.Outcome State Fault Refusal :=
  runPure s fun t => do
    let (n, tb) ← readS t b
    return putPair t 2 d (if 64 ≤ n.toNat then 0 else pairVal t.regs a <<< n.toNat)
      (fold (opk 0x13B 0) (pairTag t.regs a) tb 0)

/-- The address `lea.h` forms (R200). -/
def leaAddr (ot : OpTile) (h : HRec) (i0 i1 i2 : Int) : Except Stop W64 := do
  if hMalformed h || hEmpty h then illegal
  else
    match ← handleAddr ot h (elemOff h i0 i1 i2) (elemBytes h) with
    | .glob a => return BitVec.ofNat 64 a
    | .scr r o => return BitVec.ofNat 64 (2 ^ 63 + r * 2 ^ 22 + o)

/-- `lea.h` (R200): the address of element (sB, sB+1, sB+2). -/
def execLeaH (d : Fin 32) (h : Fin 32) (b : Fin 64) (s : State) : Host.Outcome State Fault Refusal :=
  runPure s fun t => do
    let r := t.regs
    let i1 : Fin 64 := Fin.ofNat 64 (b.val + 1)
    let i2 : Fin 64 := Fin.ofNat 64 (b.val + 2)
    let a ← leaAddr (viewOf s t) r.h[h] r.s[b].toInt r.s[i1].toInt r.s[i2].toInt
    return putPair t 2 d a (fold (opk 0x13C 0) r.hTag[h] (mix r.sTag[b] r.sTag[i1]) r.sTag[i2])

end Sys2Proof.Machine
end

