-- ==== Sys2Proof/Machine/Service.lean ====
section
/-! DEFINITION. Bring-up, thermal limits, the service port, the basin register window, and the accesses of the host
(R383 to R385, R397 to R401). -/

namespace Sys2Proof.Machine

/-! ## Bring-up (R397) -/

/-- What outlasts a loss of power: the boot record, the service log, the firmware images, the SRAM repairs. -/
def Service.persistent (v : Service) : Service :=
  { committed := v.committed, firmware := v.firmware, boot := v.boot, log := v.log, logged := v.logged
    rowErrors := v.rowErrors, repaired := v.repaired }

/-- The place and the unit by which the service log names a unit of a step of bring-up (R396): the stack of step 2, the
terrace and tile of step 4, the port and lane of step 5, the core of step 6. An SRAM row of step 3 counts 65,536 rows per
place, and a unit of the other steps, for which R396 names no place, has place 0 (DESIGN CHOICE, log entry 19). -/
def bootUnit (step unit : Nat) : Nat × Nat :=
  match step with
  | 2 => (unit, 0)
  | 3 => (unit / 65536, unit % 65536)
  | 4 => (terraceOf unit, unit)
  | 5 => (unit / 32, unit % 16)
  | _ => (0, unit)

/-- The failures of one step, in turn: a recorded one stops bring-up, a new one is recorded (R397). -/
def bootStep (old : List (Nat × Nat)) (s : State) (f : Nat × Nat) : State :=
  if s.svc.stopped.isSome then s
  else
    let s := logOpen s 9 (bootUnit f.1 f.2).1 (bootUnit f.1 f.2).2
    if old.contains f then { s with svc := { s.svc with stopped := some f } }
    else { s with svc := { s.svc with boot := s.svc.boot ++ [f] } }

/-- The units of a step with a recorded failure: the step takes its alternative for them. -/
def recorded (old : List (Nat × Nat)) (step : Nat) : List Nat := (old.filter (·.1 = step)).map (·.2)

/-- Step 2: a stack with a recorded failure is trained at 9.6 Gb/s per pin. -/
def trainStacks (old : List (Nat × Nat)) (s : State) : State :=
  { s with sweepers := Vector.ofFn fun k => { s.sweepers[k] with slow := (recorded old 2).contains k.val } }

/-- Step 3: SRAM rows logged with 16 or more corrected errors are repaired (R395); after a recorded failure, none beyond
the repairs already logged. -/
def repairRows (old : List (Nat × Nat)) (s : State) : State :=
  if recorded old 3 ≠ [] then s
  else
    let rows := (s.svc.rowErrors.filter fun e => 16 ≤ e.2 && !s.svc.repaired.contains e.1).map (·.1)
    rows.foldl (fun s r => logOpen { s with svc := { s.svc with repaired := r :: s.svc.repaired } } 5 (bootUnit 3 r).1 (bootUnit 3 r).2) s

/-- Whether a tile with a recorded failure is the one whose place its column's spare takes now: the column's first, where
the spare itself is sound and the tile was not yet out. -/
def takesSpare (s : State) (out : Nat → Bool) (t : Nat) : Bool :=
  out t && t % 13 ≠ 12 && !(s.tile t).gone && !(columnOf t).any fun u => out u && (u < t || u % 13 = 12)

/-- Step 4, the speed table from the tile test (R346): a tile with a recorded failure is out, and its column uses the
spare, each exchange with its record in the log (R395). -/
def writeSpeeds (old : List (Nat × Nat)) (units : List (BitVec 6)) (s : State) : State :=
  let out (t : Nat) : Bool := (recorded old 4).contains t
  let entry (t : Nat) : Nat :=
    let u := max 44 (min 58 (units.getD t 44).toNat)
    if out t then 128 + u
    else if t % 13 = 12 && !(columnOf t).any out then 64 + u else u
  let tiles := (List.range Config.tiles).foldl (fun m t => if out t then mput m t { gone := true, retiring := true } else m)
    s.tiles
  let s' := ((List.range Config.tiles).filter (takesSpare s out)).foldl (fun s t => logOpen s 1 (terraceOf t) t) s
  { s' with speedt := (List.range Config.tiles).foldl (fun m t => mput m t (BitVec.ofNat 8 (entry t))) s.speedt, tiles := tiles }

/-- Step 5: a lane with a recorded failure is replaced by a spare of its direction, once. The record's unit counts 32 per
port, the outward lanes from 16 on (DESIGN CHOICE, log entry 19). -/
def trainLanes (old : List (Nat × Nat)) (s : State) : State :=
  (recorded old 5).foldl (fun s u =>
    let port := Fin.ofNat 18 (u / 32)
    let lane := (decide (16 ≤ u % 32), u % 16)
    if s.ports[port].lanes.contains lane then s else failLane port s lane) s

/-- Step 6: a rider core with a recorded failure is left out, and a spare starts in its place. -/
def startRiders (old : List (Nat × Nat)) (s : State) : State :=
  (recorded old 6).foldl (fun s u =>
    let c := Fin.ofNat 18 u
    let works := s.riders[c].works c
    let s := s.setRider c { s.riders[c] with failed := true, used := false }
    match spareRider s with
    | some d => if works then logOpen (s.setRider d { s.riders[d] with used := true }) 6 0 u else s
    | none => s) s

/-- Steps 7 and 8: a PCIe link with a recorded failure is trained at 32 GT/s; the host complex then starts 44 cores. -/
def startHost (old : List (Nat × Nat)) (s : State) : State :=
  { s with svc := { s.svc with slowLinks := recorded old 7, cores := if recorded old 8 = [] then 48 else 44 } }

/-- What a step of bring-up does, by its code. -/
def bootWork (old : List (Nat × Nat)) (units : List (BitVec 6)) (code : Nat) (s : State) : State :=
  match code with
  | 2 => trainStacks old s
  | 3 => repairRows old s
  | 4 => writeSpeeds old units s
  | 5 => trainLanes old s
  | 6 => startRiders old s
  | 8 => startHost old s
  | _ => s

/-- Bring-up at power-on, its steps in order (R397): `fails` are the steps and units that fail this time. A step takes
the alternative of what was recorded at earlier starts; one that fails under it stops bring-up. -/
def execBringUp (fails : BootFailures) (units : List (BitVec 6)) (s : State) : Host.Outcome State Fault Refusal :=
  if s.svc.up && !s.off then .next s
  else
    let s := if s.off then
        { State.reset with
          cur := s.cur, agenda := s.agenda, drainPicks := s.drainPicks, freshTick := s.freshTick, nextOp := s.nextOp, svc := s.svc.persistent }
      else s
    let s := { s with svc := { s.svc with stopped := none } }
    let old := s.svc.boot
    let s := ([1, 2, 3, 4, 5, 6, 7, 8] : List Nat).foldl (fun s c =>
      if s.svc.stopped.isSome then s else (fails.filter (·.1 = c)).foldl (bootStep old) (bootWork old units c s)) s
    if s.svc.stopped.isSome then runEvent s
    else runEvent { s with svc := { s.svc with up := true, firmware := s.svc.committed.getD s.svc.firmware } }

/-! ## Thermal limits (R398) -/

/-- A junction temperature is taken; reaching 95 degrees is logged. -/
def takeJunction (s : State) (milli : W32) : State :=
  let was := s.junction.toNat
  let s := { s with junction := milli }
  if was < 95000 && 95000 ≤ milli.toNat then logOpen s 8 0 0 else s

/-- At 105 degrees every context is killed, the stop is recorded in the boot record, and the part powers down. -/
def shutDown (s : State) : State :=
  let live := (List.range 4096).filter fun c => ctxState s c ≠ 0
  let s := live.foldl (fun s c => frontSettle (killContext s c none)) s
  { s with off := true, svc := { s.svc with up := false, conns := [], image := none, boot := s.svc.boot ++ [(0, 0)] } }

/-- A sample of the junction temperature (R398). -/
def execThermalEvent (milli : W32) (s : State) : Host.Outcome State Fault Refusal :=
  let s := takeJunction s milli
  runEvent (if 105000 ≤ milli.toNat && !s.off then shutDown s else s)

/-- A sample of 105 degrees or more (R398). -/
def execThermalShutdown (milli : W32) (s : State) : Host.Outcome State Fault Refusal :=
  if milli.toNat < 105000 || s.off then .next s else runEvent (shutDown (takeJunction s milli))

/-! ## The service port (R399, R400) -/

/-- A response: its header and body (R400). -/
def respond (s : State) (conn : Fin 4) (kind : Nat) (seq : W32) (status : Nat) (body : List Byte) : State :=
  let msg := leBytes 2 kind ++ leBytes 2 0 ++ leBytes 4 seq.toNat ++ leBytes 4 body.length ++ leBytes 4 status ++ body
  { s with svc := { s.svc with out := (conn.val, msg) :: s.svc.out } }

/-- One request of an open connection: `f` gives the status, the response body and the state after. -/
def serve (s : State) (conn : Fin 4) (kind : Nat) (seq : W32) (f : State → Nat × List Byte × State) :
    Host.Outcome State Fault Refusal :=
  if s.svc.conns.contains conn.val then
    let (st, body, s) := f s
    runEvent (respond s conn kind seq st body)
  else .next s

/-- A TLS connection is accepted where the client's certificate chains to an anchor and one of the four is free. A
request of another kind than 1 to 9 is answered with status 1 (R400). -/
def execServiceConnection (cert : SvcIn) (s : State) : Host.Outcome State Fault Refusal :=
  match cert with
  | .client cert =>
    match (List.range 4).find? fun c => !s.svc.conns.contains c with
    | none => .next s
    | some c =>
      if Config.certificateChains cert then runEvent { s with svc := { s.svc with conns := c :: s.svc.conns } } else .next s
  | .other conn kind seq =>
    if 1 ≤ kind.toNat && kind.toNat ≤ 9 then .next s else serve s conn kind.toNat seq fun s => (1, [], s)

/-- A connection closes; an image it had begun is discarded. -/
def execServiceConnectionClose (conn : Fin 4) (s : State) : Host.Outcome State Fault Refusal :=
  runEvent { s with svc := { s.svc with
    conns := s.svc.conns.filter (· ≠ conn.val)
    image := if s.svc.image.any (·.conn = conn.val) then none else s.svc.image } }

/-- A request that takes no body. -/
def noBody (body : List Byte) (f : State → List Byte × State) (s : State) : Nat × List Byte × State :=
  if body = [] then let (b, s) := f s; (0, b, s) else (2, [], s)

/-- RLIM (R387). -/
def rlim (s : State) : W64 := BitVec.ofNat 64 (rlimFields * 2 ^ 16 + if s.basin.rlimLocked then 1 else 0)

def LogRec.bytes (r : LogRec) : List Byte :=
  leBytes 8 (r.kind % 256 + r.place % 256 * 2 ^ 8 + r.unit % 65536 * 2 ^ 16) ++ leBytes 8 r.time.toNat
    ++ leBytes 8 r.detail.toNat ++ leBytes 8 0

/-- The record in a slot of the log's ring; an empty slot reads 0. -/
def logSlot (s : State) (i : Nat) : List Byte :=
  let first := s.svc.logged - s.svc.log.length
  let k := (i + 4096 - first % 4096) % 4096
  match s.svc.log[k]? with
  | some r => r.bytes
  | none => leBytes 32 0

/-- The boot record, which also reports the step at which bring-up stopped (R397). -/
def execReadBootRecord (conn : Fin 4) (seq : W32) (body : List (BitVec 8)) (s : State) :
    Host.Outcome State Fault Refusal :=
  serve s conn 1 seq (noBody body fun s => (s.svc.boot.flatMap fun e => leBytes 16 (Config.bootEntry e.1 e.2 (s.svc.stopped = some e)).toNat, s))

def execClearBootRecord (conn : Fin 4) (seq : W32) (body : List (BitVec 8)) (s : State) :
    Host.Outcome State Fault Refusal :=
  serve s conn 2 seq (noBody body fun s => ([], { s with svc := { s.svc with boot := [] } }))

def execReadServiceLog (conn : Fin 4) (seq : W32) (body : List (BitVec 8)) (s : State) :
    Host.Outcome State Fault Refusal :=
  serve s conn 3 seq fun s =>
    let first := leOf (body.take 4)
    let n := leOf (body.drop 4)
    if body.length ≠ 8 || n = 0 || 2048 < n || 4096 ≤ first then (2, [], s)
    else (0, (List.range n).flatMap fun i => logSlot s ((first + i) % 4096), s)

def execReadSpeedTable (conn : Fin 4) (seq : W32) (body : List (BitVec 8)) (s : State) :
    Host.Outcome State Fault Refusal :=
  serve s conn 4 seq (noBody body fun s => ((List.range Config.tiles).map (speedEntry s), s))

def execReadRlim (conn : Fin 4) (seq : W32) (body : List (BitVec 8)) (s : State) : Host.Outcome State Fault Refusal :=
  serve s conn 5 seq (noBody body fun s => (leBytes 8 (rlim s).toNat, s))

def execReadTelemetry (conn : Fin 4) (seq : W32) (body : List (BitVec 8)) (s : State) :
    Host.Outcome State Fault Refusal :=
  serve s conn 6 seq (noBody body fun s =>
    (leBytes 20 (Config.telemetrySample s.freshTick).toNat ++ leBytes 4 s.junction.toNat ++ leBytes 8 s.time.toNat
      ++ leBytes 32 0, { s with freshTick := s.freshTick + 1 }))

def execBeginFirmwareImage (conn : Fin 4) (seq : W32) (body : List (BitVec 8)) (s : State) :
    Host.Outcome State Fault Refusal :=
  serve s conn 7 seq fun s =>
    let n := leOf body
    if body.length ≠ 8 || n = 0 || 2 ^ 26 < n then (2, [], s)
    else if s.svc.image.isSome then (3, [], s)
    else (0, [], { s with svc := { s.svc with image := some { conn := conn.val, len := n } } })

/-- Bytes enter an image from an offset on. -/
def imagePut (m : Map Byte) (off : Nat) : List Byte → Map Byte
  | [] => m
  | b :: r => imagePut (mput m off b) (off + 1) r

def execFirmwareChunk (conn : Fin 4) (seq : W32) (body : List (BitVec 8)) (s : State) :
    Host.Outcome State Fault Refusal :=
  serve s conn 8 seq fun s =>
    let off := leOf (body.take 4)
    let data := body.drop 4
    match s.svc.image with
    | none => (2, [], s)
    | some x =>
      if data = [] || 65532 < data.length || x.conn ≠ conn.val || x.len < off + data.length then (2, [], s)
      else (0, [], { s with svc := { s.svc with image := some { x with bytes := imagePut x.bytes off data } } })

/-! SHA-256 (FIPS 180-4). -/

def shaK : List Nat :=
  [0x428A2F98, 0x71374491, 0xB5C0FBCF, 0xE9B5DBA5, 0x3956C25B, 0x59F111F1, 0x923F82A4, 0xAB1C5ED5]
    ++ [0xD807AA98, 0x12835B01, 0x243185BE, 0x550C7DC3, 0x72BE5D74, 0x80DEB1FE, 0x9BDC06A7, 0xC19BF174]
    ++ [0xE49B69C1, 0xEFBE4786, 0x0FC19DC6, 0x240CA1CC, 0x2DE92C6F, 0x4A7484AA, 0x5CB0A9DC, 0x76F988DA]
    ++ [0x983E5152, 0xA831C66D, 0xB00327C8, 0xBF597FC7, 0xC6E00BF3, 0xD5A79147, 0x06CA6351, 0x14292967]
    ++ [0x27B70A85, 0x2E1B2138, 0x4D2C6DFC, 0x53380D13, 0x650A7354, 0x766A0ABB, 0x81C2C92E, 0x92722C85]
    ++ [0xA2BFE8A1, 0xA81A664B, 0xC24B8B70, 0xC76C51A3, 0xD192E819, 0xD6990624, 0xF40E3585, 0x106AA070]
    ++ [0x19A4C116, 0x1E376C08, 0x2748774C, 0x34B0BCB5, 0x391C0CB3, 0x4ED8AA4A, 0x5B9CCA4F, 0x682E6FF3]
    ++ [0x748F82EE, 0x78A5636F, 0x84C87814, 0x8CC70208, 0x90BEFFFA, 0xA4506CEB, 0xBEF9A3F7, 0xC67178F2]
def shaH : List W32 :=
  [0x6A09E667, 0xBB67AE85, 0x3C6EF372, 0xA54FF53A, 0x510E527F, 0x9B05688C, 0x1F83D9AB, 0x5BE0CD19]

def rotr (x : W32) (n : Nat) : W32 := x.rotateRight n

/-- The message schedule, last word first. -/
def shaSchedule : Nat → List W32 → List W32
  | 0, ws => ws
  | n + 1, ws =>
    let w2 := ws.getD 1 0
    let w15 := ws.getD 14 0
    let s1 := rotr w2 17 ^^^ rotr w2 19 ^^^ (w2 >>> (10 : Nat))
    let s0 := rotr w15 7 ^^^ rotr w15 18 ^^^ (w15 >>> (3 : Nat))
    shaSchedule n ((s1 + ws.getD 6 0 + s0 + ws.getD 15 0) :: ws)

/-- One round on the working variables a to h. -/
def shaRound (v : List W32) (kw : Nat × W32) : List W32 :=
  match v with
  | [a, b, c, d, e, f, g, h] =>
    let t1 := h + (rotr e 6 ^^^ rotr e 11 ^^^ rotr e 25) + ((e &&& f) ^^^ (~~~e &&& g)) + BitVec.ofNat 32 kw.1 + kw.2
    let t2 := (rotr a 2 ^^^ rotr a 13 ^^^ rotr a 22) + ((a &&& b) ^^^ (a &&& c) ^^^ (b &&& c))
    [t1 + t2, a, b, c, d + t1, e, f, g]
  | _ => v

/-- A big-endian number. -/
def beOf (bs : List Byte) : Nat := bs.foldl (fun n b => 256 * n + b.toNat) 0

def shaBlock (h : List W32) (block : List Byte) : List W32 :=
  let ws := (List.range 16).map fun i => BitVec.ofNat 32 (beOf ((block.drop (4 * i)).take 4))
  let v := (List.zip shaK (shaSchedule 48 ws.reverse).reverse).foldl shaRound h
  List.zipWith (· + ·) h v

def shaBlocks : Nat → List W32 → List Byte → List W32
  | 0, h, _ => h
  | n + 1, h, bs => if bs = [] then h else shaBlocks n (shaBlock h (bs.take 64)) (bs.drop 64)

/-- The digest of a message, 32 bytes. -/
def sha256 (m : List Byte) : List Byte :=
  let zeros := (55 + 64 - m.length % 64) % 64
  let padded := m ++ [0x80] ++ List.replicate zeros 0 ++ (leBytes 8 (8 * m.length)).reverse
  (shaBlocks (padded.length / 64) shaH padded).flatMap fun w => (leBytes 4 w.toNat).reverse

def execCommitFirmwareImage (conn : Fin 4) (seq : W32) (body : List (BitVec 8)) (s : State) :
    Host.Outcome State Fault Refusal :=
  serve s conn 9 seq fun s =>
    match s.svc.image with
    | none => (2, [], s)
    | some x =>
      if body.length ≠ 32 || x.conn ≠ conn.val then (2, [], s)
      else
        let img := x.bytes.map (·.2)
        let s := { s with svc := { s.svc with image := none } }
        if x.bytes.length = x.len && sha256 img = body && Config.signatureVerifies img then
          (0, [], { s with svc := { s.svc with committed := some img } })
        else (4, [], s)

/-! ## The basin register window (R401) -/

/-- The value with the bits of a mask. -/
def masked (v : W64) (m : Nat) : W64 := v &&& BitVec.ofNat 64 m

def terraceAt (off : Nat) : Option (Nat × Nat) :=
  if 0x80000 ≤ off && off < 0xC0000 && off % 0x10000 < 0x10 then some ((off - 0x80000) / 0x10000, off % 0x10000) else none
def stackAt (off : Nat) : Option (Fin 8 × Nat) :=
  if 0xC0000 ≤ off && off < 0xC8000 && off % 0x1000 < 0x30 then some (Fin.ofNat 8 ((off - 0xC0000) / 0x1000), off % 0x1000)
  else none

/-- The 64-bit register at an offset of the window, a multiple of 8. -/
def windowReg (s : State) (off : Nat) : W64 :=
  let b := s.basin
  let count (c : W32) : W64 := c.setWidth 64
  match off with
  | 0x00 => b.wkptb | 0x08 => b.wkinv | 0x10 => b.wkinva | 0x18 => b.frtb | 0x20 => b.qdbase | 0x28 => b.qdinv
  | 0x30 => count b.qdrop | 0x38 => b.ctxtb | 0x40 => b.ctxcmd | 0x48 => b.ctxstat | 0x50 => count b.prctl
  | 0x58 => count b.pondrun | 0x60 => count b.pondclm | 0x68 => count b.ponddsc | 0x70 => b.prdl | 0x78 => rlim s
  | 0x80 => b.prqbase | 0x88 => b.prqctl | 0x90 => b.prqhead | 0x98 => b.prqtail | 0xA0 => b.prans | 0xA8 => count b.prdrop
  | _ =>
    if 0x1000 ≤ off && off < 0x1400 then BitVec.ofNat 64 (allotOf s ((off - 0x1000) / 8))
    else if 0x2000 ≤ off && off < 0x2D00 then (speedEntry s ((off - 0x2000) / 8)).setWidth 64
    else if 0x10000 ≤ off && off < 0x18000 then
      let i := (off - 0x10000) / 4
      BitVec.ofNat 64 ((s.queue i).qovr.toNat + (s.queue (i + 1)).qovr.toNat * 2 ^ 32)
    else if 0x20000 ≤ off && off < 0x40000 then
      BitVec.ofNat 64 (leOf (((logSlot s ((off - 0x20000) / 32)).drop (off % 32)).take 8))
    else match terraceAt off, stackAt off with
      | some (t, 0), _ => (s.terraces.getD t {}).flpool
      | some (t, _), _ => (s.terraces.getD t {}).wkerr
      | none, some (k, r) =>
        let x := s.sweepers[k]
        match r with
        | 0x00 => x.swctl | 0x08 => x.swqbase | 0x10 => x.swqhead | 0x18 => x.swqtail | 0x20 => x.swleave | _ => x.swfree
      | none, none => 0

/-- A read of the window: aligned, of 4 or 8 bytes; any other reads 0 (R401). -/
def windowRead (s : State) (off bytes : Nat) : Nat :=
  if (bytes ≠ 4 && bytes ≠ 8) || off % bytes ≠ 0 then 0
  else (windowReg s (off / 8 * 8)).toNat / 2 ^ (8 * (off % 8)) % 2 ^ (8 * bytes)

/-- The command registers: they act only on an aligned 8-byte write. -/
def isCommand (off : Nat) : Bool :=
  off = 0x08 || off = 0x28 || off = 0x40 || off = 0xA0
    || (stackAt off).any fun x => x.2 = 0x20 || x.2 = 0x28

/-- The free frames of a terrace's flume pool (R120). -/
def poolFrames (v : W64) : List Nat :=
  if bit v.toNat 0 then (List.range 4096).map fun i => bits v.toNat 38 28 * 2 ^ 28 + i * 2 ^ 16 else []

def setTerrace (s : State) (t : Nat) (x : Terrace) : State := { s with terraces := s.terraces.setIfInBounds t x }

/-- A write of a stack's register (R85, R87). -/
def writeStack (s : State) (k : Fin 8) (r : Nat) (v : W64) : State :=
  let x := s.sweepers[k]
  match r with
  | 0x00 => s.setStack k { x with swctl := masked v 0xFFFFFF000001 ||| masked x.swctl 0xFFFFFE }
  | 0x08 => s.setStack k { x with swqbase := masked v 0x7FFFFFC000 }
  | 0x10 =>
    let n := v.toNat % 4096
    if (x.swqtail.toNat + 4096 - n) % 4096 ≤ queueLen x then s.setStack k { x with swqhead := BitVec.ofNat 64 n } else s
  | 0x20 => leaveFrame s k v
  | 0x28 => freeFrame s k v
  | _ => s

/-- The write of a whole register. -/
def writeReg (s : State) (off : Nat) (v : W64) : State :=
  let b := s.basin
  match off with
  | 0x00 => { s with basin := { b with wkptb := masked v 0x7FFFFFF000 } }
  | 0x08 => startInvalidation s v
  | 0x10 => { s with basin := { b with wkinva := v } }
  | 0x18 => { s with basin := { b with frtb := masked v 0x7FFFFFFFFF } }
  | 0x20 => { s with basin := { b with qdbase := masked v 0x7FFFFC0000 } }
  | 0x28 => startDirectory s v
  | 0x38 => { s with basin := { b with ctxtb := masked v 0x7FFFFC0000 } }
  | 0x40 => ctxCommand s (masked v 0xFFFF1FFFFFFFFFFF)
  | 0x50 => writePrctl s v.toNat
  | 0x70 => { s with basin := { b with prdl := masked v 0xFFFFFFFF } }
  | 0x80 => { s with basin := { b with prqbase := masked v 0x7FFFFF8000 } }
  | 0x88 => { s with basin := { b with prqctl := masked v 0xFFFF0001 } }
  | 0x90 => { s with basin := { b with prqhead := masked v 0x7FF } }
  | 0xA0 => answerRequest { s with basin := { b with prans := v } } v
  | _ =>
    if 0x1000 ≤ off && off < 0x1400 then
      -- the refills due so far are of the old table (R437)
      let s := catchUpAll s
      { s with allot := mput s.allot ((off - 0x1000) / 8) ((masked v 0x3FF3FF).setWidth 32) }
    else match terraceAt off, stackAt off with
      | some (t, 0), _ =>
        let v := masked v 0x7FF0000001
        setTerrace s t { s.terraces.getD t {} with flpool := v, frames := poolFrames v }
      | some (t, _), _ =>
        let x := s.terraces.getD t {}
        if bit v.toNat 0 then setTerrace s t { x with wkerr := masked x.wkerr (2 ^ 64 - 2) } else s
      | none, some (k, r) => writeStack s k r v
      | none, none => s

/-- A write to the window: aligned, of 4 or 8 bytes (R401). A 4-byte write replaces half of its register. -/
def windowWrite (s : State) (off bytes : Nat) (v : W64) : State :=
  if (bytes ≠ 4 && bytes ≠ 8) || off % bytes ≠ 0 then s
  else
    let reg := off / 8 * 8
    if bytes = 8 then writeReg s reg v
    else if isCommand reg then s
    else
      let old := (windowReg s reg).toNat
      let half := v.toNat % 2 ^ 32
      -- the half of WKERR that is not written clears nothing
      let old := if (terraceAt reg).any (fun t => t.2 = 8) then 0 else old
      writeReg s reg (BitVec.ofNat 64 (if off % 8 = 0 then setBits old 31 0 half else setBits old 63 32 half))

/-- A write to a basin register (R401): a step of the driver or a rider core. -/
def execRegisterWrite (offset bytes : Nat) (v : W64) (s : State) : Host.Outcome State Fault Refusal :=
  runEvent (windowWrite s offset bytes v)

/-! ## Host cores and PCIe devices (R383 to R385) -/

/-- The physical address and policy of a host access. PASIDs beyond 20 bits stand for the driver's own mappings of
physical memory, cached or uncached (log entry 20). -/
def hostAddr (s : State) (pasid va : Nat) (write : Bool) : Option (Nat × Bool) :=
  if pasid < 2 ^ 20 then basinAddr s pasid va write
  else if isHole va then none else some (va, pasid = 2 ^ 20)

/-- A read through the host complex; a cached line enters the host cache. -/
def hostBytes (s : State) (pa n : Nat) (cached : Bool) : State × List Byte :=
  let (s, bs) := basinBytes s pa n cached
  if cached then ({ s with l2 := mput s.l2 (lineOf pa) { l2Line s (lineOf pa) with host := true } }, bs) else (s, bs)

/-- A read-modify-write operation of RV64GC on words of `w` bits. -/
def hostAmo (op : HostAmo) (w m v : Nat) : Nat :=
  match op with
  | .swap => v % 2 ^ w
  | .add => (m + v) % 2 ^ w
  | .and => m &&& v % 2 ^ w
  | .or => m ||| v % 2 ^ w
  | .xor => m ^^^ v % 2 ^ w
  | .min => if sgn w v < sgn w m then v % 2 ^ w else m
  | .max => if sgn w v > sgn w m then v % 2 ^ w else m
  | .minu => min m (v % 2 ^ w)
  | .maxu => max m (v % 2 ^ w)

/-- An aligned word that a host core reads and writes as one action; `f` gives the new value, if it writes, and what it
returns. -/
def hostWord (s : State) (pasid va : Nat) (write wide : Bool) (f : State → Nat → Nat → State × Option Nat × Nat) : State :=
  let n := if wide then 8 else 4
  if va % n ≠ 0 then s
  else
    match hostAddr s pasid va write with
    | none => s
    | some (pa, c) =>
      let (s, bs) := hostBytes s pa n c
      let (s, v, out) := f s pa (leOf bs)
      let s := match v with
        | some v => basinPut s pa (leBytes n v) c
        | none => s
      { s with hostSeen := leBytes n out }

/-- One access at .basin scope, by aligned words; an access without a translation does nothing here. `core` is whose
reservation a load-reserved takes and a store-conditional needs. DESIGN CHOICE (log entry 62): a core holds one
reservation, of one line, which any write to the line ends. -/
def hostAccess (s : State) (core pasid va : Nat) (op : HostOp) : State :=
  match op with
  | .fence => s
  | .amo k wide v => hostWord s pasid va true wide fun s _ m =>
      (s, some (hostAmo k (if wide then 64 else 32) m v.toNat), m)
  | .lr wide => hostWord s pasid va false wide fun s pa m =>
      ({ s with hostRes := mput s.hostRes core (lineOf pa) }, none, m)
  | .sc wide v => hostWord s pasid va true wide fun s pa _ =>
      if mfind s.hostRes core = some (lineOf pa) then ({ s with hostRes := mdel s.hostRes core }, some v.toNat, 0)
      else ({ s with hostRes := mdel s.hostRes core }, none, 1)
  | .load n =>
    let r := (pieces n va n).foldl (fun (p : State × Option (List Byte)) q =>
      match p.2, hostAddr p.1 pasid q.1 false with
      | some acc, some (pa, c) =>
        let (s, bs) := hostBytes p.1 pa q.2 c
        (s, some (acc ++ bs))
      | _, _ => (p.1, none)) (s, some [])
    match r.2 with
    | some bs => { r.1 with hostSeen := bs }
    | none => s
  | .store data =>
    let r := (pieces data.length va data.length).foldl (fun (s : Option State) q =>
      match s with
      | none => none
      | some s => (hostAddr s pasid q.1 true).map fun a => basinPut s a.1 ((data.drop (q.1 - va)).take q.2) a.2) (some s)
    r.getD s

/-- Host cores that run: those bring-up started, 48 or 44 (R397). -/
def hostCores (s : State) : Nat := s.svc.cores

/-- A host core's load, store, atomic access or FENCE on device memory (R383). -/
def execHostCoreAccess (core : Fin 48) (pasid : Nat) (va : W64) (op : HostOp) (s : State) :
    Host.Outcome State Fault Refusal :=
  if hostCores s ≤ core.val then .next s else runEvent (hostAccess s core.val pasid va.toNat op)

/-- A PCIe device's access, through the IOMMU of the host complex in its PASID (R385). -/
def execPcieDeviceAccess (link : Fin 2) (pasid : Nat) (va : W64) (op : HostOp) (s : State) :
    Host.Outcome State Fault Refusal :=
  if 2 ^ 20 ≤ pasid then .next s else runEvent (hostAccess s (48 + link.val) pasid va.toNat op)

end Sys2Proof.Machine
end

