-- ==== Sys2Proof/Machine/Dispatch.lean ====
section
/-! DEFINITION. The dispatch: one arm per constructor of Instr. -/

namespace Sys2Proof.Machine

def exec (i : Instr) (s : State) : Host.Outcome State Fault Refusal :=
  match i with
  | .nop => Sys2Proof.Machine.execNop s
  | .sealOp x => Sys2Proof.Machine.execSealOp x s
  | .prep t off => Sys2Proof.Machine.execPrep t off s
  | .prepr t a => Sys2Proof.Machine.execPrepr t a s
  | .cmp cc d a b => Sys2Proof.Machine.execCmp cc d a b s
  | .cmpi cc d a imm => Sys2Proof.Machine.execCmpi cc d a imm s
  | .vAny d q ty => Sys2Proof.Machine.execVAny d q ty s
  | .vAll d q ty => Sys2Proof.Machine.execVAll d q ty s
  | .cOp d a b tt => Sys2Proof.Machine.execCOp d a b tt s
  | .br t c inv => Sys2Proof.Machine.execBr t c inv s
  | .jmp t => Sys2Proof.Machine.execJmp t s
  | .call t => Sys2Proof.Machine.execCall t s
  | .ret => Sys2Proof.Machine.execRet s
  | .jtab a off => Sys2Proof.Machine.execJtab a off s
  | .loop a => Sys2Proof.Machine.execLoop a s
  | .loopi imm => Sys2Proof.Machine.execLoopi imm s
  | .lpipe a stages => Sys2Proof.Machine.execLpipe a stages s
  | .lbrk c => Sys2Proof.Machine.execLbrk c s
  | .lpset a => Sys2Proof.Machine.execLpset a s
  | .lpget d => Sys2Proof.Machine.execLpget d s
  | .trap code => Sys2Proof.Machine.execTrap code s
  | .exit a => Sys2Proof.Machine.execExit a s
  | .yield => Sys2Proof.Machine.execYield s
  | .fmt a => Sys2Proof.Machine.execFmt a s
  | .fmti imm => Sys2Proof.Machine.execFmti imm s
  | .sysr d num => Sys2Proof.Machine.execSysr d num s
  | .sysw num a => Sys2Proof.Machine.execSysw num a s
  | .waitA d p b cc => Sys2Proof.Machine.execWaitA d p b cc s
  | .waitAWake thread => Sys2Proof.Machine.execWaitAWake thread s
  | .take d p => Sys2Proof.Machine.execTake d p s
  | .bar p => Sys2Proof.Machine.execBar p s
  | .add x => Sys2Proof.Machine.execAdd x s
  | .sub x => Sys2Proof.Machine.execSub x s
  | .addi x => Sys2Proof.Machine.execAddi x s
  | .mul x => Sys2Proof.Machine.execMul x s
  | .mulh x => Sys2Proof.Machine.execMulh x s
  | .mulhz x => Sys2Proof.Machine.execMulhz x s
  | .div x => Sys2Proof.Machine.execDiv x s
  | .divz x => Sys2Proof.Machine.execDivz x s
  | .rem x => Sys2Proof.Machine.execRem x s
  | .remz x => Sys2Proof.Machine.execRemz x s
  | .and x => Sys2Proof.Machine.execAnd x s
  | .or x => Sys2Proof.Machine.execOr x s
  | .xor x => Sys2Proof.Machine.execXor x s
  | .andi x => Sys2Proof.Machine.execAndi x s
  | .ori x => Sys2Proof.Machine.execOri x s
  | .xori x => Sys2Proof.Machine.execXori x s
  | .shl x => Sys2Proof.Machine.execShl x s
  | .shr x => Sys2Proof.Machine.execShr x s
  | .sra x => Sys2Proof.Machine.execSra x s
  | .shli x => Sys2Proof.Machine.execShli x s
  | .shri x => Sys2Proof.Machine.execShri x s
  | .srai x => Sys2Proof.Machine.execSrai x s
  | .min x => Sys2Proof.Machine.execMin x s
  | .max x => Sys2Proof.Machine.execMax x s
  | .minz x => Sys2Proof.Machine.execMinz x s
  | .maxz x => Sys2Proof.Machine.execMaxz x s
  | .sel x c => Sys2Proof.Machine.execSel x c s
  | .clz x => Sys2Proof.Machine.execClz x s
  | .ctz x => Sys2Proof.Machine.execCtz x s
  | .popc x => Sys2Proof.Machine.execPopc x s
  | .li nw d imm => Sys2Proof.Machine.execLi nw d imm s
  | .lui d imm => Sys2Proof.Machine.execLui d imm s
  | .mov x => Sys2Proof.Machine.execMov x s
  | .extS x width => Sys2Proof.Machine.execExtS x width s
  | .extZ x width => Sys2Proof.Machine.execExtZ x width s
  | .addP x => Sys2Proof.Machine.execAddP x s
  | .addiP d a imm => Sys2Proof.Machine.execAddiP d a imm s
  | .subP x => Sys2Proof.Machine.execSubP x s
  | .shlP d a b => Sys2Proof.Machine.execShlP d a b s
  | .leaH d h b => Sys2Proof.Machine.execLeaH d h b s
  | .ldSb x => Sys2Proof.Machine.execLdSb x s
  | .ldZb x => Sys2Proof.Machine.execLdZb x s
  | .ldSh x => Sys2Proof.Machine.execLdSh x s
  | .ldZh x => Sys2Proof.Machine.execLdZh x s
  | .ldW x => Sys2Proof.Machine.execLdW x s
  | .ldP d base off => Sys2Proof.Machine.execLdP d base off s
  | .stB x => Sys2Proof.Machine.execStB x s
  | .stH x => Sys2Proof.Machine.execStH x s
  | .stW x => Sys2Proof.Machine.execStW x s
  | .stP base off b col => Sys2Proof.Machine.execStP base off b col s
  | .ldV slot base off => Sys2Proof.Machine.execLdV slot base off s
  | .ldVg slot base b ty msk => Sys2Proof.Machine.execLdVg slot base b ty msk s
  | .landingSlotLanded thread slot => Sys2Proof.Machine.execLandingSlotLanded thread slot s
  | .stV base off b col => Sys2Proof.Machine.execStV base off b col s
  | .stVs base b c ty msk col => Sys2Proof.Machine.execStVs base b c ty msk col s
  | .commit d slot => Sys2Proof.Machine.execCommit d slot s
  | .hld d base off => Sys2Proof.Machine.execHld d base off s
  | .hst base off b col => Sys2Proof.Machine.execHst base off b col s
  | .hset d a b k => Sys2Proof.Machine.execHset d a b k s
  | .atAdd x => Sys2Proof.Machine.execAtAdd x s
  | .atMin x => Sys2Proof.Machine.execAtMin x s
  | .atMax x => Sys2Proof.Machine.execAtMax x s
  | .atAnd x => Sys2Proof.Machine.execAtAnd x s
  | .atOr x => Sys2Proof.Machine.execAtOr x s
  | .atXor x => Sys2Proof.Machine.execAtXor x s
  | .atCas d base b c wide col => Sys2Proof.Machine.execAtCas d base b c wide col s
  | .atXchg d x => Sys2Proof.Machine.execAtXchg d x s
  | .atFadd d base off b col => Sys2Proof.Machine.execAtFadd d base off b col s
  | .mark sc => Sys2Proof.Machine.execMark sc s
  | .fence sc mask => Sys2Proof.Machine.execFence sc mask s
  | .probe d p b kind => Sys2Proof.Machine.execProbe d p b kind s
  | .release p b => Sys2Proof.Machine.execRelease p b s
  | .pageRequest thread => Sys2Proof.Machine.execPageRequest thread s
  | .prans v => Sys2Proof.Machine.execPrans v s
  | .rmap n p b => Sys2Proof.Machine.execRmap n p b s
  | .runmap n => Sys2Proof.Machine.execRunmap n s
  | .granuleFill opTile region granule => Sys2Proof.Machine.execGranuleFill opTile region granule s
  | .rflush p b => Sys2Proof.Machine.execRflush p b s
  | .stamp n a => Sys2Proof.Machine.execStamp n a s
  | .wset w p levels imm => Sys2Proof.Machine.execWset w p levels imm s
  | .flCopy x => Sys2Proof.Machine.execFlCopy x s
  | .flXpose x => Sys2Proof.Machine.execFlXpose x s
  | .flPerm x => Sys2Proof.Machine.execFlPerm x s
  | .flGather x => Sys2Proof.Machine.execFlGather x s
  | .flScatter x => Sys2Proof.Machine.execFlScatter x s
  | .flFill x => Sys2Proof.Machine.execFlFill x s
  | .flMcast x => Sys2Proof.Machine.execFlMcast x s
  | .flPatch x => Sys2Proof.Machine.execFlPatch x s
  | .flRope x => Sys2Proof.Machine.execFlRope x s
  | .flPublish x => Sys2Proof.Machine.execFlPublish x s
  | .flPoll x => Sys2Proof.Machine.execFlPoll x s
  | .flCancel x => Sys2Proof.Machine.execFlCancel x s
  | .flumeCommandStart id => Sys2Proof.Machine.execFlumeCommandStart id s
  | .flumePublish id => Sys2Proof.Machine.execFlumePublish id s
  | .vAdd x => Sys2Proof.Machine.execVAdd x s
  | .vSub x => Sys2Proof.Machine.execVSub x s
  | .vMul x => Sys2Proof.Machine.execVMul x s
  | .vFma x => Sys2Proof.Machine.execVFma x s
  | .vFms x => Sys2Proof.Machine.execVFms x s
  | .vMin x => Sys2Proof.Machine.execVMin x s
  | .vMax x => Sys2Proof.Machine.execVMax x s
  | .vAbs x => Sys2Proof.Machine.execVAbs x s
  | .vNeg x => Sys2Proof.Machine.execVNeg x s
  | .vAbd x => Sys2Proof.Machine.execVAbd x s
  | .vMulh x => Sys2Proof.Machine.execVMulh x s
  | .vMadd x => Sys2Proof.Machine.execVMadd x s
  | .vDot x => Sys2Proof.Machine.execVDot x s
  | .vRcp x => Sys2Proof.Machine.execVRcp x s
  | .vRsq x => Sys2Proof.Machine.execVRsq x s
  | .vSqrt x => Sys2Proof.Machine.execVSqrt x s
  | .vExp2 x => Sys2Proof.Machine.execVExp2 x s
  | .vLog2 x => Sys2Proof.Machine.execVLog2 x s
  | .vCvt x src part => Sys2Proof.Machine.execVCvt x src part s
  | .vScl x src scale => Sys2Proof.Machine.execVScl x src scale s
  | .vRnd x => Sys2Proof.Machine.execVRnd x s
  | .vCmp cc d a b ty msk => Sys2Proof.Machine.execVCmp cc d a b ty msk s
  | .vClass d a set ty msk => Sys2Proof.Machine.execVClass d a set ty msk s
  | .vSel x q => Sys2Proof.Machine.execVSel x q s
  | .vAnd x => Sys2Proof.Machine.execVAnd x s
  | .vOr x => Sys2Proof.Machine.execVOr x s
  | .vXor x => Sys2Proof.Machine.execVXor x s
  | .vNot x => Sys2Proof.Machine.execVNot x s
  | .vShl x => Sys2Proof.Machine.execVShl x s
  | .vShr x => Sys2Proof.Machine.execVShr x s
  | .vSra x => Sys2Proof.Machine.execVSra x s
  | .vPopc x => Sys2Proof.Machine.execVPopc x s
  | .vClz x => Sys2Proof.Machine.execVClz x s
  | .vRedAdd x => Sys2Proof.Machine.execVRedAdd x s
  | .vRedMax x => Sys2Proof.Machine.execVRedMax x s
  | .vRedMin x => Sys2Proof.Machine.execVRedMin x s
  | .vScan x => Sys2Proof.Machine.execVScan x s
  | .vPerm x => Sys2Proof.Machine.execVPerm x s
  | .vBcast x b => Sys2Proof.Machine.execVBcast x b s
  | .vBcastScalar nw d b ty msk => Sys2Proof.Machine.execVBcastScalar nw d b ty msk s
  | .vShuf x k => Sys2Proof.Machine.execVShuf x k s
  | .vSlide x c => Sys2Proof.Machine.execVSlide x c s
  | .vBrev x b => Sys2Proof.Machine.execVBrev x b s
  | .vMov x => Sys2Proof.Machine.execVMov x s
  | .vIns d a b ty => Sys2Proof.Machine.execVIns d a b ty s
  | .vGet d a b ty => Sys2Proof.Machine.execVGet d a b ty s
  | .vPack x => Sys2Proof.Machine.execVPack x s
  | .vUnpack x half int4 => Sys2Proof.Machine.execVUnpack x half int4 s
  | .vIota nw d a ty msk => Sys2Proof.Machine.execVIota nw d a ty msk s
  | .qAnd x => Sys2Proof.Machine.execQAnd x s
  | .qOr x => Sys2Proof.Machine.execQOr x s
  | .qXor x => Sys2Proof.Machine.execQXor x s
  | .qNot d a => Sys2Proof.Machine.execQNot d a s
  | .qMov d a => Sys2Proof.Machine.execQMov d a s
  | .qCnt d a ty => Sys2Proof.Machine.execQCnt d a ty s
  | .qFirst d a ty => Sys2Proof.Machine.execQFirst d a ty s
  | .mLease mask => Sys2Proof.Machine.execMLease mask s
  | .leaseGrant tile thread => Sys2Proof.Machine.execLeaseGrant tile thread s
  | .mFree mask => Sys2Proof.Machine.execMFree mask s
  | .mZero acc => Sys2Proof.Machine.execMZero acc s
  | .mWait => Sys2Proof.Machine.execMWait s
  | .mMma x => Sys2Proof.Machine.execMMma x s
  | .mMmas acc a b tyA tyB scale bsz add k => Sys2Proof.Machine.execMMmas acc a b tyA tyB scale bsz add k s
  | .mCellp x => Sys2Proof.Machine.execMCellp x s
  | .mProg a slot => Sys2Proof.Machine.execMProg a slot s
  | .mDrain src a tyD tyS sat rnd => Sys2Proof.Machine.execMDrain src a tyD tyS sat rnd s
  | .mFill acc a ty => Sys2Proof.Machine.execMFill acc a ty s
  | .mAdd acc src ty sat => Sys2Proof.Machine.execMAdd acc src ty sat s
  | .mScale acc a ty => Sys2Proof.Machine.execMScale acc a ty s
  | .mBfly acc a b c is e inv => Sys2Proof.Machine.execMBfly acc a b c is e inv s
  | .mBrev acc src a b c bits => Sys2Proof.Machine.execMBrev acc src a b c bits s
  | .mTwid acc src a b c inv bf16 => Sys2Proof.Machine.execMTwid acc src a b c inv bf16 s
  | .mTmul acc src conj => Sys2Proof.Machine.execMTmul acc src conj s
  | .arrayTurnEnd tile => Sys2Proof.Machine.execArrayTurnEnd tile s
  | .matrixCommandComplete thread => Sys2Proof.Machine.execMatrixCommandComplete thread s
  | .updateOnlyLineEviction tile line => Sys2Proof.Machine.execUpdateOnlyLineEviction tile line s
  | .l2WriteBack line evict => Sys2Proof.Machine.execL2WriteBack line evict s
  | .colourQueuePerform thread col => Sys2Proof.Machine.execColourQueuePerform thread col s
  | .allotRefill tile => Sys2Proof.Machine.execAllotRefill tile s
  | .portSend tile => Sys2Proof.Machine.execPortSend tile s
  | .codeObjectRemoval pasid number => Sys2Proof.Machine.execCodeObjectRemoval pasid number s
  | .tileRetirement tile => Sys2Proof.Machine.execTileRetirement tile s
  | .retiredTileTest tile passes => Sys2Proof.Machine.execRetiredTileTest tile passes s
  | .leaseTimeout thread => Sys2Proof.Machine.execLeaseTimeout thread s
  | .preemptionDeadline thread => Sys2Proof.Machine.execPreemptionDeadline thread s
  | .wkinv v => Sys2Proof.Machine.execWkinv v s
  | .tlbInvalidationComplete => Sys2Proof.Machine.execTlbInvalidationComplete s
  | .qdinv v => Sys2Proof.Machine.execQdinv v s
  | .directoryInvalidationComplete => Sys2Proof.Machine.execDirectoryInvalidationComplete s
  | .sweeperVisit stack => Sys2Proof.Machine.execSweeperVisit stack s
  | .swleave stack v => Sys2Proof.Machine.execSwleave stack v s
  | .swfree stack v => Sys2Proof.Machine.execSwfree stack v s
  | .channelSparing stack channel => Sys2Proof.Machine.execChannelSparing stack channel s
  | .doorbellKick slot offset bytes k => Sys2Proof.Machine.execDoorbellKick slot offset bytes k s
  | .recordRead slot => Sys2Proof.Machine.execRecordRead slot s
  | .waitWordSatisfied slot index => Sys2Proof.Machine.execWaitWordSatisfied slot index s
  | .recordPlacement r => Sys2Proof.Machine.execRecordPlacement r s
  | .chainSuccessorStart slot index => Sys2Proof.Machine.execChainSuccessorStart slot index s
  | .headPassedOver => Sys2Proof.Machine.execHeadPassedOver s
  | .operatorCompletion op => Sys2Proof.Machine.execOperatorCompletion op s
  | .preemption victims => Sys2Proof.Machine.execPreemption victims s
  | .switchOut op => Sys2Proof.Machine.execSwitchOut op s
  | .operatorResume op r => Sys2Proof.Machine.execOperatorResume op r s
  | .withdrawal slot => Sys2Proof.Machine.execWithdrawal slot s
  | .pondRunStart run slot r => Sys2Proof.Machine.execPondRunStart run slot r s
  | .pondRunStop run => Sys2Proof.Machine.execPondRunStop run s
  | .pondRunClaimable run => Sys2Proof.Machine.execPondRunClaimable run s
  | .pondClaim run => Sys2Proof.Machine.execPondClaim run s
  | .prctl v => Sys2Proof.Machine.execPrctl v s
  | .ctxCreate ctx => Sys2Proof.Machine.execCtxCreate ctx s
  | .ctxKill ctx => Sys2Proof.Machine.execCtxKill ctx s
  | .killComplete => Sys2Proof.Machine.execKillComplete s
  | .ctxDestroy ctx => Sys2Proof.Machine.execCtxDestroy ctx s
  | .ctxResumeOperator slot index => Sys2Proof.Machine.execCtxResumeOperator slot index s
  | .ctxEndOperator slot index => Sys2Proof.Machine.execCtxEndOperator slot index s
  | .ctxMigrate ctx => Sys2Proof.Machine.execCtxMigrate ctx s
  | .migrationCheckpoint ctx => Sys2Proof.Machine.execMigrationCheckpoint ctx s
  | .codeObjectLoad img number => Sys2Proof.Machine.execCodeObjectLoad img number s
  | .codeObjectUnload pasid number => Sys2Proof.Machine.execCodeObjectUnload pasid number s
  | .codeObjectQuery pasid number => Sys2Proof.Machine.execCodeObjectQuery pasid number s
  | .blockTranslation pasid number label bundles => Sys2Proof.Machine.execBlockTranslation pasid number label bundles s
  | .riderCoreFailover core => Sys2Proof.Machine.execRiderCoreFailover core s
  | .grantFault core grant offset size write => Sys2Proof.Machine.execGrantFault core grant offset size write s
  | .flitReceive port flit => Sys2Proof.Machine.execFlitReceive port flit s
  | .flitReplay port => Sys2Proof.Machine.execFlitReplay port s
  | .laneCheck port bad => Sys2Proof.Machine.execLaneCheck port bad s
  | .bringUp fails units => Sys2Proof.Machine.execBringUp fails units s
  | .thermalEvent milli => Sys2Proof.Machine.execThermalEvent milli s
  | .thermalShutdown milli => Sys2Proof.Machine.execThermalShutdown milli s
  | .serviceConnection cert => Sys2Proof.Machine.execServiceConnection cert s
  | .serviceConnectionClose conn => Sys2Proof.Machine.execServiceConnectionClose conn s
  | .readBootRecord conn seq body => Sys2Proof.Machine.execReadBootRecord conn seq body s
  | .clearBootRecord conn seq body => Sys2Proof.Machine.execClearBootRecord conn seq body s
  | .readServiceLog conn seq body => Sys2Proof.Machine.execReadServiceLog conn seq body s
  | .readSpeedTable conn seq body => Sys2Proof.Machine.execReadSpeedTable conn seq body s
  | .readRlim conn seq body => Sys2Proof.Machine.execReadRlim conn seq body s
  | .readTelemetry conn seq body => Sys2Proof.Machine.execReadTelemetry conn seq body s
  | .beginFirmwareImage conn seq body => Sys2Proof.Machine.execBeginFirmwareImage conn seq body s
  | .firmwareChunk conn seq body => Sys2Proof.Machine.execFirmwareChunk conn seq body s
  | .commitFirmwareImage conn seq body => Sys2Proof.Machine.execCommitFirmwareImage conn seq body s
  | .registerWrite offset bytes v => Sys2Proof.Machine.execRegisterWrite offset bytes v s
  | .hostCoreAccess core pasid va op => Sys2Proof.Machine.execHostCoreAccess core pasid va op s
  | .pcieDeviceAccess link pasid va op => Sys2Proof.Machine.execPcieDeviceAccess link pasid va op s

end Sys2Proof.Machine
end

