-- ==== Sys2Proof/Machine/Turn.lean ====
section
/-! DEFINITION. The turn of a sequencer: one bundle or word, or the issue of one gated operation (R16, R36, R43, R45,
R49, R310, R320, R331, R358, R369). -/

namespace Sys2Proof.Machine

/-! ## Operation keys and the op-shape hash (R26, R320) -/

/-- The operation key of an operation word. -/
def opKeyOf (i : Instr) : Option Tag :=
  (encFields i).map fun
    | .T f => opk f.key f.ty
    | .I f => opk f.key 0
    | .K f => opk f.key 0
    | .B f => opk f.key 0
    | .D f => opk f.key 0
    | .M f => opk f.key f.tyA

/-- What an operation word adds to the op-shape hash. -/
def shapeOf (i : Instr) : W32 :=
  match i with
  | .nop | .sealOp _ => 0
  | i => match opKeyOf i with
    | some k => mix k 0
    | none => 0

/-! ## Fault injection (R330, R331) -/

/-- Operand field `n` of a word: opA, opB, opC (R27 to R32). In format D, whose fields have other names, hD, hS and opC
stand for them (DESIGN CHOICE, log entry 71). -/
def encField : Enc → Nat → Option Nat
  | .T f, 0 => some f.a
  | .T f, 1 => some f.b
  | .T f, 2 => some f.c
  | .I f, 0 => some f.a
  | .I f, 1 => some f.b
  | .K f, 0 => some f.a
  | .B f, 0 => some f.a
  | .D f, 0 => some f.a
  | .D f, 1 => some f.b
  | .D f, 2 => some f.c
  | .M f, 0 => some f.a
  | .M f, 1 => some f.b
  | _, _ => none

/-- The word with operand field `n` replaced. -/
def encSet (e : Enc) (n v : Nat) : Enc :=
  match e, n with
  | .T f, 0 => .T { f with a := v }
  | .T f, 1 => .T { f with b := v }
  | .T f, 2 => .T { f with c := v }
  | .I f, 0 => .I { f with a := v }
  | .I f, 1 => .I { f with b := v }
  | .K f, 0 => .K { f with a := v }
  | .B f, 0 => .B { f with a := v }
  | .D f, 0 => .D { f with a := v }
  | .D f, 1 => .D { f with b := v }
  | .D f, 2 => .D { f with c := v }
  | .M f, 0 => .M { f with a := v }
  | .M f, 1 => .M { f with b := v }
  | e, _ => e

/-- Operand fields that hold no register: the landing slot of `ld.v` (R28, R183), and opA and opB of the butterfly
commands (file 09). -/
def plainField (i : Instr) (n : Nat) : Bool :=
  match i with
  | .mBfly _ _ _ _ _ _ _ | .mBrev _ _ _ _ _ _ | .mTwid _ _ _ _ _ _ _ | .mTmul _ _ _ => true
  | .ldV _ _ _ => n = 1
  | _ => false

/-- The operation as a fault injection has it read another register, if the target qualifies: the field holds a
register index, and the decoder takes the substituted one; no XOR of at most 15 leaves a register class. -/
def injected (fm : Form) (i : Instr) (field delta : Nat) : Option Instr :=
  match encFields i with
  | none => none
  | some e =>
    match encField e field with
    | none => none
    | some old =>
      let dec (v : Nat) : Option Instr :=
        match decodeWord fm (BitVec.ofNat 64 (encSet e field v).word) with
        | .ok j => some j
        | .error _ => none
      if delta = 0 || 128 ≤ old || plainField i field || (dec 127).isSome then none
      else if dec (old ^^^ delta) = some i then none else dec (old ^^^ delta)

/-- The offset of the unit a sequencer stands at from its block's first (R43, R330). -/
def unitOffset (s : State) (t : Thread) : Nat := (t.pc.toNat - (firstUnit s t).toNat) / unitBytes t.form

/-- The operations of a unit with the armed shot applied, and whether it was spent. -/
def injectUnit (s : State) (t : Thread) (is : List Instr) : List Instr × Bool :=
  let f := t.finj.toNat
  let label := bits f 15 0
  if !t.shot || label = 0 || bits f 23 16 ≠ unitOffset s t || (blockLabel s t t.pc.toNat).toNat ≠ label then (is, false)
  else
    let slot := if t.form = .native then bits f 27 26 else 0
    match is[slot]? with
    | none => (is, false)
    | some i => match injected t.form i (bits f 25 24) (bits f 31 28) with
      | some j => (is.set slot j, true)
      | none => (is, false)

/-! ## The vector registers a unit names (R166, R366) -/

def vSrcReg : VSrc → List (Fin 96)
  | .reg n => [n]
  | _ => []
def vDstReg : VDst → List (Fin 96)
  | .reg n => [n]
  | _ => []

/-- The vector registers an operation reads or writes. -/
def vRegs (i : Instr) : List (Fin 96) := (vDsts i).flatMap vDstReg ++ (vSrcs i).flatMap vSrcReg

/-- A unit claims the banks of the registers it names of a victim. -/
def claimUnit (s : State) (t : Thread) (is : List Instr) : State :=
  match is.flatMap vRegs with
  | [] => s
  | rs => claimBanks s t (rs.map (·.val / 12))

/-! ## A unit -/

/-- Executes the operations of a unit in slot order; it ends early where the sequencer no longer stands in it. -/
def runSlots : List Instr → State → Host.Outcome State Fault Refusal
  | [], s => .next s
  | i :: is, s =>
    match exec i s with
    | .next s' =>
      match mfind s'.threads s'.cur with
      | some t => if t.flow = .normal then runSlots is s' else .next s'
      | none => .next s'
    | r => r

/-- Why a unit's bytes cannot be fetched (R72): its page is missing, malformed or not readable. A seal of a Jexcy block
is four words. The fetch walks the tables, and no TLB entry and no accessed bit comes of it (DESIGN CHOICE, log entry 84). -/
def fetchBad (s : State) (t : Thread) : Option Walk :=
  let a := t.pc.toNat
  let pasid := t.launch.pasid.toNat
  let long := t.form = .jexcy && isSealWord ((peekWord s pasid a).getD 0)
  (if long then [a, a + 24] else [a]).findSome? fun a =>
    match walk s pasid a with
    | .leaf _ _ e => if bit e 2 then none else some .missing
    | w => some w

/-- A fetch that fails is "translation fatal" (R72); a malformed entry is noted in WKERR (R69). -/
def fetchTrap (s : State) (k : Nat) (t : Thread) : Walk → State
  | .hole => { s with hole := true }
  | .malformed a => raiseTrap (noteMalformed s (terraceOf t.tile) a) k t .translation 0
  | _ => raiseTrap s k t .translation 0

/-- The sequencer past a unit (R36, R43, R320). -/
def endUnit (t : Thread) (is : List Instr) : Thread :=
  { t with
    pc := t.pc + BitVec.ofNat 64 (unitBytes t.form)
    blk := { t.blk with unit := t.blk.unit + 1, shape := is.foldl (fun a i => a + shapeOf i) t.blk.shape } }

/-- One bundle or word of the sequencer `k`, which `t` is. -/
def runUnit (s : State) (k : Nat) (t : Thread) : Host.Outcome State Fault Refusal :=
  let s := { s with cur := k }
  let t1 := ({ t with flow := .normal } : Thread).tick
  if !s.codeHas t t.pc then .next (raiseTrap s k t1 .illegal 0)
  else if (fetchBad s t1).isSome then .next (fetchTrap s k t1 ((fetchBad s t1).getD .missing))
  else match fetchUnit s t1 t1.pc.toNat with
  | .error _ => .next (raiseTrap s k t1 .illegal 0)
  | .ok is0 =>
    let (is, spent) := injectUnit s t1 is0
    let t1 := { t1 with shot := t1.shot && !spent }
    match runSlots is ((claimUnit s t1 is).setThread k t1) with
    | .next s' =>
      match mfind s'.threads k with
      | none => .next s'
      | some t2 =>
        match t2.flow with
        | .normal => .next ((s'.setThread k (endUnit t2 is0)).dropOwner (.unit k))
        | .stalled n => .next (s'.setThread k (t.stall n))
        | .redirected => .next (s'.dropOwner (.unit k))
    | r => r

/-- A sequencer stops before its next block (R365, R371); the gated operation it waits for keeps its place; the last one to stop settles a trap. -/
def stopThread (s : State) (k : Nat) (t : Thread) : State :=
  settleTrap (s.setThread k { t with run := .stopped, flow := .redirected, parked := t.issue.head?.map (·.ord) }) t.op

/-- One turn of a sequencer at a seal: the first of its gated operations issues (R310). While the tile is being retired every gated operation issues before the sequencer stops (R328). -/
def issueTurn (s : State) (k : Nat) (t : Thread) : Host.Outcome State Fault Refusal :=
  let t := { t with flow := .normal, waited := false, waitEnd := if t.waited then s.time.toNat else t.waitEnd }
  let s := { s.setThread k t with cur := k }
  let stopping := (mfind s.ops t.op).any (·.stopping) && !(s.tile t.tile).retiring
  let waits (s : State) (t : Thread) : State := s.setThread k { t.stall .other with waited := true }
  match t.issue with
  | g :: _ =>
    match exec g.instr s with
    | .next s' =>
      match mfind s'.threads k with
      | none => .next s'
      | some t' => .next (match t'.flow with
        | .stalled _ => if stopping then stopThread s' k t' else s'.setThread k { t' with waited := true }
        | _ => s')
    | r => r
  | [] =>
    if pendingResults t then .next (if stopping then stopThread s k t else waits s t)
    else if seqStops s t then .next (stopThread s k t)
    else .next (s.setThread k (finishIssue s t))

/-- The waiting gated operation of a sequencer that is switched out keeps running; its result is kept, and no later
operation of the block issues (R365). -/
def parkedTurn (s : State) (k : Nat) (t : Thread) : Host.Outcome State Fault Refusal :=
  match t.parked, t.issue with
  | some o, g :: _ =>
    if g.ord ≠ o then .next s
    else
      match exec g.instr { s.setThread k { t with run := .issuing, flow := .normal } with cur := k } with
      | .next s' =>
        match mfind s'.threads k with
        | some t' =>
          if t'.run = .issuing then
            .next (s'.setThread k { t' with
              run := t.run, flow := .redirected, parked := if t'.issue.head? = some g then some o else none })
          else .next s'
        | none => .next s'
      | r => r
  | _, _ => .next s

/-- Whether a sequencer is one of a predicted run that is stopping (R358). -/
def runStopping (s : State) (t : Thread) : Bool := (s.pondOf t.op).any (·.2.stopping)

/-- One turn of a sequencer. One of a stopped run executes nothing (R358); one past its deadline takes it (R369). -/
def threadTurn (s : State) (k : Nat) : Host.Outcome State Fault Refusal :=
  match mfind s.threads k with
  | none => .next s
  | some t =>
    if runStopping s t then .next s
    else match t.run with
    | .running => if pastDeadline s t then .next (raiseTrap s k t .deadline 0) else runUnit s k t
    | .issuing => issueTurn s k t
    | .stopped | .out => if released s t then issueTurn s k { t with run := .issuing, parked := none } else parkedTurn s k t
    | .exited => .next s

end Sys2Proof.Machine
end

