-- ==== Sys2Proof/Machine/Schedule.lean ====
section
/-! DEFINITION. What the next step does: the agenda, or with an empty agenda the model's own order of sequencers and
device events (log entry 2); the placing of an instruction where the next step fetches it. -/

namespace Sys2Proof.Machine

/-! ## Device events that may come next -/

/-- Events of one sequencer. -/
def threadEvents (e : Nat × Thread) : List Instr :=
  let t := e.2
  ((List.finRange 8).filter fun c => t.queues[c] ≠ []).map (.colourQueuePerform e.1)
    ++ ((List.finRange 32).filter fun n => t.regs.slots[n].state = .pending).map (.landingSlotLanded e.1)
    ++ (if t.mq = [] then [] else [.matrixCommandComplete e.1])
    ++ (match t.issue.head?.map (·.instr) with
      | some (.waitA _ _ _ _) => [.waitAWake e.1]
      | some (.probe _ _ _ _) => [.pageRequest e.1]
      | _ => [])
    ++ (match t.flow with
      | .stalled (.fill ot r g) => [.granuleFill ot r g]
      | _ => [])
    ++ [.leaseTimeout e.1, .preemptionDeadline e.1]

/-- Events of one tile. -/
def tileEvents (e : Nat × Tile) : List Instr :=
  (e.2.leaseQ.map fun r => .leaseGrant e.1 r.thread) ++ (if e.2.turn.isSome then [.arrayTurnEnd e.1] else [])
    ++ (e.2.uol.map fun u => .updateOnlyLineEviction e.1 u.1)
    ++ (if e.2.retiring && !e.2.gone then [.tileRetirement e.1] else [])
    ++ (if e.2.portQ = [] then [] else [.portSend e.1, .allotRefill e.1])

/-- Events of one operator. -/
def opEvents (s : State) (e : Nat × Operator) : List Instr :=
  match e.2.state with
  | .started => [.operatorCompletion e.1, .switchOut e.1, .preemption [e.1]]
  | .ending _ => [.operatorCompletion e.1]
  | .out => [.operatorResume e.1 (firstFit s (e.2.shape s))]
  | .held | .reserved => []

/-- Events of one record. -/
def recEvents (e : Nat × Rec) : List Instr :=
  match e.2.state with
  | .waiting => [.waitWordSatisfied e.2.slot e.2.index]
  | .ready => [.chainSuccessorStart e.2.slot e.2.index]
  | _ => []

/-- Events of the front end. -/
def frontEvents (s : State) : List Instr :=
  (s.queues.filter fun q => q.2.valid).flatMap (fun q => [.withdrawal q.1, .recordRead q.1])
    ++ s.recs.flatMap recEvents
    ++ (match nextItem s with
      | some a => if a.isOp then [] else [.recordPlacement (firstFit s a.shape)]
      | none => [])
    ++ [.headPassedOver]
    ++ (match poolHead s with
      | some _ => [.preemption (s.ops.map (·.1))]
      | none => [])
    ++ (List.finRange 4).flatMap (fun i => [.pondRunStop i, .pondRunClaimable i, .pondClaim i])
    ++ (if prEnable s then (s.queues.filter fun q => q.2.valid).flatMap fun q =>
        match predictedRec s q.1 q.2 with
        | some (x, _) => (List.finRange 4).map fun i => .pondRunStart i q.1 (firstFit s (x.shape s))
        | none => []
      else [])

/-- The device events that may come next, in the model's own order; a publish comes before the start of a command. -/
def candidates (s : State) : List Instr :=
  s.threads.flatMap threadEvents ++ s.tiles.flatMap tileEvents
    ++ s.flumes.map (fun c => .flumePublish c.1) ++ s.flumes.map (fun c => .flumeCommandStart c.1)
    ++ s.ops.flatMap (opEvents s) ++ frontEvents s
    ++ [.killComplete, .tlbInvalidationComplete, .directoryInvalidationComplete]
    ++ ((s.ops.map fun o => o.2.ctx) ++ (s.queues.map fun q => q.2.ctx)).eraseDups.map .migrationCheckpoint
    ++ (s.objs.filter fun o => o.2.pending).map (fun o => .codeObjectRemoval o.2.pasid o.2.number)
    ++ ((List.finRange 8).filter fun k => sweepsNow s.sweepers[k]).map .sweeperVisit

/-- The first event that changes the machine. -/
def firstEvent (s : State) : Option State :=
  (candidates s).findSome? fun i =>
    match exec i s with
    | .next s' => if s' = s then none else some s'
    | _ => none

/-! ## Sequencers in turn -/

/-- Whether a sequencer has something to do. -/
def Thread.live (t : Thread) : Bool :=
  match t.run with
  | .running | .issuing => true
  | .stopped | .out => t.parked.isSome && t.parked == t.issue.head?.map (·.ord)
  | .exited => false

def Thread.ready (t : Thread) : Bool := t.flow = .normal && t.live

/-- The next sequencer with something to do, after the one whose turn has ended; its turn comes next. -/
def rotate (s : State) : State :=
  let live := s.threads.filter fun e => e.2.live
  match (live.find? fun e => s.cur < e.1) <|> live.head? with
  | some (k, t) => { s.setThread k { t with flow := .normal } with cur := k }
  | none => s

/-- A turn with an empty agenda: the sequencer whose words run goes on; between its turns one device event takes
place, and the next sequencer follows. -/
def defaultTurn (s : State) : Host.Outcome State Fault Refusal :=
  if (mfind s.threads s.cur).any fun t => t.ready && !runStopping s t then threadTurn s s.cur
  else .next (rotate ((firstEvent s).getD s))

/-- A turn of the agenda, or by default. Without power only bring-up acts (R397, R398). -/
def oneTurn (s : State) : Host.Outcome State Fault Refusal :=
  match s.agenda with
  | [] => if s.off then .next s else defaultTurn (refillPorts { s with time := s.time + 1 })
  | a :: rest =>
    let s := refillPorts { s with agenda := rest, time := s.time + BitVec.ofNat 64 a.ticks }
    match a.who with
    | .event (.bringUp fs us) => exec (.bringUp fs us) s
    | .event i => if s.off then .next s else exec i s
    | .thread k => if s.off then .next s else threadTurn s k

/-- The idle time of a lease counts from the step that made it idle (R245); `s0` is the machine before the step. -/
def keepLeases (s0 s : State) : State :=
  if s.tiles.all fun t => t.2.leaseQ = [] then s
  else { s with threads := s.threads.map fun e =>
    if leaseIdle s e.1 e.2 && !((mfind s0.threads e.1).any fun t => leaseIdle s0 e.1 t) then
      (e.1, { e.2 with leaseSince := s.time.toNat })
    else e }

/-! ## The capacities of the caches (R2, R89) -/

/-- Whether no cache can hold more than its capacity. -/
def cachesFit (s : State) : Bool :=
  s.l2.length ≤ Config.hostLines && s.tiles.all fun t => t.2.l1.length + t.2.uol.length ≤ Config.l1Lines

/-- The oldest read copies leave an L1 that is full. Its update-only lines leave through the port alone, and never fill it
(R94, R437, `uolRoom`). -/
def trimL1 (s : State) (tile : Nat) : State :=
  let t := s.tile tile
  s.setTile tile { t with l1 := t.l1.take (Config.l1Lines - t.uol.length) }

/-- The lines homed on a terrace beyond its L2's capacity are written back and given up with every copy (R90, R91). -/
def trimL2 (s : State) (ter : Nat) : State :=
  let ls := (s.l2.map (·.1)).filter fun l => homeTerrace (64 * l) = ter
  (ls.drop Config.l2Lines).foldl (fun s l => dropLine (writeBackLine s l) l) s

/-- The lines beyond a remote-data cache's capacity leave it and the L1s of its terrace (R91). -/
def trimRemote (s : State) (ter : Nat) : State :=
  let out := ((s.l2.filter fun e => e.2.remote.contains ter).map (·.1)).drop Config.remoteLines
  { s with
    l2 := s.l2.map fun e => if out.contains e.1 then (e.1, { e.2 with remote := e.2.remote.filter (· ≠ ter) }) else e
    tiles := s.tiles.map fun e =>
      if terraceOf e.1 = ter then (e.1, { e.2 with l1 := e.2.l1.filter fun l => !out.contains l }) else e }

/-- The lines beyond the host cache's capacity leave it (R383). -/
def trimHost (s : State) : State :=
  let out := ((s.l2.filter fun e => e.2.host).map (·.1)).drop Config.hostLines
  { s with l2 := s.l2.map fun e => if out.contains e.1 then (e.1, { e.2 with host := false }) else e }

/-- Every cache within its capacity; which lines it keeps is not architectural (R89). -/
def keepCaches (s : State) : State :=
  if cachesFit s then s
  else
    let s := (s.tiles.map (·.1)).foldl trimL1 s
    trimHost (([0, 1, 2, 3] : List Nat).foldl trimRemote (([0, 1, 2, 3] : List Nat).foldl trimL2 s))

/-! ## What follows every step -/

/-- An error of the list that needs no access to strike: one that a spill has met ends the operator's context (R367), a
corrected one of an SRAM row is counted (R395). -/
def settleError (s : State) (e : HwError) : State :=
  let s' := { s with hwErrors := s.hwErrors.erase e }
  match e with
  | .spilled op =>
    match (s'.threadsOf op).head? with
    | some x => raiseTrapFor s' x.1 x.2 .dataError 0 none
    | none => s'
  | .row r => { s' with svc := { s'.svc with rowErrors := mput s'.svc.rowErrors r (mget 0 s'.svc.rowErrors r + 1) } }
  | .load _ | .slotParity _ | .storeParity _ | .home _ | .accum _ | .table _ | .flume _ | .spill _ => s

/-- What the device does by itself at the end of any step, `s0` being the machine before it: waiting atomics enter the lines that have become free (R93),
errors take effect, turns at the array end with their commands (R244), idle leases are
timed (R245), the caches keep within their capacities. -/
def afterStep (s0 s : State) : State :=
  let s := startWaiting s
  keepCaches (keepLeases s0 (keepTurns (s.hwErrors.foldl settleError s)))

/-! ## The placing of an instruction (log entry 3) -/

/-- A seal group that closes a block of `n` units under label 1 with every declared figure at its limit. -/
def placedSeal (n : Nat) : List W64 :=
  encode (.sealOp { shape := 0, ind := 0, own := 1, taken := 0, fall := 0, sig := 0, len := BitVec.ofNat 8 (n - 1),
                    vectors := 32, stores := 512, gated := 8, lend := false })

/-- The words that stand at the program counter: the instruction, and what closes its block. -/
def placedWords (w : Nat) : List W64 :=
  let ws := (List.range 4).map (tableWord w)
  if isSealWord (tableWord w 0) then ws else [tableWord w 0, 0] ++ placedSeal 3

/-- Little-endian words as bytes from an address on. -/
def putWords (m : List Host.Cell) (a : Nat) : List W64 → List Host.Cell
  | [] => m
  | w :: ws => putWords (writeBytes m a (leBytes 8 w.toNat)) (a + 8) ws

/-- The page tables under which the placed code at 0x10000 stands in the frame at 0x200000 (R66 to R68). -/
def placedTables (m : List Host.Cell) : List Host.Cell :=
  let m := putWords m 0x100000 [0x101001, 0]
  let m := putWords m 0x101000 [0x102001]
  let m := putWords m 0x102000 [0x103001]
  let m := putWords m 0x103000 [0x104001]
  let m := putWords m 0x104000 [0x105001]
  putWords m 0x105008 [0x200017]

/-- A machine whose next step fetches and runs an instruction: a sequencer of an operator at its program counter. -/
def placeWord (s : State) (w : Nat) : State :=
  let ws := placedWords w
  let o : CodeObj := { pasid := 0, number := 1, jexBase := 0x10000, jexLen := 8 * ws.length, entries := [1] }
  let t : Thread :=
    { op := 0, ltile := 0, seq := 0, tile := 0, pseq := 0, pc := 0x10000
      regs := { ({} : Regs) with preds := { taken := 1 } }, launch := { obj := 1 } }
  { s with
    cur := 0, agenda := [], hole := false, off := false, l2 := []
    mem := putWords (placedTables s.mem) 0x200000 ws
    basin := { s.basin with wkptb := 0x100000 }
    objs := mput s.objs (objKey 0 1) o
    ops := mput s.ops 0 { slot := 0, index := 0, ctx := 0, pasid := 0, obj := 1, tiles := [(0, 0)] }
    threads := mput s.threads 0 t.begin
    nextOp := max s.nextOp 1 }

end Sys2Proof.Machine
end

