-- ==== Sys2Proof/Machine/Step.lean ====
section
/-! DEFINITION. One step of the device, and the placing of an instruction for the next step. -/

namespace Sys2Proof.Machine

/-- One step: a turn; a device access that met a hole of the physical address space stops the machine (R64). -/
def step (s : State) : Host.Outcome State Fault Refusal :=
  match oneTurn s with
  | .next s' => if s'.hole then .fault .physicalHole else .next (afterStep s s')
  | r => r

/-- `s` with an instruction of the opcode table where the next step fetches it. -/
def State.withFetchWord (s : State) (nbits w : Nat) : State := placeWord s (w % 2 ^ nbits)

end Sys2Proof.Machine
end

