-- ==== Sys2Proof/Certificates/Slice0/Obligations.lean ====
section
/-! DEFINITION. The statements for the provers, by family. `Sys2Proof.Says` holds the words they are made of. -/

namespace Sys2Proof.Says
open Sys2Proof Sys2Proof.Machine

/-- The sequencer whose words run. -/
def Running (s : State) (t : Thread) : Prop := mfind s.threads s.cur = some t

/-- `i` completes: the sequencer that runs is then `t'`, and nothing else of the device changes. -/
def Makes (s : State) (i : Instr) (t' : Thread) : Prop := exec i s = .next (s.setThread s.cur t')

/-- `i` completes with one s register's result `v` and the tag `g`, `lat` and `reg` units after it issues. -/
def MakesS (s : State) (t : Thread) (i : Instr) (nw : Bool) (d : Fin 64) (lat reg : Nat) (v : W32) (g : Tag) : Prop :=
  Makes s i (putS t lat reg nw d v g)

/-- `i` raises a trap of class `c` in the sequencer that runs. -/
def Traps (s : State) (t : Thread) (i : Instr) (c : TrapClass) : Prop :=
  exec i s = .next (raiseTrap s s.cur t c 0)

/-- The key of an operation: its class and opcode, and its type (R26, R189). -/
def key (op ty : Nat) : Tag := BitVec.ofNat 32 (op * 16 + ty)

/-- A byte as an access of a cached or an uncached page finds it at its home (R90). -/
def byteAt (s : State) (cached : Bool) (pa : Nat) : Byte := if cached then homeByte s pa else readByte s.mem pa

/-- The number that `n` bytes hold. -/
def numAt (s : State) (cached : Bool) (pa n : Nat) : Nat := leOf ((List.range n).map fun i => byteAt s cached (pa + i))

/-- The number of bits of `a` that are 1. -/
def ones (a : W32) : Nat := ((List.range 32).filter fun i => a.getLsbD i).length

end Sys2Proof.Says

open Sys2Proof Sys2Proof.Machine Sys2Proof.Says

/-! ## Scalar arithmetic (file 07) -/

/-- R188, R189, R191 to R194: the result, the times and the tag of each operation of two scalar sources. -/
def Obligations.ScalarTwoSourceResults : Prop :=
  ∀ (s : State) (t : Thread) (x : S3) (a b : W32) (ta tb : Tag),
    Running s t → readS t x.a = .ok (a, ta) → readS t x.b = .ok (b, tb) →
    let gives (i : Instr) (op lat reg : Nat) (v : W32) :=
      MakesS s t i x.nw x.d lat reg v (mix (mix (mix (key op 0) ta) tb) 0)
    gives (.add x) 0x100 1 2 (BitVec.ofNat 32 (a.toNat + b.toNat))
    ∧ gives (.sub x) 0x101 1 2 (BitVec.ofInt 32 (a.toNat - b.toNat))
    ∧ gives (.mul x) 0x104 3 4 (BitVec.ofNat 32 (a.toNat * b.toNat))
    ∧ gives (.mulh x) 0x105 3 4 ((a.signExtend 64 * b.signExtend 64).extractLsb' 32 32)
    ∧ gives (.mulhz x) 0x106 3 4 ((a.setWidth 64 * b.setWidth 64).extractLsb' 32 32)
    ∧ gives (.div x) 0x108 12 13
        (if b = 0 then BitVec.allOnes 32 else BitVec.ofInt 32 (a.toInt.tdiv b.toInt))
    ∧ gives (.divz x) 0x109 12 13 (if b = 0 then BitVec.allOnes 32 else a / b)
    ∧ gives (.rem x) 0x10A 12 13 (if b = 0 then a else BitVec.ofInt 32 (a.toInt.tmod b.toInt))
    ∧ gives (.remz x) 0x10B 12 13 (if b = 0 then a else a % b)
    ∧ gives (.and x) 0x110 1 2 (a &&& b)
    ∧ gives (.or x) 0x111 1 2 (a ||| b)
    ∧ gives (.xor x) 0x112 1 2 (a ^^^ b)
    ∧ gives (.shl x) 0x118 1 2 (BitVec.ofNat 32 (a.toNat * 2 ^ b.toNat))
    ∧ gives (.shr x) 0x119 1 2 (BitVec.ofNat 32 (a.toNat / 2 ^ b.toNat))
    ∧ gives (.sra x) 0x11A 1 2 (BitVec.ofInt 32 (a.toInt / 2 ^ b.toNat))
    ∧ gives (.min x) 0x120 1 2 (BitVec.ofInt 32 (min a.toInt b.toInt))
    ∧ gives (.max x) 0x121 1 2 (BitVec.ofInt 32 (max a.toInt b.toInt))
    ∧ gives (.minz x) 0x122 1 2 (BitVec.ofNat 32 (min a.toNat b.toNat))
    ∧ gives (.maxz x) 0x123 1 2 (BitVec.ofNat 32 (max a.toNat b.toNat))
    ∧ ∀ c : Fin 4, MakesS s t (.sel x c) x.nw x.d 1 2 (if t.regs.c[c] then a else b)
        (mix (mix (mix (key 0x124 0) ta) tb) t.regs.cTag[c])

/-- R189, R191, R193: the operations with an immediate. -/
def Sys2Proof.Says.ScalarImmediateResults : Prop :=
  ∀ (s : State) (t : Thread) (x : SK) (a : W32) (ta : Tag),
    Running s t → readS t x.a = .ok (a, ta) →
    let gives (i : Instr) (op : Nat) (v : W32) :=
      MakesS s t i x.nw x.d 1 2 v (mix (mix (mix (key op 0) ta) x.imm) 0)
    gives (.addi x) 0x102 (BitVec.ofNat 32 (a.toNat + x.imm.toNat))
    ∧ gives (.andi x) 0x114 (a &&& x.imm)
    ∧ gives (.ori x) 0x115 (a ||| x.imm)
    ∧ gives (.xori x) 0x116 (a ^^^ x.imm)
    ∧ gives (.shli x) 0x11C (BitVec.ofNat 32 (a.toNat * 2 ^ x.imm.toNat))
    ∧ gives (.shri x) 0x11D (BitVec.ofNat 32 (a.toNat / 2 ^ x.imm.toNat))
    ∧ gives (.srai x) 0x11E (BitVec.ofInt 32 (a.toInt / 2 ^ x.imm.toNat))

/-- R189, R196 to R198: counts, moves, extensions and constants. The zero counts are given by what they count. -/
def Sys2Proof.Says.ScalarOneSourceResults : Prop :=
  ∀ (s : State) (t : Thread) (x : S2) (a : W32) (ta : Tag),
    Running s t → readS t x.a = .ok (a, ta) →
    let gives (i : Instr) (op : Nat) (v : W32) (c : Tag) :=
      MakesS s t i x.nw x.d 1 2 v (mix (mix (mix (key op 0) ta) 0) c)
    (∃ n ≤ 32, gives (.clz x) 0x128 (BitVec.ofNat 32 n) 0 ∧ (∀ i, 32 - n ≤ i → a.getLsbD i = false)
        ∧ (n < 32 → a.getLsbD (31 - n) = true))
    ∧ (∃ n ≤ 32, gives (.ctz x) 0x129 (BitVec.ofNat 32 n) 0 ∧ (∀ i < n, a.getLsbD i = false)
        ∧ (n < 32 → a.getLsbD n = true))
    ∧ gives (.popc x) 0x12A (BitVec.ofNat 32 (ones a)) 0
    ∧ gives (.mov x) 0x132 a 0
    ∧ (∀ w : Fin 32, w ≠ 0 →
        gives (.extZ x w) 0x135 (BitVec.ofNat 32 (a.toNat % 2 ^ w.val)) (BitVec.ofNat 32 w.val)
        ∧ gives (.extS x w) 0x134
            (BitVec.ofInt 32 (if a.getLsbD (w.val - 1) then (a.toNat % 2 ^ w.val : Nat) - (2 ^ w.val : Nat)
              else (a.toNat % 2 ^ w.val : Nat))) (BitVec.ofNat 32 w.val))
    ∧ ∀ (nw : Bool) (d : Fin 64) (imm : W32),
        MakesS s t (.li nw d imm) nw d 1 2 imm (mix (mix (mix (key 0x130 0) 0) imm) 0)

/-- R189, R191 to R198: the scalar operations of one source and of an immediate. -/
def Obligations.ScalarImmediateAndUnaryResults : Prop :=
  Says.ScalarImmediateResults ∧ Says.ScalarOneSourceResults

/-- R189, R197, R199: the pair operations; `P n` is the value of the pair, low register first. -/
def Sys2Proof.Says.PairResults : Prop :=
  ∀ (s : State) (t : Thread), Running s t →
    let P (n : Fin 32) : Nat := (t.regs.s[2 * n.val]).toNat + 2 ^ 32 * (t.regs.s[2 * n.val + 1]).toNat
    let lin (n : Fin 32) : Tag := mix t.regs.sTag[2 * n.val] t.regs.sTag[2 * n.val + 1]
    let gives (i : Instr) (d : Fin 32) (v : W64) (g : Tag) := Makes s i (putPair t 2 d v g)
    (∀ d imm, gives (.lui d imm) d (BitVec.ofNat 64 (imm.toNat * 2 ^ 32)) (mix (mix (mix (key 0x131 0) 0) imm) 0))
    ∧ (∀ x : P3, gives (.addP x) x.d (BitVec.ofNat 64 (P x.a + P x.b))
        (mix (mix (mix (key 0x138 0) (lin x.a)) (lin x.b)) 0))
    ∧ (∀ d a imm, gives (.addiP d a imm) d (BitVec.ofInt 64 (P a + imm.toInt))
        (mix (mix (mix (key 0x139 0) (lin a)) imm) 0))
    ∧ (∀ x : P3, gives (.subP x) x.d (BitVec.ofInt 64 ((P x.a : Int) - P x.b))
        (mix (mix (mix (key 0x13A 0) (lin x.a)) (lin x.b)) 0))
    ∧ ∀ d a b n tb, readS t b = .ok (n, tb) →
        gives (.shlP d a b) d (BitVec.ofNat 64 (P a * 2 ^ n.toNat)) (mix (mix (mix (key 0x13B 0) (lin a)) tb) 0)

/-- R200: the address `lea.h` writes, for a handle of global memory and for one of a region. -/
def Sys2Proof.Says.LeaHResults : Prop :=
  ∀ (s : State) (t : Thread) (d h : Fin 32) (b : Fin 64) (hb : b.val ≤ 61), Running s t →
    let r := t.regs.h[h]
    let i0 := (t.regs.s[b.val]).toInt
    let i1 := (t.regs.s[b.val + 1]).toInt
    let i2 := (t.regs.s[b.val + 2]).toInt
    let off := elemOff r i0 i1 i2
    let nb : Int := if hFormat r = 13 then 1 else elemBytes r
    let g := mix (mix (mix (key 0x13C 0) t.regs.hTag[h]) (mix t.regs.sTag[b.val] t.regs.sTag[b.val + 1]))
      t.regs.sTag[b.val + 2]
    let size : Int := (regionOf (s.opTile t.ot) (hRegion r)).size.toNat * 4096
    ((hMalformed r = true ∨ hEmpty r = true) → Traps s t (.leaH d h b) .illegal)
    ∧ (hMalformed r = false → hEmpty r = false → hScr r = false → 0 ≤ hBase r + off → hBase r + off + nb ≤ 2 ^ 57 →
        Makes s (.leaH d h b) (putPair t 2 d (BitVec.ofInt 64 (hBase r + off)) g))
    ∧ (hMalformed r = false → hEmpty r = false → hScr r = false → (hBase r + off < 0 ∨ 2 ^ 57 < hBase r + off + nb) →
        Traps s t (.leaH d h b) .translation)
    ∧ (hMalformed r = false → hEmpty r = false → hScr r = true → hField r 56 28 = 0 → 0 < size →
        0 ≤ hOffset r + off → hOffset r + off + nb ≤ size →
        Makes s (.leaH d h b) (putPair t 2 d (BitVec.ofInt 64 (2 ^ 63 + hRegion r * 2 ^ 22 + (hOffset r + off))) g))

/-- R189, R197, R199, R200: the pair operations and `lea.h`. -/
def Obligations.PairAndAddressResults : Prop :=
  Says.PairResults ∧ Says.LeaHResults

/-- R167, R188, R33, R35, R45, R319: where a single result goes. In the Jexcy form it is in its register at once, or
nowhere for s0; in native code it reaches the latches `lat` units and the register `reg` units after the bundle. Its
tag is added to the data signature once, but for a discarded write to s0, whose tag stays 0 (that this adds 0 is log
entry 50). Nothing else of the sequencer changes. -/
def Sys2Proof.Says.SingleResult : Prop :=
  ∀ (t : Thread) (lat reg : Nat) (nw : Bool) (d : Fin 64) (v : W32) (g : Tag),
    let sig := t.blk.sig + if nw = false ∧ d = 0 then 0 else g
    (t.form = .jexcy →
      putS t lat reg nw d v g = { t with
        regs := if nw || d = 0 then t.regs else
          { t.regs with s := t.regs.s.set d v, sTag := t.regs.sTag.set d g }
        blk := { t.blk with sig := sig } })
    ∧ (t.form = .native →
      putS t lat reg nw d v g = { t with blk := { t.blk with
        sig := sig
        latchDue := t.blk.latchDue ++ [⟨t.blk.unit + lat, 0, v.setWidth 8192, g⟩]
        writes := if nw then t.blk.writes else t.blk.writes ++ [⟨t.blk.unit + reg, .s d v, g⟩] } })

/-- R33, R35, R45, R167, R188, R189, R319: where a pair result goes. In the Jexcy form both its registers hold their halves at
once, in native code `reg` units after the bundle; it has no latch. Each of the two takes the tag and adds it to the data
signature, but s0 of pair 0, which stays as it is and adds 0 (that it adds 0 is log entry 50). Nothing else of the sequencer
changes. -/
def Sys2Proof.Says.PairResult : Prop :=
  ∀ (t : Thread) (reg : Nat) (d : Fin 32) (v : W64) (g : Tag),
    let lo : Fin 64 := ⟨2 * d.val, by omega⟩
    let hi : Fin 64 := ⟨2 * d.val + 1, by omega⟩
    let x : W32 := v.setWidth 32
    let y : W32 := v.extractLsb' 32 32
    let sig := t.blk.sig + (if d = 0 then 0 else g) + g
    (t.form = .jexcy →
      putPair t reg d v g = { t with
        regs := { t.regs with
          s := (if d = 0 then t.regs.s else t.regs.s.set lo x).set hi y
          sTag := (if d = 0 then t.regs.sTag else t.regs.sTag.set lo g).set hi g }
        blk := { t.blk with sig := sig } })
    ∧ (t.form = .native →
      putPair t reg d v g = { t with blk := { t.blk with
        sig := sig
        writes := t.blk.writes ++ [⟨t.blk.unit + reg, .s lo x, g⟩, ⟨t.blk.unit + reg, .s hi y, g⟩] } })

/-- R33, R35, R45, R167, R188, R189, R319: where a single result and a pair result go, and that nothing else of the
sequencer changes. -/
def Obligations.SingleResultIsWritten : Prop :=
  Says.SingleResult ∧ Says.PairResult

/-- R167: a write to s0 is discarded, at once or when it falls due, alone or as half of a pair; a pair result at
index 0 writes s1. -/
def Obligations.RegisterZeroStaysZero : Prop :=
  ∀ (t : Thread), t.regs.s[0] = 0 → t.regs.sTag[0] = 0 →
    (∀ d g, (applyDest t d g).regs.s[0] = 0 ∧ (applyDest t d g).regs.sTag[0] = 0)
    ∧ (∀ lat reg nw d v g, (putS t lat reg nw d v g).regs.s[0] = 0)
    ∧ (∀ reg d v g, (putPair t reg d v g).regs.s[0] = 0)
    ∧ t.tick.regs.s[0] = 0
    ∧ (t.form = .jexcy → ∀ reg v g, (putPair t reg 0 v g).regs.s[1] = v.extractLsb' 32 32)

/-! ## Conditions, targets and transfers (files 07 and 11) -/

/-- R189, R201, R298: the condition each comparison and condition operation writes. -/
def Obligations.ConditionResults : Prop :=
  ∀ (s : State) (t : Thread), Running s t →
    let gives (i : Instr) (d : Fin 4) (v : Bool) (g : Tag) := Makes s i (putDest t 1 (.c d v) g)
    let relation (cc : Cc) (a b : W32) : Bool := match cc with
      | .eq => a = b | .ne => a ≠ b | .lt => a.toInt < b.toInt | .ge => a.toInt ≥ b.toInt
      | .ltb => a.toNat < b.toNat | .geb => a.toNat ≥ b.toNat
    let lanes (ty : Ty) : Nat := if ty.width = 4 then 1024 else 8192 / ty.width
    (∀ cc d a b x y ta tb, readS t a = .ok (x, ta) → readS t b = .ok (y, tb) →
        gives (.cmp cc d a b) d (relation cc x y) (mix (mix (mix (key 0x004 0) ta) tb) 0))
    ∧ (∀ cc d a imm x ta, readS t a = .ok (x, ta) →
        gives (.cmpi cc d a imm) d (relation cc x imm) (mix (mix (mix (key 0x005 0) ta) imm) 0))
    ∧ (∀ d q ty, ∃ v, gives (.vAny d q ty) d v (mix (mix (mix (key 0x006 (tyTo ty)) t.regs.qTag[q]) 0) 0)
        ∧ (v = true ↔ ∃ i < lanes ty, (t.regs.q[q]).getLsbD i = true))
    ∧ (∀ d q ty, ∃ v, gives (.vAll d q ty) d v (mix (mix (mix (key 0x007 (tyTo ty)) t.regs.qTag[q]) 0) 0)
        ∧ (v = true ↔ ∀ i < lanes ty, (t.regs.q[q]).getLsbD i = true))
    ∧ ∀ d a b tt, gives (.cOp d a b tt) d
        (tt.getLsbD ((if t.regs.c[a] then 2 else 0) + (if t.regs.c[b] then 1 else 0)))
        (mix (mix (mix (key 0x008 0) t.regs.cTag[a]) t.regs.cTag[b]) 0)

/-- R30, R189, R296, R302: where each transfer and each target operation goes. A transfer stands two units before its
seal and is recorded; the seal carries it out. -/
def Obligations.TransferResults : Prop :=
  ∀ (s : State) (t : Thread), Running s t →
    let unit : Nat := match t.form with | .jexcy => 8 | .native => 32
    let records (i : Instr) (x : Transfer) := Makes s i { t with blk := { t.blk with transfer := some x } }
    (∀ n off, Makes s (.prep n off) (putDest t 2 (.t n (BitVec.ofInt 64 (t.pc.toNat + off.toInt * unit)))
        (mix (mix (mix (key 0x002 0) 0) off) 0)))
    ∧ (∀ n (a : Fin 32), (pairVal t.regs a).toNat < 2 ^ 63 → (pairVal t.regs a).toNat % unit = 0 →
        s.codeHas t (pairVal t.regs a) = true →
        Makes s (.prepr n a) (putDest t 2 (.t n (pairVal t.regs a))
          (mix (mix (mix (key 0x003 0) (pairTag t.regs a)) 0) 0)))
    ∧ (transferPlace s t = true →
        (∀ n c inv, t.regs.c[c] = inv → Makes s (.br n c inv) t)
        ∧ (∀ n c inv, t.regs.c[c] = !inv → s.codeHas t t.regs.t[n] = true →
            records (.br n c inv) (.jump t.regs.t[n]))
        ∧ (∀ n, s.codeHas t t.regs.t[n] = true → records (.jmp n) (.jump t.regs.t[n]))
        ∧ (∀ n, t.regs.calls.length < 16 → s.codeHas t t.regs.t[n] = true → records (.call n) (.call t.regs.t[n]))
        ∧ (∀ a rest, t.regs.calls = a :: rest → (∀ e ∈ t.regs.loops.head?, e.depth ≠ t.regs.calls.length) →
            s.codeHas t a = true → records .ret .ret)
        ∧ (∀ a off x, jtabTarget s t (t.regs.s[a]).toNat off = .ok x → .table t.key ∉ s.hwErrors →
            records (.jtab a off) (.jump x)))

/-- R302: the target a jump table of the constant area gives in the Jexcy form: entry `i`, or the default past the
last one. `word k` is the table's k-th 8-byte word. Which targets may be taken, `codeHas`, is the model's choice (log entry
70). -/
def Sys2Proof.Says.JumpTableTarget : Prop :=
  ∀ (s : State) (t : Thread) (o : CodeObj) (i : Nat) (off : W32) (word : Nat → Nat),
    t.form = .jexcy → s.objOf t = some o → off.toNat % 8 = 0 →
    (∀ k, word k = ((peekWord s t.launch.pasid.toNat (t.launch.constBase.toNat + off.toNat + 8 * k)).getD 0).toNat) →
    off.toNat + 16 + 8 * (word 0 % 2 ^ 16) ≤ t.launch.constLen →
    let u := word (if i < word 0 % 2 ^ 16 then 2 + i else 1) % 2 ^ 32
    (u = 2 ^ 32 - 1 → jtabTarget s t i off = .error (.trap .illegal 0))
    ∧ (u ≠ 2 ^ 32 - 1 → s.codeHas t (BitVec.ofNat 64 (o.jexBase + 8 * u)) = true →
        jtabTarget s t i off = .ok (BitVec.ofNat 64 (o.jexBase + 8 * u)))

/-- R294, R296, R300: the traps of the transfers. That a target outside the code of the sequencer's own object, one
`codeHas` does not hold, is illegal is the model's choice (log entry 70). -/
def Sys2Proof.Says.TransferTraps : Prop :=
  ∀ (s : State) (t : Thread), Running s t →
    (transferPlace s t = false → (∀ n c inv, Traps s t (.br n c inv) .illegal) ∧ (∀ n, Traps s t (.jmp n) .illegal)
      ∧ (∀ n, Traps s t (.call n) .illegal) ∧ Traps s t .ret .illegal ∧ ∀ a off, Traps s t (.jtab a off) .illegal)
    ∧ (transferPlace s t = true → 16 ≤ t.regs.calls.length → ∀ n, Traps s t (.call n) .callOverflow)
    ∧ (t.regs.calls = [] → Traps s t .ret .illegal)
    ∧ (transferPlace s t = true → ∀ n, s.codeHas t t.regs.t[n] = false →
        Traps s t (.jmp n) .illegal ∧ (t.regs.calls.length < 16 → Traps s t (.call n) .illegal)
        ∧ ∀ c inv, t.regs.c[c] = !inv → Traps s t (.br n c inv) .illegal)

/-- R294, R296, R300, R302: the traps of the transfers, and where a jump table leads. -/
def Obligations.TransferTrapsAndTables : Prop :=
  Says.JumpTableTarget ∧ Says.TransferTraps

/-- R305, R307, R308: the loop operations. `top` is the innermost open loop, of the current call depth and past its
prologue. -/
def Obligations.LoopResults : Prop :=
  ∀ (s : State) (t : Thread), Running s t →
    let opens (i : Instr) (n : W32) (k : Fin 8) := Makes s i { t with blk := { t.blk with opened := some (n, k) } }
    ((∀ e ∈ t.regs.loops.head?, e.armed = false) →
      (∀ a n ta, readS t a = .ok (n, ta) → n = 0 ∨ t.regs.loops.length < 6 →
        opens (.loop a) n 0
        ∧ ∀ st : W32, 1 ≤ st.toNat → st.toNat ≤ 8 → opens (.lpipe a st) n (Fin.ofNat 8 (st.toNat - 1)))
      ∧ (∀ n : W32, n = 0 ∨ t.regs.loops.length < 6 → opens (.loopi n) n 0)
      ∧ (∀ n : W32, n ≠ 0 → 6 ≤ t.regs.loops.length → Traps s t (.loopi n) .loopOverflow))
    ∧ (∀ top rest, t.regs.loops = top :: rest → top.depth = t.regs.calls.length →
        (∀ d, Makes s (.lpget (some d)) (putDest t 2 (.s d (BitVec.ofNat 32 (min top.remaining (2 ^ 32 - 1))))
          (mix (mix (mix (key 0x01D 0) 0) 0) 0)))
        ∧ Makes s (.lpget none) (addSig t (mix (mix (mix (key 0x01D 0) 0) 0) 0))
        ∧ (top.armed = false →
            (∀ c, Makes s (.lbrk c) { t with blk := { t.blk with brk := t.blk.brk || t.regs.c[c] } })
            ∧ ∀ a x ta, readS t a = .ok (x, ta) →
                Makes s (.lpset a) { t with blk := { t.blk with pend := t.blk.pend ++ [.lpset x] } })
        ∧ (top.armed = true → (∀ c, Traps s t (.lbrk c) .illegal) ∧ ∀ a, Traps s t (.lpset a) .illegal))
    ∧ (t.regs.loops = [] → (∀ d, Traps s t (.lpget d) .illegal) ∧ (∀ c, Traps s t (.lbrk c) .illegal))

/-- R16, R45, R170, R171, R207 to R212: `nop`, the format register and the system registers. -/
def Sys2Proof.Says.SystemRegisterResults : Prop :=
  ∀ (s : State) (t : Thread), Running s t →
    let fmtAt : Nat := match t.form with | .native => t.blk.unit + 4 | .jexcy => t.blk.unit + 5
    let setsFmt (i : Instr) (v : W32) := Makes s i { t with blk := { t.blk with fmtDue := t.blk.fmtDue ++ [(fmtAt, v)] } }
    let reads (n : BitVec 12) (v : W32) := ∀ d, Makes s (.sysr d n)
      (putDest t 1 (.s d v) (mix (mix (mix (key 0x02C 0) 0) (n.setWidth 32)) 0))
    Makes s .nop t
    ∧ (∀ v : W32, v.toNat ≤ 4 → setsFmt (.fmti v) v)
    ∧ (∀ a v g, readS t a = .ok (v, g) → v.toNat ≤ 4 → setsFmt (.fmt a) v)
    ∧ (∀ v : W32, 4 < v.toNat → Traps s t (.fmti v) .illegal)
    ∧ (∀ a v g, readS t a = .ok (v, g) → 4 < v.toNat → Traps s t (.fmt a) .illegal)
    ∧ reads 0x000 (t.status.setWidth 32) ∧ reads 0x001 t.regs.fmt
    ∧ reads 0x002 (BitVec.ofNat 32 (t.ltile * 2 ^ 16 + t.seq.val))
    ∧ reads 0x003 (BitVec.ofNat 32 ((speedEntry s t.tile).toNat % 64))
    ∧ (∀ d, Makes s (.sysr d 0x008) (putDest
        { t with regs := { t.regs with dtimeh := s.time.extractLsb' 32 32 } } 1 (.s d (s.time.setWidth 32))
        (mix (mix (mix (key 0x02C 0) 0) 8) 0)))
    ∧ reads 0x009 t.regs.dtimeh ∧ reads 0x010 (t.launch.pasid.setWidth 32) ∧ reads 0x011 (t.launch.ctx.setWidth 32)
    ∧ reads 0x012 (t.launch.arg.setWidth 32) ∧ reads 0x013 (t.launch.arg.extractLsb' 32 32)
    ∧ reads 0x014 (t.launch.constBase.setWidth 32) ∧ reads 0x015 (t.launch.constBase.extractLsb' 32 32)
    ∧ reads 0x016 (t.launch.dataBase.setWidth 32) ∧ reads 0x017 (t.launch.dataBase.extractLsb' 32 32)
    ∧ reads 0x020 (if t.launch.test then t.finj else 0)
    ∧ (∀ a x ta, readS t a = .ok (x, ta) →
        let pends (n : BitVec 12) := Makes s (.sysw n a) { t with blk := { t.blk with pend := t.blk.pend ++ [.sysw n x] } }
        pends 0x000 ∧ (t.launch.test = true → pends 0x020))

/-- R207, R208, R212: a system register number that does not exist is illegal to read or write; a read-only one is
illegal to write, and FINJ is in a context without the test permission. -/
def Sys2Proof.Says.SystemRegisterTraps : Prop :=
  ∀ (s : State) (t : Thread) (n : BitVec 12), Running s t →
    (n.toNat ∉ [0, 1, 2, 3, 8, 9, 0x10, 0x11, 0x12, 0x13, 0x14, 0x15, 0x16, 0x17, 0x20] →
      ∀ d, Traps s t (.sysr d n) .illegal)
    ∧ ∀ a x ta, readS t a = .ok (x, ta) →
      (n ≠ 0 → n ≠ 0x020 → Traps s t (.sysw n a) .illegal)
      ∧ (t.launch.test = false → Traps s t (.sysw 0x020 a) .illegal)

/-- R16, R45, R170, R171, R207 to R212: `nop`, the format register and the system registers, with what each traps on. -/
def Obligations.SystemRegisters : Prop :=
  Says.SystemRegisterResults ∧ Says.SystemRegisterTraps

/-! ## The seal (files 11 and 12) -/

namespace Sys2Proof.Says

/-- Every result of the block has reached its register, and it has stored nothing, opened and ended no loop, taken no
transfer and captured no gated operation. -/
def PlainBlock (t : Thread) : Prop :=
  t.blk.writes = [] ∧ t.blk.latchDue = [] ∧ t.blk.fmtDue = [] ∧ t.blk.stores = [] ∧ t.blk.pend = []
    ∧ t.blk.opened = none ∧ t.blk.transfer = none ∧ t.blk.brk = false ∧ t.blk.gated = []

/-- No block of the running object has native code that the translator made. -/
def Untranslated (s : State) (t : Thread) : Prop := ∀ o, s.objOf t = some o → o.translated = [] ∧ o.falls = []

/-- No older load, matrix command, fill or barrier keeps the seal of the running block waiting (R106, R270, R273, R286). -/
def SealRuns (s : State) (t : Thread) : Prop :=
  slotBefore s t = none ∧ commandBefore s t = false ∧ mapBefore s t = false ∧ sealHeld s t = false

/-- The sequencer once every result of its block has reached its register (R37). -/
def allArrived (t : Thread) : Thread :=
  let u := flushWrites 32 t
  { u with blk := { u.blk with unit := t.blk.unit } }

/-- Steps 1 to 3 of R317 hold of the running block and the seal `x`. -/
def SealHolds (t : Thread) (x : SealData) : Prop :=
  t.regs.preds.has x.own = true
    ∧ t.blk.entry.toNat = t.pc.toNat - x.len.toNat * (match t.form with | .jexcy => 8 | .native => 32)
    ∧ t.blk.shape = x.shape ∧ t.blk.sig = x.sig

end Sys2Proof.Says

/-- R297, R317, R318, R323, R324: a passing seal without lend ends its block. The next block starts 32 bytes after the
seal, with every value kept, every tag rebased, the sticky flags of the block merged, the successor set of the seal,
and a fresh copy of the registers. -/
def Sys2Proof.Says.SealPassResult : Prop :=
  ∀ (s : State) (t : Thread) (x : SealData), Running s t → t.form = .jexcy → PlainBlock t → SealHolds t x →
    x.lend = false → .storeParity t.key ∉ s.hwErrors → seqStops s { t with point := preemptPoint t x } = false →
    pendingResults t = false → Untranslated s t → t.results = [] → mapBefore s t = false →
    ∃ u t', exec (.sealOp x) s = .next u ∧ mfind u.threads s.cur = some t' ∧ u.mem = s.mem ∧ u.l2 = s.l2
      ∧ t'.pc = BitVec.ofNat 64 (t.pc.toNat + 32) ∧ t'.run = .running ∧ t'.lastLabel = x.own ∧ t'.misses = 0
      ∧ t'.regs.preds = ⟨x.taken, x.fall, x.ind⟩
      ∧ t'.regs.s = t.regs.s ∧ t'.regs.h = t.regs.h ∧ t'.regs.q = t.regs.q ∧ t'.regs.c = t.regs.c ∧ t'.regs.t = t.regs.t
      ∧ t'.v = t.v ∧ t'.regs.loops = t.regs.loops ∧ t'.regs.calls = t.regs.calls
      ∧ t'.status = t.status ||| t.blk.held ||| t.lateFlags
      ∧ (∀ n : Fin 64, n ≠ 0 → t'.regs.sTag[n] = mix (BitVec.ofNat 32 (0xA5A5 ^^^ 0x100)) (BitVec.ofNat 32 n.val))
      ∧ t'.regs.sTag[0] = 0
      ∧ (∀ n : Fin 96, t'.vTag[n] = mix (BitVec.ofNat 32 (0xA5A5 ^^^ 0x300)) (BitVec.ofNat 32 n.val))
      ∧ t'.blk = { entry := t'.pc, start := t'.regs }

/-- R49, R95, R157, R211, R274, R280, R282, R284 to R286, R310: what a passing seal without lend lets out of its block. Its
stores to a region are in the region, all of them at once; while a barrier of an earlier block waits for a queued write a seal
with such a store waits (DEDUCED, log entry 76). Its stores to memory
are in the queues of their colours, an atomic of a region leaves its word there and the old one in the register or pair it names,
`sysw 0` clears the flags it names, and its gated operations stand to be issued in their order. -/
def Sys2Proof.Says.SealEffects : Prop :=
  ∀ (s : State) (t : Thread) (x : SealData), Running s t → t.form = .jexcy → SealHolds t x → x.lend = false →
    .storeParity t.key ∉ s.hwErrors → slotBefore s t = none → commandBefore s t = false → t.blk.kept = [] →
    t.blk.writes = [] → t.blk.latchDue = [] → t.blk.fmtDue = [] → t.blk.opened = none → t.blk.transfer = none →
    t.blk.brk = false → Untranslated s t →
    let next (P : State → Thread → Prop) := ∃ u t', exec (.sealOp x) s = .next u ∧ mfind u.threads s.cur = some t'
      ∧ t'.pc = BitVec.ofNat 64 (t.pc.toNat + 32) ∧ u.mem = s.mem ∧ u.l2 = s.l2 ∧ t'.blk.stores = [] ∧ P u t'
    (t.blk.stores = [] → t.blk.pend = [] → t.blk.gated ≠ [] → next fun u t' =>
      t'.run = .issuing ∧ t'.issue = t.blk.gated ∧ t'.queues = t.queues ∧ ∀ n, u.opTile n = s.opTile n)
    ∧ (∀ y pa c, t.blk.stores = [.st y] → y.loc = .glob pa c → (∀ e ∈ t.queues[y.col], e.place ≤ y.ord) →
      t.blk.pend = [] → t.blk.gated = [] → next fun _ t' => t'.queues = t.queues.set y.col (t.queues[y.col] ++ [.st y]))
    ∧ (∀ y r o, t.blk.stores = [.st y] → y.loc = .scr r o → t.blk.pend = [] → t.blk.gated = [] →
      let old := regionOf (s.opTile t.ot) r
      ((∀ b ∈ t.barriers, barrierMet s t b = true) → Memory.wf (frontCells old) = true → next fun u t' => t'.queues = t.queues ∧
        (let new := regionOf (u.opTile t.ot) r
        (∀ i < y.data.length, y.data[i]? = some (regionByte new (o + i)))
        ∧ (∀ a, (a < o ∨ o + y.data.length ≤ a) → regionByte new a = regionByte old a)
        ∧ ∀ n, n ≠ r → regionOf (u.opTile t.ot) n = regionOf (s.opTile t.ot) n))
      ∧ ((∃ b ∈ t.barriers, b.ord < y.ord ∧ b.scope ≠ .seq
            ∧ ∃ c : Fin 8, b.mask.getLsbD c.val = true ∧ ∃ e ∈ t.queues[c], e.ord ≤ b.ord) →
          exec (.sealOp x) s = .next (stopAt s s.cur t (.wait .queues))))
    ∧ (∀ a r o, t.blk.stores = [.atom a] → a.loc = .scr r o → t.blk.pend = [] → t.blk.gated = [] → t.barriers = [] →
      s.pondOf t.op = none → pendingResults t = false → seqStops s { t with point := preemptPoint t x } = false →
      t.results = [] → Memory.wf (frontCells (regionOf (s.opTile t.ot) r)) = true →
      let n := if a.wide then 8 else 4
      let old := regionOf (s.opTile t.ot) r
      let m := leOf ((List.range n).map fun i => regionByte old (o + i))
      let w := atApply a.kind (8 * n) m a.v.toNat a.cmp.toNat
      next fun u t' => t'.queues = t.queues ∧ t'.status = (t.status ||| t.blk.held) ||| (t.lateFlags ||| w.2)
        ∧ (let new := regionOf (u.opTile t.ot) r
          leOf ((List.range n).map fun i => regionByte new (o + i)) = w.1 % 2 ^ (8 * n)
          ∧ ∀ b, (b < o ∨ o + n ≤ b) → regionByte new b = regionByte old b)
        ∧ (a.dest = none → t'.regs.s = t.regs.s)
        ∧ (∀ d, a.dest = some d → a.wide = false → d ≠ 0 → t'.regs.s = t.regs.s.set d (BitVec.ofNat 32 m))
        ∧ ∀ p : Fin 32, a.dest = some ⟨2 * p.val, by omega⟩ → a.wide = true → p ≠ 0 →
            t'.regs.s = (t.regs.s.set (2 * p.val) (BitVec.ofNat 32 m)).set (2 * p.val + 1) (BitVec.ofNat 32 (m / 2 ^ 32)))
    ∧ (∀ v : W32, t.blk.stores = [] → t.blk.pend = [.sysw 0 v] → t.blk.gated = [] → pendingResults t = false →
      seqStops s { t with point := preemptPoint t x } = false → next fun _ t' =>
        t'.status = ((t.status &&& ~~~(v.setWidth 6)) ||| t.blk.held) ||| t.lateFlags)

/-- R297, R305 to R308: where a passing seal sends its sequencer, and what it leaves on the call stack and the loop stack.
A taken transfer goes to its target, a call pushing the fall-through and a return popping it; a block that opens a loop
pushes its entry, or skips a body that is to run no times; a break pops the top entry and goes to its exit; `lpset` gives
the top entry a pending count; a seal with lend decides the boundary of the top entry, and is illegal without one of its
call depth. -/
def Sys2Proof.Says.SealCarriesOut : Prop :=
  ∀ (s : State) (t : Thread) (x : SealData), Running s t → t.form = .jexcy → SealHolds t x → SealRuns s t →
    t.blk.writes = [] → t.blk.latchDue = [] → t.blk.fmtDue = [] → t.blk.stores = [] → t.blk.gated = [] →
    pendingResults t = false → Untranslated s t → t.results = [] →
    seqStops s { t with point := preemptPoint t x } = false →
    let fall := BitVec.ofNat 64 (t.pc.toNat + 32)
    let goes (next : W64) (calls : List W64) (loops : List LoopEntry) := ∃ u t', exec (.sealOp x) s = .next u
      ∧ mfind u.threads s.cur = some t' ∧ t'.pc = next ∧ t'.run = .running ∧ t'.regs.calls = calls ∧ t'.regs.loops = loops
      ∧ t'.regs.s = t.regs.s ∧ t'.v = t.v ∧ t'.blk = { entry := next, start := t'.regs } ∧ u.mem = s.mem
    let calls := t.regs.calls
    let loops := t.regs.loops
    (t.blk.opened = none → t.blk.brk = false → x.lend = false → t.blk.pend = [] →
      (∀ a, t.blk.transfer = some (.jump a) → goes a calls loops)
      ∧ (∀ a, t.blk.transfer = some (.call a) → goes a (fall :: calls) loops)
      ∧ ∀ a rest, t.blk.transfer = some .ret → calls = a :: rest → goes a rest loops)
    ∧ (t.blk.transfer = none → t.blk.pend = [] → t.blk.brk = false → x.lend = false → ∀ n st y o a,
        t.blk.opened = some (n, st) → s.objOf t = some o → findSeal s t 256 fall.toNat = some (y, a) → y.lend = true →
        let exit := BitVec.ofNat 64 (a + 32)
        (n = 0 → goes exit calls loops)
        ∧ (n ≠ 0 → goes fall calls
            ({ start := fall, exit := exit, remaining := n.toNat + st.val, stages := st, depth := calls.length } :: loops)))
    ∧ (t.blk.opened = none → t.blk.transfer = none →
      (∀ e rest, loops = e :: rest →
        (t.blk.brk = true → t.blk.pend = [] → goes e.exit calls rest)
        ∧ (∀ v, t.blk.brk = false → x.lend = false → t.blk.pend = [.lpset v] →
            goes fall calls ({ e with pending := v, pvalid := true } :: rest))
        ∧ (t.blk.brk = false → x.lend = true → t.blk.pend = [] → e.depth = calls.length →
          (e.armed = true → (e.remaining = 0 → goes e.exit calls rest)
            ∧ (e.remaining ≠ 0 → goes e.start calls ({ e with armed := false } :: rest)))
          ∧ (e.armed = false →
            let n := if e.pvalid = true then e.pending.toNat else e.remaining - 1
            (n = 0 → goes e.exit calls rest)
            ∧ (n ≠ 0 → goes e.start calls ({ e with remaining := n, pvalid := false } :: rest)))))
      ∧ (t.blk.brk = false → x.lend = true → t.blk.pend = [] → (∀ e ∈ loops.head?, e.depth ≠ calls.length) →
          exec (.sealOp x) s = .next (raiseTrap s s.cur (allArrived t) .illegal 0)))

/-- R49, R157, R211, R274, R284 to R286, R297, R305 to R308, R310, R317, R318, R323, R324: a passing seal. -/
def Obligations.SealPasses : Prop :=
  Says.SealPassResult ∧ Says.SealEffects ∧ Says.SealCarriesOut

/-- R37, R293, R318: a block entered against the successor set of the last passing seal, or whose seal does not close
the block it was entered at, raises a label trap at its seal, whatever it has buffered (TrapEntry says what a trap
leaves). -/
def Sys2Proof.Says.SealLabelTrap : Prop :=
  ∀ (s : State) (t : Thread) (x : SealData), Running s t → SealRuns s t →
    (t.regs.preds.has x.own = false
      ∨ t.blk.entry.toNat ≠ t.pc.toNat - x.len.toNat * (match t.form with | .jexcy => 8 | .native => 32)) →
    exec (.sealOp x) s = .next (raiseTrap s s.cur (allArrived t) .label 0)

/-- R325, R327: a seal whose op-shape hash or data signature does not match restores the sequencer to its block's
start, drops what the block buffered (stores, gated and pending operations, a transfer, an opened loop, the slots it
took with their line requests), counts the mismatch and re-runs the block; nothing else of the device changes. -/
def Sys2Proof.Says.SealMismatchReruns : Prop :=
  ∀ (s : State) (t : Thread) (x : SealData), Running s t → SealRuns s t →
    t.regs.preds.has x.own = true →
    t.blk.entry.toNat = t.pc.toNat - x.len.toNat * (match t.form with | .jexcy => 8 | .native => 32) →
    (t.blk.shape ≠ x.shape ∨ t.blk.sig ≠ x.sig) → (s.tile t.tile).retiring = false →
    ¬ (2 ≤ t.misses ∧ t.missAt = t.blk.entry) →
    ∃ t', exec (.sealOp x) s = .next ((s.dropLoads (allArrived t)).setThread s.cur t') ∧ t'.pc = t.blk.entry ∧ t'.run = t.run
      ∧ t'.misses = (if t.misses ≠ 0 ∧ t.missAt = t.blk.entry then t.misses + 1 else 1) ∧ t'.missAt = t.blk.entry
      ∧ t'.regs.s = t.blk.start.s ∧ t'.regs.h = t.blk.start.h ∧ t'.regs.q = t.blk.start.q ∧ t'.regs.c = t.blk.start.c
      ∧ t'.regs.t = t.blk.start.t ∧ t'.regs.sTag = t.blk.start.sTag ∧ t'.regs.w = t.blk.start.w
      ∧ t'.regs.loops = t.blk.start.loops ∧ t'.regs.calls = t.blk.start.calls ∧ t'.regs.fmt = t.blk.start.fmt
      ∧ t'.blk = { entry := t.blk.entry, start := t'.regs, kept := [] }
      ∧ (∀ n ∈ t.blk.took, t'.regs.slots[n] = {})
      ∧ (t.blk.writes = [] → (t.blk.journal = [] → t'.v = t.v ∧ t'.vTag = t.vTag)
        ∧ ∀ n v g, t.blk.journal = [(n, v, g)] → t'.v = t.v.set n v ∧ t'.vTag = t.vTag.set n g)
      ∧ t'.status = t.status ∧ t'.queues = t.queues ∧ t'.issue = t.issue ∧ t'.launch = t.launch

/-- R327 to R329: the third consecutive mismatch of one block asks for the retirement of its tile, which
remembers the block; where the tile's column has no spare left, the operator takes a seal-mismatch trap at once. Where the
sequencer was the last to stop of an operator that a trap ends, the operator ends (R371). -/
def Sys2Proof.Says.ThirdMismatchRetires : Prop :=
  ∀ (s : State) (t : Thread) (x : SealData) (o : Operator), Running s t → SealRuns s t →
    t.regs.preds.has x.own = true →
    t.blk.entry.toNat = t.pc.toNat - x.len.toNat * (match t.form with | .jexcy => 8 | .native => 32) →
    (t.blk.shape ≠ x.shape ∨ t.blk.sig ≠ x.sig) → t.misses = 2 → t.missAt = t.blk.entry → t.run = .running →
    mfind s.ops t.op = some o → o.rolled = [] →
    ∃ u t', exec (.sealOp x) s = .next u ∧ (u.tile t.tile).retiring = true ∧ mfind u.threads s.cur = some t'
      ∧ t'.run = .stopped ∧ t'.regs.s = t.blk.start.s ∧ t'.blk.stores = [] ∧ t'.blk.gated = []
      ∧ (spareOf s t.tile ≠ none → t'.pc = t.blk.entry ∧ (o.fate = none ∨ o.trap = none → u.mem = s.mem ∧ u.ops = s.ops)
          ∧ (o.fate = some .operator → o.trap ≠ none → (∀ e ∈ s.threadsOf t.op, e.1 ≠ s.cur → e.2.idle = true) →
              (∀ n, o.state ≠ .ending n) → ∃ o', mfind u.ops t.op = some o' ∧ o'.state = .ending o.trapStatus ∧ o'.trap = none)
          ∧ ∃ c, (u.tile t.tile).culprits = (s.tile t.tile).culprits ++ [c] ∧ c.thread = s.cur ∧ c.own = x.own)
      ∧ (spareOf s t.tile = none → o.pond = none → o.trap = none →
          (∃ j w, j ≠ s.cur ∧ mfind s.threads j = some w ∧ w.op = t.op ∧ w.idle = false) →
          ∃ o' n, mfind u.ops t.op = some o' ∧ o'.stopping = true ∧ o'.trap = some n ∧ n.cls = .sealMismatch)

/-- R293, R318, R325, R327 to R329: a seal that does not pass. -/
def Obligations.SealFailures : Prop :=
  Says.SealLabelTrap ∧ Says.SealMismatchReruns ∧ Says.ThirdMismatchRetires

/-! ## Loads, stores, handles and walkers (files 03, 04, 06, 07 and 10) -/

namespace Sys2Proof.Says

/-- The data tag of an access: the key, the address lineage, the offset and the memory tag (R174, R204). -/
def accessTag (t : Thread) (op : Nat) (b : Base) (off : BitVec 24) (mt : Tag) : Tag :=
  mix (mix (mix (key op 0) (baseTag t.regs b)) (off.signExtend 32)) mt

/-- The address of base + imm24 is `a`, for `n` bytes aligned to `al`, with memory tag `mt` (R174, R203). -/
def AddressIs (s : State) (t : Thread) (b : Base) (off : BitVec 24) (n al : Nat) (a : Addr) (mt : Tag) : Prop :=
  baseAddr (viewOf s t) t.regs b off.toInt n al = .ok (a, mt)

/-- A load of `n` bytes at `a` finds `bs` and leaves the device in `s'`. -/
def Loads (s : State) (t : Thread) (a : Addr) (n : Nat) (bs : List Byte) (s' : State) : Prop :=
  (loadAddr t a n).run s = (.ok bs, s')

/-- A store of `bs` at `a` is within the declared limit of its block and enters the block's buffer: the sequencer is
then `t'`, the device `s'`. -/
def Stores (s : State) (t : Thread) (a : Addr) (bs : List Byte) (col : Fin 8) (t' : Thread) (s' : State) : Prop :=
  ∃ x, declared s t = some x ∧ (t.blk.storeBytes + bs.length + 31) / 32 ≤ x.stores.toNat
    ∧ (bufferStore { t with blk := { t.blk with storeBytes := t.blk.storeBytes + bs.length } } a bs col).run s
        = (.ok t', s')

/-- The `n` bytes at `a` are there for the sequencer: their granules hold data and no operator is switched out or held,
or one page holds them whose translation `e` the TLB has, with the permission. -/
def Reaches (s : State) (t : Thread) (a : Addr) (n : Nat) (write : Bool) (e : TlbEntry) : Prop :=
  match a with
  | .scr r o => (∀ p ∈ s.ops, p.2.away = false) ∧ ∀ j < n, granOf (viewRegion s t r) (o + j) ≠ some .empty
  | .glob va => s.pondOf t.op = none ∧ va % 2 ^ 16 + n ≤ 2 ^ 16 ∧ e.large = false
      ∧ (∀ j < n, tlbFind (s.tile t.tile).tlb t.launch.pasid.toNat (va + j) = some e)
      ∧ if write then e.writable = true ∧ e.dirty = true else e.readable = true

/-- Where an address that is reached lies. -/
def placed (e : TlbEntry) : Addr → Loc
  | .scr r o => .scr r o
  | .glob va => .glob (e.frame + va % 2 ^ 16) e.cached

/-- The items of a store of `bs` at `a`, at the sequencer's place in program order: one for each aligned 8-byte word
(R269). -/
def itemsAt (t : Thread) (a : Addr) (e : TlbEntry) (bs : List Byte) (col : Fin 8) : List SItem :=
  (addrPieces a bs.length).map fun p =>
    SItem.st { loc := placed e p.1, data := (bs.drop (p.1.low - a.low)).take p.2, col := col, ord := t.ord }

/-- The sequencer with items in its block's buffer. -/
def withItems (t : Thread) (xs : List SItem) : Thread :=
  { t with ord := t.ord + 1, blk := { t.blk with stores := t.blk.stores ++ xs } }

/-- `n` more store bytes are within the declared limit of the running block (R42). -/
def MayStore (s : State) (t : Thread) (n : Nat) : Prop :=
  ∃ x, declared s t = some x ∧ (t.blk.storeBytes + n + 31) / 32 ≤ x.stores.toNat

/-- The line request that a read of a sequencer's unit makes at a place has left the port; one of a cached page may also
be served by the L1 (R437). -/
def Served (s : State) (t : Thread) (pa : Nat) (cached : Bool) : Prop :=
  (∃ r ∈ (s.tile t.tile).sent, r.line = pa / 64 ∧ r.owner = .unit t.key ∧ r.fetch = cached)
    ∨ (cached = true ∧ pa / 64 ∈ (s.tile t.tile).l1)

/-- A request that is no fetch, of an owner for a line, has left the tile's port. -/
def Sent (s : State) (tile line : Nat) (o : PortOwner) : Prop :=
  ∃ r ∈ (s.tile tile).sent, r.line = line ∧ r.owner = o ∧ r.fetch = false

/-- A vector source is read: `t` and `s` become `t'` and `s'`, and the source holds `v` with the tag `g`. -/
def ReadsV (s : State) (t : Thread) (x : VSrc) (s' : State) (t' : Thread) (v : VReg) (g : Tag) : Prop :=
  (readV t x).run s = (.ok (t', v, g), s')

/-- The operation `i` answers the device `s'` with the sequencer that ran as `t'`. -/
def Leaves (s : State) (i : Instr) (s' : State) (t' : Thread) : Prop := exec i s = .next (s'.setThread s.cur t')

end Sys2Proof.Says

/-- R7, R109, R173, R174, R202 to R204: the value and the tag of every scalar load and of `hld`, from the bytes it
finds. That bits 63 and 223:200 of a record read as 0 is the model's choice, log entry 33. -/
def Sys2Proof.Says.LoadResults : Prop :=
  ∀ (s s' : State) (t : Thread) (x : Ld) (a : Addr) (mt : Tag) (bs : List Byte), Running s t →
    let gives (i : Instr) (op n : Nat) (v : W32) :=
      AddressIs s t x.base x.off n n a mt → Loads s t a n bs s' →
        Leaves s i s' (putDest t 1 (.s x.d v) (accessTag t op x.base x.off mt))
    let raw : Nat := leOf bs
    gives (.ldSb x) 0x200 1 ((BitVec.ofNat 8 raw).signExtend 32)
    ∧ gives (.ldZb x) 0x201 1 (BitVec.ofNat 32 raw)
    ∧ gives (.ldSh x) 0x202 2 ((BitVec.ofNat 16 raw).signExtend 32)
    ∧ gives (.ldZh x) 0x203 2 (BitVec.ofNat 32 raw)
    ∧ gives (.ldW x) 0x204 4 (BitVec.ofNat 32 raw)
    ∧ (∀ d b off, AddressIs s t b off 8 8 a mt → Loads s t a 8 bs s' →
        Leaves s (.ldP d b off) s' (putPair t 1 d (BitVec.ofNat 64 raw) (accessTag t 0x205 b off mt)))
    ∧ (∀ d b off, AddressIs s t b off 32 32 a mt → Loads s t a 32 bs s' →
        ∃ r : HRec, Leaves s (.hld d b off) s' (putDest t 1 (.h d r) (accessTag t 0x218 b off mt))
          ∧ ∀ i < 256, r.getLsbD i = (!(i = 63 || (200 ≤ i && i < 224)) && raw.testBit i))

/-- R204, R270, R437: what a load finds, of any length in a region and of an aligned power of two of bytes in memory.
Each byte is the sequencer's own latest store to it, queued or buffered, else what the region's front holds, or, of
global memory, what the read at its translation gives once its line request has left the port. How lines join requests
is the model's reading (log entry 30), and that the load takes the home's bytes as it issues its choice (log entry 43). -/
def Sys2Proof.Says.LoadFindsOwnStoresFirst : Prop :=
  ∀ (s : State) (t : Thread) (n : Nat) (e : TlbEntry), loadsGo s t = true → .load t.key ∉ s.hwErrors →
    (∀ r o, Reaches s t (.scr r o) n false e → (∀ p ∈ pieces n o n, loadWaits t (.scr r p.1) p.2 t.ord = none) →
      ∃ bs, Loads s t (.scr r o) n bs s ∧ bs.length = n ∧
        ∀ i < n, bs[i]? = some ((latestStore (ownStores t) (.scr r (o + i)) 0).getD
          (regionByte (viewRegion s t r) (o + i))))
    ∧ (∀ va, n ∈ [1, 2, 4, 8] → va % n = 0 → Reaches s t (.glob va) n false e →
      let pa := e.frame + va % 2 ^ 16
      let c := e.cached
      loadWaits t (.glob pa c) n t.ord = none → behindDrain s t (.glob pa c) t.ord = false → Served s t pa c →
      (∀ p ∈ s.tiles, mfind p.2.uol (pa / 64) = none) →
      let read := physRead s t.tile pa n c
      ∃ bs, Loads s t (.glob va) n bs read.1 ∧ bs.length = n ∧
        ∀ i < n, bs[i]? = some ((latestStore (ownStores t) (.glob (pa + i) c) 0).getD (read.2.getD i 0)))

/-- R7, R109, R173, R174, R202 to R204, R270, R437: the scalar loads and `hld`: their values and tags, and the bytes they
find. -/
def Obligations.LoadsReadTheirBytes : Prop :=
  Says.LoadResults ∧ Says.LoadFindsOwnStoresFirst

/-- R174, R202, R203, R205, R276, R319: a store of a register enters the block's buffer with its bytes, low byte
first, and adds its contribution to the data signature; no byte of memory changes before the seal but what its
translation notes. -/
def Sys2Proof.Says.StoreResults : Prop :=
  ∀ (s s' : State) (t t' : Thread) (a : Addr) (mt : Tag), Running s t →
    let gives (i : Instr) (op al : Nat) (b : Base) (off : BitVec 24) (bs : List Byte) (g : Tag) (col : Fin 8) :=
      AddressIs s t b off bs.length al a mt → Stores s t a bs col t' s' →
        Leaves s i s' { t' with blk := { t'.blk with
          sig := t'.blk.sig + mix (mix (mix (key op 0) g) (baseTag t.regs b)) (off.signExtend 32) } }
    (∀ (x : St) v g, readS t x.b = .ok (v, g) →
      gives (.stB x) 0x208 1 x.base x.off [v.extractLsb' 0 8] g x.col
      ∧ gives (.stH x) 0x209 2 x.base x.off [v.extractLsb' 0 8, v.extractLsb' 8 8] g x.col
      ∧ gives (.stW x) 0x20A 4 x.base x.off
          [v.extractLsb' 0 8, v.extractLsb' 8 8, v.extractLsb' 16 8, v.extractLsb' 24 8] g x.col)
    ∧ (∀ b off p col, gives (.stP b off p col) 0x20B 8 b off
        ((List.range 8).map fun i => (pairVal t.regs p).extractLsb' (8 * i) 8) (pairTag t.regs p) col)
    ∧ (∀ b off h col, gives (.hst b off h col) 0x219 32 b off
        ((List.range 32).map fun i => (t.regs.h[h]).extractLsb' (8 * i) 8) t.regs.hTag[h] col)
    ∧ (∀ b off y col s1 u v g, ReadsV s t y s1 u v g → AddressIs s1 u b off 1024 4 a mt →
        Stores s1 u a ((List.range 1024).map fun i => v.extractLsb' (8 * i) 8) col t' s' →
        Leaves s (.stV b off y col) s' { t' with blk := { t'.blk with
          sig := t'.blk.sig + mix (mix (mix (key 0x212 0) g) (baseTag t.regs b)) (off.signExtend 32) } })

/-- R174, R202, R203, R205, R269, R276, R277, R319: every store completes where its bytes are reached and the declared
limit allows them. The block's buffer then holds them, one item for each aligned 8-byte word, the data signature their
contribution, and nothing else changes. A scatter stores its active lanes, each at the address its index gives, in lane
order and at one place in program order. -/
def Sys2Proof.Says.StoresComplete : Prop :=
  ∀ (s : State) (t : Thread) (a : Addr) (mt : Tag) (e : TlbEntry), Running s t →
    let gives (i : Instr) (op al : Nat) (b : Base) (off : BitVec 24) (bs : List Byte) (g : Tag) (col : Fin 8) :=
      AddressIs s t b off bs.length al a mt → MayStore s t bs.length → Reaches s t a bs.length true e →
        Makes s i (addSig
          (withItems { t with blk := { t.blk with storeBytes := t.blk.storeBytes + bs.length } } (itemsAt t a e bs col))
          (mix (mix (mix (key op 0) g) (baseTag t.regs b)) (off.signExtend 32)))
    (∀ (x : St) v g, readS t x.b = .ok (v, g) →
      gives (.stB x) 0x208 1 x.base x.off [v.extractLsb' 0 8] g x.col
      ∧ gives (.stH x) 0x209 2 x.base x.off [v.extractLsb' 0 8, v.extractLsb' 8 8] g x.col
      ∧ gives (.stW x) 0x20A 4 x.base x.off
          [v.extractLsb' 0 8, v.extractLsb' 8 8, v.extractLsb' 16 8, v.extractLsb' 24 8] g x.col)
    ∧ (∀ b off p col, gives (.stP b off p col) 0x20B 8 b off
        ((List.range 8).map fun i => (pairVal t.regs p).extractLsb' (8 * i) 8) (pairTag t.regs p) col)
    ∧ (∀ b off h col, gives (.hst b off h col) 0x219 32 b off
        ((List.range 32).map fun i => (t.regs.h[h]).extractLsb' (8 * i) 8) t.regs.hTag[h] col)
    ∧ (∀ b off n col, gives (.stV b off (.reg n) col) 0x212 4 b off
        ((List.range 1024).map fun i => (t.v[n]).extractLsb' (8 * i) 8) t.vTag[n] col)
    ∧ (∀ b off n v g col, t.blk.latV[n] = some (v, g) → gives (.stV b off (.lat n) col) 0x212 4 b off
        ((List.range 1024).map fun i => v.extractLsb' (8 * i) 8) g col)
    ∧ ∀ (b : Base) (n m : Fin 96) (ty : Ty) (msk : Fin 16) (col : Fin 8) (addr : Nat → Addr) (entry : Nat → TlbEntry),
      gatherBaseOk t.regs b = true → MayStore s t 1024 →
      (∀ i < 256, maskActive t.regs msk i = true → laneAddr (viewOf s t) t.regs b ty t.v[m] i = .ok (addr i)
        ∧ Reaches s t (addr i) 4 true (entry i)) →
      Makes s (.stVs b (.reg n) (.reg m) ty msk col) (addSig
        (withItems { t with blk := { t.blk with storeBytes := t.blk.storeBytes + 1024 } }
          (((List.range 256).filter (maskActive t.regs msk)).flatMap fun i =>
            itemsAt t (addr i) (entry i) ((List.range 4).map fun j => (t.v[n]).extractLsb' (32 * i + 8 * j) 8) col))
        (mix (mix (mix (key 0x213 (tyTo ty)) t.vTag[n]) (mix (baseTag t.regs b) t.vTag[m])) 0))

/-- R204, R205, R269: what a store in the buffer is. A store of an aligned power of two of bytes up to 8 to a region is
one item, and a later load of the same bytes of the sequencer finds them; memory and the regions are as they were. -/
def Sys2Proof.Says.StoreIsBuffered : Prop :=
  ∀ (s : State) (t : Thread) (n r o : Nat) (bs : List Byte) (col : Fin 8), n ∈ [1, 2, 4, 8] → bs.length = n → o % n = 0 →
    (∀ e, Reaches s t (.scr r o) n true e) →
    ∃ t', (bufferStore t (.scr r o) bs col).run s = (.ok t', s)
      ∧ t' = { t with
          blk := { t.blk with stores := t.blk.stores ++ [.st { loc := .scr r o, data := bs, col := col, ord := t.ord }] }
          ord := t.ord + 1 }
      ∧ ((∀ y ∈ ownStores t, y.ord < t.ord) →
          ∀ i < n, latestStore (ownStores t') (.scr r (o + i)) 0 = bs[i]?)

/-- R109, R173, R175: `hset` replaces one 32-bit word of a record; bits 63 and 223 to 200 read 0. -/
def Sys2Proof.Says.HandleWordIsSet : Prop :=
  ∀ (s : State) (t : Thread) (d a : Fin 32) (b : SSrc) (k : Fin 8) (x : W32) (g : Tag),
    Running s t → readS t b = .ok (x, g) →
    ∃ r : HRec, Makes s (.hset d a b k)
        (putDest t 1 (.h d r) (mix (mix (mix (key 0x21A 0) t.regs.hTag[a]) g) 0))
      ∧ ∀ i < 256, r.getLsbD i = (!(i = 63 || (200 ≤ i && i < 224)) &&
          (if 32 * k.val ≤ i ∧ i < 32 * k.val + 32 then x.getLsbD (i - 32 * k.val) else (t.regs.h[a]).getLsbD i))

/-- R178, R179: `wset` gives a walker its region, origin, levels, counts and strides, and its indices 0; `s` scalars
p+2+2j and p+3+2j hold level j. -/
def Sys2Proof.Says.WalkerIsSet : Prop :=
  ∀ (s : State) (t : Thread) (w : Fin 6) (p : Fin 32) (levels : Fin 16) (imm : W32), Running s t →
    1 ≤ levels.val → levels.val ≤ 4 → 2 * p.val + 2 + 2 * levels.val ≤ 64 → t.regs.w[w].busy = false →
    let a : W64 := BitVec.ofInt 64 ((pairVal t.regs p).toNat + imm.toInt)
    let par (j : Nat) : W32 := t.regs.s.toList.getD (2 * p.val + 2 + j) 0
    a.getLsbD 63 = true → a.extractLsb' 28 35 = 0 → a.toNat % 4 = 0 →
    (∀ j < levels.val, 1 ≤ (par (2 * j)).toNat ∧ (par (2 * j)).toNat ≤ 65535 ∧ (par (2 * j + 1)).toInt % 4 = 0
      ∧ -(2 ^ 23 : Int) ≤ (par (2 * j + 1)).toInt ∧ (par (2 * j + 1)).toInt < 2 ^ 23) →
    ∃ t' x, Makes s (.wset w p levels imm) t' ∧ t'.regs.w = t.regs.w.set w x ∧ x.configured = true ∧ x.busy = false
      ∧ x.region.val = (a.extractLsb' 22 6).toNat ∧ x.origin = a.extractLsb' 0 22 ∧ x.levels.val + 1 = levels.val
      ∧ x.index = Vector.replicate 4 0
      ∧ (∀ j : Fin 4, j.val < levels.val →
          x.count[j] = (par (2 * j.val)).setWidth 16 ∧ x.stride[j] = (par (2 * j.val + 1)).setWidth 24)
      ∧ t'.blk.sig = t.blk.sig + x.lineage ∧ t'.regs.s = t.regs.s ∧ t'.v = t.v

/-- R182 to R185, R437: the landing slots. `ld.v` and `ld.vg` take a free slot and record their pieces, and a load that
nothing holds back enters the port with its lines; a slot that is taken is illegal to load again. That the lines are asked
for at the issue is the model's reading (log entry 30), and that the slot has the tag of that moment its choice (log entry
86); one behind an atomic of its own block asks later (log entry 78). -/
def Sys2Proof.Says.LandingSlotLoads : Prop :=
  ∀ (s : State) (t : Thread) (slot : Fin 32), Running s t →
    (t.regs.slots[slot].state ≠ .free → (∀ b off, Traps s t (.ldV slot b off) .illegal)
      ∧ ∀ b v ty m, Traps s t (.ldVg slot b v ty m) .illegal)
    ∧ (t.regs.slots[slot].state = .free →
      (∀ b off a mt ps s', AddressIs s t b off 1024 4 a mt → (slotPieces t 0 a 1024).run s = (.ok ps, s') →
        let x : Slot := { state := .pending, lin := accessTag t 0x210 b off mt, pieces := ps, ord := t.ord, bundle := t.pc,
                          own := blockLabel s' t t.pc.toNat }
        ∃ t', Leaves s (.ldV slot b off) (if slotMayLand s' t x = true then (wantLines s' t.tile (slotReqs s' t x)).1 else s') t'
          ∧ t'.v = t.v ∧ t'.ord = t.ord + 1 ∧ t'.regs.slots = t.regs.slots.set slot x
          ∧ t'.regs.s = t.regs.s ∧ t'.regs.h = t.regs.h ∧ t'.blk.sig = t.blk.sig + accessTag t 0x210 b off mt)
      ∧ (∀ b off r o mt, (∀ e, Reaches s t (.scr r o) 1024 false e) → AddressIs s t b off 1024 4 (.scr r o) mt →
        ∃ t', Makes s (.ldV slot b off) t' ∧ t'.regs.slots[slot].state = .pending ∧ t'.regs.slots[slot].ord = t.ord
          ∧ t'.regs.slots[slot].pieces = (pieces 1024 o 1024).map (fun p => ⟨p.1 - o, .scr r p.1, p.2⟩))
      ∧ (∀ b n ty m (addr : Nat → Addr) (piece : Nat → List Piece), gatherBaseOk t.regs b = true →
        (∀ i, i < 256 → maskActive t.regs m i = true →
          laneAddr (viewOf s t) t.regs b ty t.v[n] i = .ok (addr i)) →
        (∀ i, i < 256 → maskActive t.regs m i = true → (slotPieces t (4 * i) (addr i) 4).run s = (.ok (piece i), s)) →
        let ps := ((List.range 256).filter (maskActive t.regs m)).flatMap piece
        ∃ t', let x := t'.regs.slots[slot]
          Leaves s (.ldVg slot b (.reg n) ty m) (if slotMayLand s t x = true then (wantLines s t.tile (slotReqs s t x)).1 else s) t'
          ∧ t'.v = t.v ∧ x.state = .pending ∧ x.pieces = ps ∧ x.ord = t.ord ∧ x.bundle = t.pc))

/-- R180, R182, R185, R204, R273: a pending slot of a region, none of its bytes taken at a seal, whose loads may perform
lands with the bytes they find, those of the sequencer's own older stores that have still to perform before the region's; that it takes them at its landing is the model's choice
(log entries 43 and 86), and what it waits for its reading (log entry 78). `commit` writes a landed slot with its tag to a
vector register that the block may name (in native code one bundle later, the model's choice, log entry 81) or through a
write port into its region; one that meets a parity error has the load issued again, the second of a load is a data error;
a commit of a free slot is illegal and of a pending one waits. -/
def Sys2Proof.Says.LandingSlotLandsAndCommits : Prop :=
  ∀ (s : State) (t : Thread) (slot : Fin 32),
    (∀ k r o, mfind s.threads k = some t → t.regs.slots[slot].state = .pending → .load k ∉ s.hwErrors → (s.tile t.tile).sent = [] →
      (∀ p ∈ t.regs.slots[slot].pieces, p.loc = .scr r (o + p.pos) ∧ 0 < p.len ∧ p.pos + p.len ≤ 1024) →
      (∀ i < 1024, ∃ p ∈ t.regs.slots[slot].pieces, p.pos ≤ i ∧ i < p.pos + p.len) →
      t.regs.slots[slot].got = [] → slotMayLand s t t.regs.slots[slot] = true →
      let older := (ownStores t).filter (·.ord < t.regs.slots[slot].ord)
      ∃ t', exec (.landingSlotLanded k slot) s = .next (settleTrap (s.setThread k t') t.op) ∧ t'.regs.slots[slot].state = .landed
        ∧ t'.v = t.v ∧ (∀ m, m ≠ slot → t'.regs.slots[m] = t.regs.slots[m])
        ∧ ∀ i < 1024, (t'.regs.slots[slot].data).extractLsb' (8 * i) 8
            = (latestStore older (.scr r (o + i)) 0).getD (regionByte (viewRegion s t r) (o + i)))
    ∧ (Running s t → t.regs.slots[slot].state = .landed → .slotParity t.key ∉ s.hwErrors →
      let v := t.regs.slots[slot].data
      let g := mix (mix (mix (key 0x214 0) t.regs.slots[slot].lin) 0) 0
      (∀ n : Fin 96, (n ∈ t.blk.vNamed ∨ ∃ x, declared s t = some x ∧ t.blk.vNamed.length + 1 ≤ x.vectors.toNat) →
        ∃ t', Leaves s (.commit (.reg n) slot) s t' ∧ t'.blk.committed = slot :: t.blk.committed ∧ t'.regs = t.regs
          ∧ t'.blk.sig = t.blk.sig + g
          ∧ (t.form = .jexcy → t'.v[n] = v ∧ t'.vTag[n] = g ∧ ∀ m, m ≠ n → t'.v[m] = t.v[m] ∧ t'.vTag[m] = t.vTag[m])
          ∧ (t.form = .native → t'.v = t.v ∧ t'.vTag = t.vTag
            ∧ t'.blk.writes = t.blk.writes ++ [⟨t.blk.unit + 1, .v n v (BitVec.allOnes 8192), g⟩]))
      ∧ ∀ (p : Fin 2) (z : SealData) (ad : Addr) (s' : State) (u : Thread),
        let w := t.regs.w[4 + p.val]
        w.configured = true → w.busy = false → walkerAddr (viewOf s t) w = .ok ad →
        declared s t = some z → (t.blk.storeBytes + 1024 + 31) / 32 ≤ z.stores.toNat →
        ((List.range 256).foldlM (fun u i =>
            bufferStore u (ad.add (i * 4)) ((List.range 4).map fun j => v.extractLsb' (8 * (i * 4 + j)) 8) 0)
          { t with blk := { t.blk with storeBytes := t.blk.storeBytes + 1024 } }).run s = (.ok u, s') →
        Leaves s (.commit (.port p) slot) s' { u with
          regs := { u.regs with w := u.regs.w.set (4 + p.val) (walkerAdvance w) }
          blk := { u.blk with
            sig := u.blk.sig + mix (mix (mix (key 0x214 0) g) w.lineage) 0, committed := slot :: u.blk.committed } })
    ∧ (Running s t → t.regs.slots[slot].state = .landed → .slotParity t.key ∈ s.hwErrors → ∀ d,
      let s' := { s with hwErrors := s.hwErrors.erase (.slotParity t.key) }
      (t.regs.slots[slot].parity = false → ∃ t', Leaves s (.commit d slot) s' t' ∧ t'.regs.slots[slot].state = .pending
        ∧ t'.regs.slots[slot].parity = true ∧ t'.pc = t.pc ∧ t'.v = t.v)
      ∧ (t.regs.slots[slot].parity = true → exec (.commit d slot) s = .next (raiseTrap s' s.cur t .dataError 0)))
    ∧ (Running s t → ∀ d, (t.regs.slots[slot].state = .free → Traps s t (.commit d slot) .illegal)
      ∧ (t.regs.slots[slot].state = .pending → Makes s (.commit d slot) { t with flow := .stalled (.slot slot) }))

/-- R182 to R185, R273: the landing slots, from `ld.v` to `commit`. -/
def Obligations.LandingSlots : Prop :=
  Says.LandingSlotLoads ∧ Says.LandingSlotLandsAndCommits

/-- R180, R277: the words a scatter stores: the active lanes of the data vector, each at the address its index gives,
in lane order, at one place in program order. -/
def Sys2Proof.Says.ScatterStores : Prop :=
  ∀ (s s' : State) (t : Thread) (b : Base) (n m : Fin 96) (ty : Ty) (msk : Fin 16) (col : Fin 8) (x : SealData)
      (addr : Nat → Addr) (items : List (List SItem)),
    Running s t → gatherBaseOk t.regs b = true → declared s t = some x →
    let t0 := { t with blk := { t.blk with storeBytes := t.blk.storeBytes + 1024 } }
    (t.blk.storeBytes + 1024 + 31) / 32 ≤ x.stores.toNat →
    (∀ i < 256, maskActive t.regs msk i = true → laneAddr (viewOf s t) t.regs b ty t.v[m] i = .ok (addr i)) →
    (((List.range 256).filter (maskActive t.regs msk)).mapM fun i =>
        storeItems t0 (addr i) ((List.range 4).map fun j => (t.v[n]).extractLsb' (32 * i + 8 * j) 8) col).run s
      = (.ok items, s') →
    Leaves s (.stVs b (.reg n) (.reg m) ty msk col) s' { t0 with ord := t.ord + 1, blk := { t0.blk with
      stores := t.blk.stores ++ items.flatten
      sig := t.blk.sig + mix (mix (mix (key 0x213 (tyTo ty)) t.vTag[n]) (mix (baseTag t.regs b) t.vTag[m])) 0 } }

/-- R174, R180, R202 to R205, R269, R276, R277, R319: the stores and the scatter. -/
def Obligations.StoresAreBuffered : Prop :=
  Says.StoresComplete ∧ Says.StoreResults ∧ Says.StoreIsBuffered ∧ Says.ScatterStores

/-! ## Barriers and regions (files 03 and 10) -/

/-- R105, R106, R283 to R288: `mark`, `fence`, `rmap`, `runmap`, `stamp` and `rflush` enter the block's pending list, to
take effect at its seal. -/
def Obligations.PendingOperations : Prop :=
  ∀ (s : State) (t : Thread), Running s t →
    let pends (t' : Thread) (p : Pend) : Thread := { t' with blk := { t'.blk with pend := t'.blk.pend ++ [p] } }
    (∀ sc, Makes s (.mark sc) { pends t (.barrier true sc 0xFF t.ord) with ord := t.ord + 1 })
    ∧ (∀ sc m, Makes s (.fence sc m) { pends t (.barrier false sc m t.ord) with ord := t.ord + 1 })
    ∧ (∀ n p b len g, readS t b = .ok (len, g) →
        let r := regionOf (s.opTile t.ot) n.val
        (r.size ≠ 0 → (pairVal t.regs p).toNat < 2 ^ 57 → (pairVal t.regs p).toNat % 4096 = 0 →
          len.toNat = r.size.toNat * 4096 → Makes s (.rmap n p b)
            { pends t (.rmap n ((pairVal t.regs p).setWidth 57) t.ord) with ord := t.ord + 1 })
        ∧ (len.toNat ≠ r.size.toNat * 4096 → Traps s t (.rmap n p b) .illegal)
        ∧ ((pairVal t.regs p).toNat % 4096 ≠ 0 → Traps s t (.rmap n p b) .illegal))
    ∧ (∀ n, (regionOf (s.opTile t.ot) n.val).size ≠ 0 → Makes s (.runmap n) { pends t (.runmap n t.ord) with ord := t.ord + 1 })
    ∧ (∀ n, (regionOf (s.opTile t.ot) n.val).size = 0 → Traps s t (.runmap n) .illegal)
    ∧ (∀ n a v g, readS t a = .ok (v, g) → (regionOf (s.opTile t.ot) n.val).size ≠ 0 →
        Makes s (.stamp n a) (addSig (pends t (.stamp n v)) (mix (mix (mix (key 0x240 0) g) (BitVec.ofNat 32 n.val)) 0)))
    ∧ (∀ p b len g s1 pa c, readS t b = .ok (len, g) → 1 ≤ len.toNat →
        (pairVal t.regs p).toNat % 2 ^ 16 + len.toNat ≤ 2 ^ 16 → (pairVal t.regs p).toNat + len.toNat ≤ 2 ^ 57 →
        s.pondOf t.op = none →
        translate s t.tile t.launch.pasid.toNat (pairVal t.regs p).toNat false = (s1, some (pa, c)) →
        Leaves s (.rflush p b) s1 { pends t (.rflush [(pa, len.toNat)] t.ord t.pc) with ord := t.ord + 1 })

/-! ## Gated operations (files 10, 11 and 13) -/

namespace Sys2Proof.Says

/-- One more gated operation is within the declared limit of the running block. -/
def MayGate (s : State) (t : Thread) : Prop :=
  t.run = .running ∧ ∃ x, declared s t = some x ∧
    t.blk.gated.length + (t.blk.stores.filter fun | .atom _ => true | _ => false).length + 1 ≤ x.gated.toNat

/-- The sequencer with the gated operation captured at its place, with its registers as they stand. -/
def captured (t : Thread) (i : Instr) : Thread :=
  { t with blk := { t.blk with gated := t.blk.gated ++ [⟨i, t.regs, t.pc, t.ord⟩] }, ord := t.ord + 1 }

/-- Its seal has passed and `g`, captured of `i`, is the first gated operation left; the operator is no pond run. -/
def Issues (s : State) (t : Thread) (i : Instr) (g : Gated) (rest : List Gated) : Prop :=
  Running s t ∧ t.run = .issuing ∧ t.issue = g :: rest ∧ g.instr = i ∧ s.pondOf t.op = none

/-- `i` issues: the device is `s'` and the sequencer `t'`, or, where nothing holds it, in its next block. -/
def Issued (s : State) (i : Instr) (s' : State) (t' : Thread) : Prop :=
  exec i s = .next (s'.setThread s.cur (finishIssue s' t'))

/-- Every barrier before the gated operation `g` that issues is met (R284, R285). -/
def BarriersMet (s : State) (t : Thread) (rest : List Gated) (g : Gated) : Prop :=
  ∀ b ∈ t.barriers, b.ord < g.ord → barrierMet s { t with issue := rest } b = true

/-- The commutative atomics with their kinds (R279, R280). -/
def commutative (x : AtOp) : List (Instr × AtKind) :=
  [(.atAdd x, .add), (.atMin x, .min), (.atMax x, .max), (.atAnd x, .and), (.atOr x, .or), (.atXor x, .xor)]

/-- The operand of an atomic: a register, or an even pair (R279). -/
def operand (r : Regs) (wide : Bool) (n : Fin 64) : W64 :=
  if wide then pairVal r ⟨n.val / 2, by omega⟩ else r.s[n].setWidth 64

end Sys2Proof.Says

/-- R42, R49, R310: at its place in a running block, each of these is captured with the registers as they stand, within
the declared limit, and acts on nothing else; beyond the limit it is illegal. -/
def Sys2Proof.Says.GatedOperationsAreCaptured : Prop :=
  ∀ (s : State) (t : Thread) (i : Instr), Running s t →
    ((∃ c, i = .trap c) ∨ (∃ a, i = .exit a) ∨ i = .yield ∨ (∃ d p, i = .take d p) ∨ (∃ p, i = .bar p)
      ∨ (∃ d p b k, i = .probe d p b k) ∨ (∃ p b, i = .release p b)) →
    (MayGate s t → Makes s i (captured t i))
    ∧ (∀ x, t.run = .running → declared s t = some x → x.gated.toNat < gatedCount t + 1 → Traps s t i .illegal)

/-- R49, R311: `wait.a` is captured at its place where its address is one of a region; elsewhere it is illegal. -/
def Sys2Proof.Says.WaitsAreCaptured : Prop :=
  ∀ (s : State) (t : Thread) (d : Fin 64) (p : Fin 32) (b : Fin 64) (cc : Cc), Running s t → t.run = .running →
    let a := pairVal t.regs p
    let size := (regionOf (s.opTile t.ot) (a.extractLsb' 22 6).toNat).size.toNat * 4096
    (a.getLsbD 63 = true → a.extractLsb' 28 35 = 0 → a.toNat % 8 = 0 → (a.extractLsb' 0 22).toNat + 8 ≤ size → MayGate s t →
      Makes s (.waitA d p b cc) (captured t (.waitA d p b cc)))
    ∧ (a.getLsbD 63 = false ∨ a.toNat % 8 ≠ 0 → Traps s t (.waitA d p b cc) .illegal)

/-- R49, R95, R279: an atomic at its place: one of global memory is captured; one of a region joins the block's stores,
with the register or pair that is to take the old word. -/
def Sys2Proof.Says.AtomicsAreCaptured : Prop :=
  ∀ (s : State) (t : Thread) (x : AtOp) (mt : Tag), Running s t → MayGate s t →
    let enters (i : Instr) (b : Base) (off : BitVec 24) (n : Nat) (a : Atomic) :=
      (∀ va, AddressIs s t b off n n (.glob va) mt → Makes s i (captured t i))
      ∧ ∀ r o, AddressIs s t b off n n (.scr r o) mt → (∀ e, Reaches s t (.scr r o) n true e) →
          Makes s i { t with
            blk := { t.blk with stores := t.blk.stores ++ [.atom { a with loc := .scr r o, ord := t.ord }] }
            ord := t.ord + 1 }
    let n := if x.wide then 8 else 4
    let atom (k : AtKind) : Atomic :=
      { kind := k, wide := x.wide, loc := .scr 0 0, v := operand t.regs x.wide x.b, col := x.col, ord := 0 }
    (∀ p ∈ commutative x, enters p.1 x.base x.off n (atom p.2))
    ∧ (∀ d, enters (.atXchg d x) x.base x.off n { atom .xchg with dest := some d })
    ∧ (∀ d c, enters (.atCas d x.base c x.b x.wide x.col) x.base 0 n
        { atom .cas with cmp := operand t.regs x.wide c, dest := some d })
    ∧ ∀ d, enters (.atFadd d x.base x.off x.b x.col) x.base x.off 4
        { atom .fadd with wide := false, v := operand t.regs false x.b, dest := some d }

/-- R42, R49, R95, R279, R310, R311: gated operations and atomics at their places in a block. -/
def Obligations.GatedAndAtomicsAreCaptured : Prop :=
  Says.GatedOperationsAreCaptured ∧ Says.WaitsAreCaptured ∧ Says.AtomicsAreCaptured

/-- R72, R93, R274, R275, R281: an atomic that issues, its page readable and writable. A commutative one of a cached
page joins its tile's update-only line; it waits where an older write or atomic of its sequencer stands before it, and one
that differs from the line sends it to be merged first and starts a new one. Each returning one enters the queue of its
colour. That a line leaves once its request has left the port, and that an atomic waits where the L1 has no room for a
line, are the model's readings (log entry 30); that a commutative one of an uncached page goes through the queue of its
colour is its choice (log entry 69). -/
def Sys2Proof.Says.AtomicsIssue : Prop :=
  ∀ (s : State) (t : Thread) (g : Gated) (rest : List Gated) (va : Nat) (e : TlbEntry) (mt : Tag),
    BarriersMet s t rest g → e.readable = true → (∀ n : Fin 32, t.regs.slots[n].state ≠ .pending) → .home t.key ∉ s.hwErrors →
    let pa := e.frame + va % 2 ^ 16
    let c := e.cached
    let at_ (b : Base) (off : Int) (n : Nat) :=
      baseAddr (viewOf s t) g.regs b off n n = .ok (.glob va, mt) ∧ Reaches s t (.glob va) n true e
    let t0 := { t with issue := rest }
    let enters (i : Instr) (k : AtKind) (wide : Bool) (v cmp : W64) (d : Option (Fin 64)) (col : Fin 8) :=
      Issues s t i g rest → Issued s i s (enterQueue t0 col (.atom
        { kind := k, wide := wide, loc := .glob pa c, v := v, cmp := cmp, dest := d, col := col, ord := g.ord }))
    (∀ x, ∀ p ∈ commutative x, at_ x.base x.off.toInt (if x.wide then 8 else 4) →
      let a : Atomic :=
        { kind := p.2, wide := x.wide, loc := .glob pa c, v := operand g.regs x.wide x.b, col := x.col, ord := g.ord }
      (c = false → enters p.1 p.2 x.wide (operand g.regs x.wide x.b) 0 none x.col)
      ∧ (c = true → Issues s t p.1 g rest →
        let line := mfind (s.tile t.tile).uol (pa / 64)
        let first := olderOnLine s t0 a (pa / 64) = false ∧ ∀ y ∈ t.waiting, ∀ q ca, y.loc = .glob q ca →
          q / 64 = pa / 64 → a.ord ≤ y.ord
        let waits := { t0 with waiting := t.waiting ++ [a] }
        let asked := wantLines s t.tile [portReq s t.op (pa / 64) .evict false]
        let sent := mergeTileLine asked.1 t.tile (pa / 64)
        (first → (∀ u, line = some u → u.kind = p.2 ∧ u.wide = x.wide ∧ u.col = x.col) →
          (line = none → uolRoom (s.tile t.tile) = true) →
          Issued s p.1 (enterUol s t.tile t.key a pa) t0)
        ∧ (¬ first ∨ (line = none ∧ uolRoom (s.tile t.tile) = false) → Issued s p.1 s waits)
        ∧ (first → (∃ u, line = some u ∧ ¬ (u.kind = p.2 ∧ u.wide = x.wide ∧ u.col = x.col)) →
          (asked.2 = false → Issued s p.1 asked.1 waits)
          ∧ (asked.2 = true → olderOnLine sent t0 a (pa / 64) = false → uolRoom (sent.tile t.tile) = true →
            Issued s p.1 (enterUol sent t.tile t.key a pa) t0))))
    ∧ (∀ d x, at_ x.base x.off.toInt (if x.wide then 8 else 4) →
        enters (.atXchg d x) .xchg x.wide (operand g.regs x.wide x.b) 0 (some d) x.col)
    ∧ (∀ d b sb sc wide col, at_ b 0 (if wide then 8 else 4) →
        enters (.atCas d b sb sc wide col) .cas wide (operand g.regs wide sc) (operand g.regs wide sb) (some d) col)
    ∧ (∀ d b off sb col, at_ b off.toInt 4 →
        enters (.atFadd d b off sb col) .fadd false ((g.regs.s[sb]).setWidth 64) 0 (some d) col)

/-- R280: the word an atomic leaves, of `w` bits, from the word `m` it finds and its operand `v`. -/
def Sys2Proof.Says.AtomicValues : Prop :=
  ∀ (w : Nat) (m v cmp : Nat), w = 32 ∨ w = 64 → m < 2 ^ w → v < 2 ^ w → cmp < 2 ^ w →
    let signed (x : Nat) : Int := (BitVec.ofNat w x).toInt
    let gives (k : AtKind) (x : Nat) := atApply k w m v cmp = (x, 0)
    gives .add ((m + v) % 2 ^ w) ∧ gives .min (if signed v < signed m then v else m)
    ∧ gives .max (if signed m < signed v then v else m) ∧ gives .and (m &&& v) ∧ gives .or (m ||| v)
    ∧ gives .xor (m ^^^ v) ∧ gives .xchg v ∧ gives .cas (if m = cmp then v else m)

/-- R72, R93, R274, R275, R280, R281: atomics that issue, and the words they leave. -/
def Obligations.AtomicsIssueAndApply : Prop :=
  Says.AtomicsIssue ∧ Says.AtomicValues

/-- R93, R94, R391: operands of one kind combine in a tile's update-only line, of 32 or 64 bits; its eviction, once its
line request has left the port and not before, applies what is pending to the words at their home and to no other byte
(that an eviction takes a line request, and a recall none, is log entry 52). -/
def Sys2Proof.Says.UpdateOnlyLines : Prop :=
  ∀ (s : State) (tile key pa : Nat) (a : Atomic), a.kind ∈ [AtKind.add, .min, .max, .and, .or, .xor] →
    (mfind (s.tile tile).uol (pa / 64) = none →
      ∃ u, mfind ((enterUol s tile key a pa).tile tile).uol (pa / 64) = some u ∧ mfind u.words (pa % 64) = some a.v
        ∧ u.kind = a.kind ∧ (enterUol s tile key a pa).mem = s.mem ∧ (enterUol s tile key a pa).l2 = s.l2)
    ∧ (∀ x, mfind (s.tile tile).uol (pa / 64) = some x → x.kind = a.kind → x.wide = a.wide → x.col = a.col →
      let w := if a.wide then 64 else 32
      ∃ y, mfind ((enterUol s tile key a pa).tile tile).uol (pa / 64) = some y ∧ y.kind = x.kind ∧ y.wide = x.wide
        ∧ y.col = x.col ∧ (∀ o, o ≠ pa % 64 → mfind y.words o = mfind x.words o)
        ∧ (mfind x.words (pa % 64) = none → mfind y.words (pa % 64) = some a.v)
        ∧ (∀ v, mfind x.words (pa % 64) = some v → v.toNat < 2 ^ w → a.v.toNat < 2 ^ w →
            ∃ v', mfind y.words (pa % 64) = some v' ∧ v'.toNat = (atApply a.kind w v.toNat a.v.toNat 0).1)
        ∧ (enterUol s tile key a pa).mem = s.mem ∧ (enterUol s tile key a pa).l2 = s.l2)
    ∧ (∀ line x, let n := if x.wide then 8 else 4
        mrises x.words 0 = true → (∀ p ∈ x.words, p.1 % n = 0 ∧ p.1 < 64) →
        mrises (s.tile tile).uol 0 = true → mfind (s.tile tile).uol line = some x →
        Sent s tile line .evict → (∀ k ∈ s.threads, k.2.waiting = []) →
        ∃ u, exec (.updateOnlyLineEviction tile line) s = .next u ∧ mfind (u.tile tile).uol line = none
          ∧ (∀ p ∈ x.words, homeRead u (64 * line + p.1) n
              = atInt x.kind (8 * n) (homeRead s (64 * line + p.1) n) p.2.toNat % 2 ^ (8 * n))
          ∧ ∀ b, (∀ p ∈ x.words, b < 64 * line + p.1 ∨ 64 * line + p.1 + n ≤ b) → homeByte u b = homeByte s b)
    ∧ (∀ line x, mfind (s.tile tile).uol line = some x → ¬ Sent s tile line .evict →
        ∃ u, exec (.updateOnlyLineEviction tile line) s = .next u ∧ mfind (u.tile tile).uol line = some x
          ∧ u.mem = s.mem ∧ u.l2 = s.l2)
    ∧ (∀ line, mfind (s.tile tile).uol line = none → exec (.updateOnlyLineEviction tile line) s = .next s)

/-- R90, R91: the L2 writes its dirty words back to the stack. No byte at its home changes; an evicted line is in no
cache any more. -/
def Sys2Proof.Says.L2WriteBack : Prop :=
  ∀ (s : State) (line : Nat) (l : L2Line), Memory.wf s.mem = true → mrises s.l2 0 = true → mfind s.l2 line = some l →
    (∃ u, exec (.l2WriteBack line false) s = .next u ∧ (∀ b, homeByte u b = homeByte s b)
      ∧ (∀ i < 64, l.dirty.getLsbD (i / 8) = true → readByte u.mem (64 * line + i) = l.data.extractLsb' (8 * i) 8)
      ∧ (∀ b, b / 64 ≠ line → readByte u.mem b = readByte s.mem b)
      ∧ mfind u.l2 line = some { l with dirty := 0 })
    ∧ ∃ u, exec (.l2WriteBack line true) s = .next u ∧ mfind u.l2 line = none
      ∧ (∀ b, b / 64 ≠ line → homeByte u b = homeByte s b) ∧ ∀ k, line ∉ (u.tile k).l1

/-- R90, R91, R93, R94: update-only lines and the L2. -/
def Obligations.CachedLines : Prop :=
  Says.UpdateOnlyLines ∧ Says.L2WriteBack

/-- R90, R270, R274, R280, R281, R393: the head of a colour queue performs once its line request has left the port, and not
before. A store writes exactly its bytes, at the stack of an uncached page or in the home L2 of a cached one; an atomic
writes its word or pair of words there and gives back the old one. -/
def Obligations.ColourQueuePerforms : Prop :=
  ∀ (s : State) (k : Nat) (c : Fin 8) (t : Thread) (x : QEntry) (q : List QEntry) (pa : Nat) (ch : Bool),
    mfind s.threads k = some t → t.key = k → t.queues[c] = x :: q → mayPerform s t c x = true → t.waiting = [] →
    (∀ e ∈ s.tiles, mfind e.2.uol (pa / 64) = none) → Memory.wf s.mem = true → (∀ e ∈ q, e.ord ≠ x.ord) →
    let left : Prop := Sent s t.tile (pa / 64) (.place k x.ord)
    let leaves (n : Nat) (u : State) (t' : Thread) : Prop := exec (.colourQueuePerform k c) s = .next u
      ∧ (∀ b, (b < pa ∨ pa + n ≤ b) → byteAt u ch b = byteAt s ch b) ∧ (ch = false → u.l2 = s.l2)
      ∧ (ch = true → pa % 64 + n ≤ 64 → u.mem = s.mem)
      ∧ u.opTiles = s.opTiles ∧ mfind u.threads k = some t' ∧ t'.queues[c] = q ∧ t'.regs = t.regs ∧ t'.v = t.v
    ((∃ y, x = .st y ∧ y.loc = .glob pa ch) ∨ (∃ a, x = .atom a ∧ a.loc = .glob pa ch) → ¬ left →
      ∃ u, exec (.colourQueuePerform k c) s = .next u ∧ u.mem = s.mem ∧ u.l2 = s.l2 ∧ u.threads = s.threads)
    ∧ (∀ y, x = .st y → y.loc = .glob pa ch → left →
      ∃ u t', leaves y.data.length u t' ∧ (∀ i < y.data.length, y.data[i]? = some (byteAt u ch (pa + i)))
        ∧ t'.results = t.results)
    ∧ (∀ a, x = .atom a → a.loc = .glob pa ch → left →
      let n := if a.wide then 8 else 4
      let old := numAt s ch pa n
      let r := atApply a.kind (8 * n) old a.v.toNat a.cmp.toNat
      ∃ u t', leaves n u t' ∧ numAt u ch pa n = r.1 % 2 ^ (8 * n) ∧ t'.lateFlags = t.lateFlags ||| r.2
        ∧ t'.results = t.results ++ (match a.dest, a.wide with
            | none, _ => []
            | some d, false => [(d, BitVec.ofNat 32 old)]
            | some d, true => [(⟨d.val / 2 * 2, by omega⟩, BitVec.ofNat 32 old),
                (⟨d.val / 2 * 2 + 1, by omega⟩, BitVec.ofNat 32 (old / 2 ^ 32))]))

/-- R311, R313 to R315, R348: what `trap`, `exit`, `yield`, `wait.a` and `take` do when they issue. A held trap stops
the sequencer; an exit ends it with its value; a yield asks its operator to stop where the pool has use for the tile;
a wait whose word satisfies its relation returns the word, and sleeps otherwise; a take of a range,
in a cached page or another, its line request out of the port, returns its next index and its share. -/
def Sys2Proof.Says.WaitsIssue : Prop :=
  ∀ (s : State) (t : Thread) (g : Gated) (rest : List Gated),
    let t0 := { t with issue := rest }
    (∀ c, Issues s t (.trap c) g rest → exec (.trap c) s = .next (raiseTrap s s.cur t .program c))
    ∧ (∀ a o, Issues s t (.exit a) g rest → t.key = s.cur → mfind s.ops t.op = some o → o.fate = none →
        ∃ u t', exec (.exit a) s = .next u ∧ mfind u.threads s.cur = some t' ∧ t'.run = .exited
          ∧ t'.exitValue = g.regs.s[a] ∧ t'.issue = [] ∧ u.mem = s.mem ∧ u.ops = s.ops)
    ∧ (∀ o, Issues s t .yield g rest → mfind s.ops t.op = some o →
        (poolWants s t.op t.tile o.prio = false → Issued s .yield s t0)
        ∧ (o.stopping = true → poolWants s t.op t.tile o.prio = true → Issued s .yield s { t0 with point := true })
        ∧ (o.stopping = false → poolWants s t.op t.tile o.prio = true →
            Issued s .yield (s.setOp t.op { o with stopping := true, stopAt := s.time.toNat }) { t0 with point := true }))
    ∧ (∀ d p b cc r off e, Issues s t (.waitA d p b cc) g rest → BarriersMet s t rest g → .load t.key ∉ s.hwErrors →
        waitAddr (s.opTile t.ot) g.regs p = .ok (.scr r off) → Reaches s t (.scr r off) 4 false e →
        loadWaits t (.scr r off) 4 g.ord = none →
        let v : W32 := BitVec.ofNat 32 (leOf ((List.range 4).map fun i =>
          (latestStore (ownStores t) (.scr r (off + i)) 0).getD (regionByte (viewRegion s t r) (off + i))))
        (relHolds cc v g.regs.s[b] = true →
          Issued s (.waitA d p b cc) s { t0 with results := t.results ++ [(d, v)] })
        ∧ (relHolds cc v g.regs.s[b] = false → Makes s (.waitA d p b cc) { t with flow := .stalled .other }))
    ∧ (∀ d p e, Issues s t (.take d p) g rest → BarriersMet s t rest g →
        let c := e.cached
        let va := (pairVal g.regs p).toNat
        let pa := e.frame + va % 2 ^ 16
        va + 32 ≤ 2 ^ 57 → va % 32 = 0 → Reaches s t (.glob va) 32 true e → e.readable = true →
        takeMayGo s t0 g.ord pa c = true → (∀ e ∈ s.tiles, mfind e.2.uol (pa / 64) = none) → pa % 32 = 0 →
        Sent s t.tile (pa / 64) (.place t.key g.ord) →
        let word (k : Nat) : Nat := numAt s c (pa + 4 * k) 4
        let share := if word 1 ≤ word 0 then 0
          else min (max 1 (word 2 * ((speedEntry s t.tile).toNat % 64) / 44)) (word 1 - word 0)
        Memory.wf s.mem = true →
        ∃ u, Issued s (.take d p) u { t0 with results := t.results ++ [(⟨2 * d.val, by omega⟩, BitVec.ofNat 32 (word 0)),
              (⟨2 * d.val + 1, by omega⟩, BitVec.ofNat 32 share)] }
          ∧ numAt u c pa 4 = (word 0 + share) % 2 ^ 32 ∧ numAt u c (pa + 16) 4 = (word 4 + 1) % 2 ^ 32
          ∧ ∀ b, (b < pa ∨ pa + 4 ≤ b) → (b < pa + 16 ∨ pa + 20 ≤ b) → byteAt u c b = byteAt s c b)

/-- R311, R365, R369: a sleeping sequencer, switched out or not, wakes when the word it watches satisfies its relation, and
takes the word; its wait at the seal ends there. -/
def Sys2Proof.Says.WaitWakes : Prop :=
  ∀ (s : State) (k : Nat) (t : Thread) (g : Gated) (rest : List Gated) (d : Fin 64) (p : Fin 32) (b : Fin 64) (cc : Cc)
      (r o : Nat),
    mfind s.threads k = some t → t.issue = g :: rest → g.instr = .waitA d p b cc →
    t.flow = .stalled .other ∨ t.parked = some g.ord → waitAddr (s.opTile t.ot) g.regs p = .ok (.scr r o) →
    granOf (regionOf (s.opTile t.ot) r) o ≠ some .empty → (∀ b ∈ t.barriers, g.ord < b.ord ∨ barrierMet s t b = true) →
    loadWaits t (.scr r o) 4 g.ord = none →
    let v : W32 := BitVec.ofNat 32 (leOf ((List.range 4).map fun i => regionByte (regionOf (s.opTile t.ot) r) (o + i)))
    let t' := { t with
      issue := rest, flow := .normal, parked := none, waited := false, waitEnd := s.time.toNat, results := t.results ++ [(d, v)] }
    (relHolds cc v g.regs.s[b] = true →
      exec (.waitAWake k) s = .next (s.setThread k (if t.run = .issuing then finishIssue s t' else t')))
    ∧ (relHolds cc v g.regs.s[b] = false → exec (.waitAWake k) s = .next s)

/-- R311, R313 to R315, R348: the waits, and how a sleeping one wakes. -/
def Obligations.WaitsIssueAndWake : Prop :=
  Says.WaitsIssue ∧ Says.WaitWakes

/-- R349, R350: `bar`. A sequencer whose generation has completed goes on; one that has arrived sleeps; an arrival at an
object of no parties is illegal; every other one counts itself and writes its entry of the straggler record, the
first of a generation with the time. One that is not the last sleeps; the last one, the first too where the barrier has one
party, empties the object, moves its generation on, writes the head of the record and wakes every sequencer that sleeps
there. The object and the record lie in pages, cached or not, whose translations the TLB holds, and the line request of the
object has left the port. -/
def Obligations.BarrierArrivals : Prop :=
  ∀ (s : State) (t : Thread) (g : Gated) (rest : List Gated) (p : Fin 32), Issues s t (.bar p) g rest →
    (∀ pa, t.bar = some (pa, true) → Issued s (.bar p) s { t with issue := rest, bar := none })
    ∧ (∀ pa, t.bar = some (pa, false) → Makes s (.bar p) { t with flow := .stalled .other })
    ∧ ∀ (e1 e2 : TlbEntry), t.bar = none → (∀ b ∈ t.barriers, b.ord < g.ord → barrierMet s t b = true) →
        olderDone t g.ord = true → (∀ e ∈ s.tiles, e.2.uol = []) → Memory.wf s.mem = true →
        let va := (pairVal g.regs p).toNat
        let pasid := t.launch.pasid.toNat
        let pa := e1.frame + va % 2 ^ 16
        let object (u : State) (at_ n : Nat) : Nat := numAt u e1.cached (pa + at_) n
        let word (k : Nat) : Nat := object s (4 * k) 4
        let ra := object s 16 8
        let sp := e2.frame + ra % 2 ^ 16
        let record (u : State) (at_ : Nat) : Nat := numAt u e2.cached (sp + at_) 8
        let first := if word 1 = 0 then s.time.toNat else object s 24 8
        let entry : Nat := t.ltile % 2 ^ 16 * 2 ^ 16 + t.seq.val + min (2 ^ 32 - 1) (s.time.toNat - first) * 2 ^ 32
        Sent s t.tile (pa / 64) (.place t.key g.ord) → va % 64 = 0 → va + 64 ≤ 2 ^ 57 → pa % 64 = 0 →
        tlbFind (s.tile t.tile).tlb pasid va = some e1 → e1.large = false → e1.readable = true → e1.writable = true →
        e1.dirty = true →
        (word 0 = 0 → Traps s t (.bar p) .illegal)
        ∧ (ra % 64 = 0 → ra % 2 ^ 16 + 64 + 8 * word 0 ≤ 2 ^ 16 → ra + 64 + 8 * word 0 ≤ 2 ^ 57 →
            (∀ i < 64 + 8 * word 0, tlbFind (s.tile t.tile).tlb pasid (ra + i) = some e2) → e2.large = false →
            e2.writable = true → e2.dirty = true → sp % 64 = 0 →
            (sp + 64 + 8 * word 0 ≤ pa ∨ pa + 64 ≤ sp) →
            (word 1 + 1 < word 0 →
              ∃ u, exec (.bar p) s = .next u ∧ mfind u.threads s.cur = some { t with
                  bar := some (pa, false), flow := .stalled .other }
                ∧ object u 4 4 = word 1 + 1 ∧ record u (64 + 8 * word 1) = entry ∧ (word 1 = 0 → object u 24 8 = first)
                ∧ ∀ c b, (b < pa + 4 ∨ pa + 8 ≤ b) → (word 1 = 0 → b < pa + 24 ∨ pa + 32 ≤ b) →
                    (b < sp + 64 + 8 * word 1 ∨ sp + 72 + 8 * word 1 ≤ b) → byteAt u c b = byteAt s c b)
            ∧ (word 1 + 1 = word 0 →
              ∃ u, exec (.bar p) s = .next u ∧ mfind u.threads s.cur = some { t with
                  bar := some (pa, true), flow := .redirected }
                ∧ object u 4 4 = 0 ∧ object u 8 4 = (word 2 + 1) % 2 ^ 32 ∧ record u (64 + 8 * word 1) = entry
                ∧ record u 0 = word 0 + (word 2 + 1) % 2 ^ 32 * 2 ^ 32 ∧ record u 8 = first ∧ record u 16 = s.time.toNat
                ∧ record u 24 = entry ∧ (∀ j < 4, record u (32 + 8 * j) = 0)
                ∧ ∀ k w, k ≠ s.cur → mfind s.threads k = some w → w.bar = some (pa, false) →
                    ∃ w', mfind u.threads k = some w' ∧ w'.bar = some (pa, true)))

/-! ## Probes, pins and page requests (file 02) -/

/-- R73 to R75: the status a probe returns: 0 for an empty range, 4 outside the address space, 2 for more pages than the
pin limit, 3 where the PASID has no page table or a page meets a malformed entry, 0 where every page is there and can be
pinned; a probe of a missing page waits, for a request that covers its pages where one is outstanding. -/
def Sys2Proof.Says.ProbeStatuses : Prop :=
  ∀ (s : State) (t : Thread) (g : Gated) (rest : List Gated) (d : Option (Fin 64)) (p : Fin 32) (b : Fin 64)
      (kind : BitVec 2),
    Issues s t (.probe d p b kind) g rest →
    let va := (pairVal g.regs p).toNat
    let len := (g.regs.s[b]).toNat
    let pasid := t.launch.pasid.toNat
    let pages := (List.range ((va + len - 1) / 2 ^ 16 + 1 - va / 2 ^ 16)).map fun i => va / 2 ^ 16 + i
    let result (n : Nat) : List (Fin 64 × W32) := match d with
      | none => []
      | some d => [(d, BitVec.ofNat 32 n)]
    let gives (u : State) (n : Nat) :=
      let u0 := u.setThread s.cur t
      exec (.probe d p b kind) s = .next (u0.setThread s.cur
        (finishIssue u0 { t with issue := rest, results := t.results ++ result n }))
    (len = 0 → gives s 0)
    ∧ (len ≠ 0 → 2 ^ 57 < va + len → gives s 4)
    ∧ (len ≠ 0 → va + len ≤ 2 ^ 57 → t.probe = none → ∀ w, pasidEntry s pasid = .error w →
        gives (noteWalk s t.tile pasid (va / 2 ^ 16)) 3)
    ∧ (len ≠ 0 → va + len ≤ 2 ^ 57 → t.probe = none → ∀ root limit, pasidEntry s pasid = .ok (root, limit) →
        (limit < pages.length → gives s 2)
        ∧ (pages.length ≤ limit → (∀ q ∈ pages, ∃ pa, probePage s pasid kind.toNat q = .ok pa) →
            ∀ fs s', fs = (pages.filterMap fun q => match probePage s pasid kind.toNat q with
                | .ok pa => some (frameIndex pa)
                | _ => none).eraseDups →
              pinFrames (s.noteHole s.basin.frtb.toNat) t.op pasid fs = .ok s' →
              gives (pages.foldl (fun u q => loadTlb u t.tile pasid q) s') 0)
        ∧ (pages.length ≤ limit → ∀ q, pages.find? (fun q => probePage s pasid kind.toNat q = .malformed) = some q →
            gives (noteWalk s t.tile pasid q) 3)
        ∧ (pages.length ≤ limit → (∀ q ∈ pages, probePage s pasid kind.toNat q = .missing) →
            let covers (r : PageReq) : Prop := r.pasid = pasid ∧ r.first ≤ va / 2 ^ 16 ∧ (va + len - 1) / 2 ^ 16 ≤ r.last
              ∧ (r.kind = 2 ∨ r.kind = kind.toNat)
            ((∀ r ∈ s.reqs, ¬ covers r) → Makes s (.probe d p b kind) { t with flow := .stalled .other })
            ∧ ∀ r, s.reqs = [r] → covers r →
                Makes s (.probe d p b kind) { t with probe := some (r.seq, pages, none), flow := .stalled .other }))
    ∧ (len ≠ 0 → va + len ≤ 2 ^ 57 → ∀ q m st, t.probe = some (q, m, some st) → st ≠ 0 →
        exec (.probe d p b kind) s = .next ((s.setThread s.cur { t with probe := none }).setThread s.cur
          (finishIssue (s.setThread s.cur { t with probe := none })
            { t with probe := none, issue := rest, results := t.results ++ result st })))

/-- R76, R84: a pin counts once on the operator and once on the frame's entry; a frame with 65,535 pins takes no more. -/
def Sys2Proof.Says.PinsAreCounted : Prop :=
  ∀ (s : State) (op pasid f : Nat) (o : Operator), mfind s.ops op = some o → o.pasid = pasid →
    Memory.wf s.mem = true →
    let a := frameEntry s (framePa f)
    let pins := homeRead s a 16 / 2 ^ 16 % 2 ^ 16
    (pins = 65535 → pinFrames s op pasid [f] = .error 5)
    ∧ (pins < 65535 → mfind o.pins f ≠ none → (countedFrames s pasid).length ≤ pinLimit s pasid →
        ∃ s' o', pinFrames s op pasid [f] = .ok s' ∧ mfind s'.ops op = some o' ∧ mget 0 o'.pins f = mget 0 o.pins f + 1
          ∧ homeRead s' a 16 / 2 ^ 16 % 2 ^ 16 = pins + 1)

/-- R73 to R76, R84: probes and the pins they take. -/
def Obligations.ProbesAndPins : Prop :=
  Says.ProbeStatuses ∧ Says.PinsAreCounted

/-- R77: a release waits for older accesses that may still translate. It then takes one pin of the operator off the frame
of each page of its range; a frame on which the operator holds none, a range of length 0 and one past 2^57 leave every
pin. -/
def Sys2Proof.Says.ReleaseRuns : Prop :=
  ∀ (s : State) (t : Thread) (g : Gated) (rest : List Gated) (p : Fin 32) (b : Fin 64), Issues s t (.release p b) g rest →
    let t0 := { t with issue := rest }
    let va := (pairVal g.regs p).toNat
    let len := (g.regs.s[b]).toNat
    (mayTranslate s t g.ord = true → Makes s (.release p b) { t with flow := .stalled .other })
    ∧ (mayTranslate s t g.ord = false →
      (len = 0 ∨ 2 ^ 57 < va + len → Issued s (.release p b) s t0)
      ∧ ∀ pa o, 1 ≤ len → va % 2 ^ 16 + len ≤ 2 ^ 16 → va + len ≤ 2 ^ 57 →
        peekAddr s t.launch.pasid.toNat (va / 2 ^ 16 * 2 ^ 16) = some pa → mfind s.ops t.op = some o →
        let f := frameIndex pa
        (mfind o.pins f = none → Issued s (.release p b) s t0)
        ∧ ∀ n, mfind o.pins f = some (n + 1) → mrises o.pins 0 = true → Memory.wf s.mem = true →
          ∃ u o', Issued s (.release p b) u t0 ∧ mfind u.ops t.op = some o'
            ∧ mfind o'.pins f = (if n = 0 then none else some n)
            ∧ (∀ k, k ≠ f → mfind o'.pins k = mfind o.pins k)
            ∧ framePins u (framePa f) = framePins s (framePa f) - 1)

/-- R79 to R81: the page request of a probe that sleeps. It names the first and the last of the missing pages, takes the
next sequence number and a place of the ring in host memory, moves the tail on and raises the interrupt that PRQCTL
enables; with no room in the ring, 256 requests of the terrace outstanding, or one that covers its pages, none is sent. -/
def Sys2Proof.Says.PageRequestIsSent : Prop :=
  ∀ (s : State) (k : Nat) (t : Thread) (g : Gated) (rest : List Gated) (d : Option (Fin 64)) (p : Fin 32) (b : Fin 64)
      (kind : BitVec 2) (m : Nat) (ms : List Nat),
    mfind s.threads k = some t → t.issue = g :: rest → g.instr = .probe d p b kind → t.probe = none →
    t.flow = .stalled .other → Memory.wf s.mem = true →
    let va := (pairVal g.regs p).toNat
    let len := (g.regs.s[b]).toNat
    let pasid := t.launch.pasid.toNat
    let pages := (List.range ((va + len - 1) / 2 ^ 16 + 1 - va / 2 ^ 16)).map fun i => va / 2 ^ 16 + i
    let last := (m :: ms).getLastD m
    1 ≤ len → va + len ≤ 2 ^ 57 → pages.length ≤ pinLimit s pasid →
    (pages.filter fun q => probePage s pasid kind.toNat q = .missing) = m :: ms →
    (∀ q ∈ pages, probePage s pasid kind.toNat q ≠ .malformed) →
    let full : Prop := (s.basin.prqtail.toNat + 2048 - s.basin.prqhead.toNat % 2048) % 2048 = 1024
      ∨ 256 ≤ (s.reqs.filter fun r => r.terrace = terraceOf t.tile).length
    let covered : Prop := ∃ r ∈ s.reqs, r.pasid = pasid ∧ r.first ≤ m ∧ last ≤ r.last ∧ (r.kind = 2 ∨ r.kind = kind.toNat)
    (full ∨ covered → exec (.pageRequest k) s = .next s)
    ∧ (¬ full → ¬ covered →
      let r : PageReq := ⟨s.reqSeq, t.launch.ctx.toNat, pasid, terraceOf t.tile, kind.toNat, m, last, true⟩
      let tail := s.basin.prqtail.toNat % 2048
      let a := s.basin.prqbase.toNat / 2 ^ 15 % 2 ^ 24 * 2 ^ 15 + 32 * (tail % 1024)
      ∃ u, exec (.pageRequest k) s = .next u ∧ u.reqs = s.reqs ++ [r] ∧ u.reqSeq = s.reqSeq + 1
        ∧ u.basin.prqtail.toNat = (tail + 1) % 2048
        ∧ u.basin.irqs = (if s.basin.prqctl.getLsbD 0
            then BitVec.ofNat 16 (s.basin.prqctl.toNat / 2 ^ 16) :: s.basin.irqs else s.basin.irqs)
        ∧ mfind u.threads k = some { t with probe := some (s.reqSeq, m :: ms, none) }
        ∧ (let w (hi lo : Nat) := bits (homeRead u a 32) hi lo
          w 31 0 = s.reqSeq.toNat ∧ w 51 32 = pasid ∧ w 63 52 = t.launch.ctx.toNat ∧ w 127 64 = 65536 * m
            ∧ w 191 128 = 65536 * last ∧ w 255 192 = kind.toNat))

/-- R80 to R83: a write of PRANS. An answer with bits 63:40 not 0, or to no outstanding request, is counted in PRDROP and
nothing else changes; any other takes its request away, and the probe that waits for it goes on with the status, a
status but 0 and 1 as 3. -/
def Sys2Proof.Says.PageRequestIsAnswered : Prop :=
  ∀ (s : State) (v : W64),
    ((∀ r ∈ s.reqs, r.seq ≠ v.setWidth 32) ∨ v.extractLsb' 40 24 ≠ 0 →
      exec (.prans v) s = .next { s with basin := { s.basin with prans := v, prdrop := s.basin.prdrop + 1 } })
    ∧ (∀ r ∈ s.reqs, r.seq = v.setWidth 32 → v.extractLsb' 40 24 = 0 →
      ∃ u, exec (.prans v) s = .next u ∧ u.reqs = s.reqs.filter (fun q => q.seq ≠ r.seq) ∧ u.mem = s.mem
        ∧ u.basin = { s.basin with prans := v } ∧ u.ops = s.ops
        ∧ ∀ k w, mfind s.threads k = some w →
          (∀ m, w.probe = some (r.seq, m, none) → w.run = .issuing → mfind u.threads k = some { w with
            probe := some (r.seq, m, some (if v.extractLsb' 32 8 = 0 then 0 else if v.extractLsb' 32 8 = 1 then 1 else 3))
            flow := .normal })
          ∧ ((∀ m, w.probe ≠ some (r.seq, m, none)) → mfind u.threads k = some w))

/-- R77, R79 to R83: releases, page requests and their answers. -/
def Obligations.ReleaseAndPageRequests : Prop :=
  Says.ReleaseRuns ∧ Says.PageRequestIsSent ∧ Says.PageRequestIsAnswered

/-! ## Flumes (file 04) -/

namespace Sys2Proof.Says

/-- The flume commands that are queued. -/
def flumeInstrs (x : Fl) : List Instr :=
  [.flCopy x, .flXpose x, .flPerm x, .flGather x, .flScatter x, .flFill x, .flMcast x, .flPatch x, .flRope x, .flPublish x]

/-- The command as its issue records it. -/
def flumeCmd (s : State) (t : Thread) (x : Fl) (g : Gated) : FlumeCmd :=
  { thread := t.key, ticket := t.ticket, instr := g.instr, x := x, regs := g.regs, tile := t.tile,
    engine := if x.eng = 15 then 1 + s.nextFlume % 4 else x.eng.val, ord := g.ord, bundle := g.bundle,
    own := t.lastLabel, hold := x.mod.getLsbD 6 }

/-- The device with the command accepted and queued, its index list read. -/
def accepts (s : State) (t : Thread) (g : Gated) (c : FlumeCmd) : State :=
  { (s.dropOwner (.place t.key g.ord)) with flumes := mput s.flumes s.nextFlume c, nextFlume := s.nextFlume + 1 }

/-- The sequencer with the command's ticket, and the ticket as its result. -/
def ticketed (t : Thread) (x : Fl) : Thread :=
  { t with
    tickets := ((t.ticket, .queued) :: t.tickets.filter fun e => e.1 ≠ t.ticket).take 64
    ticket := if t.ticket = 2 ^ 31 - 1 then 1 else t.ticket + 1
    results := if x.nw then t.results else t.results ++ [(x.d, BitVec.ofNat 32 t.ticket)] }

/-- The result of a flume operation in its register, unless nw discards it. -/
def withResult (t : Thread) (x : Fl) (v : Nat) : Thread :=
  { t with results := if x.nw then t.results else t.results ++ [(x.d, BitVec.ofNat 32 v)] }

end Sys2Proof.Says

/-- R49, R115 to R118, R131, R137, R138: a flume operation is captured at its place; when it issues, a command is accepted
with the next ticket and queued, or refused with bit 31 and its code, or waits behind 16 open ones; the index list of a
gather or scatter is read as it issues; a poll returns its ticket's state; a cancel takes an open command away with
nothing of it published, and of any other ticket returns its state. Which flume eng 15 chooses, and that the 17th
command waits before its checks, are the model's choice, log entry 42. -/
def Sys2Proof.Says.FlumeIssues : Prop :=
  ∀ (s : State) (t : Thread) (x : Fl) (g : Gated) (rest : List Gated),
    let t0 := { t with issue := rest }
    let n := (g.regs.s[x.par]).toNat
    let code (st : TicketState) : Nat := match st with
      | .queued => 1 | .writing => 2 | .held => 3 | .published => 4 | .cancelled => 5
    (Running s t → MayGate s t → (∀ i ∈ flumeInstrs x, Makes s i (captured t i))
      ∧ Makes s (.flPoll x) (captured t (.flPoll x)) ∧ Makes s (.flCancel x) (captured t (.flCancel x)))
    ∧ (∀ i ∈ flumeInstrs x, Issues s t i g rest →
      let c := flumeCmd s t x g
      let opened := (s.flumes.filter fun e => e.2.thread = t.key).length
      (16 ≤ opened → Makes s i { t with flow := .stalled .other })
      ∧ (opened < 16 → ∀ code, refusal s c = some code → Issued s i s (withResult t0 x (2 ^ 31 + code)))
      ∧ (opened < 16 → refusal s c = none → ∀ ds, destsOf s c = some ds →
        (indexCount c = none ∨ indexCount c = some 0 →
          Issued s i (accepts s t g { c with dests := ds, left := ds }) (ticketed t0 x))
        ∧ ∀ k r o, indexCount c = some k → 1 ≤ k → valueAddr (s.opTile t.ot) c.par64 (4 * k) = .ok (.scr r o) →
          BarriersMet s t rest g → olderDone t g.ord = true → s.flumes = [] → (∀ p ∈ s.ops, p.2.away = false) →
          let reg := regionOf (s.opTile t.ot) r
          (∀ j < 4 * k, granOf reg (o + j) ≠ some .empty) →
          Issued s i (accepts s t g { c with
              dests := ds, left := ds
              index := (List.range k).map fun e => leOf ((List.range 4).map fun j => regionByte reg (o + 4 * e + j)) })
            (ticketed t0 x)))
    ∧ (Issues s t (.flPoll x) g rest →
        (∀ st, (n, st) ∈ t.tickets → (∀ e ∈ t.tickets, e.1 = n → e.2 = st) →
          Issued s (.flPoll x) s (withResult t0 x (code st)))
        ∧ ((∀ e ∈ t.tickets, e.1 ≠ n) → Issued s (.flPoll x) s (withResult t0 x 0)))
    ∧ (Issues s t (.flCancel x) g rest →
        ((∀ e ∈ t.tickets, e.1 ≠ n) → Issued s (.flCancel x) s (withResult t0 x 0))
        ∧ (∀ st, st = .published ∨ st = .cancelled → (n, st) ∈ t.tickets → (∀ e ∈ t.tickets, e.1 = n → e.2 = st) →
          Issued s (.flCancel x) s (withResult t0 x (code st)))
        ∧ ∀ m c st, st = .queued ∨ st = .writing → (n, st) ∈ t.tickets → (∀ e ∈ t.tickets, e.1 = n → e.2 = st) →
          mfind s.flumes m = some c → c.thread = t.key → c.ticket = n → c.state = st → t.key = s.cur →
          (∀ e ∈ s.flumes, e.2.thread = t.key → e.2.ticket = n → e.1 = m) → mrises s.flumes 0 = true →
          ∃ u t', exec (.flCancel x) s = .next u ∧ u.mem = s.mem ∧ u.opTiles = s.opTiles ∧ u.ops = s.ops
            ∧ mfind u.flumes m = none ∧ (∀ k, k ≠ m → mfind u.flumes k = mfind s.flumes k)
            ∧ mfind u.threads s.cur = some t' ∧ (n, .cancelled) ∈ t'.tickets)

/-- R118: refusals, the first condition that holds giving the code: flume 0 does no scatter and no multicast (1), a
malformed record is refused (2), so are a global destination of more than 4,096 pages (5) or with a page of 2 MiB (6) and
a region that the tile does not have (7); a fill of bytes of a region of its own tile, with no arrival word and nothing
held, is refused by none. -/
def Sys2Proof.Says.FlumeRefusals : Prop :=
  ∀ (s : State) (c : FlumeCmd),
    (c.x.eng = 0 → (∃ x, c.instr = .flScatter x ∨ c.instr = .flMcast x) → refusal s c = some 1)
    ∧ (c.x.eng ≠ 0 → hMalformed c.hD = true → refusal s c = some 2)
    ∧ (∀ x, c.instr = .flFill x ∨ c.instr = .flPublish x → c.x.eng ≠ 0 → hMalformed c.hD = false → hScr c.hD = false →
        let pages := (pageNumbers (runsOf c.hD)).length
        (4096 < pages → refusal s c = some 5)
        ∧ (pages ≤ 4096 → (∃ p ∈ pagesOf (runsOf c.hD), ∃ pte e, walk s (pasidOf s c) (p * 65536) = .leaf pte true e) →
            refusal s c = some 6))
    ∧ ∀ x, c.instr = .flFill x → hMalformed c.hD = false → hScr c.hD = true → c.par 1 % 2 ^ 16 = 0xFFFF → c.hold = false →
        let size := (regionOf (s.opTile (opTileKey (keyOp c.thread) (keyLtile c.thread))) (hRegion c.hD)).size.toNat
        (size = 0 → refusal s c = some 7)
        ∧ (size ≠ 0 → hField c.hD 56 28 = 0 → c.arrAddr = 0 →
            (∀ r ∈ runsOf c.hD, 0 ≤ r.1 ∧ r.2 ≤ (4096 * size : Nat)) → refusal s c = none)

/-- R49, R115 to R118, R131, R137, R138: the issue of the flume operations. -/
def Obligations.FlumeOperationsIssue : Prop :=
  Says.FlumeIssues ∧ Says.FlumeRefusals

/-- Element (i0, i1, i2) of a tensor of region `r` of the operator's tile `ot` is there, and has the code `v` (R109, R110). -/
def Sys2Proof.Says.HoldsElem (s : State) (ot r : Nat) (h : HRec) (i0 i1 i2 v : Nat) : Prop :=
  let reg := regionOf (s.opTile ot) r
  let p := elemPlace h (i0 : Int) (i1 : Int) (i2 : Int)
  ∃ o, handleAddr (s.opTile ot) h p.1 (elemBytes h) = .ok (.scr r o)
    ∧ (∀ j < elemBytes h, granOf reg (o + j) ≠ some .empty)
    ∧ v = elemCode h p.2 ((List.range (elemBytes h)).map fun j => regionByte reg (o + j))

/-- The indices of the elements of rows of a tensor. -/
def Sys2Proof.Says.rowsOf (h : HRec) (rows : List Nat) : List (Nat × Nat × Nat) :=
  rows.flatMap fun i1 => (List.range (hExt2 h)).flatMap fun i2 => (List.range (hExt0 h)).map fun i0 => (i0, i1, i2)

/-- R119, R124, R127, R130 to R135, R137: a queued command that may start and writes into a region: a fill, and one whose
source is a tensor of a region. It makes the writes of its elements, in its shadow only, and its ticket says so: a copy,
transposition, permutation or multicast of each element of the source; a gather of the rows its index list names, a scatter
into them; `fl.patch` the rows it moves and the zero rows it inserts; `fl.rope` the pairs of the rows it visits, each turned
by its frequency times δ. That `fl.patch` ignores mod[1] where mod[0] is 0 is the model's choice (log entry 59). -/
def Sys2Proof.Says.FlumeCommandStarts : Prop :=
  ∀ (s : State) (n : Nat) (c : FlumeCmd), mfind s.flumes n = some c →
    (mayStart s n c = false → exec (.flumeCommandStart n) s = .next s)
    ∧ (mayStart s n c = true → .flume n ∉ s.hwErrors → hScr c.hD = true → hEmpty c.hD = false →
      (∀ p ∈ s.ops, p.2.away = false) → (∀ e ∈ s.flumes, e.2.hold = false) →
      let starts (ws : List ByteWrite) (src : FlDest) : Prop :=
        ∃ u, exec (.flumeCommandStart n) s = .next u ∧ u.mem = s.mem ∧ u.opTiles = s.opTiles ∧ u.ops = s.ops
          ∧ mfind u.flumes n = some { c with state := .writing, writes := ws, frames := [], tag := deliveredTag s c src }
          ∧ ∀ t, mfind s.threads c.thread = some t → mfind u.threads c.thread = some { t with
              tickets := t.tickets.map fun e => if e.1 = c.ticket then (e.1, .writing) else e }
      (∀ x (w : Nat × Nat × Nat → List ByteWrite), c.instr = .flFill x →
        (∀ i ∈ indices c.hD, flPut s c i.1 i.2.1 i.2.2 (c.par64 % 16 ^ hHalf c.hD) = .ok (w i)) →
        starts ((indices c.hD).flatMap w) ((sourceOf s c).getD .glob))
      ∧ ∀ x ot tile r (v : Nat × Nat × Nat → Nat) (w z : Nat × Nat × Nat → List ByteWrite),
        (c.instr ∈ [.flCopy x, .flXpose x, .flPerm x, .flMcast x] → hEmpty c.hS = false →
        sourceOf s c = some (.scr ot tile r) →
        (∀ i ∈ indices c.hS, HoldsElem s ot r c.hS i.1 i.2.1 i.2.2 (v i)
          ∧ (let j := permute (permCode c) i.1 i.2.1 i.2.2
            flPut s c j.1 j.2.1 j.2.2 (v i) = .ok (w i))) →
        starts ((indices c.hS).flatMap w) (.scr ot tile r))
      ∧ (c.instr = .flGather x → hEmpty c.hS = false → sourceOf s c = some (.scr ot tile r) →
        (∀ i ∈ indices c.hD, HoldsElem s ot r c.hS i.1 (c.index.getD i.2.1 0) i.2.2 (v i)
          ∧ flPut s c i.1 i.2.1 i.2.2 (v i) = .ok (w i)) →
        starts ((indices c.hD).flatMap w) (.scr ot tile r))
      ∧ (c.instr = .flScatter x → hEmpty c.hS = false → sourceOf s c = some (.scr ot tile r) →
        let all := rowsOf c.hS (List.range (hExt1 c.hS))
        (∀ i ∈ all, HoldsElem s ot r c.hS i.1 i.2.1 i.2.2 (v i)
          ∧ flPut s c i.1 (c.index.getD i.2.1 0) i.2.2 (v i) = .ok (w i)) →
        starts (all.flatMap w) (.scr ot tile r))
      ∧ (c.instr = .flPatch x → c.mod 0 = false → c.dests = [.scr ot tile r] →
        let p := c.par 1
        let len := c.par 2
        let del := c.par 3 % 2 ^ 16
        let ins := c.par 3 / 2 ^ 16
        let moved := len - p - del
        p + del ≤ len → len + ins ≤ hExt1 c.hD + del →
        (∀ k < moved, ∀ i ∈ rowsOf c.hD [p + ins + k],
          HoldsElem s ot r c.hD i.1 ((p + del + k) % hExt1 c.hD) i.2.2 (v i) ∧ flPut s c i.1 i.2.1 i.2.2 (v i) = .ok (w i)) →
        (∀ k < ins, ∀ i ∈ rowsOf c.hD [p + k], flPut s c i.1 i.2.1 i.2.2 0 = .ok (z i)) →
        starts ((rowsOf c.hD ((List.range moved).map fun k => p + ins + k)).flatMap w
          ++ (rowsOf c.hD ((List.range ins).map fun k => p + k)).flatMap z) ((sourceOf s c).getD .glob))
      ∧ ∀ (ot' tile' r' : Nat) (fr : Nat → Nat),
        c.instr = .flRope x → hEmpty c.hS = false → hExt0 c.hD = 2 * hExt0 c.hS → c.dests = [.scr ot tile r] →
        sourceOf s c = some (.scr ot' tile' r') → c.par 3 ≤ hExt1 c.hD →
        (∀ j < hExt0 c.hS, HoldsElem s ot' r' c.hS j 0 0 (fr j)) →
        let delta := (BitVec.ofNat 32 (c.par 1)).toInt
        let first := (BitVec.ofNat 32 (c.par 2)).toInt
        let all := rowsOf c.hD ((List.range (c.par 3)).map fun (k : Nat) => wrapIdx (first + (k : Int)) (hExt1 c.hD))
        let turned (i : Nat × Nat × Nat) : Nat :=
          let q := turnPair (formatOf c.hD) (c.mod 0) (wrapN 32 (delta * fr (i.1 / 2)))
            (v (i.1 / 2 * 2, i.2.1, i.2.2)) (v (i.1 / 2 * 2 + 1, i.2.1, i.2.2))
          if i.1 % 2 = 0 then q.1 else q.2
        (∀ i ∈ all, HoldsElem s ot r c.hD i.1 i.2.1 i.2.2 (v i) ∧ flPut s c i.1 i.2.1 i.2.2 (turned i) = .ok (w i)) →
        starts (all.flatMap w) (.scr ot' tile' r'))

/-- R120, R391: a queued fill of a global range. It waits where the pool has too few frames; with frames enough, the line
requests of its page copies leave the flume's port, 64 at a time (the model's reading, log entry 30); then the shadow frame of an uncached page, the
first of the pool (the model's choice, log entry 32), holds the page's bytes with the fill's written over them, and the
pages themselves stand. -/
def Sys2Proof.Says.FlumeShadowsItsPages : Prop :=
  ∀ (s : State) (n : Nat) (c : FlumeCmd) (x : Fl) (e : Nat → TlbEntry), mfind s.flumes n = some c →
    mayStart s n c = true → .flume n ∉ s.hwErrors → c.instr = .flFill x → hScr c.hD = false → c.hold = false →
    hEmpty c.hD = false → s.pondOf (keyOp c.thread) = none →
    let pages := pagesOf (runsOf c.hD)
    let ps := pages.map fun q => (q, (e q).frame, (e q).cached)
    let free := (s.terraces.getD (terraceOf c.tile) {}).frames
    let port := (flAgent s c .glob).port
    (∀ q ∈ pages, tlbFind (s.tile c.tile).tlb (pasidOf s c) (q * 2 ^ 16) = some (e q) ∧ (e q).large = false
      ∧ (e q).writable = true ∧ (e q).dirty = true) →
    (free.length < pages.length → ∃ u, exec (.flumeCommandStart n) s = .next u ∧ u.flumes = s.flumes ∧ u.mem = s.mem
      ∧ u.terraces = s.terraces)
    ∧ (pages.length ≤ free.length → c.paid < 2048 * pages.length →
      ∃ u, exec (.flumeCommandStart n) s = .next u ∧ u.mem = s.mem ∧ u.terraces = s.terraces
        ∧ mfind u.flumes n = some (if (copyReqs s c ps free).all (s.tile port).served then { c with paid := c.paid + 64 } else c))
    ∧ ∀ q f rest (w : Nat × Nat × Nat → List ByteWrite), pages = [q] → free = f :: rest → 2048 ≤ c.paid →
      (e q).cached = false → f % 2 ^ 16 = 0 → (e q).frame % 2 ^ 16 = 0 → f ≠ (e q).frame → Memory.wf s.mem = true →
      (∀ i ∈ indices c.hD, flPut s c i.1 i.2.1 i.2.2 (c.par64 % 16 ^ hHalf c.hD) = .ok (w i)) →
      let ws := (indices c.hD).flatMap w
      (∀ r ∈ shadowReqs s c [(q, f)] ws, (s.tile port).served r = true) →
      ∃ u c', exec (.flumeCommandStart n) s = .next u ∧ mfind u.flumes n = some c' ∧ c'.state = .writing ∧ c'.writes = ws
        ∧ c'.frames = [(q, f)] ∧ (u.terraces.getD (terraceOf c.tile) {}).frames = rest
        ∧ (∀ o < 2 ^ 16, readByte u.mem (f + o) =
            ws.foldl (fun b w => if w.at_ = 2 ^ 16 * q + o then w.onto b else b) (readByte s.mem ((e q).frame + o)))
        ∧ ∀ a, a / 2 ^ 16 ≠ f / 2 ^ 16 → readByte u.mem a = readByte s.mem a

/-- R102, R119 to R121, R125, R137: a publish into a region swaps the backings, leaves every byte it did not write, gives
the region the delivered tag, and takes the command away; its arrival word, where it has one, holds the arrival value and
the delivered tag. A publish of a page of global memory has the leaf name the shadow frame, takes the page out of every TLB
and gives the old frame back to the pool. -/
def Sys2Proof.Says.FlumePublishes : Prop :=
  ∀ (s : State) (n : Nat) (c : FlumeCmd) (ot tile r : Nat), mfind s.flumes n = some c → c.left = [.scr ot tile r] →
    isPublish c.instr = false → mrises s.flumes 0 = true →
    (c.state ≠ .writing ∨ mayPublish s [(n, c)] = false → exec (.flumePublish n) s = .next s)
    ∧ (c.state = .writing → c.frames = [] → mayPublish s [(n, c)] = true → c.arrAddr = 0 →
      (∀ p ∈ s.ops, p.2.away = false) →
      let old := regionOf (s.opTile ot) r
      (∀ x ∈ c.writes, granOf old x.at_ = some .valid) → old.mapped = false → Memory.wf old.a = true →
      Memory.wf old.b = true →
      ∃ u, exec (.flumePublish n) s = .next u ∧ mfind u.flumes n = none ∧ u.mem = s.mem ∧ u.ops = s.ops
        ∧ (∀ k, k ≠ n → mfind u.flumes k = mfind s.flumes k)
        ∧ let new := regionOf (u.opTile ot) r
          new.front = !old.front ∧ new.tag = publishTag s c (.scr ot tile r) ∧ new.size = old.size
          ∧ (∀ a, (∀ x ∈ c.writes, x.at_ ≠ a) → granOf old a = some .valid → regionByte new a = regionByte old a)
          ∧ (∀ x, c.writes = [x] → regionByte new x.at_ = (regionByte old x.at_ &&& ~~~x.mask) ||| (x.val &&& x.mask))
          ∧ ∀ r', r' ≠ r → regionOf (u.opTile ot) r' = regionOf (s.opTile ot) r')
    ∧ (c.state = .writing → c.frames = [] → mayPublish s [(n, c)] = true → c.arrAddr ≠ 0 →
      (∀ p ∈ s.ops, p.2.away = false) → (∀ x ∈ c.writes, granOf (regionOf (s.opTile ot) r) x.at_ = some .valid) →
      let ra := c.arrAddr / 2 ^ 22 % 64
      let off := c.arrAddr % 2 ^ 22
      let word (u : State) (i : Nat) : Byte := regionByte (regionOf (u.opTile ot) ra) (off + i)
      ra ≠ r → (∀ i < 8, granOf (regionOf (s.opTile ot) ra) (off + i) ≠ some .empty) →
      Memory.wf (frontCells (regionOf (s.opTile ot) ra)) = true →
      ∃ u, exec (.flumePublish n) s = .next u ∧ mfind u.flumes n = none
        ∧ leOf ((List.range 8).map (word u)) = c.par 0 + (publishTag s c (.scr ot tile r)).toNat * 2 ^ 32
        ∧ (regionOf (u.opTile ot) r).tag = publishTag s c (.scr ot tile r)
        ∧ (regionOf (u.opTile ot) r).front = !(regionOf (s.opTile ot) r).front)

/-- R71, R120: a publish of one page of global memory, with no arrival word: the leaf names the shadow frame, no TLB keeps
the page, and the old frame is the last of the pool (the model's order, log entry 32). -/
def Sys2Proof.Says.FlumeSwapsItsPage : Prop :=
  ∀ (s : State) (n : Nat) (c : FlumeCmd) (p f pte e : Nat), mfind s.flumes n = some c → c.left = [.glob] →
    isPublish c.instr = false → mrises s.flumes 0 = true → c.state = .writing → c.frames = [(p, f)] → c.arrAddr = 0 →
    mayPublish s [(n, c)] = true → Memory.wf s.mem = true →
    walk (writeFrames s c.frames c.writes) (pasidOf s c) (p * 2 ^ 16) = .leaf pte false e →
    let old := e / 2 ^ 16 % 2 ^ 23 * 2 ^ 16
    let ter := terraceOf c.tile
    (∀ x ∈ [old, f], pte + 8 ≤ frameEntry s x ∨ frameEntry s x + 16 ≤ pte) →
    ∃ u, exec (.flumePublish n) s = .next u ∧ mfind u.flumes n = none ∧ u.ops.map (·.1) = s.ops.map (·.1)
      ∧ homeRead u pte 8 = setBits (setBits e 38 16 (f / 2 ^ 16)) 5 4 3
      ∧ (∀ k, ∀ x ∈ (u.tile k).tlb, x.pasid = pasidOf s c → if x.large = true then x.page / 32 ≠ p / 32 else x.page ≠ p)
      ∧ (u.terraces.getD ter {}).frames = (s.terraces.getD ter {}).frames ++ [old]

/-- R71, R102, R119 to R121, R124, R125, R127, R130 to R135, R137, R391: a queued command starts, and publishes. -/
def Obligations.FlumeCommandsRun : Prop :=
  Says.FlumeCommandStarts ∧ Says.FlumeShadowsItsPages ∧ Says.FlumePublishes ∧ Says.FlumeSwapsItsPage

/-! ## The device: invalidations, the sweeper, retirement (files 02 and 15) -/

/-- R71: a write of WKINV takes the entries it names out of every TLB, and the invalidation completes once the accesses
made through them have performed. That the entries go at the write itself, before the completion until which R71 lets them
be used, is the model's reading (log entry 26). -/
def Sys2Proof.Says.TlbInvalidation : Prop :=
  ∀ (s : State) (v : W64),
    let size := v.toNat % 4
    let pasid := v.toNat / 2 ^ 32 % 2 ^ 20
    (size ≠ 3 → ∃ u, exec (.wkinv v) s = .next u ∧ u.basin.wkinv.getLsbD 63 = true ∧ u.mem = s.mem ∧ u.threads = s.threads
      ∧ (∀ k e, mfind s.tiles k ≠ none → (e ∈ (u.tile k).tlb ↔ e ∈ (s.tile k).tlb ∧ ¬ (e.pasid = pasid ∧
          (size = 2 ∨ (size = 0 ∧ e.large = false ∧ e.page = s.basin.wkinva.toNat)
            ∨ (size = 1 ∧ e.large = true ∧ e.page / 32 = s.basin.wkinva.toNat / 32))))))
    ∧ (size = 3 → ∃ u, exec (.wkinv v) s = .next u ∧ u.tiles = s.tiles ∧ u.basin.wkwait = s.basin.wkwait)
    ∧ (s.basin.wkinv.getLsbD 63 = true → (∀ w ∈ s.basin.wkwait, oldAccess s w.1 w.2 = false) →
        exec .tlbInvalidationComplete s = .next { s with basin := { s.basin with
          wkinv := s.basin.wkinv &&& ~~~(1#64 <<< 63), wkwait := [] } })
    ∧ ((∃ w ∈ s.basin.wkwait, oldAccess s w.1 w.2 = true) → exec .tlbInvalidationComplete s = .next s)

/-- R335: a write of QDINV begins the invalidation of a queue's cached entry, which the front end completes: the entry
is read again from the directory, and with it the wait words of its unread records (R337), whatever the entry holds. -/
def Sys2Proof.Says.DirectoryInvalidation : Prop :=
  ∀ (s : State),
    (∀ v : W64, exec (.qdinv v) s = .next { s with basin := { s.basin with
        qdinv := BitVec.ofNat 64 (v.toNat % 8192 + 2 ^ 63), qdwait := s.basin.qdwait ++ [v.toNat % 8192] } })
    ∧ (∀ slot, s.basin.qdwait = [slot] →
        let s1 := installQueue s slot
        let s2 := retestWaits s1 slot
        exec .directoryInvalidationComplete s = .next (frontSettle { s2 with basin := { s2.basin with
          qdinv := BitVec.ofNat 64 (s2.basin.qdinv.toNat % 2 ^ 63), qdwait := [] } }))
    ∧ (s.basin.qdwait = [] → exec .directoryInvalidationComplete s = .next s)

/-- R71, R335: the invalidations of translations and of directory entries. -/
def Obligations.Invalidations : Prop :=
  Says.TlbInvalidation ∧ Says.DirectoryInvalidation

/-- R84 to R87: the clock sweeper and the host's commands to it. A visit clears the accessed bit of a frame that has it, in
the frame table and in the leaf of its page, and takes the page out of every TLB; it appends an unpinned idle one to the
cold queue; SWLEAVE answers from the frame's entry and marks a frame that may
leave; SWFREE clears in use and leaving. That a frame number has bits 61 to 0 and reads back its bits 31 to 0, and that
SWFREE takes all 64 bits and reads them back, is the model's choice (log entry 64). -/
def Sys2Proof.Says.FrameSweeping : Prop :=
  ∀ (s : State) (stack : Fin 8), Memory.wf s.mem = true →
    let k := s.sweepers[stack]
    let f := k.swctl.toNat / 2 % 2 ^ 23 % stackFrames
    (sweepsNow k = true → ∃ u, exec (.sweeperVisit stack) s = .next u
        ∧ ((u.sweepers[stack]).sweeping = true ↔ queueLen u.sweepers[stack] < bits k.swctl.toNat 47 36)
        ∧ bits (u.sweepers[stack]).swctl.toNat 23 1 = (f + 1) % stackFrames
        ∧ ((frameHead s stack f ≠ f ∨ bit (frameAt s stack f) 1 = false ∨ framePinned s stack f = true
            ∨ bit (frameAt s stack f) 4 = true ∨ bit (frameAt s stack f) 5 = true) →
          u.mem = s.mem ∧ u.l2 = s.l2 ∧ u.tiles = s.tiles ∧ (u.sweepers[stack]).swqtail = k.swqtail)
        ∧ (let e := frameAt s stack f
          let entry := frameEntry s (framePaOf stack f)
          let visited : Prop := frameHead s stack f = f ∧ bit e 1 = true ∧ framePinned s stack f = false ∧ bit e 4 = false
            ∧ bit e 5 = false
          (visited → bit e 2 = true →
            let s1 := setFrameAt s stack f (setBits e 2 2 0)
            (u.sweepers[stack]).swqtail = k.swqtail
            ∧ (∀ i x, mfind s.tiles i ≠ none → (x ∈ (u.tile i).tlb ↔ x ∈ (s.tile i).tlb ∧ x.frame ≠ framePaOf stack f))
            ∧ ((∀ pte large l, walk s1 (bits e 51 32) (bits e 127 71) ≠ .leaf pte large l) →
              frameAt u stack f = setBits e 2 2 0 ∧ u.mem = s1.mem ∧ u.l2 = s1.l2)
            ∧ ∀ pte large l, walk s1 (bits e 51 32) (bits e 127 71) = .leaf pte large l →
              pte + 8 ≤ entry ∨ entry + 16 ≤ pte → pte % 8 = 0 → entry % 16 = 0 →
              frameAt u stack f = setBits e 2 2 0 ∧ homeRead u pte 8 = setBits l 4 4 0)
          ∧ (visited → bit e 2 = false →
            let slot := bits k.swqbase.toNat 38 14 * 2 ^ 14 + 4 * (k.swqtail.toNat % 4096)
            (u.sweepers[stack]).swqtail.toNat = (k.swqtail.toNat + 1) % 4096 ∧ u.tiles = s.tiles
            ∧ (slot + 4 ≤ entry ∨ entry + 16 ≤ slot → entry % 16 = 0 →
              frameAt u stack f = setBits e 4 4 1 ∧ homeRead u slot 4 = f))))
    ∧ (sweepsNow k = false → exec (.sweeperVisit stack) s
        = .next { s with sweepers := s.sweepers.set stack { k with sweeping := false } })
    ∧ (∀ v : W64, stackFrames ≤ v.toNat % 2 ^ 62 → ∃ u, exec (.swleave stack v) s = .next u ∧ u.mem = s.mem ∧ u.l2 = s.l2
        ∧ (u.sweepers[stack]).swleave.toNat = 3 * 2 ^ 62 + v.toNat % 2 ^ 32)
    ∧ (∀ v : W64, v.toNat < stackFrames → frameHead s stack v.toNat = v.toNat →
        let e := frameAt s stack v.toNat
        let r := if bit e 1 = false ∨ bit e 5 = true then 3 else if framePinned s stack v.toNat then 1
          else if bit e 2 then 2 else 0
        ∃ u, exec (.swleave stack v) s = .next u ∧ (u.sweepers[stack]).swleave.toNat = r * 2 ^ 62 + v.toNat % 2 ^ 32
          ∧ frameAt u stack v.toNat = (if r = 0 then setBits (setBits e 4 4 0) 5 5 1 else setBits e 4 4 0))
    ∧ (∀ v : W64, v.toNat < stackFrames → ∃ u, exec (.swfree stack v) s = .next u ∧ (u.sweepers[stack]).swfree = v
        ∧ frameAt u stack v.toNat = setBits (setBits (frameAt s stack v.toNat) 1 1 0) 5 5 0)

/-- R65, R328, R329, R395: retirement and sparing. A tile that is to retire, once its sequencers have stopped, leaves the mesh
and its column's spare takes its row. An operator on it leaves it: a pond run is discarded, a restartable operator rolls back
to its launch, and its record stands ready again and remembers the blocks at fault; any other takes the seal-mismatch trap
and ends with status 2, or 3 where one of its blocks is at fault and the column has no spare. When retirement takes place and
which operators it takes are the model's reading (log entry 25). A retired tile that passes its test becomes the column's
spare; a channel that wears is copied to a spare. -/
def Sys2Proof.Says.RetirementAndSparing : Prop :=
  ∀ (s : State) (tile : Nat),
    ((s.tile tile).retiring = true → (s.tile tile).gone = false → s.threads = [] → s.ops = [] →
      ∃ u u0, exec (.tileRetirement tile) s = .next u ∧ u = frontSettle u0 ∧ (u0.tile tile).gone = true
        ∧ (speedEntry u0 tile).toNat / 64 = 2 ∧ (speedEntry u0 tile).toNat % 64 = (speedEntry s tile).toNat % 64
        ∧ (∀ sp, spareOf s tile = some sp → sp ≠ tile → (speedEntry u0 sp).toNat / 64 = 0)
        ∧ u0.mem = s.mem ∧ u0.svc.logged = s.svc.logged + 1)
    ∧ (∀ op o, (s.tile tile).retiring = true → (s.tile tile).gone = false → opsOn s tile = [(op, o)] → mfind s.ops op = some o →
      (∀ e ∈ s.threads, e.2.tile = tile → holdsSeqs s e.2.op = true → e.2.idle = true ∧ released s e.2 = false) →
      (o.pond ≠ none ∨ effectsDone s op = true) → (∀ p ∈ s.ops, p.2.state ≠ .reserved) → mrises s.ops 0 = true →
      mrises s.ponds 0 = true → mrises s.recs 0 = true →
      let mine := (s.tile tile).culprits.filter fun c => keyOp c.thread = op
      let key := recKey o.slot o.index
      let restartable : Prop := (mfind s.objs (objKey o.pasid o.obj)).any (·.restartable) = true
      ∃ u u0, exec (.tileRetirement tile) s = .next u ∧ u = frontSettle u0 ∧ (u0.tile tile).gone = true
        ∧ (speedEntry u0 tile).toNat / 64 = 2
        ∧ (∀ sp, spareOf s tile = some sp → sp ≠ tile → (speedEntry u0 sp).toNat / 64 = 0)
        ∧ (∀ i p, o.pond = some i → mfind s.ponds i.val = some p → mfind u0.ponds i.val = some { p with stopping := true })
        ∧ (o.pond = none → restartable → spareOf s tile ≠ none ∨ mine = [] →
          mfind u0.ops op = none ∧ (∀ e ∈ u0.threads, e.2.op ≠ op)
          ∧ ∀ r, mfind s.recs key = some r → r.key = key → ∃ r', mfind u0.recs key = some r' ∧ r'.state = .ready
            ∧ r'.words = r.words
            ∧ ∀ b, b ∈ r'.rolled ↔ b ∈ o.rolled ∨ ∃ x ∈ s.tiles, ∃ c ∈ x.2.culprits, keyOp c.thread = op ∧ c.block = b)
        ∧ (o.pond = none → ¬ restartable ∨ (spareOf s tile = none ∧ mine ≠ []) → o.fate = none → o.trap = none →
          (∀ e ∈ s.threadsOf op, e.2.idle = true) → s.threadsOf op ≠ [] →
          ∃ o', mfind u0.ops op = some o' ∧ o'.trap = none
            ∧ o'.state = .ending (if spareOf s tile = none ∧ mine ≠ [] then 3 else 2)))
    ∧ ((s.tile tile).retiring = false → exec (.tileRetirement tile) s = .next s)
    ∧ ((s.tile tile).gone = true → s.threads = [] →
      exec (.retiredTileTest tile false) s = .next s
      ∧ ∃ u, exec (.retiredTileTest tile true) s = .next u ∧ (u.tile tile).gone = false ∧ (u.tile tile).retiring = false
        ∧ (speedEntry u tile).toNat / 64 = 1 ∧ (speedEntry u tile).toNat % 64 = (speedEntry s tile).toNat % 64)
    ∧ ∀ (stack : Fin 8) (ch : Fin 64),
      let k := s.sweepers[stack]
      (k.copying = none → k.spared.length < 4 → ch.val ∉ k.spared →
        exec (.channelSparing stack ch) s
          = .next { s with sweepers := s.sweepers.set stack { k with copying := some (ch.val, 0) } })
      ∧ (k.copying = some (ch.val, 0) → ∃ u, exec (.channelSparing stack ch) s = .next u
        ∧ (u.sweepers[stack]).copying = none ∧ (u.sweepers[stack]).spared = ch.val :: k.spared)

/-- R65, R84 to R87, R328, R395: the sweeper, retirement and sparing. -/
def Obligations.SweepingAndRetirement : Prop :=
  Says.FrameSweeping ∧ Says.RetirementAndSparing

/-! ## Vector and mask operations (file 08) -/

namespace Sys2Proof.Says

/-- One more vector register may be named as a result of the running block (R42). -/
def MayName (s : State) (t : Thread) (r : Fin 96) : Prop :=
  r ∈ t.blk.vNamed ∨ ∃ x, declared s t = some x ∧ t.blk.vNamed.length + 1 ≤ x.vectors.toNat

/-- The sequencer `t'`, which `t` has become, once the results it has since sent have reached their registers: in the
Jexcy form none is under way (R35, R36, R45). -/
def arrived (t t' : Thread) : Thread :=
  (t'.blk.writes.drop t.blk.writes.length).foldl (fun u w => applyDest u w.dest w.tag) t'

/-- `i` writes the lanes that `act` selects, of `n` of `w` bits, of the vector register `r`: lane `j` takes `(f j).1`, and
the sticky flags `(f j).2` of each are held for the seal. Every other lane, register and mask is as it was. `t` is the
sequencer once its sources are read. -/
def WritesLanes (s s' : State) (t : Thread) (i : Instr) (r : Fin 96) (w n : Nat) (act : Nat → Bool)
    (f : Nat → Nat × FlagSet) (g : Tag) : Prop :=
  ∃ t', Leaves s i s' t' ∧ t'.blk.sig = t.blk.sig + g
    ∧ (let e := arrived t t'
      e.vTag[r] = g ∧ e.regs = t.regs ∧ (∀ m, m ≠ r → e.v[m] = t.v[m] ∧ e.vTag[m] = t.vTag[m])
      ∧ ∀ j < n, laneOf w (e.v[r]).toNat j = if act j then (f j).1 % 2 ^ w else laneOf w (t.v[r]).toNat j)
    ∧ t'.blk.held = ((List.range n).filter act).foldl (fun a j => a ||| (f j).2) t.blk.held

/-- The tag of a vector result under a mask (R217). -/
def laneTag (t : Thread) (op : Nat) (ty : Ty) (a b c : Tag) (m : Fin 16) : Tag :=
  let g := mix (mix (mix (key op (tyTo ty)) a) b) c
  if m = 0 then g else mix g t.regs.qTag[m]

/-- The elements a mask leaves active (R24, R214): bit j, or for 4-bit types bit j/2. -/
def active (t : Thread) (m : Fin 16) (ty : Ty) (j : Nat) : Bool :=
  m = 0 || (t.regs.q[m]).getLsbD (if ty = .e2m1 then j / 2 else j)

end Sys2Proof.Says

/-- R33, R35, R180, R215, R319: where a vector result goes. In native code the register takes it `reg` units after the
bundle, or with nw = 1 never, and the latches of its group `lat` units after; the Jexcy form writes it at once.
That a latch holds the old bytes of inactive lanes merged in is the model's reading (log entry 34). -/
def Sys2Proof.Says.VectorResultIsWritten : Prop :=
  ∀ (s : State) (t : Thread) (lat reg : Nat) (nw : Bool) (r : Fin 96) (x : VReg) (g k : Tag) (e n : Nat) (act : Nat → Bool),
    MayName s t r → 1 ≤ lat →
    let m := laneMask (8 * e) n act
    let named := if nw || t.blk.vNamed.contains r then t.blk.vNamed else r :: t.blk.vNamed
    (t.form = .native → (putV t lat reg nw (.reg r) x g k e n act).run s = (.ok { t with blk := { t.blk with
        sig := t.blk.sig + g
        vNamed := named
        latchDue := t.blk.latchDue ++ [⟨t.blk.unit + lat, 1, if nw then x else (t.v[r] &&& ~~~m) ||| x, g⟩]
        writes := if nw then t.blk.writes else t.blk.writes ++ [⟨t.blk.unit + reg, .v r x m, g⟩] } }, s))
    ∧ (t.form = .jexcy → nw = false → ∃ t', (putV t lat reg nw (.reg r) x g k e n act).run s = (.ok t', s)
        ∧ t'.v = t.v.set r ((t.v[r] &&& ~~~m) ||| (x &&& m)) ∧ t'.vTag = t.vTag.set r g ∧ t'.regs = t.regs
        ∧ t'.blk.sig = t.blk.sig + g)

/-- R168, R180, R181, R215, R319: a vector result at a write port stores its active lanes in the walker's region, as
stores of colour 0 that the block's limit must allow, and the walker advances; an unconfigured walker is illegal and
a busy one is waited for. -/
def Sys2Proof.Says.VectorPortIsWritten : Prop :=
  ∀ (s s' : State) (t t' : Thread) (lat reg : Nat) (nw : Bool) (p : Fin 2) (x : VReg) (g k : Tag) (e n : Nat)
      (act : Nat → Bool) (z : SealData) (ad : Addr),
    let w := t.regs.w[4 + p.val]
    let put := (putV t lat reg nw (.port p) x g k e n act).run s
    (w.configured = false → put = (.error (.trap .illegal 0), s))
    ∧ (w.configured = true → w.busy = true → put = (.error (.wait .other), s))
    ∧ (w.configured = true → w.busy = false → walkerAddr (viewOf s t) w = .ok ad →
      declared s t = some z → (t.blk.storeBytes + 1024 + 31) / 32 ≤ z.stores.toNat →
      (((List.range n).filter act).foldlM (fun u i =>
          bufferStore u (ad.add (i * e)) ((List.range e).map fun j => x.extractLsb' (8 * (i * e + j)) 8) 0)
        { t with blk := { t.blk with storeBytes := t.blk.storeBytes + 1024 } }).run s = (.ok t', s') →
      put = (.ok { t' with
        regs := { t'.regs with w := t'.regs.w.set (4 + p.val) (walkerAdvance w) }
        blk := { t'.blk with sig := t'.blk.sig + mix (mix (mix k g) w.lineage) 0 } }, s'))

/-- R33, R35, R168, R180, R181, R215, R319: where a vector result goes. -/
def Obligations.VectorResultsAreWritten : Prop :=
  Says.VectorResultIsWritten ∧ Says.VectorPortIsWritten

/-- R177, R180: a walk visits the points of its levels in order, level 0 fastest, and begins again at its origin. -/
def Sys2Proof.Says.WalkersAreCyclic : Prop :=
  ∀ (w : Walker), (∀ j : Fin 4, j ≤ w.levels → 1 ≤ (w.count[j]).toNat ∧ (w.index[j]).toNat < (w.count[j]).toNat) →
    let c (j : Nat) : Nat := if j ≤ w.levels.val then (w.count.getD j 0).toNat else 1
    let place (x : Walker) : Nat := ((List.range (w.levels.val + 1)).map fun j =>
      (x.index.getD j 0).toNat * ((List.range j).map c).prod).sum
    place (walkerAdvance w) = (place w + 1) % (c 0 * c 1 * c 2 * c 3)
    ∧ (∀ j : Fin 4, j ≤ w.levels → ((walkerAdvance w).index[j]).toNat < (w.count[j]).toNat)
    ∧ (walkerAdvance w).origin = w.origin ∧ (walkerAdvance w).stride = w.stride ∧ (walkerAdvance w).count = w.count
    ∧ walkerOffset w = w.origin.toNat + ((List.range (w.levels.val + 1)).map fun j =>
        ((w.index.getD j 0).toNat : Int) * (w.stride.getD j 0).toInt).sum

/-- R109, R173, R175, R177 to R180: `hset`, `wset` and the walk of a walker. -/
def Obligations.HandlesAndWalkers : Prop :=
  Says.HandleWordIsSet ∧ Says.WalkerIsSet ∧ Says.WalkersAreCyclic

/-- R217, R220, R221, R223, R226, R230, R231, R233: the operations of one source, lane by lane. -/
def Obligations.VectorOneSourceResults : Prop :=
  ∀ (s s' : State) (t u : Thread) (x : V1) (r : Fin 96) (a : VReg) (ga : Tag), Running s t → ReadsV s t x.a s' u a ga →
    x.nw = false → x.d = .reg r → MayName s' u r →
    let w := x.ty.width
    let m := rndMode x.rnd u.regs.fmt
    let gives (i : Instr) (op : Nat) (f : Nat → Nat × FlagSet) := WritesLanes s s' u i r w (8192 / w) (active u x.msk x.ty)
      (fun j => f (laneOf w a.toNat j)) (laneTag u op x.ty ga 0 0 x.msk)
    gives (.vAbs x) 0x407 (laneAbs x.ty x.sat) ∧ gives (.vNeg x) 0x408 (laneNeg x.ty x.sat)
    ∧ gives (.vNot x) 0x42B (fun v => (2 ^ w - 1 - v, 0)) ∧ gives (.vMov x) 0x445 (fun v => (v, 0))
    ∧ gives (.vPopc x) 0x42F (fun v => (((List.range w).filter v.testBit).length, 0))
    ∧ (∃ z : Nat → Nat, gives (.vClz x) 0x430 (fun v => (z v, 0)) ∧ ∀ v < 2 ^ w, z v ≤ w ∧ v < 2 ^ (w - z v)
        ∧ (z v < w → 2 ^ (w - z v - 1) ≤ v))
    ∧ (∀ f, ffOf x.ty = some f →
        gives (.vRcp x) 0x410 (rcpLane f x.sat m) ∧ gives (.vRsq x) 0x411 (rsqLane f x.sat m)
        ∧ gives (.vSqrt x) 0x412 (sqrtLane f x.sat m) ∧ gives (.vExp2 x) 0x413 (exp2Lane f x.sat m)
        ∧ gives (.vLog2 x) 0x414 (log2Lane f x.sat m) ∧ gives (.vRnd x) 0x41A (rndLane f m))

/-- R217, R220, R221, R229 to R231, R233, R235: the operations of two sources. -/
def Obligations.VectorTwoSourceResults : Prop :=
  ∀ (s s1 s2 : State) (t u1 u : Thread) (x : V2) (r : Fin 96) (a b : VReg) (ga gb : Tag), Running s t →
    ReadsV s t x.a s1 u1 a ga → ReadsV s1 u1 x.b s2 u b gb →
    x.nw = false → x.d = .reg r → MayName s2 u r →
    let w := x.ty.width
    let n := 8192 / w
    let m := rndMode x.rnd u.regs.fmt
    let la (j : Nat) : Nat := laneOf w a.toNat j
    let lb (j : Nat) : Nat := laneOf w b.toNat j
    let writes (i : Instr) (op : Nat) (c : Tag) (f : Nat → Nat × FlagSet) :=
      WritesLanes s s2 u i r w n (active u x.msk x.ty) f (laneTag u op x.ty ga gb c x.msk)
    let gives (i : Instr) (op : Nat) (f : Nat → Nat → Nat × FlagSet) := writes i op 0 fun j => f (la j) (lb j)
    gives (.vAdd x) 0x400 (laneAdd x.ty x.sat m) ∧ gives (.vSub x) 0x401 (laneSub x.ty x.sat m)
    ∧ gives (.vMul x) 0x402 (laneMul x.ty x.sat m) ∧ gives (.vAbd x) 0x409 (laneAbd x.ty x.sat m)
    ∧ gives (.vMin x) 0x405 (lanePick x.ty false) ∧ gives (.vMax x) 0x406 (lanePick x.ty true)
    ∧ gives (.vMulh x) 0x40A (fun p q => (wrapN w (elemInt x.ty p * elemInt x.ty q / (2 ^ w : Nat)), 0))
    ∧ gives (.vAnd x) 0x428 (fun p q => (p &&& q, 0)) ∧ gives (.vOr x) 0x429 (fun p q => (p ||| q, 0))
    ∧ gives (.vXor x) 0x42A (fun p q => (p ^^^ q, 0))
    ∧ gives (.vShl x) 0x42C (fun p q => (p * 2 ^ q % 2 ^ w, 0)) ∧ gives (.vShr x) 0x42D (fun p q => (p / 2 ^ q, 0))
    ∧ gives (.vSra x) 0x42E (fun p q => (wrapN w (sgn w p / (2 ^ q : Nat)), 0))
    ∧ writes (.vPerm x) 0x440 0 (fun j => (la (lb j % n), 0))
    ∧ writes (.vShuf x 0) 0x442 0 (fun j => (if j % 2 = 0 then la (j / 2) else lb (j / 2), 0))
    ∧ writes (.vShuf x 1) 0x442 0 (fun j => (if j % 2 = 0 then la (n / 2 + j / 2) else lb (n / 2 + j / 2), 0))
    ∧ writes (.vShuf x 2) 0x442 0 (fun j => (if j < n / 2 then la (2 * j) else lb (2 * (j - n / 2)), 0))
    ∧ writes (.vShuf x 3) 0x442 0 (fun j => (if j < n / 2 then la (2 * j + 1) else lb (2 * (j - n / 2) + 1), 0))
    ∧ (∀ c k gc, readS u c = .ok (k, gc) → writes (.vSlide x c) 0x443 gc (fun j =>
        (if j + k.toNat < n then la (j + k.toNat) else if j + k.toNat < 2 * n then lb (j + k.toNat - n) else 0, 0)))
    ∧ (∀ q : Fin 16, writes (.vSel x q) 0x422 u.regs.qTag[q]
        (fun j => (if (u.regs.q[q]).getLsbD j then la j else lb j, 0)))

/-- R217, R220, R222: the operations of three sources. -/
def Obligations.VectorThreeSourceResults : Prop :=
  ∀ (s s1 s2 s3 : State) (t u1 u2 u : Thread) (x : V3) (r : Fin 96) (a b c : VReg) (ga gb gc : Tag), Running s t →
    ReadsV s t x.a s1 u1 a ga → ReadsV s1 u1 x.b s2 u2 b gb → ReadsV s2 u2 x.c s3 u c gc →
    x.nw = false → x.d = .reg r → MayName s3 u r →
    let w := x.ty.width
    let m := rndMode x.rnd u.regs.fmt
    let gives (i : Instr) (op : Nat) (f : Nat → Nat → Nat → Nat × FlagSet) :=
      WritesLanes s s3 u i r w (8192 / w) (active u x.msk x.ty)
        (fun j => f (laneOf w a.toNat j) (laneOf w b.toNat j) (laneOf w c.toNat j)) (laneTag u op x.ty ga gb gc x.msk)
    (∀ f, ffOf x.ty = some f →
      gives (.vFma x) 0x403 (fun p q z => f.fma (f.decode p) (f.decode q) (f.decode z) m x.sat)
      ∧ gives (.vFms x) 0x404 (fun p q z => f.fma (f.decode p) (f.decode q) (f.decode z).neg m x.sat))
    ∧ gives (.vMadd x) 0x40B (fun p q z => fitInt x.ty (elemInt x.ty p * elemInt x.ty q + elemInt x.ty z) x.sat)
    ∧ WritesLanes s s3 u (.vDot x) r 32 256 (active u x.msk .si32)
        (dotLane x.ty x.sat m a.toNat b.toNat c.toNat) (laneTag u 0x40C x.ty ga gb gc x.msk)

/-- R155, R219, R220: what the integer lanes hold. Without sat the exact result modulo 2^w; with it the nearest value of
the type, and SA where it is not the exact one. -/
def Sys2Proof.Says.IntegerLanes : Prop :=
  ∀ (ty : Ty) (a b : Nat) (m : Rnd), ty.isInt = true → a < 2 ^ ty.width → b < 2 ^ ty.width →
    let w := ty.width
    let val (x : Nat) : Int := if ty.isSigned then (BitVec.ofNat w x).toInt else x
    let lo : Int := if ty.isSigned then -(2 ^ (w - 1) : Nat) else 0
    let hi : Int := if ty.isSigned then (2 ^ (w - 1) : Nat) - 1 else (2 ^ w : Nat) - 1
    let fits (r : Nat × FlagSet) (exact : Int) (sat : Bool) : Prop := r.1 < 2 ^ w
      ∧ (sat = false → ((r.1 : Int) - exact) % (2 ^ w : Nat) = 0 ∧ r.2 = 0)
      ∧ (sat = true → val r.1 = max lo (min hi exact) ∧ r.2 = if exact < lo ∨ hi < exact then 32 else 0)
    ∀ sat, fits (laneAdd ty sat m a b) (val a + val b) sat ∧ fits (laneSub ty sat m a b) (val a - val b) sat
      ∧ fits (laneMul ty sat m a b) (val a * val b) sat ∧ fits (laneAbd ty sat m a b) ((val a - val b).natAbs : Nat) sat
      ∧ fits (laneAbs ty sat a) ((val a).natAbs : Nat) sat ∧ fits (laneNeg ty sat a) (-val a) sat
      ∧ lanePick ty true a b = (if val a < val b then b else a, 0)
      ∧ lanePick ty false a b = (if val b < val a then b else a, 0)

/-- R139 to R141, R147: every finite code of a floating-point format, rounded into its own format, is itself, and no
flag is set. -/
def Sys2Proof.Says.RoundingKeepsRepresentable : Prop :=
  ∀ (ty : Ty) (f : FF) (c : Nat) (n : Bool) (k : Nat) (e : Int) (m : Rnd) (sat : Bool), ffOf ty = some f → c < 2 ^ f.width →
    f.decode c = .fin n k e → f.round ⟨n, k, e, false⟩ m sat = (c, 0)

namespace Sys2Proof.Says

/-- The sign, the whole number and the exponent of a finite element, and its value (R140). -/
abbrev Finite := Bool × Nat × Int
def val (v : Finite) : ℚ := (if v.1 then -1 else 1) * v.2.1 * 2 ^ v.2.2
def IsFin (x : FV) (v : Finite) : Prop := x = .fin v.1 v.2.1 v.2.2
/-- A finite element that is −0. -/
def negZero (v : Finite) : Bool := v.1 && decide (v.2.1 = 0)

/-- The whole number that a mode selects for the magnitude `z` of a value of the sign `n` (R9, R23). -/
def Selects (mode : Rnd) (n : Bool) (z : ℝ) (y : Nat) : Prop :=
  let below : Prop := (y : ℝ) ≤ z ∧ z < y + 1
  let above : Prop := z ≤ y ∧ (y : ℝ) < z + 1
  match mode with
  | .rtz => below
  | .pinf => if n then below else above
  | .ninf => if n then above else below
  | .rna => (y : ℝ) - 1 / 2 ≤ z ∧ z < y + 1 / 2
  | _ => |z - y| ≤ 1 / 2 ∧ (|z - y| = 1 / 2 → y % 2 = 0)

/-- The value of the sign `n` and the magnitude `x`, not 0, rounded once into the format `f` and brought into its range
(R9, R10, R147 to R149): a code and its flags. The unit 2^q keeps f.m + 1 significant bits and is never finer than that of
the subnormals; the unit 2^g, of an unbounded exponent range, tells whether the result is tiny. -/
def RoundsTo (f : FF) (mode : Rnd) (sat n : Bool) (x : ℝ) (r : Nat × FlagSet) : Prop :=
  ∃ (q g : Int) (y z : Nat),
    x < 2 ^ (q + f.m + 1) ∧ (q = f.qmin ∨ f.qmin < q ∧ 2 ^ (q + f.m) ≤ x) ∧ Selects mode n (x / 2 ^ q) y
    ∧ 2 ^ (g + f.m) ≤ x ∧ x < 2 ^ (g + f.m + 1) ∧ Selects mode n (x / 2 ^ g) z ∧ r.1 < 2 ^ f.width
    ∧ (let inexact : Prop := (y : ℝ) * 2 ^ q ≠ x
      let beyond : Prop := ∀ c v, IsFin (f.decode c) v → ((val v : ℚ) : ℝ) < y * 2 ^ q
      (¬ beyond → (∃ v : Finite, IsFin (f.decode r.1) v ∧ v.1 = n ∧ ((val (false, v.2) : ℚ) : ℝ) = y * 2 ^ q)
        ∧ (r.2.getLsbD 0 = true ↔ inexact) ∧ (r.2.getLsbD 1 = true ↔ inexact ∧ (z : ℝ) * 2 ^ g < 2 ^ (f.qmin + f.m))
        ∧ r.2 &&& 0x3C = 0)
      ∧ (beyond → r.2 = 5 ∧
        if sat = true ∨ f.nan = none then
          ∃ v : Finite, IsFin (f.decode r.1) v ∧ v.1 = n ∧ ∀ c u, IsFin (f.decode c) u → val u ≤ val (false, v.2)
        else if f.infCode = none then f.decode r.1 = .nan
        else f.decode r.1 = .inf n))

/-- The value `x` rounded once; an exact zero takes the sign `z` and raises no flag. -/
def Rounded (f : FF) (mode : Rnd) (sat : Bool) (x : ℝ) (z : Bool) (r : Nat × FlagSet) : Prop :=
  (0 < x → RoundsTo f mode sat false x r) ∧ (x < 0 → RoundsTo f mode sat true (-x) r)
    ∧ (x = 0 → r = (if z then 2 ^ (f.width - 1) else 0, 0))

/-- The sign of an exact zero sum of two addends of the signs `p` and `q` (R9). -/
def sumZero (mode : Rnd) (p q : Bool) : Bool := if p = q then p else decide (mode = .ninf)

/-- What an exact sum of the elements `xs` of a format gives, rounded once (R160, R232). -/
def SumRounded (f : FF) (mode : Rnd) (sat : Bool) (xs : List FV) (r : Nat × FlagSet) : Prop :=
  (∀ vs : List Finite, List.Forall₂ IsFin xs vs →
    Rounded f mode sat (((vs.map val).sum : ℚ) : ℝ) (!vs.isEmpty && vs.all negZero) r)
  ∧ (.nan ∈ xs → r = (f.nan.getD 0, 0))
  ∧ (.nan ∉ xs → .inf false ∈ xs → .inf true ∈ xs → r = (f.nan.getD 0, 16))
  ∧ ∀ p, .nan ∉ xs → .inf p ∈ xs → .inf (!p) ∉ xs → f.decode r.1 = .inf p ∧ r.1 < 2 ^ f.width ∧ r.2 = 0

end Sys2Proof.Says

/-- R150, R151, R219 to R221: the floating-point lanes of two and three operands. Finite operands give the exact value
rounded once; infinities and NaNs give what R150 and R151 say. -/
def Sys2Proof.Says.FloatLanes : Prop :=
  ∀ (ty : Ty) (f : FF) (a b : Nat) (m : Rnd) (sat : Bool), ffOf ty = some f → ty.isFlt = true →
    a < 2 ^ f.width → b < 2 ^ f.width →
    let qnan : Nat × FlagSet := (f.nan.getD 0, 0)
    let invalid : Nat × FlagSet := (f.nan.getD 0, 16)
    let isInf (n : Bool) (r : Nat × FlagSet) : Prop := f.decode r.1 = .inf n ∧ r.1 < 2 ^ f.width ∧ r.2 = 0
    (∀ u v : Finite, IsFin (f.decode a) u → IsFin (f.decode b) v →
      Rounded f m sat ((val u + val v : ℚ) : ℝ) (sumZero m u.1 v.1) (laneAdd ty sat m a b)
      ∧ Rounded f m sat ((val u - val v : ℚ) : ℝ) (sumZero m u.1 !v.1) (laneSub ty sat m a b)
      ∧ Rounded f m sat ((val u * val v : ℚ) : ℝ) (u.1 != v.1) (laneMul ty sat m a b)
      ∧ Rounded f m sat ((|val u - val v| : ℚ) : ℝ) false (laneAbd ty sat m a b)
      ∧ (∀ c w, IsFin (f.decode c) w →
        Rounded f m sat ((val u * val v + val w : ℚ) : ℝ) (sumZero m (u.1 != v.1) w.1)
          (f.fma (f.decode a) (f.decode b) (f.decode c) m sat))
      ∧ (val u < val v ∨ val u = 0 ∧ val v = 0 ∧ u.1 = true ∧ v.1 = false →
        lanePick ty true a b = (b, 0) ∧ lanePick ty false a b = (a, 0)
        ∧ lanePick ty true b a = (b, 0) ∧ lanePick ty false b a = (a, 0))
      ∧ (let x := laneAbs ty sat a; IsFin (f.decode x.1) (false, u.2) ∧ x.2 = 0)
      ∧ (let x := laneNeg ty sat a; IsFin (f.decode x.1) (!u.1, u.2) ∧ x.2 = 0))
    ∧ (f.decode a = .nan ∨ f.decode b = .nan → laneAdd ty sat m a b = qnan ∧ laneSub ty sat m a b = qnan
      ∧ laneMul ty sat m a b = qnan ∧ laneAbd ty sat m a b = qnan)
    ∧ (f.decode a = .nan → laneAbs ty sat a = qnan ∧ laneNeg ty sat a = qnan
      ∧ (f.decode b = .nan → ∀ big, lanePick ty big a b = qnan)
      ∧ (f.decode b ≠ .nan → ∀ big, lanePick ty big a b = (b, 0) ∧ lanePick ty big b a = (b, 0)))
    ∧ ∀ p, f.decode a = .inf p →
      (∀ q, f.decode b = .inf q →
        (p = q → isInf p (laneAdd ty sat m a b) ∧ laneSub ty sat m a b = invalid ∧ laneAbd ty sat m a b = invalid)
        ∧ (p ≠ q → laneAdd ty sat m a b = invalid ∧ isInf p (laneSub ty sat m a b) ∧ isInf false (laneAbd ty sat m a b))
        ∧ isInf (p != q) (laneMul ty sat m a b))
      ∧ ∀ v, IsFin (f.decode b) v → isInf p (laneAdd ty sat m a b) ∧ isInf p (laneAdd ty sat m b a)
        ∧ isInf p (laneSub ty sat m a b) ∧ isInf (!p) (laneSub ty sat m b a) ∧ isInf false (laneAbd ty sat m a b)
        ∧ (v.2.1 = 0 → laneMul ty sat m a b = invalid ∧ laneMul ty sat m b a = invalid)
        ∧ (v.2.1 ≠ 0 → isInf (p != v.1) (laneMul ty sat m a b) ∧ isInf (p != v.1) (laneMul ty sat m b a))

/-- R222: a floating-point lane of `v.dot` is the exact sum of its products and of the addend, rounded once into FP32. -/
def Sys2Proof.Says.DotLanes : Prop :=
  ∀ (ty : Ty) (f : FF) (m : Rnd) (sat : Bool) (a b c i : Nat) (xs ys : List Finite) (z : Finite), ffOf ty = some f →
    ty ≠ .f32 →
    let w := ty.width
    let k := 32 / w
    let terms (x : Nat) : List FV := (List.range k).map fun j => f.decode (laneOf w x (k * i + j))
    List.Forall₂ IsFin (terms a) xs → List.Forall₂ IsFin (terms b) ys → IsFin (ff32.decode (laneOf 32 c i)) z →
    Rounded ff32 m sat ((val z + ((xs.zip ys).map fun p => val p.1 * val p.2).sum : ℚ) : ℝ)
      (negZero z && (xs.zip ys).all fun p => (p.1.1 != p.2.1) && (p.1.2.1 = 0 || p.2.2.1 = 0)) (dotLane ty sat m a b c i)

/-- R223, R226: the floating-point lanes of one operand. A finite operand, not 0, gives the exact value of 1/a, 1/√a or √a
rounded once, and 2^a and log2 a too where they are exact; every other operand gives what the table of R223 says. -/
def Sys2Proof.Says.UnaryFloatLanes : Prop :=
  ∀ (ty : Ty) (f : FF) (a : Nat) (m : Rnd) (sat : Bool), ffOf ty = some f → ty.isFlt = true → a < 2 ^ f.width →
    let qnan : Nat × FlagSet := (f.nan.getD 0, 0)
    let invalid : Nat × FlagSet := (f.nan.getD 0, 16)
    let isInf (n : Bool) (fl : FlagSet) (r : Nat × FlagSet) : Prop := f.decode r.1 = .inf n ∧ r.1 < 2 ^ f.width ∧ r.2 = fl
    let isZero (n : Bool) (r : Nat × FlagSet) : Prop := r = (if n then 2 ^ (f.width - 1) else 0, 0)
    (∀ v : Finite, IsFin (f.decode a) v → v.2.1 ≠ 0 →
      Rounded f m sat ((1 / val v : ℚ) : ℝ) false (rcpLane f sat m a)
      ∧ (v.1 = false → Rounded f m sat (1 / Real.sqrt (val v : ℚ)) false (rsqLane f sat m a)
        ∧ Rounded f m sat (Real.sqrt (val v : ℚ)) false (sqrtLane f sat m a)
        ∧ ∀ n : Int, val v = 2 ^ n → Rounded f m sat n false (log2Lane f sat m a))
      ∧ (v.1 = true → rsqLane f sat m a = invalid ∧ sqrtLane f sat m a = invalid ∧ log2Lane f sat m a = invalid)
      ∧ (∀ n : Int, val v = n → Rounded f m sat (2 ^ n) false (exp2Lane f sat m a))
      ∧ ∃ y, Selects m v.1 ((val (false, v.2) : ℚ) : ℝ) y ∧ (rndLane f m a).1 < 2 ^ f.width
          ∧ (∃ u : Finite, IsFin (f.decode (rndLane f m a).1) u ∧ u.1 = v.1 ∧ val (false, u.2) = y)
          ∧ ((rndLane f m a).2 = if val (false, v.2) = y then 0 else 1))
    ∧ (∀ v : Finite, IsFin (f.decode a) v → v.2.1 = 0 →
      isInf v.1 8 (rcpLane f sat m a) ∧ isInf v.1 8 (rsqLane f sat m a) ∧ isZero v.1 (sqrtLane f sat m a)
      ∧ Rounded f m sat 1 false (exp2Lane f sat m a) ∧ isInf true 8 (log2Lane f sat m a) ∧ rndLane f m a = (a, 0))
    ∧ (∀ p, f.decode a = .inf p → isZero p (rcpLane f sat m a) ∧ rndLane f m a = (a, 0)
      ∧ (p = true → rsqLane f sat m a = invalid ∧ sqrtLane f sat m a = invalid ∧ isZero false (exp2Lane f sat m a)
        ∧ log2Lane f sat m a = invalid)
      ∧ (p = false → isZero false (rsqLane f sat m a) ∧ isInf false 0 (sqrtLane f sat m a)
        ∧ isInf false 0 (exp2Lane f sat m a) ∧ isInf false 0 (log2Lane f sat m a)))
    ∧ (f.decode a = .nan → rcpLane f sat m a = qnan ∧ rsqLane f sat m a = qnan ∧ sqrtLane f sat m a = qnan
      ∧ exp2Lane f sat m a = qnan ∧ log2Lane f sat m a = qnan ∧ rndLane f m a = qnan)

/-- R139 to R141, R147 to R151, R155, R219 to R223, R226: what the integer and the floating-point lanes hold, and that
rounding keeps what a format holds. -/
def Obligations.LaneArithmetic : Prop :=
  Says.IntegerLanes ∧ Says.RoundingKeepsRepresentable ∧ Says.FloatLanes ∧ Says.DotLanes ∧ Says.UnaryFloatLanes

/-- R144, R145, R152 to R155, R224, R225: conversions and scaling of vectors. -/
def Sys2Proof.Says.VectorConversionResults : Prop :=
  ∀ (s s' : State) (t u : Thread) (x : V1) (r : Fin 96) (a : VReg) (ga : Tag) (src : Ty) (part : Fin 16), Running s t →
    ReadsV s t x.a s' u a ga → x.nw = false → x.d = .reg r → MayName s' u r →
    let m := rndMode x.rnd u.regs.fmt
    let ns := src.elems
    let nd := x.ty.elems
    part.val < cvtParts x.ty src →
    (nd < ns → WritesLanes s s' u (.vCvt x src part) r x.ty.width nd (active u x.msk x.ty)
      (fun j => convertElem src x.ty (laneOf src.width a.toNat (part.val * nd + j)) m x.sat)
      (laneTag u 0x418 x.ty ga 0 0 x.msk))
    ∧ (nd = ns → WritesLanes s s' u (.vCvt x src part) r x.ty.width nd (active u x.msk x.ty)
      (fun j => convertElem src x.ty (laneOf src.width a.toNat j) m x.sat) (laneTag u 0x418 x.ty ga 0 0 x.msk))
    ∧ (ns < nd → WritesLanes s s' u (.vCvt x src part) r x.ty.width nd
      (fun j => decide (part.val * ns ≤ j ∧ j < (part.val + 1) * ns) && active u x.msk x.ty j)
      (fun j => convertElem src x.ty (laneOf src.width a.toNat (j - part.val * ns)) m x.sat)
      (laneTag u 0x418 x.ty ga 0 0 x.msk))

/-- R233 to R236: broadcasts, bit reversal, insertion, extraction, unpacking and index vectors. -/
def Obligations.VectorMovementResults : Prop :=
  ∀ (s s' : State) (t u : Thread) (r : Fin 96) (a : VReg) (ga : Tag), Running s t →
    (∀ x : V1, ReadsV s t x.a s' u a ga → x.nw = false → x.d = .reg r → MayName s' u r →
      let w := x.ty.width
      let gives (i : Instr) (op : Nat) (gb : Tag) (f : Nat → Nat) := WritesLanes s s' u i r w (8192 / w)
        (active u x.msk x.ty) (fun j => (f j, 0)) (laneTag u op x.ty ga gb 0 x.msk)
      (∀ b k gb, readS u b = .ok (k, gb) → gives (.vBcast x b) 0x441 gb (fun _ => laneOf w a.toNat (k.toNat % (8192 / w))))
      ∧ (∀ b : Fin 16, let n := if b = 0 then Nat.log2 (8192 / w) else b.val
        gives (.vBrev x b) 0x444 0 (fun j => laneOf w a.toNat
          (j / 2 ^ n * 2 ^ n + (((List.range n).filter j.testBit).map fun i => 2 ^ (n - 1 - i)).sum)))
      ∧ (∀ half int4, int4 = false ∨ w = 8 →
        let ws := if int4 then 4 else w
        let nd := 8192 / (2 * ws)
        WritesLanes s s' u (.vUnpack x half int4) r (2 * ws) nd (maskActive u.regs x.msk)
          (fun j => let e := laneOf ws a.toNat ((if half then nd else 0) + j)
            (if x.ty.isSigned then wrapN (2 * ws) (sgn ws e) else e, 0))
          (laneTag u 0x449 x.ty ga 0 0 x.msk)))
    ∧ (MayName s t r → ∀ (b : SSrc) (k : W32) (gb : Tag) (ty : Ty), readS t b = .ok (k, gb) → ty ≠ .e2m1 →
      let w := ty.width
      let n := 8192 / w
      (∀ m, ty ≠ .si64 → WritesLanes s s t (.vBcastScalar false (.reg r) b ty m) r w n (active t m ty)
          (fun _ => (k.toNat, 0)) (laneTag t 0x441 ty 0 gb 0 m))
      ∧ (∀ m (p : Fin 32), ty = .si64 → b = .reg ⟨2 * p.val, by omega⟩ →
          WritesLanes s s t (.vBcastScalar false (.reg r) b ty m) r w n (active t m ty)
            (fun _ => ((pairVal t.regs p).toNat, 0)) (laneTag t 0x441 ty 0 (pairTag t.regs p) 0 m))
      ∧ (∀ m, WritesLanes s s t (.vIota false (.reg r) b ty m) r w n (active t m ty)
          (fun j => (wrapN w ((if ty.isSigned then k.toInt else k.toNat) + j), 0)) (laneTag t 0x44A ty gb 0 0 m))
      ∧ (∀ c v gc, ty ≠ .si64 → readS t c = .ok (v, gc) →
          WritesLanes s s t (.vIns r c b ty) r w n (fun j => decide (j = k.toNat % n)) (fun _ => (v.toNat, 0))
            (mix (mix (mix (key 0x446 (tyTo ty)) gc) gb) t.vTag[r]))
      ∧ ∀ (c : SSrc) (p : Fin 32), ty = .si64 → c = .reg ⟨2 * p.val, by omega⟩ →
          WritesLanes s s t (.vIns r c b ty) r w n (fun j => decide (j = k.toNat % n)) (fun _ => ((pairVal t.regs p).toNat, 0))
            (mix (mix (mix (key 0x446 (tyTo ty)) (pairTag t.regs p)) gb) t.vTag[r]))
    ∧ ∀ d x b k gb (ty : Ty), ReadsV s t x s' u a ga → readS u b = .ok (k, gb) →
      let e := elemInt ty (laneOf ty.width a.toNat (k.toNat % (8192 / ty.width)))
      let g := mix (mix (mix (key 0x447 (tyTo ty)) ga) gb) 0
      (ty ≠ .si64 → ty ≠ .e2m1 → Leaves s (.vGet d x b ty) s' (putDest u 4 (.s d (BitVec.ofInt 32 e)) g))
      ∧ (ty = .si64 → Leaves s (.vGet d x b ty) s' (putPair u 4 ⟨d.val / 2, by omega⟩ (BitVec.ofInt 64 e) g))

/-- R225, R235: `v.scl` multiplies its first 256 lanes by one scale and rounds once; `v.pack` narrows two vectors into
one. -/
def Sys2Proof.Says.VectorScaleAndPackResults : Prop :=
  ∀ (s s1 s2 : State) (t u1 u : Thread) (x : V2) (r : Fin 96) (a b : VReg) (ga gb : Tag), Running s t →
    ReadsV s t x.a s1 u1 a ga → ReadsV s1 u1 x.b s2 u b gb →
    x.nw = false → x.d = .reg r → MayName s2 u r →
    let m := rndMode x.rnd u.regs.fmt
    (∀ src scale : Ty, WritesLanes s s2 u (.vScl x src scale) r x.ty.width x.ty.elems
      (fun j => decide (j < 256) && active u x.msk x.ty j)
      (fun j =>
        let p := (decodeElem src (laneOf 32 a.toNat j)).mul (decodeElem scale (laneOf scale.width b.toNat 0))
        let c := toFloat p.1 x.ty m x.sat
        (c.1, p.2 ||| c.2)) (laneTag u 0x419 x.ty ga gb 0 x.msk))
    ∧ (x.ty.isInt = true →
      let n := x.ty.elems
      let w := x.ty.width / 2
      let lo : Int := if x.ty.isSigned then -(2 ^ (w - 1) : Nat) else 0
      let hi : Int := if x.ty.isSigned then (2 ^ (w - 1) : Nat) - 1 else (2 ^ w : Nat) - 1
      let e (j : Nat) : Int := elemInt x.ty (if j < n then laneOf x.ty.width a.toNat j else laneOf x.ty.width b.toNat (j - n))
      WritesLanes s s2 u (.vPack x) r w (2 * n) (fun j => maskActive u.regs x.msk (if w = 4 then j / 2 else j))
        (fun j => if x.sat then (wrapN w (max lo (min hi (e j))), if e j < lo ∨ hi < e j then 32 else 0)
          else (wrapN w (e j), 0))
        (laneTag u 0x448 x.ty ga gb 0 x.msk))

/-- R152, R154, R155: what a conversion gives, into a floating-point format and into an integer. -/
def Sys2Proof.Says.ConversionValues : Prop :=
  ∀ (src dst : Ty) (c : Nat) (m : Rnd) (sat : Bool), src ≠ .none → c < 2 ^ src.width →
    let r := convertElem src dst c m sat
    (∀ f, ffOf dst = some f →
      (∀ v, IsFin (decodeElem src c) v → Rounded f m sat ((val v : ℚ) : ℝ) v.1 r)
      ∧ (decodeElem src c = .nan → r = match f.nan with
          | some q => (q, 0)
          | none => (0, 16))
      ∧ ∀ p, decodeElem src c = .inf p → r.1 < 2 ^ f.width ∧
          (f.infCode ≠ none → f.decode r.1 = .inf p ∧ r.2 = 0)
          ∧ (f.infCode = none → r.2.getLsbD 2 = true
            ∧ (sat = true ∨ f.nan = none →
              ∃ v : Finite, IsFin (f.decode r.1) v ∧ v.1 = p ∧ ∀ d u, IsFin (f.decode d) u → val u ≤ val (false, v.2))
            ∧ (sat = false → f.nan ≠ none → f.decode r.1 = .nan)))
    ∧ (dst.isInt = true →
      let w := dst.width
      let lo : Int := if dst.isSigned then -(2 ^ (w - 1) : Nat) else 0
      let hi : Int := if dst.isSigned then (2 ^ (w - 1) : Nat) - 1 else (2 ^ w : Nat) - 1
      (src.isInt = true →
        let x : Int := if src.isSigned then (BitVec.ofNat src.width c).toInt else c
        r = if lo ≤ x ∧ x ≤ hi ∨ sat = false then (wrapN w x, 0) else (wrapN w (max lo (min hi x)), 32))
      ∧ (src.isInt = false →
        let bad : Nat := if dst.isSigned then wrapN w lo else 2 ^ w - 1
        (∀ v, IsFin (decodeElem src c) v → ∃ y, Selects m v.1 ((val (false, v.2) : ℚ) : ℝ) y ∧
          let z : Int := if v.1 then -y else y
          let nx : FlagSet := if val (false, v.2) = y then 0 else 1
          (lo ≤ z → z ≤ hi → r = (wrapN w z, nx))
          ∧ (z < lo ∨ hi < z → r = if sat then (wrapN w (max lo (min hi z)), nx ||| 48) else (bad, nx ||| 16)))
        ∧ (decodeElem src c = .nan → r = if sat then (0, 48) else (bad, 16))
        ∧ ∀ p, decodeElem src c = .inf p → r = if sat then (wrapN w (if p then lo else hi), 48) else (bad, 16)))

/-- R144, R145, R148, R152, R153: what a conversion into DS8 and into E8M0 gives; of an integer 0 into E8M0 the model's
reading is log entry 61. -/
def Sys2Proof.Says.ScaleConversionValues : Prop :=
  ∀ (src : Ty) (c : Nat) (m : Rnd) (sat : Bool), src ≠ .none → c < 2 ^ src.width →
    let d := convertElem src .ds8 c m sat
    let e := convertElem src .e8m0 c m sat
    let member (x : ℚ) : Prop := ∃ k < 256, ∃ v, IsFin (decodeElem .ds8 k) v ∧ val v = x
    (∀ v, IsFin (decodeElem src c) v →
      let x := val v
      (x = 0 → d = (0x77, 0) ∧ e = (0xFF, 16))
      ∧ (2 < |x| → d = (if v.1 then 0x88 else 0x00, 5))
      ∧ (x ≠ 0 → |x| ≤ 2 → ∃ u : Finite, d.1 < 256 ∧ IsFin (decodeElem .ds8 d.1) u ∧ (d.2 = if val u = x then 0 else 1) ∧
          ∀ z, member z → match m with
            | .pinf => x ≤ val u ∧ (x ≤ z → val u ≤ z)
            | .ninf => val u ≤ x ∧ (z ≤ x → z ≤ val u)
            | .rtz => |val u| ≤ |x| ∧ 0 ≤ val u * x ∧ (|z| ≤ |x| → |z| ≤ |val u|)
            | .rna => |x - val u| ≤ |x - z| ∧ (|x - val u| = |x - z| → |z| ≤ |val u|)
            | _ => |x - val u| ≤ |x - z| ∧ (|x - val u| = |x - z| → |val u| ≤ |z|))
      ∧ (x < 0 → e = (0xFF, 16))
      ∧ (0 < x → ∃ k : Int,
          (match m with
            | .pinf => 2 ^ (k - 1) < x ∧ x ≤ 2 ^ k
            | .rtz | .ninf => (2 : ℚ) ^ k ≤ x ∧ x < 2 ^ (k + 1)
            | .rna => ∀ j : Int, |x - 2 ^ k| ≤ |x - 2 ^ j| ∧ (|x - 2 ^ k| = |x - 2 ^ j| → j ≤ k)
            | _ => ∀ j : Int, |x - 2 ^ k| ≤ |x - 2 ^ j| ∧ (|x - 2 ^ k| = |x - 2 ^ j| → j ≠ k → (k + 127) % 2 = 0))
          ∧ (127 < k → e = (if sat then 0xFE else 0xFF, 5)) ∧ (k < -127 → e = (0, 3))
          ∧ (-127 ≤ k → k ≤ 127 → e = ((k + 127).toNat, if x = 2 ^ k then 0 else 1))))
    ∧ (decodeElem src c = .nan → d = (0x77, 16) ∧ e = (0xFF, 0))
    ∧ ∀ p, decodeElem src c = .inf p → d.1 = (if p then 0x88 else 0x00) ∧ d.2.getLsbD 2 = true
        ∧ e = if p then (0xFF, 16) else (if sat then 0xFE else 0xFF, 5)

/-- R144, R145, R148, R152 to R155, R224, R225, R235: conversions with their values, `v.scl` and `v.pack`. That an
integer 0 converts into E8M0 as a floating-point 0 does is the model's reading (log entry 61). -/
def Obligations.VectorConversionsAndPacks : Prop :=
  Says.VectorConversionResults ∧ Says.ConversionValues ∧ Says.ScaleConversionValues ∧ Says.VectorScaleAndPackResults

namespace Sys2Proof.Says

/-- What the elements `xs` of the type `ty` add to (R155, R160, R232): the exact sum, wrapped or clamped, or rounded once. -/
def Adds (ty : Ty) (m : Rnd) (sat : Bool) (xs : List Nat) (r : Nat × FlagSet) : Prop :=
  (ty.isInt = true →
    let w := ty.width
    let lo : Int := if ty.isSigned then -(2 ^ (w - 1) : Nat) else 0
    let hi : Int := if ty.isSigned then (2 ^ (w - 1) : Nat) - 1 else (2 ^ w : Nat) - 1
    let sum := (xs.map (elemInt ty)).sum
    r = if lo ≤ sum ∧ sum ≤ hi ∨ sat = false then (wrapN w sum, 0) else (wrapN w (max lo (min hi sum)), 32))
  ∧ ∀ f, ffOf ty = some f → SumRounded f m sat (xs.map f.decode) r

/-- What the smallest or, with `big`, the largest of the elements `xs` is (R221, R232): of floating-point elements those
that are no NaN count, −0 below +0; of none at all, the identity. -/
def Picks (ty : Ty) (big : Bool) (xs : List Nat) (r : Nat × FlagSet) : Prop :=
  let best (ys : List Nat) (value : Nat → Int) : Prop :=
    r.1 ∈ ys ∧ ∀ y ∈ ys, if big then value y ≤ value r.1 else value r.1 ≤ value y
  r.2 = 0
  ∧ (ty.isInt = true → (xs ≠ [] → best xs (elemInt ty)) ∧ (xs = [] →
      ∀ v < 2 ^ ty.width, if big then elemInt ty r.1 ≤ elemInt ty v else elemInt ty v ≤ elemInt ty r.1))
  ∧ ∀ f, ffOf ty = some f →
      let ys := xs.filter fun c => f.decode c ≠ .nan
      let place (c : Nat) : Int := if c.testBit (f.width - 1) then -(c % 2 ^ (f.width - 1) : Nat) - 1 else c
      (ys ≠ [] → best ys place) ∧ (ys = [] → xs ≠ [] → r.1 = f.nan.getD 0) ∧ (xs = [] → f.decode r.1 = .inf big)

end Sys2Proof.Says

/-- R155, R160, R217, R221, R232: the reductions and the scan. A segment runs from a head lane (lane 0 is one) to the lane
before the next; a reduction leaves what the active lanes of each segment give in its head lane and 0 elsewhere; a scan
leaves in each lane what those up to it add to. -/
def Obligations.ReductionResults : Prop :=
  ∀ (s s' : State) (t u : Thread) (x : VRed) (r : Fin 96) (a : VReg) (ga : Tag), Running s t →
    ReadsV s t x.a s' u a ga → x.nw = false → x.d = .reg r → MayName s' u r → x.ty.isInt = true ∨ x.ty.isFlt = true →
    let w := x.ty.width
    let n := 8192 / w
    let m := rndMode x.rnd u.regs.fmt
    let head (j : Nat) : Bool := j = 0 || x.seg && (u.regs.q[x.q]).getLsbD j
    let ends (i j : Nat) : Bool := (List.range n).all fun l => !(head l && i < l && l ≤ j)
    -- the active elements, of those below lane `k`, of the segment that lane `i` stands in
    let elems (i k : Nat) : List Nat := ((List.range k).filter fun j =>
      (x.msk = 0 || (u.regs.q[x.msk]).getLsbD j) && ends i j && ends j i).map fun j => laneOf w a.toNat j
    let gives (i : Instr) (op : Nat) (is : Nat → Nat × FlagSet → Prop) :=
      ∃ f : Nat → Nat × FlagSet, (∀ j < n, (f j).1 < 2 ^ w ∧ is j (f j))
        ∧ WritesLanes s s' u i r w n (fun _ => true) f
            (laneTag u op x.ty ga (if x.seg then u.regs.qTag[x.q] else 0) 0 x.msk)
    let reduced (is : List Nat → Nat × FlagSet → Prop) (j : Nat) (y : Nat × FlagSet) : Prop :=
      if head j then is (elems j n) y else y = (0, 0)
    gives (.vRedAdd x) 0x438 (reduced (Adds x.ty m x.sat))
    ∧ gives (.vRedMax x) 0x439 (reduced (Picks x.ty true)) ∧ gives (.vRedMin x) 0x43A (reduced (Picks x.ty false))
    ∧ gives (.vScan x) 0x43B (fun j => Adds x.ty m x.sat (elems j (if x.excl then j else j + 1)))

/-- R227, R228: comparisons and classes write one bit an element; bits of inactive lanes stay, and bits past the
elements are 0. -/
def Sys2Proof.Says.MaskResults : Prop :=
  ∀ (s s1 s2 : State) (t u1 u : Thread) (d m : Fin 16) (x y : VSrc) (a b : VReg) (ga gb : Tag) (ty : Ty), Running s t →
    ty ≠ .e2m1 →
    let n := 8192 / ty.width
    let bitsOf (w : Thread) (i : Instr) (s' : State) (g : Tag) (f : Nat → Bool) := ∃ t', Leaves s i s' t' ∧
      let e := arrived w t'
      e.v = w.v ∧ e.regs.s = w.regs.s ∧ e.regs.qTag[d] = g ∧ (∀ k, k ≠ d → e.regs.q[k] = w.regs.q[k])
      ∧ ∀ j < 1024, (e.regs.q[d]).getLsbD j =
          (decide (j < n) && if active w m ty j then f j else (w.regs.q[d]).getLsbD j)
    (ReadsV s t x s1 u1 a ga → ReadsV s1 u1 y s2 u b gb → ∀ cc,
      bitsOf u (.vCmp cc d x y ty m) s2 (laneTag u 0x420 ty ga gb 0 m)
        (fun j => elemCc cc ty (laneOf ty.width a.toNat j) (laneOf ty.width b.toNat j)))
    ∧ (ReadsV s t x s1 u1 a ga → ∀ set f, ffOf ty = some f →
      bitsOf u1 (.vClass d x set ty m) s1 (laneTag u1 0x421 ty ga 0 0 m)
        (fun j => set.getLsbD (elemClass f (laneOf ty.width a.toNat j))))

/-- R237, R238: the mask operations. -/
def Sys2Proof.Says.MaskOperationResults : Prop :=
  ∀ (s : State) (t : Thread), Running s t →
    let q := t.regs.q
    let gives (i : Instr) (d : Fin 16) (v : QReg) (g : Tag) := Makes s i (putDest t 2 (.q d v (BitVec.allOnes 1024)) g)
    let lanes (ty : Ty) : Nat := if ty.width = 4 then 1024 else 8192 / ty.width
    (∀ x : Q3, let g (op : Nat) := mix (mix (mix (key op 0) t.regs.qTag[x.a]) t.regs.qTag[x.b]) 0
      gives (.qAnd x) x.d (q[x.a] &&& q[x.b]) (g 0x450) ∧ gives (.qOr x) x.d (q[x.a] ||| q[x.b]) (g 0x451)
      ∧ gives (.qXor x) x.d (q[x.a] ^^^ q[x.b]) (g 0x452))
    ∧ (∀ d a, let g (op : Nat) := mix (mix (mix (key op 0) t.regs.qTag[a]) 0) 0
      gives (.qNot d a) d (~~~q[a]) (g 0x453) ∧ gives (.qMov d a) d q[a] (g 0x456))
    ∧ ∀ d a ty, let g (op : Nat) := mix (mix (mix (key op (tyTo ty)) t.regs.qTag[a]) 0) 0
      Makes s (.qCnt d a ty) (putDest t 2
        (.s d (BitVec.ofNat 32 ((List.range (lanes ty)).filter fun j => (q[a]).getLsbD j).length)) (g 0x454))
      ∧ Makes s (.qFirst d a ty) (putDest t 2
        (.s d (BitVec.ofNat 32 ((List.range (lanes ty)).takeWhile fun j => !(q[a]).getLsbD j).length)) (g 0x455))

/-- R227, R228, R237, R238: comparisons, classes and the mask operations. -/
def Obligations.MaskRegisters : Prop :=
  Says.MaskResults ∧ Says.MaskOperationResults

/-! ## The matrix array (file 09) -/

namespace Sys2Proof.Says

/-- An accumulator's bit in a mask (R243). -/
def accMask (a : Fin 4) : BitVec 4 := 1#4 <<< a.val

/-- A record of elements of the type `ty`, with no axis of 0 (R241). -/
def tensorOf (r : Regs) (h : Fin 32) (ty : Ty) : Prop :=
  hMalformed r.h[h] = false ∧ hEmpty r.h[h] = false ∧ hFormat r.h[h] = tyTo ty

/-- An operand the command may name: a read port, or a handle of its type. -/
def operandOk (r : Regs) (a : MSrc) (ty : Ty) : Prop :=
  match a with
  | .handle h => tensorOf r h ty
  | .port _ => True

/-- The command `i` as the queue of its sequencer holds it. -/
def queued (i : Instr) (t : Thread) (g : Gated) : MCmd :=
  { instr := i, regs := { g.regs with fmt := t.regs.fmt }, ord := g.ord, bundle := g.bundle, own := t.lastLabel }

/-- When `i` issues with the accumulators `accs` held or requested, and `ok` of its operands, it joins the sequencer's
queue of matrix commands; with an accumulator neither held nor requested it is illegal, and behind 16 it waits. -/
def Queues (s : State) (t : Thread) (g : Gated) (rest : List Gated) (i : Instr) (accs : BitVec 4) (ok : Prop) : Prop :=
  Issues s t i g rest →
    (t.mq.length < 16 → accs &&& ~~~(t.acc ||| requested s t) = 0 → ok → Issued s i s { t with
        issue := rest, mq := t.mq ++ [queued i t g] })
    ∧ (t.mq.length < 16 → accs &&& ~~~(t.acc ||| requested s t) ≠ 0 → Traps s t i .illegal)
    ∧ (16 ≤ t.mq.length → Makes s i { t with flow := .stalled .other })

end Sys2Proof.Says

/-- R42, R49, R181, R242: a matrix command at its place is captured with its registers; the walker of a read port it
names moves past what the command will pop, and is illegal unless it is configured. -/
def Sys2Proof.Says.MatrixCommandsAreCaptured : Prop :=
  ∀ (s : State) (t : Thread) (i : Instr), Running s t → MayGate s t →
    ((∃ m, i = .mLease m) ∨ (∃ m, i = .mFree m) ∨ (∃ a, i = .mZero a) ∨ i = .mWait ∨ (∃ a k, i = .mProg a k)
        ∨ (∃ c h d x z r, i = .mDrain c h d x z r) ∨ (∃ c h ty, i = .mFill c (.handle h) ty)
        ∨ (∃ c d ty z, i = .mAdd c d ty z) ∨ (∃ c h ty, i = .mScale c (.handle h) ty)
        ∨ (∃ c a b k st e v, i = .mBfly c a b k st e v) ∨ (∃ c d a b k v, i = .mBrev c d a b k v)
        ∨ (∃ c d a b k v w, i = .mTwid c d a b k v w) ∨ (∃ c d v, i = .mTmul c d v)
        ∨ (∃ c a b x y z w v k, i = .mMmas c a b x y z w v k)
        ∨ (∃ x : MMul, (∃ a b, x.a = .handle a ∧ x.b = .handle b) ∧ (i = .mMma x ∨ i = .mCellp x)) →
      Makes s i (captured t i))
    ∧ (∀ c p ty, i = .mFill c (.port p) ty ∨ i = .mScale c (.port p) ty →
      (t.regs.w[p.val].configured = false → Traps s t i .illegal)
      ∧ (t.regs.w[p.val].configured = true → t.regs.w[p.val].busy = false →
        ∃ t', Makes s i t' ∧ t'.ord = t.ord + 1 ∧ t'.v = t.v ∧ t'.regs.s = t.regs.s
          ∧ t'.regs.w[p.val] = walkerSteps (if i = .mFill c (.port p) ty then 96 else 1) t.regs.w[p.val]
          ∧ (∀ k : Fin 6, k.val ≠ p.val → t'.regs.w[k] = t.regs.w[k])
          ∧ t'.blk.gated.length = t.blk.gated.length + 1))
    ∧ ∀ (x : MMul), i = .mMma x ∨ i = .mCellp x →
      (∀ p : Fin 4, x.a = .port p → t.regs.w[p.val].configured = false → Traps s t i .illegal)
      ∧ ((∀ p : Fin 4, x.a = .port p ∨ x.b = .port p →
          t.regs.w[p.val].configured = true ∧ t.regs.w[p.val].busy = false) →
        let k := if i = .mMma x then x.modi.toNat else x.modi.toNat % 2 ^ 14
        let step := if x.tyA = .e2m1 then 32 else if x.tyB.width = 16 then 8 else 16
        let n := (k + step - 1) / step
        ∃ t', Makes s i t' ∧ t'.ord = t.ord + 1 ∧ t'.v = t.v ∧ t'.regs.s = t.regs.s
          ∧ t'.blk.gated.length = t.blk.gated.length + 1
          ∧ ∀ p : Fin 4, t'.regs.w[p.val] = walkerSteps
              ((if x.a = .port p then 2 * n else 0) + (if x.b = .port p then 3 * n else 0)) t.regs.w[p.val])

/-- R241, R243, R246, R247, R253, R254: the issue of every matrix command. -/
def Sys2Proof.Says.MatrixCommandsIssue : Prop :=
  ∀ (s : State) (t : Thread) (g : Gated) (rest : List Gated),
    let q := Queues s t g rest
    let r := g.regs
    (∀ m, q (.mFree m) 0 True) ∧ (∀ a, q (.mZero a) (accMask a) True)
    ∧ (∀ x, q (.mMma x) (accMask x.acc) (operandOk r x.a x.tyA ∧ operandOk r x.b x.tyB))
    ∧ (∀ c a b x y z w v k, q (.mMmas c a b x y z w v k) (accMask c)
        (tensorOf r a x ∧ tensorOf r b y ∧ tensorOf r ⟨(a.val + 1) % 32, by omega⟩ z ∧ tensorOf r ⟨(b.val + 1) % 32, by omega⟩ z
          ∧ hGroup r.h[a] = w.val ∧ hGroup r.h[b] = w.val))
    ∧ (∀ c h d x z m, q (.mDrain c h d x z m) (accMask c)
        (tensorOf r h d ∧ (hScr r.h[h] = true ∨ d ≠ .e2m1 ∨ hExt0 r.h[h] % 2 = 0)))
    ∧ (∀ c a ty, q (.mFill c a ty) (accMask c) (operandOk r a ty))
    ∧ (∀ c a ty, q (.mScale c a ty) (accMask c) (operandOk r a ty))
    ∧ (∀ c d ty z, q (.mAdd c d ty z) (accMask c ||| accMask d) True)
    ∧ (∀ c a b k st e v, q (.mBfly c a b k st e v) (accMask c) True)
    ∧ (∀ c d a b k v, q (.mBrev c d a b k v) (accMask c ||| accMask d) True)
    ∧ (∀ c d a b k v w, q (.mTwid c d a b k v w) (accMask c ||| accMask d) True)
    ∧ (∀ c d v, q (.mTmul c d v) (accMask c ||| accMask d) True)
    ∧ (Issues s t .mWait g rest →
        (16 ≤ t.mq.length → Makes s .mWait { t with flow := .stalled .other })
        ∧ (t.mq.length < 16 →
          Issued s .mWait s { t with issue := rest, mq := t.mq ++ [queued .mWait t g], mwait := some g.ord }))
    ∧ (∀ m, Issues s t (.mLease m) g rest →
        (16 ≤ t.mq.length → Makes s (.mLease m) { t with flow := .stalled .other })
        ∧ (t.mq.length < 16 → t.acc ≠ 0 ∨ requested s t ≠ 0 → Traps s t (.mLease m) .illegal)
        ∧ (t.mq.length < 16 → t.acc = 0 → requested s t = 0 → (∀ p ∈ s.ops, p.2.away = false) →
          Issued s (.mLease m) ((startIdle s t.tile).setTile t.tile
              { s.tile t.tile with leaseQ := (s.tile t.tile).leaseQ ++ [⟨t.key, m⟩] })
            { t with issue := rest, mq := t.mq ++ [queued (.mLease m) t g] }))
    ∧ (∀ x : MMul, Issues s t (.mCellp x) g rest → t.mq.length < 16 → (∀ c ∈ t.mq, c.ord ≠ g.ord) →
        accMask x.acc &&& ~~~(t.acc ||| requested s t) = 0 → operandOk r x.a x.tyA → operandOk r x.b x.tyB →
        Issued s (.mCellp x) s { t with
          issue := rest
          mq := t.mq ++ [{ queued (.mCellp x) t g with prog := t.progs.toList.getD (x.modi.toNat / 2 ^ 14) 0 }] })
    ∧ ∀ a k, Issues s t (.mProg a k) g rest → BarriersMet s t rest g →
        (olderDone t g.ord = false → Makes s (.mProg a k) { t with flow := .stalled .queues })
        ∧ (olderDone t g.ord = true → t.mq = [] → tensorOf r a .none → hLayout r.h[a] = 0 →
          let reads (s1 : State) (w : W64) : Prop :=
            (progOk w = true → Issued s (.mProg a k) (s1.dropOwner (.place t.key g.ord))
              { t with issue := rest, mq := [queued (.mProg a k) t g], progs := t.progs.set k w })
            ∧ (progOk w = false →
              exec (.mProg a k) s = .next (raiseTrap (s1.dropOwner (.place t.key g.ord)) s.cur t .illegal 0))
          (hScr r.h[a] = true → hField r.h[a] 56 28 = 0 → (∀ p ∈ s.ops, p.2.away = false) →
            let reg := regionOf (s.opTile t.ot) (hRegion r.h[a])
            let off := hOffset r.h[a]
            reg.size ≠ 0 → off % 8 = 0 → off + 8 ≤ reg.size.toNat * 4096 → granOf reg off ≠ some .empty →
            reads s (BitVec.ofNat 64 (leOf ((List.range 8).map fun j => regionByte reg (off + j)))))
          ∧ (hScr r.h[a] = false → ∀ e : TlbEntry, s.pondOf t.op = none → t.tile < 416 → t.ltile < 512 →
            let va := hBase r.h[a]
            let pa := e.frame + va % 2 ^ 16
            va % 8 = 0 → va + 8 ≤ 2 ^ 57 → e.large = false →
            tlbFind (s.tile t.tile).tlb t.launch.pasid.toNat va = some e → e.readable = true →
            ((∃ q ∈ (s.tile t.tile).sent, q.line = pa / 64 ∧ q.owner = .place t.key g.ord ∧ q.fetch = e.cached)
              ∨ e.cached = true ∧ pa / 64 ∈ (s.tile t.tile).l1) →
            let read := physRead s t.tile pa 8 e.cached
            reads read.1 (BitVec.ofNat 64 (leOf read.2))))

/-- R42, R49, R181, R241 to R243, R246, R247, R253, R254: the commands of the array, captured and issued. -/
def Obligations.MatrixCommandsAreIssued : Prop :=
  Says.MatrixCommandsAreCaptured ∧ Says.MatrixCommandsIssue

/-- R243, R244, R246, R266: the oldest command of a sequencer completes when its turn comes. `m.free` gives its
accumulators up; `m.zero` clears its accumulator and names it by its key; `m.add` adds its INT32 cells. -/
def Sys2Proof.Says.MatrixCommandsComplete : Prop :=
  ∀ (s : State) (k : Nat) (t : Thread) (c : MCmd) (q : List MCmd), mfind s.threads k = some t → t.mq = c :: q →
    commandReady s t c = true → t.waiting = [] → .accum k ∉ s.hwErrors → t.key = k →
    (∀ m, c.instr = .mFree m → ∃ u t', exec (.matrixCommandComplete k) s = .next u ∧ mfind u.threads k = some t'
      ∧ t'.mq = q ∧ t'.acc = t.acc &&& ~~~m ∧ u.mem = s.mem ∧ u.opTiles = s.opTiles)
    ∧ ((s.tile t.tile).turn = some k →
      (∀ a, c.instr = .mZero a → ∃ u t', exec (.matrixCommandComplete k) s = .next u ∧ mfind u.threads k = some t'
        ∧ t'.mq = q ∧ u.mem = s.mem ∧ ((u.opTile t.ot).acc[a]).cells = []
        ∧ ((u.opTile t.ot).acc[a]).tag = mix (mix (mix (key 0x502 0) 0) 0) 0
        ∧ ∀ b, b ≠ a → (u.opTile t.ot).acc[b] = (s.opTile t.ot).acc[b])
      ∧ (∀ a b, c.instr = .mAdd a b .si32 false →
        ∃ u t', exec (.matrixCommandComplete k) s = .next u ∧ mfind u.threads k = some t' ∧ t'.mq = q
          ∧ (∀ m n, m < 128 → n < 192 →
            let cell (x : State) (i : Fin 4) : W32 := cellOf (((x.opTile t.ot).acc[i]).dense) m n
            cell u a = cell s a + cell s b)
          ∧ ∀ d, d ≠ a → (u.opTile t.ot).acc[d] = (s.opTile t.ot).acc[d]))
    ∧ ((∃ j, j ≠ k ∧ (s.tile t.tile).turn = some j) → usesArray c.instr = true →
      exec (.matrixCommandComplete k) s = .next s)

/-- R163, R240, R250: an integer product. Each cell takes its old value, or 0 without add, and the sum over K of the
products of its row of A and column of B, modulo 2^32. -/
def Sys2Proof.Says.IntegerMatrixProduct : Prop :=
  ∀ (s s' : State) (t : Thread) (c : MCmd) (x : MMul) (r : Regs) (as bs : List (List Nat)),
    c.instr = .mMma x → c.done = 0 → x.sat = false → mmaCell x.tyA x.tyB = some false →
    (readOperands (t.agent c.ord) c.regs x.a x.b x.tyA x.tyB 0 x.modi.toNat).run s = (.ok (r, as, bs), s') →
    (∀ m, m < 128 → (as.getD m []).length = x.modi.toNat) → (∀ n, n < 192 → (bs.getD n []).length = x.modi.toNat) →
    1 ≤ x.modi.toNat → s'.opTile t.ot = s.opTile t.ot →
    ∃ c' u, (runCommand t c).run s = (.ok c', u) ∧ u.mem = s'.mem
      ∧ ∀ m n, m < 128 → n < 192 →
        let cell (y : State) : W32 := cellOf (((y.opTile t.ot).acc[x.acc]).dense) m n
        (cell u).toNat = wrapN 32 ((if x.add then (cell s).toInt else 0)
          + ((List.range x.modi.toNat).map fun j =>
              elemInt x.tyA ((as.getD m []).getD j 0) * elemInt x.tyB ((bs.getD n []).getD j 0)).sum)

/-- R159, R160, R240, R250: a floating-point product of finite elements. K falls into groups of 64 with DS8 or E2M1, else
of 32; the exact sum of each group is rounded once into FP32 and added to the cell, which is rounded again. -/
def Sys2Proof.Says.FloatMatrixProduct : Prop :=
  ∀ (s s' : State) (t : Thread) (c : MCmd) (x : MMul) (r : Regs) (as bs : List (List Nat)),
    c.instr = .mMma x → c.done = 0 → mmaCell x.tyA x.tyB = some true →
    let k := x.modi.toNat
    (readOperands (t.agent c.ord) c.regs x.a x.b x.tyA x.tyB 0 k).run s = (.ok (r, as, bs), s') →
    (∀ m, m < 128 → (as.getD m []).length = k) → (∀ n, n < 192 → (bs.getD n []).length = k) →
    1 ≤ k → s'.opTile t.ot = s.opTile t.ot →
    let len := if x.tyB = .ds8 ∨ x.tyA = .e2m1 then 64 else 32
    ∃ c' u, (runCommand t c).run s = (.ok c', u) ∧ u.mem = s'.mem
      ∧ ∀ m n, m < 128 → n < 192 →
        let cell (y : State) : W32 := cellOf (((y.opTile t.ot).acc[x.acc]).dense) m n
        ∀ p q : Nat → Finite,
          (∀ j < k, IsFin (decodeElem x.tyA ((as.getD m []).getD j 0)) (p j)) →
          (∀ j < k, IsFin (decodeElem x.tyB ((bs.getD n []).getD j 0)) (q j)) →
          ∃ v : Nat → W32, v 0 = cell s ∧ v ((k + len - 1) / len) = cell u
            ∧ ∀ i < (k + len - 1) / len, ∃ g : Nat × FlagSet,
              let js := (List.range (min len (k - i * len))).map fun j => i * len + j
              Rounded ff32 .rne false (((js.map fun j => val (p j) * val (q j)).sum : ℚ) : ℝ)
                (js.all fun j => (p j).1 != (q j).1 && ((p j).2.1 = 0 || (q j).2.1 = 0)) g
              ∧ (x.add = false → i = 0 → (v 1).toNat = g.1)
              ∧ (x.add = true ∨ i ≠ 0 → ∀ a b : Finite, IsFin (ff32.decode (v i).toNat) a → IsFin (ff32.decode g.1) b →
                ∃ fl, Rounded ff32 .rne false ((val a + val b : ℚ) : ℝ) (a.1 && b.1) ((v (i + 1)).toNat, fl))

namespace Sys2Proof.Says

/-- Cell (m, n) of the accumulator `a` of a sequencer's tile (R239). -/
def cellAt (s : State) (t : Thread) (a : Fin 4) (m n : Nat) : W32 := cellOf (((s.opTile t.ot).acc[a]).dense) m n
/-- Point p (R258): its real cell, or its imaginary one. -/
def pointCell (s : State) (t : Thread) (a : Fin 4) (p i : Nat) : W32 := cellAt s t a (p / 96) (2 * (p % 96) + i)

/-- The command `c` runs in `s` and leaves in every cell of the accumulator `a` a result that `ok` allows, under the tag `g`;
the flags are those of all the cells. The other accumulators, the memory and the sequencers are as in `s1`. -/
def LeavesCells (s s1 : State) (t : Thread) (c : MCmd) (a : Fin 4) (g : Tag) (ok : Nat → Nat → Nat × FlagSet → Prop) : Prop :=
  ∃ (c' : MCmd) (u : State) (r : Nat → Nat → Nat × FlagSet), (runCommand t c).run s = (.ok c', u) ∧ c'.started = c.started
    ∧ u.mem = s1.mem ∧ u.threads = s1.threads ∧ ((u.opTile t.ot).acc[a]).tag = g
    ∧ (∀ b, b ≠ a → (u.opTile t.ot).acc[b] = (s1.opTile t.ot).acc[b])
    ∧ (∀ m < 128, ∀ n < 192, ok m n (r m n) ∧ cellAt u t a m n = BitVec.ofNat 32 (r m n).1)
    ∧ ∀ j, c'.flags.getLsbD j = true ↔ ∃ m < 128, ∃ n < 192, (r m n).2.getLsbD j = true

/-- The tag of a result (R266): the key of the command's word, with three words folded in. -/
def cellTag (i : Instr) (x y z : Tag) : Tag := mix (mix (mix (matrixKey i).1 x) y) z

/-- The product of two finite elements, its sign flipped where `n`. -/
def times (n : Bool) (x y : Finite) : Finite := ((x.1 != y.1) != n, x.2.1 * y.2.1, x.2.2 + y.2.2)
def IsZero (x : FV) : Prop := ∃ v, IsFin x v ∧ v.2.1 = 0
/-- A product that is infinite, of the sign `p`. -/
def InfTerm (p : Bool) (x : FV × FV × Bool) : Prop :=
  ∃ y z : Bool, p = ((y != z) != x.2.2)
    ∧ ((x.1 = .inf y ∧ (x.2.1 = .inf z ∨ ∃ v, IsFin x.2.1 v ∧ v.2.1 ≠ 0 ∧ v.1 = z))
      ∨ (x.2.1 = .inf z ∧ ∃ v, IsFin x.1 v ∧ v.2.1 ≠ 0 ∧ v.1 = y))

/-- The exact sum of products, each with its sign flipped or not, times 2^−e and rounded once into FP32 (R151, R160). -/
def ProductSum (e : Nat) (xs : List (FV × FV × Bool)) (r : Nat × FlagSet) : Prop :=
  let nan : Prop := ∃ x ∈ xs, x.1 = .nan ∨ x.2.1 = .nan
  let invalid : Prop := ∃ x ∈ xs, (∃ p, x.1 = .inf p ∧ IsZero x.2.1) ∨ (IsZero x.1 ∧ ∃ p, x.2.1 = .inf p)
  let infinite (p : Bool) : Prop := ∃ x ∈ xs, InfTerm p x
  (∀ ys : List (Finite × Finite), List.Forall₂ (fun x y => IsFin x.1 y.1 ∧ IsFin x.2.1 y.2) xs ys →
    let ts := List.zipWith (fun x y => times x.2.2 y.1 y.2) xs ys
    Rounded ff32 .rne false (((ts.map val).sum / 2 ^ e : ℚ) : ℝ) (ts.all negZero) r)
  ∧ (nan → r = (ff32.nan.getD 0, 0))
  ∧ (¬ nan → invalid ∨ (infinite false ∧ infinite true) → r = (ff32.nan.getD 0, 16))
  ∧ ∀ p, ¬ nan → ¬ invalid → infinite p → ¬ infinite (!p) → ff32.decode r.1 = .inf p ∧ r.2 = 0

/-- A point turned by (c, s): (x·c − y·s, x·s + y·c) (R261, R264). -/
def TurnsPoint (x y c s : FV) (re im : Nat × FlagSet) : Prop :=
  ProductSum 0 [(x, c, false), (y, s, true)] re ∧ ProductSum 0 [(x, s, false), (y, c, false)] im

/-- The stage radices of a transform (R259), its length, and the twiddle of the turn k / n (R260), its sine with the sign of
the direction. -/
def stageRadices (a b c : Nat) : List Nat :=
  List.replicate c 5 ++ List.replicate b 3 ++ List.replicate (a / 2) 4 ++ List.replicate (a % 2) 2
def lengthOf (a b c : Nat) : Nat := 2 ^ a * 3 ^ b * 5 ^ c
def signedSine (inv : Bool) (s : Nat) : Nat := if inv then s else s ^^^ 2 ^ 31
def turnAt (k n : Nat) : Nat := (k * 2 ^ 32 + n / 2) / n % 2 ^ 32

end Sys2Proof.Says

/-- R255, R257, R266: `m.fill` copies the elements of a record into the cells of its rectangle and 0 into the others, or the
words of 96 pops of a port in order; `m.add` in FP32 adds cell by cell; `m.scale` multiplies every cell by one element. -/
def Sys2Proof.Says.CellwiseCommands : Prop :=
  ∀ (s : State) (t : Thread) (c : MCmd), c.flags = 0 →
    (∀ a h ty (e : Nat → Nat → Nat), c.instr = .mFill a (.handle h) ty →
      let inside (m n : Nat) : Prop := m < hExt1 c.regs.h[h] ∧ n < hExt0 c.regs.h[h]
      (∀ m < 128, ∀ n < 192, inside m n →
        (elemRead (t.agent c.ord) c.regs.h[h] (n : Nat) (m : Nat) 0).run s = (.ok (e m n), s)) →
      LeavesCells s s t c a (cellTag c.instr c.regs.hTag[h] 0 0) fun m n r =>
        (inside m n → r = (e m n % 2 ^ 32, 0)) ∧ (¬ inside m n → r = (0, 0)))
    ∧ (∀ a p ty (r' : Regs) (v : Nat) (s1 : State), c.instr = .mFill a (.port p) ty →
      (popPort (t.agent c.ord) 96 c.regs p).run s = (.ok (r', v), s1) → s1.opTile t.ot = s.opTile t.ot →
      LeavesCells s s1 t c a (cellTag c.instr c.regs.w[p.val].lineage 0 0) fun m n r => r = (laneOf 32 v (192 * m + n), 0))
    ∧ (∀ a b sat, c.instr = .mAdd a b .f32 sat →
      LeavesCells s s t c a (cellTag c.instr ((s.opTile t.ot).acc[a]).tag ((s.opTile t.ot).acc[b]).tag 0) fun m n r =>
        r = laneAdd .f32 false .rne (cellAt s t a m n).toNat (cellAt s t b m n).toNat)
    ∧ (∀ a x ty (v : FV) (s1 : State), c.instr = .mScale a x ty → (readScale (t.agent c.ord) c.regs ty x).run s = (.ok v, s1) →
      s1.opTile t.ot = s.opTile t.ot →
      let lin : Tag := match x with
        | .handle h => c.regs.hTag[h]
        | .port p => c.regs.w[p.val].lineage
      LeavesCells s s1 t c a (cellTag c.instr ((s.opTile t.ot).acc[a]).tag lin 0) fun m n r =>
        ProductSum 0 [(ff32.decode (cellAt s t a m n).toNat, v, false)] r)

/-- R258 to R264, R266: the commands of butterfly mode. A stage of `m.bfly` turns the points of each butterfly by their
twiddles, rounds them, and leaves the sums of its small transform, scaled and rounded; points past the last whole transform
stand. `m.brev` puts each point in the place of its reversed digits, or bits; `m.twid` leaves the twiddle of the index in
each point's real cell; `m.tmul` multiplies point by point. -/
def Sys2Proof.Says.ButterflyCommands : Prop :=
  ∀ (s : State) (t : Thread) (c : MCmd), c.flags = 0 →
    let dec (x : W32) : FV := ff32.decode x.toNat
    let im : W32 := (matrixKey c.instr).2
    (∀ (a : Fin 4) (na : BitVec 4) (nb : BitVec 3) (nc : BitVec 2) (st : BitVec 4) (e : BitVec 2) (inv : Bool),
      c.instr = .mBfly a na nb nc st e inv →
      let rs := stageRadices na.toNat nb.toNat nc.toNat
      let len := lengthOf na.toNat nb.toNat nc.toNat
      let r := rs.getD st.toNat 2
      let k := (rs.take st.toNat).prod
      let w (j n : Nat) : FV × FV :=
        let f := twiddle (turnAt j n)
        (ff32.decode f.1, ff32.decode (signedSine inv f.2))
      st.toNat < rs.length →
      LeavesCells s s t c a (cellTag c.instr ((s.opTile t.ot).acc[a]).tag im 0) fun m n z =>
        let p := 96 * m + n / 2
        (12288 / len * len ≤ p → z = ((cellAt s t a m n).toNat, 0))
        ∧ (p < 12288 / len * len →
          let i := p % len
          let u := i % (k * r) / k
          let j := i % k
          let base := p / len * len + i / (k * r) * (k * r) + j
          ∃ (ys : Nat → (Nat × FlagSet) × (Nat × FlagSet)) (own : Nat × FlagSet),
            (∀ q < r, TurnsPoint (dec (pointCell s t a (base + q * k) 0)) (dec (pointCell s t a (base + q * k) 1))
              (w (q * j * (len / (k * r))) len).1 (w (q * j * (len / (k * r))) len).2 (ys q).1 (ys q).2)
            ∧ ProductSum e.toNat ((List.range r).flatMap fun q =>
                let x := ff32.decode (ys q).1.1
                let y := ff32.decode (ys q).2.1
                let v := w (q * u % r) r
                if n % 2 = 0 then [(x, v.1, false), (y, v.2, true)] else [(x, v.2, false), (y, v.1, false)]) own
            ∧ z = (own.1, (List.range r).foldl (fun f q => f ||| ((ys q).1.2 ||| (ys q).2.2)) own.2)))
    ∧ (∀ (a b : Fin 4) (na : BitVec 4) (nb : BitVec 3) (nc : BitVec 2) (bm : Bool), c.instr = .mBrev a b na nb nc bm →
      let rs := stageRadices na.toNat nb.toNat nc.toNat
      let len := lengthOf na.toNat nb.toNat nc.toNat
      LeavesCells s s t c a (cellTag c.instr ((s.opTile t.ot).acc[b]).tag im 0) fun m n z =>
        let p := 96 * m + n / 2
        let from_ (q : Nat) : Prop := z = ((pointCell s t b (p / len * len + q) (n % 2)).toNat, 0)
        (12288 / len * len ≤ p → z = ((cellAt s t b m n).toNat, 0))
        ∧ (p < 12288 / len * len →
          (bm = false → ∀ ds : List Nat, ds.length = rs.length → (∀ i < rs.length, ds.getD i 0 < rs.getD i 0) →
            let weight (i : Nat) : Nat := (rs.take i).prod
            p % len = ((List.range rs.length).map fun i => ds.getD i 0 * weight i).sum →
            from_ ((List.range rs.length).map fun i => ds.getD i 0 * (len / (weight i * rs.getD i 0))).sum)
          ∧ (bm = true → nb = 0 → nc = 0 → ∀ q < 2 ^ na.toNat,
            (∀ i < na.toNat, q.testBit i = (p % len).testBit (na.toNat - 1 - i)) → from_ q)))
    ∧ (∀ (a b : Fin 4) (na : BitVec 5) (nb : BitVec 4) (nc : BitVec 3) (inv bf16 : Bool),
      c.instr = .mTwid a b na nb nc inv bf16 → ∀ f16, ffOf .bf16 = some f16 →
      let len := lengthOf na.toNat nb.toNat nc.toNat
      LeavesCells s s t c a (cellTag c.instr ((s.opTile t.ot).acc[b]).tag im 0) fun m n z =>
        let turn := turnAt ((cellAt s t b m (n / 2 * 2)).toInt % (len : Int)).toNat len
        let f := if bf16 then ((twiddleIn f16 turn).1 * 2 ^ 16, (twiddleIn f16 turn).2 * 2 ^ 16) else twiddle turn
        z.2 = 0 ∧ BitVec.ofNat 32 z.1 = BitVec.ofNat 32 (if n % 2 = 0 then f.1 else signedSine inv f.2))
    ∧ (∀ (a b : Fin 4) (conj : Bool), c.instr = .mTmul a b conj →
      LeavesCells s s t c a (cellTag c.instr ((s.opTile t.ot).acc[a]).tag ((s.opTile t.ot).acc[b]).tag 0) fun m n z =>
        let p := 96 * m + n / 2
        let x (i : Nat) : FV := dec (pointCell s t a p i)
        let y := (pointCell s t b p 1).toNat
        ∃ re im, TurnsPoint (x 0) (x 1) (dec (pointCell s t b p 0)) (ff32.decode (signedSine (!conj) y)) re im
          ∧ z = if n % 2 = 0 then re else im)

/-- R14, R260, R264: the twiddles that the table of R264 gives for N = 12, and the constants of radix 3. -/
def Sys2Proof.Says.TwiddleTable : Prop :=
  twiddle (turnAt 0 12) = (0x3F800000, 0) ∧ twiddle (turnAt 1 12) = (0x3F5DB3D7, 0x3F000000)
    ∧ twiddle (turnAt 2 12) = (0x3F000000, 0x3F5DB3D7) ∧ twiddle (turnAt 3 12) = (0, 0x3F800000)
    ∧ twiddle (turnAt 4 12) = (0xBF000000, 0x3F5DB3D7) ∧ twiddle (turnAt 6 12) = (0xBF800000, 0)
    ∧ turnAt 1 3 = 0x55555555 ∧ turnAt 2 3 = 0xAAAAAAAB ∧ twiddle (turnAt 2 3) = (0xBF000000, 0xBF5DB3D7)

/-- R159 to R161, R251: a block-scaled product of finite elements and finite scales. In each group the exact sum of each
block is multiplied by the block's two scales; the exact sum of the blocks is rounded once into FP32 and added to the cell,
which is rounded again. -/
def Sys2Proof.Says.ScaledMatrixProduct : Prop :=
  ∀ (s s1 s2 : State) (t : Thread) (c : MCmd) (acc : Fin 4) (a b : Fin 32) (tyA tyB scale : Ty) (bsz : Fin 4) (add : Bool)
      (kk : BitVec 16) (r : Regs) (as bs : List (List Nat)) (sa sb : List (List FV)),
    c.instr = .mMmas acc a b tyA tyB scale bsz add kk → c.done = 0 → mmaCell tyA tyB = some true →
    let k := kk.toNat
    let size := 4 * 2 ^ bsz.val
    let len := if tyA = .e2m1 then 64 else 32
    (readOperands (t.agent c.ord) c.regs (.handle a) (.handle b) tyA tyB 0 k).run s = (.ok (r, as, bs), s1) →
    (readScales (t.agent c.ord) c.regs a b scale size k).run s1 = (.ok (sa, sb), s2) →
    (∀ m, m < 128 → (as.getD m []).length = k) → (∀ n, n < 192 → (bs.getD n []).length = k) →
    1 ≤ k → 1 ≤ bsz.val → tyB ≠ .ds8 → s2.opTile t.ot = s.opTile t.ot →
    ∃ c' u, (runCommand t c).run s = (.ok c', u) ∧ u.mem = s2.mem
      ∧ ∀ m n, m < 128 → n < 192 → ∀ p q x y : Nat → Finite,
        (∀ j < k, IsFin (decodeElem tyA ((as.getD m []).getD j 0)) (p j)) →
        (∀ j < k, IsFin (decodeElem tyB ((bs.getD n []).getD j 0)) (q j)) →
        (∀ j < (k + size - 1) / size, IsFin ((sa.getD m []).getD j .nan) (x j) ∧ IsFin ((sb.getD n []).getD j .nan) (y j)) →
        ∃ v : Nat → W32, v 0 = cellAt s t acc m n ∧ v ((k + len - 1) / len) = cellAt u t acc m n
          ∧ ∀ i < (k + len - 1) / len, ∃ (g : Nat × FlagSet) (z : Nat → Finite),
            let n0 := min len (k - i * len)
            let blocks := List.range ((n0 + size - 1) / size)
            (∀ l ∈ blocks, let f := i * (len / size) + l
              let ts := (List.range (min size (n0 - l * size))).map fun j =>
                times false (p (f * size + j)) (q (f * size + j))
              let sum := (ts.map val).sum
              val (z l) = sum * val (x f) * val (y f)
                ∧ (z l).1 = ((if sum = 0 then ts.all negZero else decide (sum < 0)) != ((x f).1 != (y f).1)))
            ∧ Rounded ff32 .rne false (((blocks.map fun l => val (z l)).sum : ℚ) : ℝ) (blocks.all fun l => negZero (z l)) g
            ∧ (add = false → i = 0 → (v 1).toNat = g.1)
            ∧ (add = true ∨ i ≠ 0 → ∀ e d : Finite, IsFin (ff32.decode (v i).toNat) e → IsFin (ff32.decode g.1) d →
              ∃ fl, Rounded ff32 .rne false ((val e + val d : ℚ) : ℝ) (e.1 && d.1) ((v (i + 1)).toNat, fl))

/-- R252 to R254: a cell program. Step k mod L of the program takes the term of A(m, k) and B(k, n) into the cell; without
add the first step that is no skip sets it, and a cell that none sets becomes 0. INT32 cells wrap or clamp; FP32 cells, of
finite values, are rounded at each step. -/
def Sys2Proof.Says.CellPrograms : Prop :=
  ∀ (s s1 : State) (t : Thread) (c : MCmd) (x : MMul) (r : Regs) (as bs : List (List Nat)) (len : Nat),
    c.instr = .mCellp x → c.done = 0 → progOk c.prog = true →
    let k := x.modi.toNat % 2 ^ 14
    let step (i : Nat) : Nat := c.prog.toNat / 16 ^ i % 16
    1 ≤ len → len ≤ 16 → (∀ i < len, step i ≠ 15) → (len = 16 ∨ step len = 15) → 1 ≤ k →
    (readOperands (t.agent c.ord) c.regs x.a x.b x.tyA x.tyB 0 k).run s = (.ok (r, as, bs), s1) →
    (∀ m, m < 128 → (as.getD m []).length = k) → (∀ n, n < 192 → (bs.getD n []).length = k) →
    s1.opTile t.ot = s.opTile t.ot →
    ∃ c' u, (runCommand t c).run s = (.ok c', u) ∧ u.mem = s1.mem
      ∧ ∀ m n, m < 128 → n < 192 →
        -- what is in the cell before element j of K, and whether it is still empty
        ∀ v : Nat → Bool × W32, v 0 = (!x.add, cellAt s t x.acc m n) →
        let ends : Prop := cellAt u t x.acc m n = if (v k).1 then 0 else (v k).2
        (mmaCell x.tyA x.tyB = some false →
          (∀ j < k,
            let code := step (j % len)
            let a := elemInt x.tyA ((as.getD m []).getD j 0)
            let b := elemInt x.tyB ((bs.getD n []).getD j 0)
            let term : Int := if code = 2 then |a - b| else a * b
            let fit (y : Int) : W32 :=
              BitVec.ofInt 32 (if x.sat then max (-2 ^ 31) (min (2 ^ 31 - 1) y) else y)
            let cell := (v j).2.toInt
            v (j + 1) = if code = 5 then v j else (false,
              if (v j).1 then fit (if code = 1 then -term else term)
              else if code = 1 then fit (cell - term)
              else if code = 3 then (if cell < term then fit term else (v j).2)
              else if code = 4 then (if term < cell then fit term else (v j).2)
              else fit (cell + term))) → ends)
        ∧ (mmaCell x.tyA x.tyB = some true →
          (∀ j < k,
            let code := step (j % len)
            if code = 5 then v (j + 1) = v j
            else (v (j + 1)).1 = false ∧ ∃ (a b : Finite) (term : Finite) (fl : FlagSet),
              IsFin (decodeElem x.tyA ((as.getD m []).getD j 0)) a ∧ IsFin (decodeElem x.tyB ((bs.getD n []).getD j 0)) b
              ∧ (if code = 2 then val term = |val a - val b| ∧ term.1 = false else term = times (code = 1) a b)
              ∧ let next : Nat × FlagSet := ((v (j + 1)).2.toNat, fl)
                if (v j).1 then Rounded ff32 .rne false ((val term : ℚ) : ℝ) term.1 next
                else ∃ z : Finite, IsFin (ff32.decode (v j).2.toNat) z ∧
                  let less (p q : Finite) : Prop := val p < val q ∨ (val p = 0 ∧ val q = 0 ∧ p.1 = true ∧ q.1 = false)
                  if code = 3 ∨ code = 4 then
                    let wins : Prop := if code = 3 then less z term else less term z
                    (wins → Rounded ff32 .rne false ((val term : ℚ) : ℝ) term.1 next) ∧ (¬ wins → v (j + 1) = v j)
                  else Rounded ff32 .rne false ((val z + val term : ℚ) : ℝ) (z.1 && term.1) next) → ends)

/-- R256, R436: a drain. Each cell of the rectangle of its record is converted and written at its element: into a region in
one publish, which gives the region the accumulator's tag; into global memory as performed stores, of which a step makes those
of the words that the model's own field `drainPicks` names, or all of them where it names none (log entry 74). -/
def Sys2Proof.Says.DrainedCells : Prop :=
  ∀ (s : State) (t : Thread) (c : MCmd) (a : Fin 4) (h : Fin 32) (d z : Ty) (sat : Bool) (rnd : Rnd)
      (ws : Nat → Nat → List ByteWrite),
    c.instr = .mDrain a h d z sat rnd →
    let hh := c.regs.h[h]
    let rows := min (hExt1 hh) 128
    let cols := min (hExt0 hh) 192
    let ot := s.opTile t.ot
    let code (m n : Nat) : Nat × FlagSet := convertElem z d (cellAt s t a m n).toNat (rndMode rnd c.regs.fmt) sat
    (∀ m < rows, ∀ n < cols, elemPut ot hh (n : Nat) (m : Nat) 0 (code m n).1 = .ok (ws m n)) →
    let all := (List.range rows).flatMap fun m => (List.range cols).flatMap fun n => ws m n
    let flagged (c' : MCmd) : Prop := ∀ j, c'.flags.getLsbD j = true ↔ ∃ m < rows, ∃ n < cols, (code m n).2.getLsbD j = true
    (hScr hh = true → (∀ p ∈ s.ops, p.2.away = false) → s.flumes = [] →
      let old := regionOf ot (hRegion hh)
      (∀ w ∈ all, granOf old w.at_ ≠ some .empty) → Memory.wf (frontCells old) = true →
      ∃ c' u, (runCommand t c).run s = (.ok c', u) ∧ flagged c' ∧ c'.started = c.started ∧ u.mem = s.mem ∧ u.threads = s.threads
        ∧ let new := regionOf (u.opTile t.ot) (hRegion hh)
          new.tag = (ot.acc[a]).tag ∧ new.front = !old.front
          ∧ (∀ w ∈ all, granOf new w.at_ = some (if old.mapped then .dirty else .valid))
          ∧ (∀ m < rows, ∀ n < cols, ∀ w ∈ ws m n,
            (∀ m' < rows, ∀ n' < cols, (m', n') ≠ (m, n) → ∀ y ∈ ws m' n', y.at_ = w.at_ → y.mask &&& w.mask = 0) →
            regionByte new w.at_ &&& w.mask = w.val &&& w.mask)
          ∧ (∀ o j, (∀ w ∈ all, w.at_ = o → w.mask.getLsbD j = false) →
            (regionByte new o).getLsbD j = (regionByte old o).getLsbD j)
          ∧ ∀ r', r' ≠ hRegion hh → regionOf (u.opTile t.ot) r' = regionOf ot r')
    ∧ (hScr hh = false → ∀ s1,
      let left := all.filter fun w => !c.gone.contains (w.at_ / 8)
      let now := match s.drainPicks with
        | [] => left
        | p :: _ => left.filter fun w => p.contains (w.at_ / 8)
      (globalWrites (t.agent c.ord) now).run s = (.ok (), s1) →
      ∃ c', (runCommand t c).run s = (.ok c', { s1 with drainPicks := s1.drainPicks.tail }) ∧ flagged c'
        ∧ (c'.started = true ↔ ∃ w ∈ left, w ∉ now)
        ∧ (c'.started = true → ∀ w ∈ all, w.at_ / 8 ∈ c'.gone ↔ w.at_ / 8 ∈ c.gone ∨ w ∈ now))

/-- R256, R436: the stores of a drain. Bytes of one page whose translation the TLB has are there when they have been
performed, each as its last write left it, and no other byte of the page has changed. -/
def Sys2Proof.Says.PerformedWrites : Prop :=
  ∀ (s s1 : State) (g : Agent) (ws : List ByteWrite) (e : TlbEntry) (page : Nat),
    (globalWrites g ws).run s = (.ok (), s1) → s.pondOf (g.ot / 512) = none → Memory.wf s.mem = true →
    (∀ x ∈ s.tiles, x.2.uol = []) →
    (∀ w ∈ ws, w.at_ / 2 ^ 16 = page ∧ tlbFind (s.tile g.tile).tlb g.pasid w.at_ = some e) →
    e.large = false → e.writable = true → e.dirty = true → e.frame % 2 ^ 16 = 0 →
    ∀ o < 2 ^ 16, byteAt s1 e.cached (e.frame + o)
      = ws.foldl (fun b w => if w.at_ = 2 ^ 16 * page + o then (b &&& ~~~w.mask) ||| (w.val &&& w.mask) else b)
          (byteAt s e.cached (e.frame + o))

/-- R266: a product names its accumulator by its key, its operands and, where it adds, the accumulator's old tag. -/
def Sys2Proof.Says.ProductTags : Prop :=
  ∀ (s u : State) (t : Thread) (c c' : MCmd), (runCommand t c).run s = (.ok c', u) →
    let tag (y : State) (a : Fin 4) : Tag := ((y.opTile t.ot).acc[a]).tag
    let lin (x : MSrc) : Tag := match x with
      | .handle h => c.regs.hTag[h]
      | .port p => c.regs.w[p.val].lineage
    let pair (h : Fin 32) : Tag := mix c.regs.hTag[h] c.regs.hTag[(h.val + 1) % 32]
    (∀ x, c.instr = .mMma x ∨ c.instr = .mCellp x →
      tag u x.acc = cellTag c.instr (lin x.a) (lin x.b) (if x.add then tag s x.acc else 0))
    ∧ ∀ acc a b tyA tyB sc bsz add k, c.instr = .mMmas acc a b tyA tyB sc bsz add k →
      tag u acc = cellTag c.instr (pair a) (pair b) (if add then tag s acc else 0)

/-- R243, R244, R246, R248: a command that runs is completed by its sequencer's step at the array: it leaves the queue, and
what it has left in the tile and in memory stands, and the 16th of a turn ends it; a drain that has more words to write
stays, begun. -/
def Sys2Proof.Says.CompletionRunsTheCommand : Prop :=
  ∀ (s u : State) (k : Nat) (t : Thread) (c c' : MCmd) (q : List MCmd), mfind s.threads k = some t → t.mq = c :: q →
    commandReady s t c = true → t.waiting = [] → .accum k ∉ s.hwErrors → usesArray c.instr = true →
    (s.tile t.tile).turn = some k → (turnOver s t.tile = false ∨ stopsInside c = false) → (∀ m, c.instr ≠ .mFree m) →
    (runCommand t c).run s = (.ok c', u) → mfind u.threads k = some t → t.key = k →
    ∃ w t', exec (.matrixCommandComplete k) s = .next w ∧ mfind w.threads k = some t' ∧ w.mem = u.mem ∧ w.l2 = u.l2
      ∧ w.opTiles = u.opTiles ∧ t'.acc = t.acc
      ∧ (c'.started = false → t'.mq = q ∧ t'.lateFlags = t.lateFlags ||| c'.flags
        ∧ (15 ≤ (u.tile t.tile).turnCount → (w.tile t.tile).turn = none ∧ (w.tile t.tile).lastServed = t.pseq))
      ∧ (c'.started = true → t'.mq = c' :: q ∧ t'.lateFlags = t.lateFlags)

/-- R159, R160, R161, R163, R240, R250 to R257, R260 to R264, R266: commands of the array complete, and what each of them
leaves in its accumulator, in a region or in memory. -/
def Obligations.MatrixCommandResults : Prop :=
  Says.MatrixCommandsComplete ∧ Says.CompletionRunsTheCommand ∧ Says.IntegerMatrixProduct ∧ Says.FloatMatrixProduct
    ∧ Says.ScaledMatrixProduct ∧ Says.CellPrograms ∧ Says.ProductTags ∧ Says.CellwiseCommands ∧ Says.ButterflyCommands
    ∧ Says.TwiddleTable ∧ Says.DrainedCells ∧ Says.PerformedWrites

/-- R243 to R245, R248: leases and turns. A request that nothing ordered before it conflicts with is granted whole; a
sequencer that sits on what another waits for past the timeout takes the lease trap. The turn goes to the waiting sequencer
of the highest priority, in round-robin order among equals. A turn past its 8,192 clocks ends: an interruptible command stops
at its next point, which MPROG records, and stays the oldest of its queue; one that cannot be interrupted and has begun ends
first.
That a time-out of an operator that is already ending only releases the accumulators is the model's choice, log entry 55. -/
def Obligations.LeasesAndTurns : Prop :=
  ∀ (s : State) (tile k : Nat) (t : Thread) (m : BitVec 4), mfind s.threads k = some t →
    ((s.tile tile).leaseQ = [⟨k, m⟩] → (∀ e ∈ s.threads, e.1 = k ∨ e.2.tile ≠ tile ∨ e.2.acc &&& m = 0 ∨ newcomer s t.op e.2 = true) →
      ∃ u, exec (.leaseGrant tile k) s = .next u ∧ mfind u.threads k = some { t with acc := t.acc ||| m }
        ∧ (u.tile tile).leaseQ = [] ∧ u.mem = s.mem)
    ∧ ((s.tile tile).leaseQ = [] → exec (.leaseGrant tile k) s = .next s)
    ∧ (leaseIdle s k t = true → Config.leaseTimeout ≤ tileClocks s t.tile (s.time.toNat - t.leaseSince) →
      ∀ o, mfind s.ops t.op = some o →
      (o.isEnding = false → exec (.leaseTimeout k) s = .next (raiseTrap s k t .lease 0))
      ∧ (o.isEnding = true → ∃ u, exec (.leaseTimeout k) s = .next u ∧ u.mem = s.mem ∧ u.ops = s.ops
          ∧ mfind u.threads k = some { t with acc := 0 }))
    ∧ (leaseIdle s k t = false → exec (.leaseTimeout k) s = .next s)
    ∧ ((s.tile tile).turn = some k → t.tile = tile → t.mq = [] → 8192 ≤ tileClocks s tile (s.time.toNat - (s.tile tile).turnSince) →
      exec (.arrayTurnEnd tile) s = .next (s.setTile tile { s.tile tile with
        turn := none, turnCount := 0, lastServed := t.pseq }))
    ∧ ((s.tile tile).turn = none ∨ tileClocks s tile (s.time.toNat - (s.tile tile).turnSince) < 8192 →
      exec (.arrayTurnEnd tile) s = .next s)
    ∧ (∀ c rest, t.mq = c :: rest → t.tile = tile →
      ((s.tile tile).turn = some k → 8192 ≤ tileClocks s tile (s.time.toNat - (s.tile tile).turnSince) →
        (c.started = true → exec (.arrayTurnEnd tile) s = .next s)
        ∧ (c.started = false → stopsInside c = false ∨ commandReady s t c = false →
          exec (.arrayTurnEnd tile) s = .next (s.setTile tile { s.tile tile with
            turn := none, turnCount := 0, lastServed := t.pseq }))
        ∧ ∀ c' s1, c.started = false → stopsInside c = true → commandReady s t c = true →
          (advance t c 1).run s = (.ok c', s1) → t.key = k →
          ∃ u t', exec (.arrayTurnEnd tile) s = .next u ∧ mfind u.threads k = some t' ∧ t'.mq = c' :: rest
            ∧ c'.done = c.done + 1 ∧ t'.mprog.toNat = 2 ^ 31 + (c.done + 1) % 4096 ∧ t'.acc = t.acc
            ∧ u.mem = s1.mem ∧ u.opTiles = s1.opTiles ∧ (u.tile tile).turn = none ∧ (u.tile tile).lastServed = t.pseq)
      ∧ ((s.tile tile).turn = none → usesArray c.instr = true → commandReady s t c = true → t.acc ≠ 0 →
        let last := (s.tile tile).lastServed
        let before (p q : Thread) : Prop := opPrio s q.op < opPrio s p.op
          ∨ (opPrio s p.op = opPrio s q.op ∧ (p.pseq.val + 3 - last.val) % 4 ≤ (q.pseq.val + 3 - last.val) % 4)
        ∃ e ∈ s.threads, e.2.tile = tile ∧ arrayWants s e.2 = true
          ∧ (∀ f ∈ s.threads, f.2.tile = tile → arrayWants s f.2 = true → before e.2 f.2)
          ∧ (e.1 ≠ k → exec (.matrixCommandComplete k) s = .next (s.setTile tile { s.tile tile with
              turn := some e.1, turnCount := 0, turnSince := s.time.toNat }))))

/-! ## Fills, ports and allotments (files 03 and 16) -/

/-- R69, R100, R106, R437: the completion of a fill that a sequencer waits for. Once its line requests have left the port, its
granule is valid and holds the bytes of its 4 KiB of memory, and every other byte of the region is as it was; a page
that is missing ends the access with "translation fatal", and so does a malformed entry, which WKERR then names. Where a
fill's line requests stand among the others of the port is the model's choice, log entries 18 and 30. -/
def Sys2Proof.Says.GranuleFills : Prop :=
  ∀ (s : State) (k g : Nat) (r : Fin 64) (t : Thread),
    let i : Instr := .granuleFill t.ot r g
    let old := viewRegion s t r.val
    let pasid := t.launch.pasid.toNat
    let va := old.gva.toNat + 4096 * g
    let reqs := granuleReqs s t.ot pasid r.val g va false
    let gone : Prop := ∀ q ∈ reqs, (s.tile t.tile).served q = true
    (fillWaiter s t.ot r g = none → exec i s = .next s)
    ∧ (fillWaiter s t.ot r g = some (k, t) → mfind s.threads k = some t →
      (granOf old (4096 * g) ≠ some .empty → exec i s = .next s)
      ∧ (granOf old (4096 * g) = some .empty →
        (¬ gone → ∃ u, exec i s = .next u ∧ u.mem = s.mem ∧ u.opTiles = s.opTiles ∧ u.threads = s.threads)
        ∧ (s.pondOf t.op = none → t.ltile < 512 → va % 4096 = 0 → (∀ e ∈ s.tiles, e.2.uol = []) →
          (∀ e : TlbEntry, gone → e.large = false → e.readable = true → e.frame % 2 ^ 16 = 0 →
            (∀ j < 64, tlbFind (s.tile t.tile).tlb pasid (va + 64 * j) = some e) → Memory.wf (frontCells old) = true →
            let pa := e.frame + va % 2 ^ 16
            ∃ u t', exec i s = .next u ∧ u.mem = s.mem ∧ mfind u.threads k = some t'
              ∧ (mfind t.blk.kept r.val = none → u.threads = s.threads) ∧ t'.regs = t.regs ∧ t'.v = t.v
              ∧ (let new := viewRegion u t' r.val
                granOf new (4096 * g) = some .valid
                ∧ (∀ j < 4096, regionByte new (4096 * g + j)
                    = if e.cached then homeByte s (pa + j) else readByte s.mem (pa + j))
                ∧ ∀ a, (a < 4096 * g ∨ 4096 * (g + 1) ≤ a) → regionByte new a = regionByte old a))
          ∧ ((∀ j < 64, tlbFind (s.tile t.tile).tlb pasid (va + 64 * j) = none ∧ walk s pasid (va + 64 * j) = .missing) →
            exec i s = .next (raiseTrap (s.dropSent t.tile fun q => q.owner = .granule t.ot r.val g) k t .translation 0))
          ∧ ∀ a, ((∀ j < 64, tlbFind (s.tile t.tile).tlb pasid (va + 64 * j) = none ∧ walk s pasid (va + 64 * j) = .malformed a) →
            exec i s = .next (raiseTrap (noteMalformed (s.dropSent t.tile fun q => q.owner = .granule t.ot r.val g)
              (terraceOf t.tile) a) k t .translation 0)))))

/-- R2, R391 to R393, R437: at most 512 line requests of a tile are outstanding; which ones count is the model's choice,
log entry 73, and the clock of a terrace's flume port and how a line joins another's request are log entries 18 and 30.
A port is refilled every 1,024 clocks of its tile. A group with a share takes 1,024 times its
share of thousandths of a token, at most up to its depth. One line request leaves a port at a clock, the oldest of a
group that holds a token, at the price of one token, and groups take turns; a fetch brings its line into the L1. -/
def Sys2Proof.Says.PortsAndAllotments : Prop :=
  ∀ (s : State) (tile : Nat),
    let t := s.tile tile
    let clock := if tile < 416 then tileClocks s tile s.time.toNat else s.time.toNat
    let sends (P : State → Prop) := ∃ u, exec (.portSend tile) s = .next u ∧ u.mem = s.mem ∧ P u
    (∀ r, t.served r = false → (∀ q ∈ t.portQ, q.line ≠ r.line) →
      (wantLines s tile [r]).2 = false
      ∧ (outstandingReqs s tile < 512 → ((wantLines s tile [r]).1.tile tile).portQ = t.portQ ++ [r])
      ∧ (512 ≤ outstandingReqs s tile → ((wantLines s tile [r]).1.tile tile).portQ = t.portQ))
    ∧ (clock / 1024 ≤ t.refills → exec (.allotRefill tile) s = .next s)
    ∧ (t.refills < clock / 1024 → t.portQ = [] → mrises s.allot 0 = true →
      ∃ u, exec (.allotRefill tile) s = .next u ∧ u.mem = s.mem ∧ u.threads = s.threads
        ∧ (u.tile tile).refills = t.refills + 1 ∧ (u.tile tile).portQ = []
        ∧ ∀ g < 128, shareOf s g ≠ 0 →
            let c := (t.group g).cred + 1024 * shareOf s g
            (u.tile tile).group g = ⟨min (depthOf s g : Int) ((t.group g).tok + c / 1000), c % 1000⟩)
    ∧ (∀ r, t.portQ = [r] → r.group < 128 →
      ((t.group r.group).tok ≤ 0 ∨ clock < t.sentAt → exec (.portSend tile) s = .next s)
      ∧ (0 < (t.group r.group).tok → t.sentAt ≤ clock → (∀ e ∈ s.tiles, e.2.uol = []) → sends fun u =>
        (u.tile tile).portQ = [] ∧ (u.tile tile).sentAt = clock + 1
          ∧ (u.tile tile).group r.group = { t.group r.group with tok := (t.group r.group).tok - 1 }
          ∧ (∀ h, h ≠ r.group → (u.tile tile).group h = t.group h)
          ∧ (u.tile tile).sent = t.sent ++ [r] ∧ (r.fetch = false → u.l2 = s.l2)
          ∧ (r.fetch = true → r.line ∈ (u.tile tile).l1 ∧ ∀ b, homeByte u b = homeByte s b)))
    ∧ ∀ q r, t.portQ = [q, r] → q.fetch = false → r.fetch = false → q ≠ r → q.group < 128 → r.group < 128 →
      0 < (t.group q.group).tok → 0 < (t.group r.group).tok → t.sentAt ≤ clock →
      (q.group = r.group → sends fun u => (u.tile tile).portQ = [r] ∧ (u.tile tile).sent = t.sent ++ [q])
      ∧ (q.group = t.lastGroup → r.group ≠ q.group → sends fun u =>
          (u.tile tile).portQ = [q] ∧ (u.tile tile).sent = t.sent ++ [r] ∧ (u.tile tile).lastGroup = r.group)

/-- R2, R69, R100, R106, R391 to R393, R437: the fills of regions, and the network ports with their allotments. -/
def Obligations.FillsAndPorts : Prop :=
  Says.GranuleFills ∧ Says.PortsAndAllotments

/-- R389, R390: a port delivers a good flit that is the next in sequence, drops one that came before, and asks again
after a bad one. A transfer is sent in flits of its own sequence number and CRC, kept for replay until the partner takes
them; asked to, the port sends what it keeps again, and being asked after a replay counts that replay as failed. After 16
failed replays it checks its lanes, replaces two of a direction and goes down with the third, and the issuer of each
transfer it held gets an error. The layout of a flit, what an acknowledgement says and the window of 512 flits are the
model's (log entry 17), and so is what reaches a port as an event (log entry 22). -/
def Sys2Proof.Says.FabricPorts : Prop :=
  ∀ (s : State) (n : Fin 18),
    let p := s.ports[n]
    let becomes (i : Instr) (q : Port) := exec i s = .next { s with ports := s.ports.set n q }
    let good (f : List Byte) : Prop := f.length = 256 ∧ crc32 (f.take 252) = leOf (f.drop 252)
    let seq (f : List Byte) : BitVec 12 := BitVec.ofNat 12 (leOf (f.take 2))
    let receives (f : List Byte) (q : Port) := becomes (.flitReceive n (.flit f)) q
    let failed (d : Bool) := p.lanes.filter (·.1 = d)
    (p.down = false →
      (∀ f, (good f → seq f = p.rx → receives f { p with rx := p.rx + 1, nak := false, inbox := (f.drop 8).take 244 :: p.inbox })
        ∧ (good f → 1 ≤ (p.rx - seq f).toNat → (p.rx - seq f).toNat ≤ 512 → receives f p)
        ∧ (good f → 512 < (p.rx - seq f).toNat → receives f { p with nak := true })
        ∧ (¬ good f → receives f { p with nak := true }))
      ∧ (∀ issuer x, p.queue = [] → 1 ≤ x.length → x.length ≤ 244 →
        (p.replay.length < 512 → ∃ f, good f ∧ seq f = p.tx ∧ (f.drop 8).take x.length = x
          ∧ becomes (.flitReceive n (.send issuer x))
              { p with
                transfers := p.transfers + 1, tx := p.tx + 1, wire := f :: p.wire
                replay := p.replay ++ [((issuer, p.transfers), f)] })
        ∧ (512 ≤ p.replay.length → becomes (.flitReceive n (.send issuer x))
            { p with transfers := p.transfers + 1, queue := [((issuer, p.transfers), x)] }))
      ∧ (∀ m < p.replay.length, p.queue = [] → p.replay.length ≤ 512 →
        becomes (.flitReceive n (.ack (p.tx - BitVec.ofNat 12 p.replay.length + BitVec.ofNat 12 m)))
          { p with replay := p.replay.drop (m + 1), fails := 0, replayed := false })
      ∧ (p.replay = [] ∨ 16 ≤ p.fails → exec (.flitReplay n) s = .next s)
      ∧ (p.replay ≠ [] → p.fails < 16 →
        (p.replayed = false → becomes (.flitReplay n)
          { p with wire := (p.replay.map (·.2)).reverse ++ p.wire, replayed := true })
        ∧ (p.replayed = true → becomes (.flitReplay n) { p with
            wire := if p.fails = 15 then p.wire else (p.replay.map (·.2)).reverse ++ p.wire
            fails := p.fails + 1 }))
      ∧ (16 ≤ p.fails → ∀ (d : Bool) (lane : Fin 16), ∃ u, exec (.laneCheck n [(d, lane)]) s = .next u
        ∧ u.svc.logged = s.svc.logged + 1
        ∧ ((failed d).length < 2 → u.ports[n] = { p with lanes := (d, lane.val) :: p.lanes, fails := 0, replayed := false })
        ∧ (2 ≤ (failed d).length → u.ports[n] = { p with
            down := true, fails := 0, replayed := false, replay := [], queue := []
            errors := ((p.replay.map (·.1) ++ p.queue.map (·.1)).eraseDups.map (·.1)) ++ p.errors })))
    ∧ (p.down = true → ∀ issuer x,
        becomes (.flitReceive n (.send issuer x)) { p with errors := issuer :: p.errors })
    ∧ (p.fails < 16 → ∀ bad, exec (.laneCheck n bad) s = .next s)

/-- R386 to R388, R395: the rider cores. One that fails leaves its work to the first spare not yet used; a core has its
own local memory; an access inside a grant of its packet reads or writes device memory; one outside abandons the packet
and stops its queue with err 3; an outward transfer that exceeds its window is dropped. -/
def Sys2Proof.Says.RiderCores : Prop :=
  ∀ (s : State) (c : Fin 18),
    let r := s.riders[c]
    let works : Prop := r.failed = false ∧ (c.val < 16 ∨ r.used = true)
    let becomes (i : Instr) (q : Rider) := exec i s = .next { s with riders := s.riders.set c q }
    (r.failed = true → exec (.riderCoreFailover c) s = .next s)
    ∧ (works → r.packet = none ∨ r.done = true → s.packets = [] → ∀ d : Fin 18, 16 ≤ d.val → d ≠ c →
      (s.riders[d]).failed = false → (s.riders[d]).used = false →
      (∀ e : Fin 18, 16 ≤ e.val → e < d → e ≠ c → (s.riders[e]).failed = true ∨ (s.riders[e]).used = true) →
      ∃ u, exec (.riderCoreFailover c) s = .next u ∧ (u.riders[c]).failed = true ∧ (u.riders[d]).used = true
        ∧ (u.riders[c]).packet = none ∧ (u.riders[c]).grants = [] ∧ u.mem = s.mem ∧ u.queues = s.queues
        ∧ u.svc.logged = s.svc.logged + 1 ∧ ∀ e, e ≠ c → e ≠ d → u.riders[e] = s.riders[e])
    ∧ (works → s.recs = [] → s.ops = [] → s.ponds = [] → ∀ p, r.packet = some p → r.done = false →
      (s.queue p.1).valid = false → ∀ d : Fin 18, spareRider { s with riders := s.riders.set c { r with failed := true } } = some d →
      ∃ u, exec (.riderCoreFailover c) s = .next u ∧ (u.riders[d]).packet = some p ∧ (u.riders[d]).done = false
        ∧ (u.riders[d]).used = true ∧ (u.riders[c]).failed = true)
    ∧ (works → ∀ g off n : Nat,
      (off + n ≤ 2 ^ 19 →
        becomes (.grantFault c g off n .localLoad) { r with seen := (List.range n).map fun j => readByte r.mem (off + j) }
        ∧ ∀ bs : List Byte, bs.length = n → Memory.wf r.mem = true →
          ∃ q : Rider, becomes (.grantFault c g off n (.localStore bs)) q ∧ q.packet = r.packet
            ∧ (∀ j < n, readByte q.mem (off + j) = bs.getD j 0)
            ∧ ∀ a, (a < off ∨ off + n ≤ a) → readByte q.mem a = readByte r.mem a)
      ∧ (∀ x, mfind r.grants g = some x → off + n ≤ x.len → (∀ e ∈ s.tiles, e.2.uol = []) →
        (x.read = true → becomes (.grantFault c g off n .load)
          { r with seen := (List.range n).map fun j => homeByte s (x.base + off + j) })
        ∧ ∀ bs : List Byte, x.write = true → bs.length = n → 1 ≤ n → (x.base + off) % 8 + n ≤ 8 → s.queues = [] →
          ∃ u, exec (.grantFault c g off n (.store bs)) s = .next u ∧ u.riders = s.riders
            ∧ (∀ j < n, homeByte u (x.base + off + j) = bs.getD j 0)
            ∧ ∀ a, (a < x.base + off ∨ x.base + off + n ≤ a) → homeByte u a = homeByte s a)
      ∧ (∀ (w : Bool) (op : RiderOp) (p : Nat × W32), r.packet = some p → s.packets = [] →
        (w = false ∧ op = .load ∨ w = true ∧ ∃ bs, op = .store bs) →
        (∀ x, mfind r.grants g = some x → x.len < off + n ∨ (if w then x.write = false else x.read = false)) →
        ∃ u, exec (.grantFault c g off n op) s = .next u ∧ (u.riders[c]).done = true ∧ (u.riders[c]).fault = true
          ∧ (u.riders[c]).grants = [] ∧ (u.queue p.1).err = 3 ∧ (u.queue p.1).ridx = (s.queue p.1).ridx)
      ∧ ∀ bs : List Byte,
        let windows := bits rlimFields 15 8
        let size := 2 ^ bits rlimFields 7 0
        (windows ≤ g ∨ size < off + bs.length → exec (.grantFault c g off n (.outward bs)) s = .next s)
        ∧ (g < windows → off + bs.length ≤ size →
          becomes (.grantFault c g off n (.outward bs)) { r with sent := (g, off, bs) :: r.sent }))
    ∧ (¬ works → ∀ g off n op, exec (.grantFault c g off n op) s = .next s)

/-- R386, R388 to R390, R395: the fabric ports and the rider cores. -/
def Obligations.FabricAndRiders : Prop :=
  Says.FabricPorts ∧ Says.RiderCores

/-! ## Contexts and their commands (file 15) -/

/-- R373 to R375: the context commands (that each but a kill acts whole in its step, and that one behind a kill waits, are
the model's readings, log entry 14). No kill is under way, and the entry lies in memory that no cache holds. A
create of a free, well-formed entry makes it live; a kill makes every context dead and waits; a destroy of a live or
killed one frees it; each returns its result. -/
def Sys2Proof.Says.ContextCommands : Prop :=
  ∀ (s : State) (ctx : Nat), ctx < 4096 → s.basin.killing = none → isHole (ctxAddr s ctx) = false →
    s.basin.ctxtb.toNat % 2 ^ 18 = 0 → Memory.wf s.mem = true → mfind s.l2 (lineOf (ctxAddr s ctx)) = none →
    let answers (i : Instr) (result : Nat) (P : State → Prop) :=
      ∃ u, exec i s = .next u ∧ u.basin.ctxstat.toNat = result ∧ P u
    let same (u : State) : Prop := u.mem = s.mem ∧ u.l2 = s.l2 ∧ u.ops = s.ops ∧ u.recs = s.recs
    let enters (v : Nat) (u : State) : Prop := ctxState u ctx = v
      ∧ (∀ b, (b < ctxAddr s ctx ∨ ctxAddr s ctx + 64 ≤ b) → readByte u.mem b = readByte s.mem b)
    (ctxState s ctx ≠ 0 → answers (.ctxCreate ctx) 2 same)
    ∧ (ctxState s ctx = 0 → ctxWellFormed s ctx = false → answers (.ctxCreate ctx) 1 same)
    ∧ (ctxState s ctx = 0 → ctxWellFormed s ctx = true → answers (.ctxCreate ctx) 0 (enters 1))
    ∧ (ctxState s ctx = 0 → answers (.ctxKill ctx) 2 same)
    ∧ (ctxState s ctx ≠ 0 → ∃ u, exec (.ctxKill ctx) s = .next u ∧ u.basin.ctxstat = 1#64 <<< 63
        ∧ u.basin.killing = some ctx ∧ (s.recs = [] → s.ops = [] → enters 4 u))
    ∧ (ctxState s ctx ≠ 1 → ctxState s ctx ≠ 4 → answers (.ctxDestroy ctx) 2 same)
    ∧ (ctxState s ctx = 1 → ctxBusy s ctx = true → answers (.ctxDestroy ctx) 2 same)
    ∧ (ctxState s ctx = 4 ∨ ctxState s ctx = 1 ∧ ctxBusy s ctx = false → s.ops = [] → answers (.ctxDestroy ctx) 0 (enters 0))
    ∧ (ctxState s ctx ≠ 1 → answers (.ctxMigrate ctx) 2 same)
    ∧ (ctxState s ctx = 1 → answers (.ctxMigrate ctx) 0 fun u => enters 2 u ∧
        ∀ k o, mfind s.ops k = some o → ∃ o', mfind u.ops k = some o'
          ∧ o'.abandoned = (o.abandoned || migrates s ctx o) ∧ o'.state = o.state)
    ∧ (ctxState s ctx ≠ 2 → exec (.migrationCheckpoint ctx) s = .next s)
    ∧ (ctxState s ctx = 2 → s.ops = [] → s.recs = [] → s.ponds = [] → s.queues = [] →
        ∃ u, exec (.migrationCheckpoint ctx) s = .next u ∧ enters 3 u)

/-- R368, R371, R374, R375: the commands on a held operator, and the completion of a kill. That commands queue while a
kill is under way, and that a marked operator is not resumed, are the model's readings (log entry 14). -/
def Sys2Proof.Says.HeldOperatorsAndKills : Prop :=
  ∀ (s : State),
    (∀ (slot : Nat) (index : W32), slot < 8192 → s.basin.killing = none →
      isHole (ctxAddr s (heldCtx s slot index)) = false →
      (heldOp s none slot index = none → ∀ i, i = .ctxResumeOperator slot index ∨ i = .ctxEndOperator slot index →
        ∃ u, exec i s = .next u ∧ u.basin.ctxstat = 3 ∧ u.ops = s.ops ∧ u.recs = s.recs ∧ u.mem = s.mem)
      ∧ ∀ k o, heldOp s none slot index = some (k, o) → o.ctx < 4096 →
        (∃ u, exec (.ctxResumeOperator slot index) s = .next u ∧ u.basin.ctxstat = 0 ∧ u.threads = s.threads
          ∧ mfind u.ops k = some { o with state := .out, readyAt := s.time.toNat } ∧ u.mem = s.mem)
        ∧ ∃ u, exec (.ctxEndOperator slot index) s = .next u ∧ u.basin.ctxstat = 0 ∧ u.threads = s.threads
          ∧ mfind u.ops k = some { o with state := .ending 3 } ∧ u.mem = s.mem)
    ∧ (s.basin.killing = none → exec .killComplete s = .next s)
    ∧ ∀ ctx, s.basin.killing = some ctx → s.ops = [] → s.recs = [] → s.ponds = [] → s.basin.ctxq = [] →
      exec .killComplete s = .next { s with basin := { s.basin with killing := none, ctxstat := 0 } }

/-- R368, R371, R373 to R375, R381: the commands of the driver. -/
def Obligations.ContextsAndHeldOperators : Prop :=
  Says.ContextCommands ∧ Says.HeldOperatorsAndKills

/-! ## Code objects (file 15) -/

/-- R47, R48, R377, R378: the loader's answers. A load under a free number whose image has a form the part runs, whose
code is sound and whose pages are mapped, adds its object; an unload of an object in use waits; a query counts. Where an
object lies, and that its number is an argument of the load, are the model's choice (log entry 15); which sequencers and
records count is its reading of R377 and R378 (log entry 21). -/
def Sys2Proof.Says.CodeObjects : Prop :=
  ∀ (s : State) (img : ObjImage) (number : Nat),
    let key := objKey img.pasid number
    let replies (i : Instr) (code count : Nat) (P : State → Prop) :=
      ∃ u, exec i s = .next u ∧ u.loaderOut = BitVec.ofNat 32 (code * 2 ^ 24 + min count (2 ^ 24 - 1)) :: s.loaderOut ∧ P u
    let same (u : State) : Prop := u.objs = s.objs ∧ u.mem = s.mem ∧ u.threads = s.threads
    let native := if img.stepping = Config.stepping then img.native else none
    let o := objectOf img number native
    let fits : Prop := o.jexLen ≤ 2 ^ 37 ∧ o.natLen ≤ 2 ^ 37 ∧ o.constLen ≤ 2 ^ 37 ∧ o.dataLen ≤ 2 ^ 37
    ((s.objs.filter fun e => e.2.pasid = img.pasid).length ≠ 65535 → 1 ≤ number → number ≤ 65535 → img.pasid < 2 ^ 20 →
      mfind s.objs key = none →
      (native = none → img.jexcy = none → replies (.codeObjectLoad img number) (if img.native = none then 3 else 2) 0 same)
      ∧ (native ≠ none ∨ img.jexcy ≠ none → objectOk img native = false → replies (.codeObjectLoad img number) 3 0 same)
      ∧ (native ≠ none ∨ img.jexcy ≠ none → objectOk img native = true →
        (objectFrames s o = none → replies (.codeObjectLoad img number) 4 0 same)
        ∧ ∀ fs, objectFrames s o = some fs → (∀ f ∈ fs, framePins s (framePa f) ≠ 65535) → fits →
          replies (.codeObjectLoad img number) 0 0 fun u => mfind u.objs key = some { o with pages := fs }))
    ∧ ∀ pasid n,
      (mfind s.objs (objKey pasid n) = none → replies (.codeObjectUnload pasid n) 5 0 same
        ∧ replies (.codeObjectQuery pasid n) 5 0 same ∧ exec (.codeObjectRemoval pasid n) s = .next s)
      ∧ ∀ x, mfind s.objs (objKey pasid n) = some x →
        replies (.codeObjectQuery pasid n) (if x.pending then 1 else 0) (refCount s x) same
        ∧ (refCount s x ≠ 0 → replies (.codeObjectUnload pasid n) 1 (refCount s x) (fun u =>
              mfind u.objs (objKey pasid n) = some { x with pending := true } ∧ u.mem = s.mem)
            ∧ exec (.codeObjectRemoval pasid n) s = .next s)
        ∧ (refCount s x = 0 → x.pasid = pasid → x.number = n → mrises s.objs 0 = true →
          (x.pending = false → replies (.codeObjectUnload pasid n) 0 0 fun u => mfind u.objs (objKey pasid n) = none)
          ∧ (x.pending = true → replies (.codeObjectRemoval pasid n) 0 0 fun u => mfind u.objs (objKey pasid n) = none))

/-- R46, R379: the translator adds a native block that stands for a Jexcy block of the object at the end of its native
section; anything else it offers is not taken. -/
def Sys2Proof.Says.TranslatedBlocks : Prop :=
  ∀ (s : State) (pasid n : Nat) (label : BitVec 16) (ws : List W64) (o : CodeObj) (bs : List CodeBlock) (b : CodeBlock),
    mfind s.objs (objKey pasid n) = some o →
    blocksOf .jexcy (sectionWords s pasid o.jexBase o.jexLen) = some bs → bs.find? (fun b => b.data.own = label) = some b →
    let i : Instr := .blockTranslation pasid n label ws
    let first := o.jexBase + b.at_
    let at_ := o.natBase + o.natLen
    let o1 : CodeObj := { o with
      natLen := o.natLen + 8 * ws.length + 32
      translated := (first, at_) :: o.translated
      falls := (first + 8 * b.units.length + 32, at_ + 8 * ws.length) :: o.falls }
    ((∃ p ∈ o.translated, p.1 = first) ∨ standsFor o1 at_ b ws = false → exec i s = .next s)
    ∧ ((∀ p ∈ o.translated, p.1 ≠ first) → standsFor o1 at_ b ws = true →
      (∃ f, areaFrames s pasid o.natBase o.natLen false = some f) →
      (∃ f, areaFrames s pasid o.natBase o1.natLen false = some f) →
      ∃ u fs, exec i s = .next u ∧ mfind u.objs (objKey pasid n) = some { o1 with pages := o.pages ++ fs })

/-- R46 to R48, R377 to R379: code objects, and the translator. -/
def Obligations.CodeObjectsAndTranslation : Prop :=
  Says.CodeObjects ∧ Says.TranslatedBlocks

/-! ## The front end (files 13 and 14) -/

namespace Sys2Proof.Says

/-- The user half of a queue lies at `pa`, in an uncached page that its PASID may read, of whose lines no L1 holds
update-only data. -/
def HalfAt (s : State) (q : Queue) (pa : Nat) : Prop :=
  q.uva % 64 = 0 ∧ (∀ j < 64, basinAddr s q.pasid (q.uva + j) false = some (pa + j, false)) ∧ ∀ e ∈ s.tiles, e.2.uol = []

/-- Bits of the user half at `pa` (R336). -/
def halfBits (s : State) (pa hi lo : Nat) : Nat := bits (leOf (readBytes s.mem pa 64)) hi lo

/-- The reserved bits of the user half at `pa` are 0, and its withdraw word is one the queue has acted on. -/
def HalfHolds (s : State) (q : Queue) (pa : Nat) : Prop :=
  HalfAt s q pa ∧ halfBits s pa 63 57 = 0 ∧ halfBits s pa 5 0 = 0 ∧ halfBits s pa 127 100 = 0 ∧ halfBits s pa 511 224 = 0
    ∧ halfBits s pa 159 144 = 0 ∧ q.words = [] ∧ BitVec.ofNat 32 (halfBits s pa 191 160) = q.serial

/-- The records of the ring of a queue whose user half lies at `pa` (R336, R337). -/
def ringSize (s : State) (q : Queue) (pa : Nat) : Nat :=
  2 ^ (max (bits q.entry 63 60) (min (halfBits s pa 99 96) (bits q.entry 67 64)) + 4)

/-- No record waits or is still to end, and no operator waits for a chain successor. -/
def Settled (s : State) : Prop :=
  (∀ e ∈ s.recs, e.2.state ≠ .waiting ∧ ∀ n, e.2.state ≠ .ending n) ∧ ∀ o ∈ s.ops, o.2.state ≠ .reserved

end Sys2Proof.Says

/-- R334: where the queue of a key is looked up: the first of the eight slots from mix(PASID, qnum) on that holds the key
is its; an invalid slot with tomb 0 ends the search, and one with tomb 1 or another key is passed. -/
def Sys2Proof.Says.KeysAreLookedUp : Prop :=
  ∀ (s : State) (p : BitVec 20) (q : BitVec 12) (k : W32),
    let slot (j : Nat) : Nat := ((mix (p.setWidth 32) (q.setWidth 32)).toNat + j) % 8192
    let e (j : Nat) : Nat := dirEntry s (slot j)
    let holds (j : Nat) : Prop := bit (e j) 0 = true ∧ bits (e j) 127 108 = p.toNat ∧ bits (e j) 107 96 = q.toNat
    let passes (j : Nat) : Prop := (bit (e j) 0 = true ∧ ¬ holds j) ∨ (bit (e j) 0 = false ∧ bit (e j) 1 = true)
    let drops := exec (.doorbellKick (.key p q) 0 4 k) s
      = .next { s with basin := { s.basin with qdrop := s.basin.qdrop + 1 } }
    (∀ j < 8, (∀ m < j, passes m) → holds j →
      exec (.doorbellKick (.key p q) 0 4 k) s = exec (.doorbellKick (.slot (slot j)) 0 4 k) s)
    ∧ (∀ j < 8, (∀ m < j, passes m) → bit (e j) 0 = false → bit (e j) 1 = false → drops)
    ∧ ((∀ m < 8, passes m) → drops)

/-- R336 to R338, R384: a kick of a queue the front end holds takes a write index that is ahead by at most the ring's
size; one that would overrun the ring is counted; a kick of no queue is counted; a write of another size or place is
none. That a kick may name its queue by a key, which the device looks up, is the model's reading (log entry 31). -/
def Sys2Proof.Says.KicksAreTaken : Prop :=
  ∀ (s : State) (slot : Nat) (k : W32), slot < 8192 →
    (∀ d n off, n ≠ 4 ∨ off ≠ 0 → exec (.doorbellKick d off n k) s = .next s)
    ∧ (∀ n, 8192 ≤ n → exec (.doorbellKick (.slot n) 0 4 k) s = .next s)
    ∧ (∀ pa, (s.queue slot).valid = true → (s.queue slot).err = 0 → HalfHolds s (s.queue slot) pa → Settled s →
      let q := s.queue slot
      let size := ringSize s q pa
      ∃ u, exec (.doorbellKick (.slot slot) 0 4 k) s = .next u ∧ (u.queue slot).err = 0 ∧ (u.queue slot).ridx = q.ridx
        ∧ (size ≤ (k - (q.kidx + 1)).toNat → (u.queue slot).kidx = q.kidx ∧ (u.queue slot).qovr = q.qovr)
        ∧ ((k - (q.kidx + 1)).toNat < size → size < (k - q.ridx).toNat →
            (u.queue slot).kidx = q.kidx ∧ (u.queue slot).qovr = q.qovr + 1)
        ∧ ((k - (q.kidx + 1)).toNat < size → (k - q.ridx).toNat ≤ size → (u.queue slot).kidx = k))
    ∧ ((s.queue slot).valid = false → bit (homeRead s (dirAddr s slot) 32) 0 = false →
      ∃ u, exec (.doorbellKick (.slot slot) 0 4 k) s = .next u ∧ u.basin.qdrop = s.basin.qdrop + 1 ∧ u.recs = s.recs
        ∧ u.mem = s.mem)

/-- R334, R336 to R338, R384: kicks. -/
def Obligations.DoorbellKicks : Prop :=
  Says.KeysAreLookedUp ∧ Says.KicksAreTaken

/-- R341, R342, R362, R363: the front end reads the next record of a queue that has one; a withdrawal ends the records
it names with status 1; a wait word that satisfies its condition makes its record ready. That records are read only while
the context is live is the model's reading (log entry 31). -/
def Obligations.RecordReading : Prop :=
  ∀ (s : State) (slot : Nat),
    let q := s.queue slot
    (q.valid = false ∨ q.err ≠ 0 ∨ q.stopped = true ∨ q.ridx = q.kidx ∨ ctxField s q.ctx 367 364 ≠ 1 →
      exec (.recordRead slot) s = .next s)
    ∧ (∀ pa, q.valid = true → q.err = 0 → q.stopped = false → q.ridx ≠ q.kidx → ctxField s q.ctx 367 364 = 1 →
      s.recs.length < 64 → Settled s → HalfHolds s q pa →
      let at_ := halfBits s pa 63 0 + 64 * (q.ridx.toNat % ringSize s q pa)
      (∀ rp, (∀ j < 64, basinAddr s q.pasid (at_ + j) false = some (rp + j, false)) →
        ∃ u r, exec (.recordRead slot) s = .next u ∧ (u.queue slot).ridx = q.ridx + 1
          ∧ mfind u.recs (recKey slot q.ridx) = some r ∧ r.slot = slot ∧ r.index = q.ridx ∧ r.ctx = q.ctx
          ∧ r.pasid = q.pasid
          ∧ r.words = (List.range 8).map fun i => BitVec.ofNat 64 (leOf (readBytes s.mem (rp + 8 * i) 8)))
      ∧ (basinAddr s q.pasid at_ false = none →
        ∃ u, exec (.recordRead slot) s = .next u ∧ (u.queue slot).err = 1 ∧ (u.queue slot).ridx = q.ridx))
    ∧ (q.valid = false → exec (.withdrawal slot) s = .next s)
    ∧ (∀ w : Nat, q.valid = true → (∀ e ∈ s.recs, e.1 = e.2.key) →
      (∃ v vs, q.words = v :: vs ∧ w = v.toNat) ∨ (q.words = [] ∧ ∃ pa, HalfAt s q pa ∧ w = halfBits s pa 191 128) →
      let serial : W32 := BitVec.ofNat 32 (w / 2 ^ 32)
      serial ≠ q.serial → w % 2 ^ 16 ≠ 0 →
      ∃ u, exec (.withdrawal slot) s = .next u ∧ (u.queue slot).serial = serial
        ∧ (u.queue slot).voids = (if q.kidx = q.ridx then q.voids else (BitVec.ofNat 16 (w % 2 ^ 16), q.kidx) :: q.voids)
        ∧ ∀ r, mfind s.recs r.key = some r → r.slot = slot → r.vtag = w % 2 ^ 16 → r.chained = false →
            r.barrier = false → (r.state = .waiting ∨ r.state = .ready) →
            ∃ r', mfind u.recs r.key = some r' ∧ r'.state = .ended 1)
    ∧ ∀ (index : W32) (r : Rec), mfind s.recs (recKey slot index) = some r →
      (r.state ≠ .waiting ∨ r.waitMet = true ∨ r.unread = true → exec (.waitWordSatisfied slot index) s = .next s)
      ∧ ∀ pa, r.slot = slot → r.index = index → r.state = .waiting → r.waitMet = false → r.unread = false →
        r.chained = false → r.barrier = false → r.word 4 ≠ 0 → r.word 4 % 8 = 0 → bits (r.word 5) 34 32 ≤ 5 →
        (∀ e ∈ s.recs, e.1 = e.2.key ∧ (e.2 ≠ r → e.2.state ≠ .waiting ∧ ∀ n, e.2.state ≠ .ending n)) →
        (∀ o ∈ s.ops, o.2.state ≠ .reserved) → (∀ e ∈ s.tiles, e.2.uol = []) →
        basinAddr s r.pasid (r.word 4) false = some (pa, false) →
        let a : W32 := BitVec.ofNat 32 (leOf (readBytes s.mem pa 4))
        let b : W32 := BitVec.ofNat 32 (bits (r.word 5) 31 0)
        let holds : Bool := [decide (a = b), decide (a ≠ b), decide (a.toInt < b.toInt), decide (b.toInt ≤ a.toInt),
          decide (a.toNat < b.toNat), decide (b.toNat ≤ a.toNat)].getD (bits (r.word 5) 34 32) false
        ∃ u r', exec (.waitWordSatisfied slot index) s = .next u ∧ mfind u.recs (recKey slot index) = some r'
          ∧ r'.state = (if holds then .ready else .waiting) ∧ r'.waitMet = holds ∧ r'.words = r.words

/-- R342 to R345, R360, R445: what the pool starts. The head of the pool begins on a free rectangle of its shape; a chain
successor begins on its predecessor's sequencers, once its object's regions find granules there, but not while a predicted
run that it matched stands for it; a head that cannot be
placed is noted, and stays noted while it blocks the pool. -/
def Sys2Proof.Says.RecordsStart : Prop :=
  ∀ (s : State),
    (∀ r, nextItem s = none → exec (.recordPlacement r) s = .next s)
    ∧ (∀ r a x ob, nextItem s = some a → a.isOp = false → mfind s.recs a.key = some x → x.key = a.key →
      mfind s.objs (objKey x.pasid x.objNo) = some ob →
      (fitsAt s a.shape r = false → exec (.recordPlacement r) s = .next s)
      ∧ (fitsAt s a.shape r = true → (∀ e ∈ s.recs, e.1 = e.2.key) → mrises s.ops 0 = true →
        ∃ u o x', exec (.recordPlacement r) s = .next u ∧ u.nextOp = s.nextOp + 1
          ∧ mfind u.recs a.key = some x' ∧ x'.state = .started s.nextOp ∧ x'.words = x.words
          ∧ mfind u.ops s.nextOp = some o ∧ o.slot = x.slot ∧ o.index = x.index ∧ o.prio = x.effPrio s
          ∧ o.tiles = ((rectTiles s a.shape r).getD []).zipIdx.map fun p => (p.2, p.1)))
    ∧ (∀ slot index x old o ob, mfind s.recs (recKey slot index) = some x → x.slot = slot → x.index = index →
      reservedFor s x = some (old, o) → mfind s.objs (objKey x.pasid x.objNo) = some ob →
      let room : Prop := ∀ e ∈ o.tiles, placeRegions ob.regions (takenGranules (dropOperator s old) e.2) ≠ none
      let matched : Prop := ∃ p ∈ s.ponds, p.2.held = true ∧ p.2.slot = slot ∧ p.2.index = index
      (x.state ≠ .ready ∨ matched → exec (.chainSuccessorStart slot index) s = .next s)
      ∧ (x.state = .ready → x.chained = true → ¬ matched → ctxField s x.ctx 367 364 = 1 → o.pins = [] → s.flumes = [] →
        (∀ e ∈ s.recs, e.1 = e.2.key) → mrises s.ops 0 = true →
        (¬ room → exec (.chainSuccessorStart slot index) s = .next s)
        ∧ (room → ∃ u o' x', exec (.chainSuccessorStart slot index) s = .next u
          ∧ mfind u.recs (recKey slot index) = some x' ∧ x'.state = .started s.nextOp
          ∧ mfind u.ops s.nextOp = some o' ∧ o'.index = index ∧ o'.tiles = o.tiles.zipIdx.map fun p => (p.2, p.1.2))))
    ∧ (∀ slot index, mfind s.recs (recKey slot index) = none → exec (.chainSuccessorStart slot index) s = .next s)
    ∧ ((∃ a ∈ poolOpen s, headBlocks s = some a.id) → exec .headPassedOver s = .next s)
    ∧ ((∀ a ∈ poolOpen s, headBlocks s ≠ some a.id) →
      (poolHead s = none → exec .headPassedOver s = .next { s with headSince := none })
      ∧ ∀ a, poolHead s = some a →
        (placeable s a = true → exec .headPassedOver s = .next { s with headSince := none })
        ∧ (placeable s a = false →
          (∀ h, s.headSince = some h → h.1 = a.id → exec .headPassedOver s = .next s)
          ∧ ((∀ h, s.headSince = some h → h.1 ≠ a.id) →
            exec .headPassedOver s = .next { s with headSince := some (a.id, s.time.toNat) })))

/-- R97, R168, R308, R344: the registers of a sequencer at operator start, of a record of kind 0 whose entry block the
object holds in the Jexcy form alone. -/
def Sys2Proof.Says.LaunchRegisters : Prop :=
  ∀ (s : State) (o : CodeObj) (r : Rec) (op ltile j tile a : Nat) (p : Fin 4),
    blockAt s o (BitVec.ofNat 16 (bits (r.word 0) 15 0)) = some (.jexcy, a) → r.kind = 0 → o.translated = [] → j < 4 →
    (∀ x, mfind s.objs (objKey (BitVec.ofNat 20 r.pasid).toNat o.number) = some x → x.translated = [] ∧ x.falls = []) →
    let t := launchThread s o r op ltile j tile p
    let s32 (n : Nat) : W32 := BitVec.ofNat 32 n
    t.pc = BitVec.ofNat 64 a ∧ t.form = .jexcy ∧ t.run = .running ∧ t.tile = tile ∧ t.pseq = p
      ∧ t.regs.s[0] = 0 ∧ t.regs.s[1] = s32 r.seqs ∧ t.regs.s[2] = s32 (r.word 2) ∧ t.regs.s[3] = s32 (r.word 2 / 2 ^ 32)
      ∧ t.regs.s[4] = s32 ltile ∧ t.regs.s[5] = s32 j ∧ t.regs.s[6] = s32 (r.width + r.height * 2 ^ 16) ∧ t.regs.s[7] = 0
      ∧ (∀ n : Fin 64, 8 ≤ n.val → t.regs.s[n] = 0) ∧ (∀ n : Fin 96, t.v[n] = 0)
      ∧ (∀ n : Fin 32, t.regs.h[n] = 0) ∧ (∀ n : Fin 16, t.regs.q[n] = 0)
      ∧ t.regs.loops = [] ∧ t.regs.calls = [] ∧ t.regs.fmt = 0 ∧ t.status = 0
      ∧ t.regs.preds = { taken := BitVec.ofNat 16 (bits (r.word 0) 15 0) }
      ∧ t.launch.arg = BitVec.ofNat 64 (r.word 2) ∧ t.launch.ctx = BitVec.ofNat 12 r.ctx
      ∧ t.launch.pasid = BitVec.ofNat 20 r.pasid

/-- R97, R168, R308, R342 to R345: what the pool starts, and the registers it starts with. -/
def Obligations.RecordsStartOperators : Prop :=
  Says.RecordsStart ∧ Says.LaunchRegisters

/-- No granule of an operator's regions is dirty. -/
def Sys2Proof.Says.Quiet (s : State) (op : Nat) : Prop :=
  ∀ e ∈ s.threads, e.2.op = op → ∀ p ∈ (s.opTile e.2.ot).regions, ∀ g ∈ p.2.gran, g.2 ≠ .dirty

/-- R101, R290, R315, R345: an operator completes when its sequencers have exited and all they issued has performed. Its
regions are written back, its record ends with status 0 and its exit value, and the operator goes, or keeps its
sequencers for its chain successor. `s1` is the device after the write-back, `s` itself where nothing is dirty. -/
def Obligations.OperatorCompletes : Prop :=
  ∀ (s : State) (op : Nat) (o : Operator), mfind s.ops op = some o → o.pond = none →
    (∀ e ∈ s.recs, e.1 = e.2.key) →
    (operatorDone s op o = false → exec (.operatorCompletion op) s = .next s)
    ∧ ∀ s1 r, operatorDone s op o = true → o.state = .started → mrises s.ops 0 = true →
      let live := ctxField s o.ctx 367 364 = 1 || ctxField s o.ctx 367 364 = 2
      (live = false ∨ Quiet s op) ∧ s1 = s
        ∨ ((releaseWrites op live).run s = (.ok none, s1) ∧ s1.ops = s.ops ∧ s1.recs = s.recs) →
      mfind s.recs (recKey o.slot o.index) = some r → r.slot = o.slot → r.index = o.index →
      ∃ u r', exec (.operatorCompletion op) s = .next u ∧ mfind u.recs (recKey o.slot o.index) = some r'
        ∧ r'.state = .ended 0 ∧ r'.exitValue = exitValueOf s1 op
        ∧ (r.chain = false → mfind u.ops op = none)
        ∧ (r.chain = true → mfind s.recs (recKey o.slot (o.index + 1)) = none →
            (s1.queue o.slot).ridx = o.index + 1 → (∀ e ∈ s.ops, e.2.pins = []) → ctxField u o.ctx 367 364 ≠ 4 →
            ∃ o', mfind u.ops op = some o' ∧ o'.state = .reserved ∧ o'.tiles = o.tiles)

/-- R358, R364 to R369: pre-emption. Predicted runs in the way of the pool's head stop; victims of lower priority that
make room for it are asked to stop; a victim whose sequencers stand at their points, their landing slots landed, is
switched out with their registers, unless a migration has abandoned it (DEDUCED, log entry 14) or one of its tiles is being
retired (DEDUCED, log entry 25); it resumes where they stand; a sequencer that is past the deadline takes the deadline
trap. That the event acts only where the victims' going makes the head placeable is the model's reading (log entry 32). -/
def Obligations.Preemption : Prop :=
  ∀ (s : State),
    (∀ vs, (poolHead s = none ∨ ∃ a, poolHead s = some a ∧ placeable s a = true) → exec (.preemption vs) s = .next s)
    ∧ (∀ vs a, poolHead s = some a → placeable s a = false → placeable (withoutRuns s) a = true →
      ∃ u, exec (.preemption vs) s = .next u ∧ u.ops = s.ops ∧ u.threads = s.threads ∧ u.ponds.length = s.ponds.length
        ∧ ∀ e ∈ s.ponds, runOn s (itemTiles (withoutRuns s) a) e.2 = true → (e.1, { e.2 with stopping := true }) ∈ u.ponds)
    ∧ (∀ vs a, poolHead s = some a → placeable s a = false → s.ponds = [] → (∀ e ∈ s.ops, e.2.pond = none) → vs ≠ [] →
      (∀ v ∈ vs, ∃ o, mfind s.ops v = some o ∧ o.state = .started ∧ o.prio < a.prio ∧ o.stopping = false) →
      let away := { s with ops := s.ops.map fun e => if vs.contains e.1 then (e.1, { e.2 with state := .out }) else e }
      (placeable away a = true → exec (.preemption vs) s = .next { s with
        ops := s.ops.map fun e =>
          if vs.contains e.1 then (e.1, { e.2 with stopping := true, stopAt := s.time.toNat }) else e })
      ∧ (placeable away a = false → exec (.preemption vs) s = .next s))
    ∧ (∀ op o, mfind s.ops op = some o → o.state = .started → o.stopping = true → o.fate = none → .spill op ∉ s.hwErrors →
      (allStopped s op = false ∨ mayLeave s op = false → exec (.switchOut op) s = .next s)
      ∧ (o.abandoned = true → (∃ e ∈ s.threads, e.2.op = op ∧ e.2.run ≠ .exited) → exec (.switchOut op) s = .next s)
      ∧ (allStopped s op = true → mayLeave s op = true → o.abandoned = false → (∃ e ∈ s.threads, e.2.op = op ∧ e.2.run ≠ .exited) →
        ∃ u im, exec (.switchOut op) s = .next u ∧ u.opTiles = s.opTiles ∧ u.recs = s.recs
          ∧ mfind u.ops op = some { o with stopping := false, state := .out, readyAt := s.time.toNat, images := im }
          ∧ ∀ k t, mfind s.threads k = some t → mfind u.threads k
              = some (if t.op = op ∧ t.run = .stopped then { t with run := .out } else t)))
    ∧ (∀ op o r, mfind s.ops op = some o →
      (o.state ≠ .out ∨ o.abandoned = true ∨ mayResume s op = false → exec (.operatorResume op r) s = .next s)
      ∧ (o.state = .out → o.abandoned = false → mayResume s op = true → ownSeqsFree s op = true → .spill op ∉ s.hwErrors →
        (∀ e ∈ s.threads, e.2.op = op → ∀ c ∈ e.2.mq.head?, c.started = false) →
        (∀ e ∈ o.tiles, placeRegions (o.shape s).regs (takenGranules s e.2) ≠ none) →
        ∃ u o', exec (.operatorResume op r) s = .next u ∧ u.mem = s.mem ∧ mfind u.ops op = some o' ∧ o'.state = .started
          ∧ ∀ k t, mfind s.threads k = some t → t.op = op →
            ∃ t', mfind u.threads k = some t' ∧ t'.pc = t.pc ∧ t'.regs = t.regs ∧ t'.v = t.v ∧ t'.queues = t.queues
              ∧ t'.issue = t.issue ∧ t'.run = (if t.run = .out ∨ t.run = .stopped then .issuing else t.run)))
    ∧ ∀ k t o, mfind s.threads k = some t → mfind s.ops t.op = some o →
      let limit := s.basin.prdl.toNat % 2 ^ 32
      (limit ≠ 0 → o.stopping = true → t.run = .running → 1100 * limit ≤ s.time.toNat - max o.stopAt t.waitEnd →
        exec (.preemptionDeadline k) s = .next (raiseTrap s k t .deadline 0))
      ∧ (limit = 0 ∨ o.stopping = false ∨ t.run ≠ .running ∨ s.time.toNat - max o.stopAt t.waitEnd < 1100 * limit →
        exec (.preemptionDeadline k) s = .next s)

/-- R351 to R361: the launch predictor. Three records in arithmetic progression predict the next; a predicted run takes
a run slot, is discarded when it is stopped, may be claimed once it has finished, and gives its record its end when it
is claimed. That a finished run keeps its sequencers until it is claimed or stopped, and that a stopping one executes
nothing, are the model's readings (log entry 39). -/
def Obligations.PredictedRuns : Prop :=
  (∀ (a b c : Hist) (rest : List Hist), a.args.length = b.args.length → a.args.length = c.args.length →
    (∀ i, (a.fields.getD i 0) - (b.fields.getD i 0) = (b.fields.getD i 0) - (c.fields.getD i 0)) →
    ∃ p, predict (a :: b :: c :: rest) = some p ∧ p.length = a.fields.length
      ∧ ∀ i < p.length, p.getD i 0 = a.fields.getD i 0 + (a.fields.getD i 0 - b.fields.getD i 0))
  ∧ ∀ (s : State) (i : Fin 4),
    (∀ slot r x as ob, prEnable s = true → s.ponds.length < prRuns s → mfind s.ponds i.val = none →
      (∀ e ∈ s.ponds, e.2.slot ≠ slot) → (s.queue slot).valid = true → (s.queue slot).ridx = (s.queue slot).kidx →
      ctxField s (s.queue slot).ctx 367 364 = 1 → (∀ e ∈ s.recs, e.2.slot = slot → e.2.isStarted = true ∨ e.2.isOver = true) →
      predictedRec s slot (s.queue slot) = some (x, as) → malformed s x = false →
      mfind s.objs (objKey x.pasid x.objNo) = some ob → ob.nopredict = false → fitsAt s (x.shape s) r = true →
      recordWants s (x.shape s) r = false →
      ∃ u p o, exec (.pondRunStart i slot r) s = .next u ∧ mfind u.ponds i.val = some p ∧ p.slot = slot
        ∧ p.index = (s.queue slot).kidx ∧ p.op = s.nextOp ∧ p.words = x.words ∧ p.args = as ∧ p.held = false
        ∧ u.basin.pondrun = s.basin.pondrun + 1 ∧ u.mem = s.mem ∧ mfind u.ops s.nextOp = some o ∧ o.pond = some i)
    ∧ (∀ slot r, prEnable s = false → exec (.pondRunStart i slot r) s = .next s)
    ∧ (∀ slot r x as ob, predictedRec s slot (s.queue slot) = some (x, as) →
      mfind s.objs (objKey x.pasid x.objNo) = some ob → ob.nopredict = true → exec (.pondRunStart i slot r) s = .next s)
    ∧ (mfind s.ponds i.val = none → exec (.pondRunStop i) s = .next s ∧ exec (.pondRunClaimable i) s = .next s
        ∧ exec (.pondClaim i) s = .next s)
    ∧ ∀ p, mfind s.ponds i.val = some p →
      (p.stopping = false → runNeeded s p = false → exec (.pondRunStop i) s = .next s)
      ∧ (p.stopping = true ∨ runNeeded s p = true → Settled s → mrises s.ponds 0 = true → mrises s.ops 0 = true →
        ∃ u, exec (.pondRunStop i) s = .next u ∧ mfind u.ponds i.val = none ∧ mfind u.ops p.op = none
          ∧ u.basin.ponddsc = s.basin.ponddsc + 1)
      ∧ (∀ o, mfind s.ops p.op = some o →
        (p.stopping = true ∨ p.claimable = true ∨ operatorDone s p.op o = false →
          exec (.pondRunClaimable i) s = .next s)
        ∧ ∀ s1 p1, p.stopping = false → p.claimable = false → operatorDone s p.op o = true →
          Quiet s p.op ∧ s1 = s ∧ p1 = p
            ∨ ((releaseWrites p.op true).run s = (.ok none, s1) ∧ mfind s1.ponds i.val = some p1 ∧ p1.stopping = false) →
          ∃ u, exec (.pondRunClaimable i) s = .next u ∧ mfind u.ponds i.val
            = some { p1 with claimable := true, exitValue := exitValueOf s1 p1.op })
      ∧ (∀ o r, mfind s.ops p.op = some o → mfind s.recs (recKey p.slot p.index) = some r →
        (p.stopping = true ∨ p.claimable = false ∨ p.held = false ∨ r.state ≠ .ready →
          exec (.pondClaim i) s = .next s)
        ∧ (p.stopping = false → p.claimable = true → p.held = true → r.state = .ready → r.slot = p.slot →
          r.index = p.index → p.pages = [] → (∀ e ∈ s.recs, e.1 = e.2.key) →
          (∀ e ∈ earlier s r, e.isStarted = true ∨ e.isOver = true) → mrises s.ponds 0 = true →
          ∃ u r', exec (.pondClaim i) s = .next u ∧ u.basin.pondclm = s.basin.pondclm + 1
            ∧ mfind u.ponds i.val = none ∧ mfind u.recs (recKey p.slot p.index) = some r' ∧ r'.state = .ended 0
            ∧ r'.pond = true ∧ r'.exitValue = p.exitValue))

/-! ## Registers of the window and the host (file 16) -/

/-- R351, R369, R391, R401: writes to the basin window. A write that is not aligned, or of another size than 4 or 8, does
nothing; a register keeps its defined bits; clearing PRCTL's enable stops every run; a 4-byte write replaces half. -/
def Sys2Proof.Says.RegisterWrites : Prop :=
  ∀ (s : State) (v : W64),
    let basin (off : Nat) (b : Basin) := exec (.registerWrite off 8 v) s = .next { s with basin := b }
    (∀ off n, n ≠ 4 ∧ n ≠ 8 ∨ off % n ≠ 0 → exec (.registerWrite off n v) s = .next s)
    ∧ basin 0x00 { s.basin with wkptb := v &&& 0x7FFFFFF000 } ∧ basin 0x18 { s.basin with frtb := v &&& 0x7FFFFFFFFF }
    ∧ basin 0x20 { s.basin with qdbase := v &&& 0x7FFFFC0000 } ∧ basin 0x38 { s.basin with ctxtb := v &&& 0x7FFFFC0000 }
    ∧ basin 0x70 { s.basin with prdl := v &&& 0xFFFFFFFF } ∧ basin 0x80 { s.basin with prqbase := v &&& 0x7FFFFF8000 }
    ∧ exec (.registerWrite 0x78 8 v) s = .next s
    ∧ (∀ g < 128, ∃ u, exec (.registerWrite (0x1000 + 8 * g) 8 v) s = .next u
        ∧ shareOf u g = min 1000 (v.toNat % 2 ^ 10) ∧ depthOf u g = v.toNat / 2 ^ 12 % 2 ^ 10 ∧ u.mem = s.mem
        ∧ ∀ h, h ≠ g → shareOf u h = shareOf s h ∧ depthOf u h = depthOf s h)
    ∧ exec (.registerWrite 0x80 4 v) s = .next { s with basin := { s.basin with
        prqbase := ((s.basin.prqbase &&& 0xFFFFFFFF00000000) ||| (v &&& 0xFFFFFFFF)) &&& 0x7FFFFF8000 } }
    ∧ exec (.prctl v) s = exec (.registerWrite 0x50 8 v) s
    ∧ (∃ u, exec (.prctl v) s = .next u ∧ u.basin.prctl = v.setWidth 32 &&& 0x3FE0000F ∧ u.mem = s.mem ∧ u.ops = s.ops
        ∧ (v.getLsbD 0 = false → ∀ e ∈ u.ponds, e.2.stopping = true)
        ∧ (v.getLsbD 0 = true → u.ponds = s.ponds))

/-- R383 to R385: an aligned access of a host core that runs, or of a PCIe device, through a page of its PASID. A load
returns the bytes the home holds and changes none; a store to an uncached page writes exactly its bytes; a fence
changes nothing; an atomic returns the old word and writes the new one as one action; a store-conditional writes where
its core still holds the reservation of the line, and ends every reservation of it (of reservations, log entry 62). The
access does nothing where no page answers (the model's choice, log entry 20). -/
def Sys2Proof.Says.HostAccesses : Prop :=
  ∀ (s : State) (core pasid n : Nat) (va : W64) (i : HostOp → Instr),
    ((∃ c : Fin 48, c.val < s.svc.cores ∧ core = c.val ∧ i = .hostCoreAccess c pasid va)
      ∨ ∃ l : Fin 2, core = 48 + l.val ∧ i = .pcieDeviceAccess l pasid va) →
    pasid < 2 ^ 20 → n ∈ [1, 2, 4, 8] → va.toNat % n = 0 → (∀ e ∈ s.tiles, e.2.uol = []) →
    exec (i .fence) s = .next s
    ∧ (∀ pa c, basinAddr s pasid va.toNat false = some (pa, c) → ∃ u, exec (i (.load n)) s = .next u ∧ u.mem = s.mem
        ∧ u.hostSeen = (if c then homeBytes s pa n else readBytes s.mem pa n) ∧ u.threads = s.threads
        ∧ ∀ b, homeByte u b = homeByte s b)
    ∧ (basinAddr s pasid va.toNat false = none → exec (i (.load n)) s = .next s)
    ∧ (∀ pa bs, bs.length = n → basinAddr s pasid va.toNat true = some (pa, false) →
        ∃ u, exec (i (.store bs)) s = .next u ∧ u.mem = writeBytes s.mem pa bs ∧ u.l2 = s.l2 ∧ u.threads = s.threads)
    ∧ (∀ bs, bs.length = n → basinAddr s pasid va.toNat true = none → exec (i (.store bs)) s = .next s)
    ∧ ∀ (wide : Bool) (v : W64) (pa : Nat), n = (if wide then 8 else 4) →
      basinAddr s pasid va.toNat true = some (pa, false) →
      let old := leOf (readBytes s.mem pa n)
      let writes (x : HostOp) (new seen : Nat) := ∃ u, exec (i x) s = .next u ∧ u.mem = writeBytes s.mem pa (leBytes n new)
        ∧ u.hostSeen = leBytes n seen ∧ u.l2 = s.l2 ∧ u.threads = s.threads ∧ ∀ e ∈ u.hostRes, e.2 ≠ pa / 64
      writes (.amo .add wide v) ((old + v.toNat) % 2 ^ (8 * n)) old
      ∧ writes (.amo .swap wide v) (v.toNat % 2 ^ (8 * n)) old
      ∧ (let x := v.toNat % 2 ^ (8 * n)
        let num (y : Nat) : Int := if y < 2 ^ (8 * n - 1) then y else (y : Int) - (2 ^ (8 * n) : Nat)
        writes (.amo .and wide v) (old &&& x) old ∧ writes (.amo .or wide v) (old ||| x) old
        ∧ writes (.amo .xor wide v) (old ^^^ x) old ∧ writes (.amo .minu wide v) (min old x) old
        ∧ writes (.amo .maxu wide v) (max old x) old
        ∧ writes (.amo .min wide v) (if num x < num old then x else old) old
        ∧ writes (.amo .max wide v) (if num old < num x then x else old) old)
      ∧ (mfind s.hostRes core = some (pa / 64) → writes (.sc wide v) v.toNat 0)
      ∧ (mfind s.hostRes core ≠ some (pa / 64) → ∃ u, exec (i (.sc wide v)) s = .next u ∧ u.mem = s.mem
          ∧ u.hostSeen = leBytes n 1)
      ∧ (basinAddr s pasid va.toNat false = some (pa, false) → ∃ u, exec (i (.lr wide)) s = .next u ∧ u.mem = s.mem
          ∧ u.hostSeen = leBytes n old ∧ mfind u.hostRes core = some (pa / 64))

/-- R351, R369, R383 to R385, R391, R401: the basin window, and the accesses from outside. -/
def Obligations.WindowAndHost : Prop :=
  Says.RegisterWrites ∧ Says.HostAccesses

/-! ## Bring-up, heat and the service port (file 16) -/

/-- R346, R397, R398: bring-up without failures ends with the part up and the speed table of the tile test, each entry
from 44 to 58 units, the last row spare; a failure is recorded, and stops the next bring-up that meets it; the junction
temperature is logged at 95 degrees, and at 105 degrees the part powers down. That a bring-up goes on after its first
failure, and what the failures are given as, is the model's reading (log entries 27 and 19). -/
def Obligations.PowerAndHeat : Prop :=
  ∀ (s : State) (units : List (BitVec 6)),
    (s.svc.up = true → s.off = false → ∀ fs, exec (.bringUp fs units) s = .next s)
    ∧ (s.svc.up = false → s.off = false → s.svc.boot = [] → ∃ u, exec (.bringUp [] units) s = .next u ∧ u.svc.up = true
        ∧ u.svc.stopped = none ∧ u.mem = s.mem
        ∧ ∀ k < 416, (speedEntry u k).toNat % 64 = max 44 (min 58 (units.getD k 44).toNat)
            ∧ (speedEntry u k).toNat / 64 = (if k % 13 = 12 then 1 else 0))
    ∧ (∀ step unit, 1 ≤ step → step ≤ 8 → s.svc.up = false → s.off = false →
        (s.svc.boot = [] → ∃ u, exec (.bringUp [(step, unit)] units) s = .next u ∧ u.svc.boot = [(step, unit)] ∧ u.svc.up = true)
        ∧ ((step, unit) ∈ s.svc.boot → ∃ u, exec (.bringUp [(step, unit)] units) s = .next u
            ∧ u.svc.stopped = some (step, unit)
            ∧ u.svc.up = false ∧ u.svc.boot = s.svc.boot))
    ∧ ∀ m : W32,
      let logs := if s.junction.toNat < 95000 ∧ 95000 ≤ m.toNat then 1 else 0
      (m.toNat < 105000 ∨ s.off = true → ∃ u, exec (.thermalEvent m) s = .next u ∧ u.junction = m ∧ u.mem = s.mem
        ∧ u.threads = s.threads ∧ u.svc.logged = s.svc.logged + logs)
      ∧ (m.toNat < 105000 ∨ s.off = true → exec (.thermalShutdown m) s = .next s)
      ∧ (105000 ≤ m.toNat → s.off = false → (∀ c < 4096, ctxState s c = 0) →
        ∀ i, i = .thermalShutdown m ∨ i = .thermalEvent m →
        ∃ u, exec i s = .next u ∧ u.off = true ∧ u.svc.up = false ∧ u.junction = m
          ∧ u.svc.boot = s.svc.boot ++ [(0, 0)] ∧ u.svc.logged = s.svc.logged + logs)

namespace Sys2Proof.Says

/-- The service processor answers a request with a status and a body; the device is then `u` (R400). -/
def Replies (s : State) (i : Instr) (conn : Fin 4) (kind : Nat) (seq : W32) (status : Nat) (body : List Byte) (u : State) :
    Prop :=
  exec i s = .next { u with svc := { u.svc with
    out := (conn.val, leBytes 2 kind ++ leBytes 2 0 ++ leBytes 4 seq.toNat ++ leBytes 4 body.length ++ leBytes 4 status ++ body)
      :: u.svc.out } }

end Sys2Proof.Says

/-- R387, R396, R397, R399, R400: the requests of the service port over an open connection, and its connections. A
request with a body of the wrong size answers status 2. The answers to commits and chunks without an image, and the slots
of the log's ring, are the model's reading (log entry 28). -/
def Obligations.ServiceRequests : Prop :=
  ∀ (s : State) (c : Fin 4) (seq : W32) (body : List Byte),
    (c.val ∈ s.svc.conns →
      let gives (i : Instr) (kind st : Nat) (b : List Byte) (u : State) := Replies s i c kind seq st b u
      (∃ b, gives (.readBootRecord c seq []) 1 0 b s ∧ b.length = 16 * s.svc.boot.length)
      ∧ gives (.clearBootRecord c seq []) 2 0 [] { s with svc := { s.svc with boot := [] } }
      ∧ (∀ first n, 1 ≤ n → n ≤ 2048 → s.svc.logged = s.svc.log.length → first + n ≤ s.svc.log.length →
          s.svc.log.length ≤ 4096 →
          gives (.readServiceLog c seq (leBytes 4 first ++ leBytes 4 n)) 3 0
            (((s.svc.log.drop first).take n).flatMap LogRec.bytes) s)
      ∧ gives (.readSpeedTable c seq []) 4 0 ((List.range 416).map (speedEntry s)) s
      ∧ gives (.readRlim c seq []) 5 0
          (leBytes 8 (rlimFields * 2 ^ 16 + if s.basin.rlimLocked then 1 else 0)) s
      ∧ (∃ b, gives (.readTelemetry c seq []) 6 0 b { s with freshTick := s.freshTick + 1 } ∧ b.length = 64
          ∧ (b.drop 20).take 4 = leBytes 4 s.junction.toNat ∧ (b.drop 24).take 8 = leBytes 8 s.time.toNat
          ∧ b.drop 32 = leBytes 32 0)
      ∧ (body ≠ [] → gives (.readBootRecord c seq body) 1 2 [] s ∧ gives (.clearBootRecord c seq body) 2 2 [] s
          ∧ gives (.readSpeedTable c seq body) 4 2 [] s ∧ gives (.readRlim c seq body) 5 2 [] s
          ∧ gives (.readTelemetry c seq body) 6 2 [] s)
      ∧ (∀ kind : BitVec 16, kind = 0 ∨ 9 < kind.toNat →
          gives (.serviceConnection (.other c kind seq)) kind.toNat 1 [] s)
      ∧ (body.length ≠ 8 → gives (.readServiceLog c seq body) 3 2 [] s ∧ gives (.beginFirmwareImage c seq body) 7 2 [] s)
      ∧ (∀ n, 1 ≤ n → n ≤ 2 ^ 26 →
          (s.svc.image = none → gives (.beginFirmwareImage c seq (leBytes 8 n)) 7 0 []
            { s with svc := { s.svc with image := some { conn := c.val, len := n } } })
          ∧ (s.svc.image ≠ none → gives (.beginFirmwareImage c seq (leBytes 8 n)) 7 3 [] s))
      ∧ (∀ x off data, s.svc.image = some x → x.conn = c.val → data ≠ [] → data.length ≤ 65532 →
          off + data.length ≤ x.len → x.len ≤ 2 ^ 26 →
          ∃ m, gives (.firmwareChunk c seq (leBytes 4 off ++ data)) 8 0 []
              { s with svc := { s.svc with image := some { x with bytes := m } } }
            ∧ (∀ i < data.length, mfind m (off + i) = data[i]?)
            ∧ ∀ a, (a < off ∨ off + data.length ≤ a) → mfind m a = mfind x.bytes a)
      ∧ (s.svc.image = none → gives (.firmwareChunk c seq body) 8 2 [] s ∧ gives (.commitFirmwareImage c seq body) 9 2 [] s)
      ∧ ∀ x, s.svc.image = some x → x.conn = c.val → body.length = 32 →
          let img := x.bytes.map (·.2)
          let u := { s with svc := { s.svc with image := none } }
          (x.bytes.length = x.len → sha256 img = body → Config.signatureVerifies img = true →
            gives (.commitFirmwareImage c seq body) 9 0 [] { u with svc := { u.svc with committed := some img } })
          ∧ (x.bytes.length ≠ x.len ∨ sha256 img ≠ body ∨ Config.signatureVerifies img = false →
            gives (.commitFirmwareImage c seq body) 9 4 [] u))
    ∧ (c.val ∉ s.svc.conns → ∀ i ∈ [Instr.readBootRecord c seq body, .clearBootRecord c seq body, .readServiceLog c seq body,
        .readSpeedTable c seq body, .readRlim c seq body, .readTelemetry c seq body, .beginFirmwareImage c seq body,
        .firmwareChunk c seq body, .commitFirmwareImage c seq body], exec i s = .next s)
    ∧ (s.svc.conns = [] →
        (Config.certificateChains body = true →
          exec (.serviceConnection (.client body)) s = .next { s with svc := { s.svc with conns := [0] } })
        ∧ (Config.certificateChains body = false → exec (.serviceConnection (.client body)) s = .next s))
    ∧ ((∀ k < 4, k ∈ s.svc.conns) → exec (.serviceConnection (.client body)) s = .next s)
    ∧ ∃ u, exec (.serviceConnectionClose c) s = .next u ∧ c.val ∉ u.svc.conns
        ∧ (∀ k, k ≠ c.val → (k ∈ u.svc.conns ↔ k ∈ s.svc.conns)) ∧ u.svc.committed = s.svc.committed
        ∧ (∀ x, s.svc.image = some x → x.conn = c.val → u.svc.image = none)

/-! ## The whole machine -/

/-- R49, R325, R370 to R372: taking a trap, while other sequencers of its operator still run. The sequencer stops, with
its block's starting values unless the trap is a program trap; one that has exited stays as it is; its operator keeps the class, the place and the time of
its first trap, of those of one instant that of the lowest SEQID, counts the others and is asked to stop; no memory
changes. -/
def Sys2Proof.Says.TrapEntry : Prop :=
  ∀ (s : State) (k : Nat) (t : Thread) (o : Operator) (c : TrapClass) (n : W32), mfind s.threads k = some t →
    mfind s.ops t.op = some o → o.pond = none → c.fate ≠ .context →
    (∃ j w, j ≠ k ∧ mfind s.threads j = some w ∧ w.op = t.op ∧ w.idle = false) →
    let u := raiseTrap s k t c n
    ∃ t' o', mfind u.threads k = some t' ∧ mfind u.ops t.op = some o' ∧ u.mem = s.mem ∧ u.l2 = s.l2
      ∧ (t.run = .exited → t' = t)
      ∧ (t.run ≠ .exited → t'.run = .stopped ∧ t'.issue = []) ∧ t'.queues = t.queues ∧ t'.status = t.status
      ∧ (t.run ≠ .exited → c = .program → t'.regs = t.regs ∧ t'.pc = t.pc ∧ t'.v = t.v)
      ∧ (t.run ≠ .exited → c ≠ .program → t'.pc = firstUnit s t ∧ t'.regs.s = t.blk.start.s ∧ t'.regs.h = t.blk.start.h
          ∧ t'.regs.q = t.blk.start.q ∧ t'.regs.c = t.blk.start.c ∧ t'.regs.loops = t.blk.start.loops
          ∧ t'.regs.calls = t.blk.start.calls ∧ t'.regs.w = t.blk.start.w ∧ t'.blk.stores = [] ∧ t'.blk.gated = [])
      ∧ o'.stopping = true ∧ o'.state = o.state
      ∧ (o.trap = none → o.fate = none → o'.fate = some c.fate ∧ ∃ x, o'.trap = some x ∧ x.cls = c ∧ x.n = n
          ∧ x.pc = t'.pc ∧ x.seqid = BitVec.ofNat 32 (t.ltile * 2 ^ 16 + t.seq.val) ∧ x.last = t.lastLabel ∧ x.time = s.time)
      ∧ (∀ x f, o.trap = some x → o.fate = some f → o'.further = o.further + 1
          ∧ o'.fate = some (if f.rank < c.fate.rank then c.fate else f)
          ∧ (x.time ≠ s.time ∨ x.seqid ≤ t.seqid → o'.trap = some x)
          ∧ (x.time = s.time → t.seqid < x.seqid → ∃ y, o'.trap = some y ∧ y.cls = c ∧ y.seqid = t.seqid ∧ y.pc = t'.pc))

/-- R370 to R373: the end of a trap, once every sequencer of the operator has stopped and, of one that is held, its landing
slots have landed. Its record goes to the next place
of the context's event ring and the ring's write index moves on; the operator is held, or ends with its status. -/
def Sys2Proof.Says.TrapRecords : Prop :=
  ∀ (s : State) (op : Nat) (o : Operator) (f : Fate) (x : TrapNote), mfind s.ops op = some o → o.fate = some f →
    o.trap = some x → (∀ e ∈ s.threads, e.2.op = op → e.2.idle = true) → o.ctx < 4096 → o.slot < 8192 →
    let entry := ctxAddr s o.ctx
    let ewr := ctxField s o.ctx 400 369
    let size := 2 ^ (ctxField s o.ctx 404 401 + 4)
    let a := ctxField s o.ctx 443 405 + 64 * (ewr % size)
    let u := settleTrap s op
    (ewr + 2 ^ 32 - ctxField s o.ctx 363 332) % 2 ^ 32 < size → a % 64 = 0 → entry % 64 = 0 → a ≠ entry →
    Memory.wf s.mem = true → mfind s.l2 (a / 64) = none → mfind s.l2 (entry / 64) = none →
    (f = .held → mayLeave s op = true) →
    (f = .held → let spill := ctxField s o.ctx 511 473
      ∀ x ∈ [a, entry], x + 64 ≤ spill ∨ spill + 384 * 2 ^ 22 ≤ x) →
    let w (hi lo : Nat) := bits (homeRead u a 64) hi lo
    w 7 0 = x.cls.code ∧ w 15 8 = f.rank ∧ w 31 16 = o.ctx ∧ w 63 32 = x.n.toNat ∧ w 95 64 = o.slot ∧ w 127 96 = o.index.toNat
      ∧ w 191 128 = x.at_.toNat ∧ w 255 192 = x.pc.toNat ∧ w 287 256 = x.seqid.toNat ∧ w 303 288 = x.own.toNat
      ∧ w 319 304 = x.last.toNat ∧ w 383 320 = x.time.toNat ∧ w 399 384 = min o.further 65535
      ∧ ctxField u o.ctx 400 369 = (ewr + 1) % 2 ^ 32
      ∧ ∃ o', mfind u.ops op = some o' ∧ o'.fate = none ∧ o'.trap = none ∧ o'.stopping = false ∧ o'.further = 0
        ∧ (f = .held → o'.state = .held)
        ∧ (f = .operator → (∀ n, o.state ≠ .ending n) → o'.state = .ending o.trapStatus)
        ∧ (f = .context → o'.state = o.state)

/-- R49, R325, R370 to R373: the entry into a trap and its record. -/
def Obligations.TrapsAreTaken : Prop :=
  Says.TrapEntry ∧ Says.TrapRecords

namespace Sys2Proof.Says

/-- What a step adds to a turn: a device access that met a hole of the physical address space stops the machine; else what
the device does by itself at the end of a step takes place. -/
def closes (s : State) (r : Host.Outcome State Fault Refusal) : Host.Outcome State Fault Refusal :=
  match r with
  | .next u => if u.hole then .fault .physicalHole else .next (afterStep s u)
  | r => r

/-- The device `u` that the operations `is` of the unit of the sequencer `k`, which was `t`, have left: the sequencer
moves past the unit, waits at it, or stands where an operation has sent it. -/
def afterUnit (k : Nat) (t : Thread) (is : List Instr) (u : State) : State :=
  match mfind u.threads k with
  | none => u
  | some w => match w.flow with
    | .normal => (u.setThread k (endUnit w is)).dropOwner (.unit k)
    | .stalled n => u.setThread k (t.stall n)
    | .redirected => u.dropOwner (.unit k)

/-- The device `u` that the issue of the gated operation of the sequencer `k` has left: one that waits is noted. -/
def afterIssue (k : Nat) (u : State) : State :=
  match mfind u.threads k with
  | none => u
  | some w => match w.flow with
    | .stalled _ => u.setThread k { w with waited := true }
    | _ => u

/-- The turn of the sequencer `k` comes in `s0`: the agenda names it, or the agenda is empty and it is the one that
runs. Time has passed, and the ports are refilled. -/
def TurnOf (s s0 : State) (k : Nat) : Prop :=
  s.off = false ∧
    ((∃ n rest, s.agenda = ⟨n, .thread k⟩ :: rest
        ∧ s0 = refillPorts { s with agenda := rest, time := s.time + BitVec.ofNat 64 n })
      ∨ (s.agenda = [] ∧ k = s.cur ∧ s0 = refillPorts { s with time := s.time + 1 }))

end Sys2Proof.Says

/-- R16, R36, R43 to R45, R72, R310, R358, R369: what a step does in a sequencer's turn. In the Jexcy form it runs the
operation decoded at the program counter, in native code the four of the bundle in slot order, with the results that
fall due in their registers; after a passing seal it issues the first gated operation. A predicted run that is stopping
executes nothing (DEDUCED, log entry 39), and with an empty agenda another agent acts (the turns are the model's own, log
entry 2); a sequencer past its deadline takes it; a unit that cannot be fetched is "translation fatal"; a device access that
met a hole of the address space ends the step in a fault (DEDUCED, log entry 24). -/
def Sys2Proof.Says.StepRunsDecoded : Prop :=
  ∀ (s s0 : State) (k : Nat) (t : Thread), TurnOf s s0 k → mfind s.threads k = some t → t.flow = .normal →
    let sk := { s0 with cur := k }
    let s1 (is : List Instr) := (claimUnit sk t.tick is).setThread k t.tick
    let ws := fetch4 sk t.launch.pasid.toNat t.pc.toNat
    let stops : Prop := ∃ p, s0.pondOf t.op = some p ∧ p.2.stopping = true
    (stops → s.agenda ≠ [] → step s = closes s (.next s0))
    ∧ (stops → s.agenda = [] → step s = closes s (.next (rotate ((firstEvent s0).getD s0))))
    ∧ (¬ stops → t.run = .running →
      (pastDeadline s0 t = true → step s = closes s (.next (raiseTrap s0 k t .deadline 0)))
      ∧ (pastDeadline s0 t = false →
        (sk.codeHas t t.pc = false → step s = closes s (.next (raiseTrap sk k t.tick .illegal 0)))
        ∧ (sk.codeHas t t.pc = true → fetchBad sk t.tick = some .missing →
          step s = closes s (.next (raiseTrap sk k t.tick .translation 0)))
        ∧ (sk.codeHas t t.pc = true → fetchBad sk t.tick = none → t.shot = false →
          (∀ i, t.form = .jexcy → decodeJexcy ws = .ok i → step s = closes s (match exec i (s1 [i]) with
            | .next u => .next (afterUnit k t [i] u)
            | r => r))
          ∧ (∀ c a v m is, t.form = .native → ws = [c, a, v, m] → decodeBundle c a v m = .ok is →
            step s = closes s (match runSlots is (s1 is) with
              | .next u => .next (afterUnit k t is u)
              | r => r)))))
    ∧ (∀ g rest, ¬ stops → t.run = .issuing → t.issue = g :: rest →
      (∀ o, mfind s.ops t.op = some o → o.stopping = false ∨ (s.tile t.tile).retiring = true) →
      let w : Thread := { t with
        waited := false
        waitEnd := if t.waited then s0.time.toNat else t.waitEnd }
      step s = closes s (match exec g.instr { s0.setThread k w with cur := k } with
        | .next u => .next (afterIssue k u)
        | r => r))

/-- A step whose agenda names a device event takes that event; without power only a bring-up acts, and with no power and
an empty agenda nothing does (R397, R398; the agenda is the model's own, log entry 2; a device access that met a hole ends the
step in a fault, DEDUCED, log entry 24). -/
def Sys2Proof.Says.StepRunsEvents : Prop :=
  ∀ (s : State),
    (∀ n i rest, s.agenda = ⟨n, .event i⟩ :: rest →
      let s0 := refillPorts { s with agenda := rest, time := s.time + BitVec.ofNat 64 n }
      (s.off = false → step s = closes s (exec i s0))
      ∧ (s.off = true → (∀ fs us, i ≠ .bringUp fs us) → step s = closes s (.next s0))
      ∧ (∀ fs us, i = .bringUp fs us → step s = closes s (exec i s0)))
    ∧ (s.agenda = [] → s.off = true → step s = closes s (.next s))

/-- R16, R36, R43 to R45, R310, R397, R398: what a step does. -/
def Obligations.StepRunsItsTurn : Prop :=
  Says.StepRunsDecoded ∧ Says.StepRunsEvents

/-- R15, R20, R21, R27 to R32, R38 to R44, R50 to R56: for every well-formed operation word of a code form, in every
value of every operand, the decoder reads from its encoding the operation itself; and so of a seal's four words. -/
def Obligations.DecodeOfEncode : Prop :=
  ∀ (f : Form) (i : Instr), i.wf f = true →
    (∀ w, encode i = [w] → decodeWord f w = .ok i)
    ∧ (∀ c a v m, encode i = [c, a, v, m] → sealOf c a v m = .ok i)

/-- R39 to R44, and the encodings of files 01 and 04 to 11, 17, 18 and 20: words the spec writes out, of every class, and the
operations it says they are. -/
def Obligations.SpecWordsDecode : Prop :=
  let reads (w : W64) (i : Instr) : Prop := decodeWord .jexcy w = .ok i
  let r (n : Fin 64) : SSrc := .reg n
  let v (n : Fin 96) : VSrc := .reg n
  reads 0x1000304050000000 (.add ⟨false, 3, r 4, r 5⟩)
    ∧ reads 0x108090A0B0000000 (.div ⟨false, 9, r 10, r 11⟩)
    ∧ reads 0x1300400000400000 (.li false 4 0x400000)
    ∧ reads 0x1240804050000002 (.sel ⟨false, 8, r 4, r 5⟩ 2)
    ∧ reads 0x134060700000000C (.extS ⟨false, 6, r 7⟩ 12)
    ∧ reads 0x13904040FFFFFFC0 (.addiP 2 2 0xFFFFFFC0)
    ∧ reads 0x13C06020A0000000 (.leaH 3 2 10)
    ∧ reads 0x0040104050000002 (.cmp .lt 1 (r 4) (r 5))
    ∧ reads 0x0050009500000064 (.cmpi .geb 0 (r 9) 100)
    ∧ reads 0x0302518260000003 (.waitA 37 12 38 .ge)
    ∧ reads 0x0311A18000000000 (.take 13 12)
    ∧ reads 0x02C0C00000000008 (.sysr 12 8)
    ∧ reads 0x02D000D000000000 (.sysw 0 (r 13))
    ∧ reads 0x2040904000000000 (.ldW ⟨9, .pair 2, 0⟩)
    ∧ reads 0x2050643000000010 (.ldP 3 (.handle 3) 0x10)
    ∧ reads 0x20B0004308FFFFF8 (.stP (.pair 2) 0xFFFFF8 4 3)
    ∧ reads 0x210000A008002000 (.ldV 8 (.pair 5) 0x2000)
    ∧ reads 0x2440004200000100 (.wset 0 2 2 0x100)
    ∧ reads 0x23C0004080000005 (.rmap 5 2 (r 8))
    ∧ reads 0x3002402021A1CF00 (.flCopy ⟨false, 36, 2, 2, 13, 28, 15, false, 0⟩)
    ∧ reads 0x3111500000010000 (.flPoll ⟨false, 21, 0, 0, 0, 16, 0, false, 0⟩)
    ∧ reads 0x4030501600382000 (.vFma ⟨false, .reg 5, v 1, .port 0, v 3, .f32, 2, false, .rne⟩)
    ∧ reads 0x43B0908010050001 (.vScan ⟨false, .reg 9, v 8, true, 1, false, .si32, 0, false, .rne⟩)
    ∧ reads 0x4200301020080002 (.vCmp .lt 3 (v 1) (v 2) .f32 0)
    ∧ reads 0x50846061BB010100 (.mMma ⟨1, .port 0, .port 1, .e4m3, .e4m3, false, true, 256⟩)
    ∧ reads 0x5184000080000212 (.mBfly 1 2 1 0 1 0 false)
    ∧ decodeWord .native 0x4000482030080000 = .ok (.vAdd ⟨false, .reg 4, .lat 0, v 3, .f32, 0, false, .rne⟩)
    ∧ sealOf 0x001E000000000000 0xF000030103010302 0xF789034B45BD0B8B 0xF000700000800000
      = .ok (.sealOp ⟨0xE789034B, 0, 0x0301, 0x0301, 0x0302, 0x45BD0B8B, 7, 0, 0, 0, true⟩)

/-- What the spec gives at reset: no sequencer runs, no record is read, the window's registers are 0 but PRDL, 2,000, and
RLIM, locked; every allotment is 1,023 deep and has no share (R369, R387, R391, R401). Memory is in its canonical
form; what it and the registers without a reset value hold is the model's choice (log entries 1, 2 and 4 to 6). -/
def Obligations.ResetState : Prop :=
  let s := State.reset
  s.threads = [] ∧ s.ops = [] ∧ s.recs = [] ∧ s.queues = [] ∧ s.ponds = [] ∧ s.objs = [] ∧ s.flumes = [] ∧ s.svc.up = false
    ∧ Memory.wf s.mem = true ∧ s.basin.prdl = 2000 ∧ s.basin.rlimLocked = true ∧ s.basin.prctl = 0 ∧ s.basin.wkptb = 0
    ∧ s.basin.ctxtb = 0 ∧ s.basin.qdbase = 0 ∧ ∀ g, shareOf s g = 0 ∧ depthOf s g = 1023

/-- Memory keeps its canonical form: the addresses rise and no listed byte is 0. Every step that answers a next state
keeps it, from any state that has it (log entry 1; the form is the model's). -/
def Obligations.StepKeepsMemory : Prop :=
  ∀ s s' : State, Memory.wf s.mem = true → step s = .next s' → Memory.wf s'.mem = true
end

