-- ==== Sys2Proof/Laws/Dispatch.lean ====
section
/-! SUPPORT. `exec` of each constructor is its meaning: a proof about one instruction starts with its lemma, and never
unfolds the dispatch. -/

namespace Sys2Proof.Machine

@[simp] theorem exec_nop (s : State) :
    exec (.nop) s = Sys2Proof.Machine.execNop s := rfl
@[simp] theorem exec_sealOp (x : SealData) (s : State) :
    exec (.sealOp x) s = Sys2Proof.Machine.execSealOp x s := rfl
@[simp] theorem exec_prep (t : Fin 4) (off : W32) (s : State) :
    exec (.prep t off) s = Sys2Proof.Machine.execPrep t off s := rfl
@[simp] theorem exec_prepr (t : Fin 4) (a : Fin 32) (s : State) :
    exec (.prepr t a) s = Sys2Proof.Machine.execPrepr t a s := rfl
@[simp] theorem exec_cmp (cc : Cc) (d : Fin 4) (a : SSrc) (b : SSrc) (s : State) :
    exec (.cmp cc d a b) s = Sys2Proof.Machine.execCmp cc d a b s := rfl
@[simp] theorem exec_cmpi (cc : Cc) (d : Fin 4) (a : SSrc) (imm : W32) (s : State) :
    exec (.cmpi cc d a imm) s = Sys2Proof.Machine.execCmpi cc d a imm s := rfl
@[simp] theorem exec_vAny (d : Fin 4) (q : Fin 16) (ty : Ty) (s : State) :
    exec (.vAny d q ty) s = Sys2Proof.Machine.execVAny d q ty s := rfl
@[simp] theorem exec_vAll (d : Fin 4) (q : Fin 16) (ty : Ty) (s : State) :
    exec (.vAll d q ty) s = Sys2Proof.Machine.execVAll d q ty s := rfl
@[simp] theorem exec_cOp (d : Fin 4) (a : Fin 4) (b : Fin 4) (tt : BitVec 4) (s : State) :
    exec (.cOp d a b tt) s = Sys2Proof.Machine.execCOp d a b tt s := rfl
@[simp] theorem exec_br (t : Fin 4) (c : Fin 4) (inv : Bool) (s : State) :
    exec (.br t c inv) s = Sys2Proof.Machine.execBr t c inv s := rfl
@[simp] theorem exec_jmp (t : Fin 4) (s : State) :
    exec (.jmp t) s = Sys2Proof.Machine.execJmp t s := rfl
@[simp] theorem exec_call (t : Fin 4) (s : State) :
    exec (.call t) s = Sys2Proof.Machine.execCall t s := rfl
@[simp] theorem exec_ret (s : State) :
    exec (.ret) s = Sys2Proof.Machine.execRet s := rfl
@[simp] theorem exec_jtab (a : Fin 64) (off : W32) (s : State) :
    exec (.jtab a off) s = Sys2Proof.Machine.execJtab a off s := rfl
@[simp] theorem exec_loop (a : SSrc) (s : State) :
    exec (.loop a) s = Sys2Proof.Machine.execLoop a s := rfl
@[simp] theorem exec_loopi (imm : W32) (s : State) :
    exec (.loopi imm) s = Sys2Proof.Machine.execLoopi imm s := rfl
@[simp] theorem exec_lpipe (a : SSrc) (stages : W32) (s : State) :
    exec (.lpipe a stages) s = Sys2Proof.Machine.execLpipe a stages s := rfl
@[simp] theorem exec_lbrk (c : Fin 4) (s : State) :
    exec (.lbrk c) s = Sys2Proof.Machine.execLbrk c s := rfl
@[simp] theorem exec_lpset (a : SSrc) (s : State) :
    exec (.lpset a) s = Sys2Proof.Machine.execLpset a s := rfl
@[simp] theorem exec_lpget (d : Option (Fin 64)) (s : State) :
    exec (.lpget d) s = Sys2Proof.Machine.execLpget d s := rfl
@[simp] theorem exec_trap (code : W32) (s : State) :
    exec (.trap code) s = Sys2Proof.Machine.execTrap code s := rfl
@[simp] theorem exec_exit (a : Fin 64) (s : State) :
    exec (.exit a) s = Sys2Proof.Machine.execExit a s := rfl
@[simp] theorem exec_yield (s : State) :
    exec (.yield) s = Sys2Proof.Machine.execYield s := rfl
@[simp] theorem exec_fmt (a : SSrc) (s : State) :
    exec (.fmt a) s = Sys2Proof.Machine.execFmt a s := rfl
@[simp] theorem exec_fmti (imm : W32) (s : State) :
    exec (.fmti imm) s = Sys2Proof.Machine.execFmti imm s := rfl
@[simp] theorem exec_sysr (d : Fin 64) (num : BitVec 12) (s : State) :
    exec (.sysr d num) s = Sys2Proof.Machine.execSysr d num s := rfl
@[simp] theorem exec_sysw (num : BitVec 12) (a : SSrc) (s : State) :
    exec (.sysw num a) s = Sys2Proof.Machine.execSysw num a s := rfl
@[simp] theorem exec_waitA (d : Fin 64) (p : Fin 32) (b : Fin 64) (cc : Cc) (s : State) :
    exec (.waitA d p b cc) s = Sys2Proof.Machine.execWaitA d p b cc s := rfl
@[simp] theorem exec_waitAWake (thread : Nat) (s : State) :
    exec (.waitAWake thread) s = Sys2Proof.Machine.execWaitAWake thread s := rfl
@[simp] theorem exec_take (d : Fin 32) (p : Fin 32) (s : State) :
    exec (.take d p) s = Sys2Proof.Machine.execTake d p s := rfl
@[simp] theorem exec_bar (p : Fin 32) (s : State) :
    exec (.bar p) s = Sys2Proof.Machine.execBar p s := rfl
@[simp] theorem exec_add (x : S3) (s : State) :
    exec (.add x) s = Sys2Proof.Machine.execAdd x s := rfl
@[simp] theorem exec_sub (x : S3) (s : State) :
    exec (.sub x) s = Sys2Proof.Machine.execSub x s := rfl
@[simp] theorem exec_addi (x : SK) (s : State) :
    exec (.addi x) s = Sys2Proof.Machine.execAddi x s := rfl
@[simp] theorem exec_mul (x : S3) (s : State) :
    exec (.mul x) s = Sys2Proof.Machine.execMul x s := rfl
@[simp] theorem exec_mulh (x : S3) (s : State) :
    exec (.mulh x) s = Sys2Proof.Machine.execMulh x s := rfl
@[simp] theorem exec_mulhz (x : S3) (s : State) :
    exec (.mulhz x) s = Sys2Proof.Machine.execMulhz x s := rfl
@[simp] theorem exec_div (x : S3) (s : State) :
    exec (.div x) s = Sys2Proof.Machine.execDiv x s := rfl
@[simp] theorem exec_divz (x : S3) (s : State) :
    exec (.divz x) s = Sys2Proof.Machine.execDivz x s := rfl
@[simp] theorem exec_rem (x : S3) (s : State) :
    exec (.rem x) s = Sys2Proof.Machine.execRem x s := rfl
@[simp] theorem exec_remz (x : S3) (s : State) :
    exec (.remz x) s = Sys2Proof.Machine.execRemz x s := rfl
@[simp] theorem exec_and (x : S3) (s : State) :
    exec (.and x) s = Sys2Proof.Machine.execAnd x s := rfl
@[simp] theorem exec_or (x : S3) (s : State) :
    exec (.or x) s = Sys2Proof.Machine.execOr x s := rfl
@[simp] theorem exec_xor (x : S3) (s : State) :
    exec (.xor x) s = Sys2Proof.Machine.execXor x s := rfl
@[simp] theorem exec_andi (x : SK) (s : State) :
    exec (.andi x) s = Sys2Proof.Machine.execAndi x s := rfl
@[simp] theorem exec_ori (x : SK) (s : State) :
    exec (.ori x) s = Sys2Proof.Machine.execOri x s := rfl
@[simp] theorem exec_xori (x : SK) (s : State) :
    exec (.xori x) s = Sys2Proof.Machine.execXori x s := rfl
@[simp] theorem exec_shl (x : S3) (s : State) :
    exec (.shl x) s = Sys2Proof.Machine.execShl x s := rfl
@[simp] theorem exec_shr (x : S3) (s : State) :
    exec (.shr x) s = Sys2Proof.Machine.execShr x s := rfl
@[simp] theorem exec_sra (x : S3) (s : State) :
    exec (.sra x) s = Sys2Proof.Machine.execSra x s := rfl
@[simp] theorem exec_shli (x : SK) (s : State) :
    exec (.shli x) s = Sys2Proof.Machine.execShli x s := rfl
@[simp] theorem exec_shri (x : SK) (s : State) :
    exec (.shri x) s = Sys2Proof.Machine.execShri x s := rfl
@[simp] theorem exec_srai (x : SK) (s : State) :
    exec (.srai x) s = Sys2Proof.Machine.execSrai x s := rfl
@[simp] theorem exec_min (x : S3) (s : State) :
    exec (.min x) s = Sys2Proof.Machine.execMin x s := rfl
@[simp] theorem exec_max (x : S3) (s : State) :
    exec (.max x) s = Sys2Proof.Machine.execMax x s := rfl
@[simp] theorem exec_minz (x : S3) (s : State) :
    exec (.minz x) s = Sys2Proof.Machine.execMinz x s := rfl
@[simp] theorem exec_maxz (x : S3) (s : State) :
    exec (.maxz x) s = Sys2Proof.Machine.execMaxz x s := rfl
@[simp] theorem exec_sel (x : S3) (c : Fin 4) (s : State) :
    exec (.sel x c) s = Sys2Proof.Machine.execSel x c s := rfl
@[simp] theorem exec_clz (x : S2) (s : State) :
    exec (.clz x) s = Sys2Proof.Machine.execClz x s := rfl
@[simp] theorem exec_ctz (x : S2) (s : State) :
    exec (.ctz x) s = Sys2Proof.Machine.execCtz x s := rfl
@[simp] theorem exec_popc (x : S2) (s : State) :
    exec (.popc x) s = Sys2Proof.Machine.execPopc x s := rfl
@[simp] theorem exec_li (nw : Bool) (d : Fin 64) (imm : W32) (s : State) :
    exec (.li nw d imm) s = Sys2Proof.Machine.execLi nw d imm s := rfl
@[simp] theorem exec_lui (d : Fin 32) (imm : W32) (s : State) :
    exec (.lui d imm) s = Sys2Proof.Machine.execLui d imm s := rfl
@[simp] theorem exec_mov (x : S2) (s : State) :
    exec (.mov x) s = Sys2Proof.Machine.execMov x s := rfl
@[simp] theorem exec_extS (x : S2) (width : Fin 32) (s : State) :
    exec (.extS x width) s = Sys2Proof.Machine.execExtS x width s := rfl
@[simp] theorem exec_extZ (x : S2) (width : Fin 32) (s : State) :
    exec (.extZ x width) s = Sys2Proof.Machine.execExtZ x width s := rfl
@[simp] theorem exec_addP (x : P3) (s : State) :
    exec (.addP x) s = Sys2Proof.Machine.execAddP x s := rfl
@[simp] theorem exec_addiP (d : Fin 32) (a : Fin 32) (imm : W32) (s : State) :
    exec (.addiP d a imm) s = Sys2Proof.Machine.execAddiP d a imm s := rfl
@[simp] theorem exec_subP (x : P3) (s : State) :
    exec (.subP x) s = Sys2Proof.Machine.execSubP x s := rfl
@[simp] theorem exec_shlP (d : Fin 32) (a : Fin 32) (b : SSrc) (s : State) :
    exec (.shlP d a b) s = Sys2Proof.Machine.execShlP d a b s := rfl
@[simp] theorem exec_leaH (d : Fin 32) (h : Fin 32) (b : Fin 64) (s : State) :
    exec (.leaH d h b) s = Sys2Proof.Machine.execLeaH d h b s := rfl
@[simp] theorem exec_ldSb (x : Ld) (s : State) :
    exec (.ldSb x) s = Sys2Proof.Machine.execLdSb x s := rfl
@[simp] theorem exec_ldZb (x : Ld) (s : State) :
    exec (.ldZb x) s = Sys2Proof.Machine.execLdZb x s := rfl
@[simp] theorem exec_ldSh (x : Ld) (s : State) :
    exec (.ldSh x) s = Sys2Proof.Machine.execLdSh x s := rfl
@[simp] theorem exec_ldZh (x : Ld) (s : State) :
    exec (.ldZh x) s = Sys2Proof.Machine.execLdZh x s := rfl
@[simp] theorem exec_ldW (x : Ld) (s : State) :
    exec (.ldW x) s = Sys2Proof.Machine.execLdW x s := rfl
@[simp] theorem exec_ldP (d : Fin 32) (base : Base) (off : BitVec 24) (s : State) :
    exec (.ldP d base off) s = Sys2Proof.Machine.execLdP d base off s := rfl
@[simp] theorem exec_stB (x : St) (s : State) :
    exec (.stB x) s = Sys2Proof.Machine.execStB x s := rfl
@[simp] theorem exec_stH (x : St) (s : State) :
    exec (.stH x) s = Sys2Proof.Machine.execStH x s := rfl
@[simp] theorem exec_stW (x : St) (s : State) :
    exec (.stW x) s = Sys2Proof.Machine.execStW x s := rfl
@[simp] theorem exec_stP (base : Base) (off : BitVec 24) (b : Fin 32) (col : Fin 8) (s : State) :
    exec (.stP base off b col) s = Sys2Proof.Machine.execStP base off b col s := rfl
@[simp] theorem exec_ldV (slot : Fin 32) (base : Base) (off : BitVec 24) (s : State) :
    exec (.ldV slot base off) s = Sys2Proof.Machine.execLdV slot base off s := rfl
@[simp] theorem exec_ldVg (slot : Fin 32) (base : Base) (b : VSrc) (ty : Ty) (msk : Fin 16) (s : State) :
    exec (.ldVg slot base b ty msk) s = Sys2Proof.Machine.execLdVg slot base b ty msk s := rfl
@[simp] theorem exec_landingSlotLanded (thread : Nat) (slot : Fin 32) (s : State) :
    exec (.landingSlotLanded thread slot) s = Sys2Proof.Machine.execLandingSlotLanded thread slot s := rfl
@[simp] theorem exec_stV (base : Base) (off : BitVec 24) (b : VSrc) (col : Fin 8) (s : State) :
    exec (.stV base off b col) s = Sys2Proof.Machine.execStV base off b col s := rfl
@[simp] theorem exec_stVs (base : Base) (b : VSrc) (c : VSrc) (ty : Ty) (msk : Fin 16) (col : Fin 8) (s : State) :
    exec (.stVs base b c ty msk col) s = Sys2Proof.Machine.execStVs base b c ty msk col s := rfl
@[simp] theorem exec_commit (d : VDst) (slot : Fin 32) (s : State) :
    exec (.commit d slot) s = Sys2Proof.Machine.execCommit d slot s := rfl
@[simp] theorem exec_hld (d : Fin 32) (base : Base) (off : BitVec 24) (s : State) :
    exec (.hld d base off) s = Sys2Proof.Machine.execHld d base off s := rfl
@[simp] theorem exec_hst (base : Base) (off : BitVec 24) (b : Fin 32) (col : Fin 8) (s : State) :
    exec (.hst base off b col) s = Sys2Proof.Machine.execHst base off b col s := rfl
@[simp] theorem exec_hset (d : Fin 32) (a : Fin 32) (b : SSrc) (k : Fin 8) (s : State) :
    exec (.hset d a b k) s = Sys2Proof.Machine.execHset d a b k s := rfl
@[simp] theorem exec_atAdd (x : AtOp) (s : State) :
    exec (.atAdd x) s = Sys2Proof.Machine.execAtAdd x s := rfl
@[simp] theorem exec_atMin (x : AtOp) (s : State) :
    exec (.atMin x) s = Sys2Proof.Machine.execAtMin x s := rfl
@[simp] theorem exec_atMax (x : AtOp) (s : State) :
    exec (.atMax x) s = Sys2Proof.Machine.execAtMax x s := rfl
@[simp] theorem exec_atAnd (x : AtOp) (s : State) :
    exec (.atAnd x) s = Sys2Proof.Machine.execAtAnd x s := rfl
@[simp] theorem exec_atOr (x : AtOp) (s : State) :
    exec (.atOr x) s = Sys2Proof.Machine.execAtOr x s := rfl
@[simp] theorem exec_atXor (x : AtOp) (s : State) :
    exec (.atXor x) s = Sys2Proof.Machine.execAtXor x s := rfl
@[simp] theorem exec_atCas (d : Fin 64) (base : Base) (b : Fin 64) (c : Fin 64) (wide : Bool) (col : Fin 8) (s : State) :
    exec (.atCas d base b c wide col) s = Sys2Proof.Machine.execAtCas d base b c wide col s := rfl
@[simp] theorem exec_atXchg (d : Fin 64) (x : AtOp) (s : State) :
    exec (.atXchg d x) s = Sys2Proof.Machine.execAtXchg d x s := rfl
@[simp] theorem exec_atFadd (d : Fin 64) (base : Base) (off : BitVec 24) (b : Fin 64) (col : Fin 8) (s : State) :
    exec (.atFadd d base off b col) s = Sys2Proof.Machine.execAtFadd d base off b col s := rfl
@[simp] theorem exec_mark (sc : Scope) (s : State) :
    exec (.mark sc) s = Sys2Proof.Machine.execMark sc s := rfl
@[simp] theorem exec_fence (sc : Scope) (mask : BitVec 8) (s : State) :
    exec (.fence sc mask) s = Sys2Proof.Machine.execFence sc mask s := rfl
@[simp] theorem exec_probe (d : Option (Fin 64)) (p : Fin 32) (b : Fin 64) (kind : BitVec 2) (s : State) :
    exec (.probe d p b kind) s = Sys2Proof.Machine.execProbe d p b kind s := rfl
@[simp] theorem exec_release (p : Fin 32) (b : Fin 64) (s : State) :
    exec (.release p b) s = Sys2Proof.Machine.execRelease p b s := rfl
@[simp] theorem exec_pageRequest (thread : Nat) (s : State) :
    exec (.pageRequest thread) s = Sys2Proof.Machine.execPageRequest thread s := rfl
@[simp] theorem exec_prans (v : W64) (s : State) :
    exec (.prans v) s = Sys2Proof.Machine.execPrans v s := rfl
@[simp] theorem exec_rmap (n : Fin 64) (p : Fin 32) (b : SSrc) (s : State) :
    exec (.rmap n p b) s = Sys2Proof.Machine.execRmap n p b s := rfl
@[simp] theorem exec_runmap (n : Fin 64) (s : State) :
    exec (.runmap n) s = Sys2Proof.Machine.execRunmap n s := rfl
@[simp] theorem exec_granuleFill (opTile : Nat) (region : Fin 64) (granule : Nat) (s : State) :
    exec (.granuleFill opTile region granule) s = Sys2Proof.Machine.execGranuleFill opTile region granule s := rfl
@[simp] theorem exec_rflush (p : Fin 32) (b : SSrc) (s : State) :
    exec (.rflush p b) s = Sys2Proof.Machine.execRflush p b s := rfl
@[simp] theorem exec_stamp (n : Fin 64) (a : SSrc) (s : State) :
    exec (.stamp n a) s = Sys2Proof.Machine.execStamp n a s := rfl
@[simp] theorem exec_wset (w : Fin 6) (p : Fin 32) (levels : Fin 16) (imm : W32) (s : State) :
    exec (.wset w p levels imm) s = Sys2Proof.Machine.execWset w p levels imm s := rfl
@[simp] theorem exec_flCopy (x : Fl) (s : State) :
    exec (.flCopy x) s = Sys2Proof.Machine.execFlCopy x s := rfl
@[simp] theorem exec_flXpose (x : Fl) (s : State) :
    exec (.flXpose x) s = Sys2Proof.Machine.execFlXpose x s := rfl
@[simp] theorem exec_flPerm (x : Fl) (s : State) :
    exec (.flPerm x) s = Sys2Proof.Machine.execFlPerm x s := rfl
@[simp] theorem exec_flGather (x : Fl) (s : State) :
    exec (.flGather x) s = Sys2Proof.Machine.execFlGather x s := rfl
@[simp] theorem exec_flScatter (x : Fl) (s : State) :
    exec (.flScatter x) s = Sys2Proof.Machine.execFlScatter x s := rfl
@[simp] theorem exec_flFill (x : Fl) (s : State) :
    exec (.flFill x) s = Sys2Proof.Machine.execFlFill x s := rfl
@[simp] theorem exec_flMcast (x : Fl) (s : State) :
    exec (.flMcast x) s = Sys2Proof.Machine.execFlMcast x s := rfl
@[simp] theorem exec_flPatch (x : Fl) (s : State) :
    exec (.flPatch x) s = Sys2Proof.Machine.execFlPatch x s := rfl
@[simp] theorem exec_flRope (x : Fl) (s : State) :
    exec (.flRope x) s = Sys2Proof.Machine.execFlRope x s := rfl
@[simp] theorem exec_flPublish (x : Fl) (s : State) :
    exec (.flPublish x) s = Sys2Proof.Machine.execFlPublish x s := rfl
@[simp] theorem exec_flPoll (x : Fl) (s : State) :
    exec (.flPoll x) s = Sys2Proof.Machine.execFlPoll x s := rfl
@[simp] theorem exec_flCancel (x : Fl) (s : State) :
    exec (.flCancel x) s = Sys2Proof.Machine.execFlCancel x s := rfl
@[simp] theorem exec_flumeCommandStart (id : Nat) (s : State) :
    exec (.flumeCommandStart id) s = Sys2Proof.Machine.execFlumeCommandStart id s := rfl
@[simp] theorem exec_flumePublish (id : Nat) (s : State) :
    exec (.flumePublish id) s = Sys2Proof.Machine.execFlumePublish id s := rfl
@[simp] theorem exec_vAdd (x : V2) (s : State) :
    exec (.vAdd x) s = Sys2Proof.Machine.execVAdd x s := rfl
@[simp] theorem exec_vSub (x : V2) (s : State) :
    exec (.vSub x) s = Sys2Proof.Machine.execVSub x s := rfl
@[simp] theorem exec_vMul (x : V2) (s : State) :
    exec (.vMul x) s = Sys2Proof.Machine.execVMul x s := rfl
@[simp] theorem exec_vFma (x : V3) (s : State) :
    exec (.vFma x) s = Sys2Proof.Machine.execVFma x s := rfl
@[simp] theorem exec_vFms (x : V3) (s : State) :
    exec (.vFms x) s = Sys2Proof.Machine.execVFms x s := rfl
@[simp] theorem exec_vMin (x : V2) (s : State) :
    exec (.vMin x) s = Sys2Proof.Machine.execVMin x s := rfl
@[simp] theorem exec_vMax (x : V2) (s : State) :
    exec (.vMax x) s = Sys2Proof.Machine.execVMax x s := rfl
@[simp] theorem exec_vAbs (x : V1) (s : State) :
    exec (.vAbs x) s = Sys2Proof.Machine.execVAbs x s := rfl
@[simp] theorem exec_vNeg (x : V1) (s : State) :
    exec (.vNeg x) s = Sys2Proof.Machine.execVNeg x s := rfl
@[simp] theorem exec_vAbd (x : V2) (s : State) :
    exec (.vAbd x) s = Sys2Proof.Machine.execVAbd x s := rfl
@[simp] theorem exec_vMulh (x : V2) (s : State) :
    exec (.vMulh x) s = Sys2Proof.Machine.execVMulh x s := rfl
@[simp] theorem exec_vMadd (x : V3) (s : State) :
    exec (.vMadd x) s = Sys2Proof.Machine.execVMadd x s := rfl
@[simp] theorem exec_vDot (x : V3) (s : State) :
    exec (.vDot x) s = Sys2Proof.Machine.execVDot x s := rfl
@[simp] theorem exec_vRcp (x : V1) (s : State) :
    exec (.vRcp x) s = Sys2Proof.Machine.execVRcp x s := rfl
@[simp] theorem exec_vRsq (x : V1) (s : State) :
    exec (.vRsq x) s = Sys2Proof.Machine.execVRsq x s := rfl
@[simp] theorem exec_vSqrt (x : V1) (s : State) :
    exec (.vSqrt x) s = Sys2Proof.Machine.execVSqrt x s := rfl
@[simp] theorem exec_vExp2 (x : V1) (s : State) :
    exec (.vExp2 x) s = Sys2Proof.Machine.execVExp2 x s := rfl
@[simp] theorem exec_vLog2 (x : V1) (s : State) :
    exec (.vLog2 x) s = Sys2Proof.Machine.execVLog2 x s := rfl
@[simp] theorem exec_vCvt (x : V1) (src : Ty) (part : Fin 16) (s : State) :
    exec (.vCvt x src part) s = Sys2Proof.Machine.execVCvt x src part s := rfl
@[simp] theorem exec_vScl (x : V2) (src : Ty) (scale : Ty) (s : State) :
    exec (.vScl x src scale) s = Sys2Proof.Machine.execVScl x src scale s := rfl
@[simp] theorem exec_vRnd (x : V1) (s : State) :
    exec (.vRnd x) s = Sys2Proof.Machine.execVRnd x s := rfl
@[simp] theorem exec_vCmp (cc : Cc) (d : Fin 16) (a : VSrc) (b : VSrc) (ty : Ty) (msk : Fin 16) (s : State) :
    exec (.vCmp cc d a b ty msk) s = Sys2Proof.Machine.execVCmp cc d a b ty msk s := rfl
@[simp] theorem exec_vClass (d : Fin 16) (a : VSrc) (set : BitVec 8) (ty : Ty) (msk : Fin 16) (s : State) :
    exec (.vClass d a set ty msk) s = Sys2Proof.Machine.execVClass d a set ty msk s := rfl
@[simp] theorem exec_vSel (x : V2) (q : Fin 16) (s : State) :
    exec (.vSel x q) s = Sys2Proof.Machine.execVSel x q s := rfl
@[simp] theorem exec_vAnd (x : V2) (s : State) :
    exec (.vAnd x) s = Sys2Proof.Machine.execVAnd x s := rfl
@[simp] theorem exec_vOr (x : V2) (s : State) :
    exec (.vOr x) s = Sys2Proof.Machine.execVOr x s := rfl
@[simp] theorem exec_vXor (x : V2) (s : State) :
    exec (.vXor x) s = Sys2Proof.Machine.execVXor x s := rfl
@[simp] theorem exec_vNot (x : V1) (s : State) :
    exec (.vNot x) s = Sys2Proof.Machine.execVNot x s := rfl
@[simp] theorem exec_vShl (x : V2) (s : State) :
    exec (.vShl x) s = Sys2Proof.Machine.execVShl x s := rfl
@[simp] theorem exec_vShr (x : V2) (s : State) :
    exec (.vShr x) s = Sys2Proof.Machine.execVShr x s := rfl
@[simp] theorem exec_vSra (x : V2) (s : State) :
    exec (.vSra x) s = Sys2Proof.Machine.execVSra x s := rfl
@[simp] theorem exec_vPopc (x : V1) (s : State) :
    exec (.vPopc x) s = Sys2Proof.Machine.execVPopc x s := rfl
@[simp] theorem exec_vClz (x : V1) (s : State) :
    exec (.vClz x) s = Sys2Proof.Machine.execVClz x s := rfl
@[simp] theorem exec_vRedAdd (x : VRed) (s : State) :
    exec (.vRedAdd x) s = Sys2Proof.Machine.execVRedAdd x s := rfl
@[simp] theorem exec_vRedMax (x : VRed) (s : State) :
    exec (.vRedMax x) s = Sys2Proof.Machine.execVRedMax x s := rfl
@[simp] theorem exec_vRedMin (x : VRed) (s : State) :
    exec (.vRedMin x) s = Sys2Proof.Machine.execVRedMin x s := rfl
@[simp] theorem exec_vScan (x : VRed) (s : State) :
    exec (.vScan x) s = Sys2Proof.Machine.execVScan x s := rfl
@[simp] theorem exec_vPerm (x : V2) (s : State) :
    exec (.vPerm x) s = Sys2Proof.Machine.execVPerm x s := rfl
@[simp] theorem exec_vBcast (x : V1) (b : SSrc) (s : State) :
    exec (.vBcast x b) s = Sys2Proof.Machine.execVBcast x b s := rfl
@[simp] theorem exec_vBcastScalar (nw : Bool) (d : VDst) (b : SSrc) (ty : Ty) (msk : Fin 16) (s : State) :
    exec (.vBcastScalar nw d b ty msk) s = Sys2Proof.Machine.execVBcastScalar nw d b ty msk s := rfl
@[simp] theorem exec_vShuf (x : V2) (k : Fin 4) (s : State) :
    exec (.vShuf x k) s = Sys2Proof.Machine.execVShuf x k s := rfl
@[simp] theorem exec_vSlide (x : V2) (c : SSrc) (s : State) :
    exec (.vSlide x c) s = Sys2Proof.Machine.execVSlide x c s := rfl
@[simp] theorem exec_vBrev (x : V1) (b : Fin 16) (s : State) :
    exec (.vBrev x b) s = Sys2Proof.Machine.execVBrev x b s := rfl
@[simp] theorem exec_vMov (x : V1) (s : State) :
    exec (.vMov x) s = Sys2Proof.Machine.execVMov x s := rfl
@[simp] theorem exec_vIns (d : Fin 96) (a : SSrc) (b : SSrc) (ty : Ty) (s : State) :
    exec (.vIns d a b ty) s = Sys2Proof.Machine.execVIns d a b ty s := rfl
@[simp] theorem exec_vGet (d : Fin 64) (a : VSrc) (b : SSrc) (ty : Ty) (s : State) :
    exec (.vGet d a b ty) s = Sys2Proof.Machine.execVGet d a b ty s := rfl
@[simp] theorem exec_vPack (x : V2) (s : State) :
    exec (.vPack x) s = Sys2Proof.Machine.execVPack x s := rfl
@[simp] theorem exec_vUnpack (x : V1) (half : Bool) (int4 : Bool) (s : State) :
    exec (.vUnpack x half int4) s = Sys2Proof.Machine.execVUnpack x half int4 s := rfl
@[simp] theorem exec_vIota (nw : Bool) (d : VDst) (a : SSrc) (ty : Ty) (msk : Fin 16) (s : State) :
    exec (.vIota nw d a ty msk) s = Sys2Proof.Machine.execVIota nw d a ty msk s := rfl
@[simp] theorem exec_qAnd (x : Q3) (s : State) :
    exec (.qAnd x) s = Sys2Proof.Machine.execQAnd x s := rfl
@[simp] theorem exec_qOr (x : Q3) (s : State) :
    exec (.qOr x) s = Sys2Proof.Machine.execQOr x s := rfl
@[simp] theorem exec_qXor (x : Q3) (s : State) :
    exec (.qXor x) s = Sys2Proof.Machine.execQXor x s := rfl
@[simp] theorem exec_qNot (d : Fin 16) (a : Fin 16) (s : State) :
    exec (.qNot d a) s = Sys2Proof.Machine.execQNot d a s := rfl
@[simp] theorem exec_qMov (d : Fin 16) (a : Fin 16) (s : State) :
    exec (.qMov d a) s = Sys2Proof.Machine.execQMov d a s := rfl
@[simp] theorem exec_qCnt (d : Fin 64) (a : Fin 16) (ty : Ty) (s : State) :
    exec (.qCnt d a ty) s = Sys2Proof.Machine.execQCnt d a ty s := rfl
@[simp] theorem exec_qFirst (d : Fin 64) (a : Fin 16) (ty : Ty) (s : State) :
    exec (.qFirst d a ty) s = Sys2Proof.Machine.execQFirst d a ty s := rfl
@[simp] theorem exec_mLease (mask : BitVec 4) (s : State) :
    exec (.mLease mask) s = Sys2Proof.Machine.execMLease mask s := rfl
@[simp] theorem exec_leaseGrant (tile : Nat) (thread : Nat) (s : State) :
    exec (.leaseGrant tile thread) s = Sys2Proof.Machine.execLeaseGrant tile thread s := rfl
@[simp] theorem exec_mFree (mask : BitVec 4) (s : State) :
    exec (.mFree mask) s = Sys2Proof.Machine.execMFree mask s := rfl
@[simp] theorem exec_mZero (acc : Fin 4) (s : State) :
    exec (.mZero acc) s = Sys2Proof.Machine.execMZero acc s := rfl
@[simp] theorem exec_mWait (s : State) :
    exec (.mWait) s = Sys2Proof.Machine.execMWait s := rfl
@[simp] theorem exec_mMma (x : MMul) (s : State) :
    exec (.mMma x) s = Sys2Proof.Machine.execMMma x s := rfl
@[simp] theorem exec_mMmas (acc : Fin 4) (a : Fin 32) (b : Fin 32) (tyA : Ty) (tyB : Ty) (scale : Ty) (bsz : Fin 4) (add : Bool) (k : BitVec 16) (s : State) :
    exec (.mMmas acc a b tyA tyB scale bsz add k) s = Sys2Proof.Machine.execMMmas acc a b tyA tyB scale bsz add k s := rfl
@[simp] theorem exec_mCellp (x : MMul) (s : State) :
    exec (.mCellp x) s = Sys2Proof.Machine.execMCellp x s := rfl
@[simp] theorem exec_mProg (a : Fin 32) (slot : Fin 4) (s : State) :
    exec (.mProg a slot) s = Sys2Proof.Machine.execMProg a slot s := rfl
@[simp] theorem exec_mDrain (src : Fin 4) (a : Fin 32) (tyD : Ty) (tyS : Ty) (sat : Bool) (rnd : Rnd) (s : State) :
    exec (.mDrain src a tyD tyS sat rnd) s = Sys2Proof.Machine.execMDrain src a tyD tyS sat rnd s := rfl
@[simp] theorem exec_mFill (acc : Fin 4) (a : MSrc) (ty : Ty) (s : State) :
    exec (.mFill acc a ty) s = Sys2Proof.Machine.execMFill acc a ty s := rfl
@[simp] theorem exec_mAdd (acc : Fin 4) (src : Fin 4) (ty : Ty) (sat : Bool) (s : State) :
    exec (.mAdd acc src ty sat) s = Sys2Proof.Machine.execMAdd acc src ty sat s := rfl
@[simp] theorem exec_mScale (acc : Fin 4) (a : MSrc) (ty : Ty) (s : State) :
    exec (.mScale acc a ty) s = Sys2Proof.Machine.execMScale acc a ty s := rfl
@[simp] theorem exec_mBfly (acc : Fin 4) (a : BitVec 4) (b : BitVec 3) (c : BitVec 2) (is : BitVec 4) (e : BitVec 2) (inv : Bool) (s : State) :
    exec (.mBfly acc a b c is e inv) s = Sys2Proof.Machine.execMBfly acc a b c is e inv s := rfl
@[simp] theorem exec_mBrev (acc : Fin 4) (src : Fin 4) (a : BitVec 4) (b : BitVec 3) (c : BitVec 2) (bits : Bool) (s : State) :
    exec (.mBrev acc src a b c bits) s = Sys2Proof.Machine.execMBrev acc src a b c bits s := rfl
@[simp] theorem exec_mTwid (acc : Fin 4) (src : Fin 4) (a : BitVec 5) (b : BitVec 4) (c : BitVec 3) (inv : Bool) (bf16 : Bool) (s : State) :
    exec (.mTwid acc src a b c inv bf16) s = Sys2Proof.Machine.execMTwid acc src a b c inv bf16 s := rfl
@[simp] theorem exec_mTmul (acc : Fin 4) (src : Fin 4) (conj : Bool) (s : State) :
    exec (.mTmul acc src conj) s = Sys2Proof.Machine.execMTmul acc src conj s := rfl
@[simp] theorem exec_arrayTurnEnd (tile : Nat) (s : State) :
    exec (.arrayTurnEnd tile) s = Sys2Proof.Machine.execArrayTurnEnd tile s := rfl
@[simp] theorem exec_matrixCommandComplete (thread : Nat) (s : State) :
    exec (.matrixCommandComplete thread) s = Sys2Proof.Machine.execMatrixCommandComplete thread s := rfl
@[simp] theorem exec_updateOnlyLineEviction (tile : Nat) (line : Nat) (s : State) :
    exec (.updateOnlyLineEviction tile line) s = Sys2Proof.Machine.execUpdateOnlyLineEviction tile line s := rfl
@[simp] theorem exec_l2WriteBack (line : Nat) (evict : Bool) (s : State) :
    exec (.l2WriteBack line evict) s = Sys2Proof.Machine.execL2WriteBack line evict s := rfl
@[simp] theorem exec_colourQueuePerform (thread : Nat) (col : Fin 8) (s : State) :
    exec (.colourQueuePerform thread col) s = Sys2Proof.Machine.execColourQueuePerform thread col s := rfl
@[simp] theorem exec_allotRefill (tile : Nat) (s : State) :
    exec (.allotRefill tile) s = Sys2Proof.Machine.execAllotRefill tile s := rfl
@[simp] theorem exec_portSend (tile : Nat) (s : State) :
    exec (.portSend tile) s = Sys2Proof.Machine.execPortSend tile s := rfl
@[simp] theorem exec_codeObjectRemoval (pasid : Nat) (number : Nat) (s : State) :
    exec (.codeObjectRemoval pasid number) s = Sys2Proof.Machine.execCodeObjectRemoval pasid number s := rfl
@[simp] theorem exec_tileRetirement (tile : Nat) (s : State) :
    exec (.tileRetirement tile) s = Sys2Proof.Machine.execTileRetirement tile s := rfl
@[simp] theorem exec_retiredTileTest (tile : Nat) (passes : Bool) (s : State) :
    exec (.retiredTileTest tile passes) s = Sys2Proof.Machine.execRetiredTileTest tile passes s := rfl
@[simp] theorem exec_leaseTimeout (thread : Nat) (s : State) :
    exec (.leaseTimeout thread) s = Sys2Proof.Machine.execLeaseTimeout thread s := rfl
@[simp] theorem exec_preemptionDeadline (thread : Nat) (s : State) :
    exec (.preemptionDeadline thread) s = Sys2Proof.Machine.execPreemptionDeadline thread s := rfl
@[simp] theorem exec_wkinv (v : W64) (s : State) :
    exec (.wkinv v) s = Sys2Proof.Machine.execWkinv v s := rfl
@[simp] theorem exec_tlbInvalidationComplete (s : State) :
    exec (.tlbInvalidationComplete) s = Sys2Proof.Machine.execTlbInvalidationComplete s := rfl
@[simp] theorem exec_qdinv (v : W64) (s : State) :
    exec (.qdinv v) s = Sys2Proof.Machine.execQdinv v s := rfl
@[simp] theorem exec_directoryInvalidationComplete (s : State) :
    exec (.directoryInvalidationComplete) s = Sys2Proof.Machine.execDirectoryInvalidationComplete s := rfl
@[simp] theorem exec_sweeperVisit (stack : Fin 8) (s : State) :
    exec (.sweeperVisit stack) s = Sys2Proof.Machine.execSweeperVisit stack s := rfl
@[simp] theorem exec_swleave (stack : Fin 8) (v : W64) (s : State) :
    exec (.swleave stack v) s = Sys2Proof.Machine.execSwleave stack v s := rfl
@[simp] theorem exec_swfree (stack : Fin 8) (v : W64) (s : State) :
    exec (.swfree stack v) s = Sys2Proof.Machine.execSwfree stack v s := rfl
@[simp] theorem exec_channelSparing (stack : Fin 8) (channel : Fin 64) (s : State) :
    exec (.channelSparing stack channel) s = Sys2Proof.Machine.execChannelSparing stack channel s := rfl
@[simp] theorem exec_doorbellKick (slot : Door) (offset : Nat) (bytes : Nat) (k : W32) (s : State) :
    exec (.doorbellKick slot offset bytes k) s = Sys2Proof.Machine.execDoorbellKick slot offset bytes k s := rfl
@[simp] theorem exec_recordRead (slot : Nat) (s : State) :
    exec (.recordRead slot) s = Sys2Proof.Machine.execRecordRead slot s := rfl
@[simp] theorem exec_waitWordSatisfied (slot : Nat) (index : W32) (s : State) :
    exec (.waitWordSatisfied slot index) s = Sys2Proof.Machine.execWaitWordSatisfied slot index s := rfl
@[simp] theorem exec_recordPlacement (r : Rect) (s : State) :
    exec (.recordPlacement r) s = Sys2Proof.Machine.execRecordPlacement r s := rfl
@[simp] theorem exec_chainSuccessorStart (slot : Nat) (index : W32) (s : State) :
    exec (.chainSuccessorStart slot index) s = Sys2Proof.Machine.execChainSuccessorStart slot index s := rfl
@[simp] theorem exec_headPassedOver (s : State) :
    exec (.headPassedOver) s = Sys2Proof.Machine.execHeadPassedOver s := rfl
@[simp] theorem exec_operatorCompletion (op : Nat) (s : State) :
    exec (.operatorCompletion op) s = Sys2Proof.Machine.execOperatorCompletion op s := rfl
@[simp] theorem exec_preemption (victims : List Nat) (s : State) :
    exec (.preemption victims) s = Sys2Proof.Machine.execPreemption victims s := rfl
@[simp] theorem exec_switchOut (op : Nat) (s : State) :
    exec (.switchOut op) s = Sys2Proof.Machine.execSwitchOut op s := rfl
@[simp] theorem exec_operatorResume (op : Nat) (r : Rect) (s : State) :
    exec (.operatorResume op r) s = Sys2Proof.Machine.execOperatorResume op r s := rfl
@[simp] theorem exec_withdrawal (slot : Nat) (s : State) :
    exec (.withdrawal slot) s = Sys2Proof.Machine.execWithdrawal slot s := rfl
@[simp] theorem exec_pondRunStart (run : Fin 4) (slot : Nat) (r : Rect) (s : State) :
    exec (.pondRunStart run slot r) s = Sys2Proof.Machine.execPondRunStart run slot r s := rfl
@[simp] theorem exec_pondRunStop (run : Fin 4) (s : State) :
    exec (.pondRunStop run) s = Sys2Proof.Machine.execPondRunStop run s := rfl
@[simp] theorem exec_pondRunClaimable (run : Fin 4) (s : State) :
    exec (.pondRunClaimable run) s = Sys2Proof.Machine.execPondRunClaimable run s := rfl
@[simp] theorem exec_pondClaim (run : Fin 4) (s : State) :
    exec (.pondClaim run) s = Sys2Proof.Machine.execPondClaim run s := rfl
@[simp] theorem exec_prctl (v : W64) (s : State) :
    exec (.prctl v) s = Sys2Proof.Machine.execPrctl v s := rfl
@[simp] theorem exec_ctxCreate (ctx : Nat) (s : State) :
    exec (.ctxCreate ctx) s = Sys2Proof.Machine.execCtxCreate ctx s := rfl
@[simp] theorem exec_ctxKill (ctx : Nat) (s : State) :
    exec (.ctxKill ctx) s = Sys2Proof.Machine.execCtxKill ctx s := rfl
@[simp] theorem exec_killComplete (s : State) :
    exec (.killComplete) s = Sys2Proof.Machine.execKillComplete s := rfl
@[simp] theorem exec_ctxDestroy (ctx : Nat) (s : State) :
    exec (.ctxDestroy ctx) s = Sys2Proof.Machine.execCtxDestroy ctx s := rfl
@[simp] theorem exec_ctxResumeOperator (slot : Nat) (index : W32) (s : State) :
    exec (.ctxResumeOperator slot index) s = Sys2Proof.Machine.execCtxResumeOperator slot index s := rfl
@[simp] theorem exec_ctxEndOperator (slot : Nat) (index : W32) (s : State) :
    exec (.ctxEndOperator slot index) s = Sys2Proof.Machine.execCtxEndOperator slot index s := rfl
@[simp] theorem exec_ctxMigrate (ctx : Nat) (s : State) :
    exec (.ctxMigrate ctx) s = Sys2Proof.Machine.execCtxMigrate ctx s := rfl
@[simp] theorem exec_migrationCheckpoint (ctx : Nat) (s : State) :
    exec (.migrationCheckpoint ctx) s = Sys2Proof.Machine.execMigrationCheckpoint ctx s := rfl
@[simp] theorem exec_codeObjectLoad (img : ObjImage) (number : Nat) (s : State) :
    exec (.codeObjectLoad img number) s = Sys2Proof.Machine.execCodeObjectLoad img number s := rfl
@[simp] theorem exec_codeObjectUnload (pasid : Nat) (number : Nat) (s : State) :
    exec (.codeObjectUnload pasid number) s = Sys2Proof.Machine.execCodeObjectUnload pasid number s := rfl
@[simp] theorem exec_codeObjectQuery (pasid : Nat) (number : Nat) (s : State) :
    exec (.codeObjectQuery pasid number) s = Sys2Proof.Machine.execCodeObjectQuery pasid number s := rfl
@[simp] theorem exec_blockTranslation (pasid : Nat) (number : Nat) (label : BitVec 16) (bundles : List W64) (s : State) :
    exec (.blockTranslation pasid number label bundles) s = Sys2Proof.Machine.execBlockTranslation pasid number label bundles s := rfl
@[simp] theorem exec_riderCoreFailover (core : Fin 18) (s : State) :
    exec (.riderCoreFailover core) s = Sys2Proof.Machine.execRiderCoreFailover core s := rfl
@[simp] theorem exec_grantFault (core : Fin 18) (grant : Nat) (offset : Nat) (size : Nat) (write : RiderOp) (s : State) :
    exec (.grantFault core grant offset size write) s = Sys2Proof.Machine.execGrantFault core grant offset size write s := rfl
@[simp] theorem exec_flitReceive (port : Fin 18) (flit : FlitIn) (s : State) :
    exec (.flitReceive port flit) s = Sys2Proof.Machine.execFlitReceive port flit s := rfl
@[simp] theorem exec_flitReplay (port : Fin 18) (s : State) :
    exec (.flitReplay port) s = Sys2Proof.Machine.execFlitReplay port s := rfl
@[simp] theorem exec_laneCheck (port : Fin 18) (bad : List (Bool × Fin 16)) (s : State) :
    exec (.laneCheck port bad) s = Sys2Proof.Machine.execLaneCheck port bad s := rfl
@[simp] theorem exec_bringUp (fails : BootFailures) (units : List (BitVec 6)) (s : State) :
    exec (.bringUp fails units) s = Sys2Proof.Machine.execBringUp fails units s := rfl
@[simp] theorem exec_thermalEvent (milli : W32) (s : State) :
    exec (.thermalEvent milli) s = Sys2Proof.Machine.execThermalEvent milli s := rfl
@[simp] theorem exec_thermalShutdown (milli : W32) (s : State) :
    exec (.thermalShutdown milli) s = Sys2Proof.Machine.execThermalShutdown milli s := rfl
@[simp] theorem exec_serviceConnection (cert : SvcIn) (s : State) :
    exec (.serviceConnection cert) s = Sys2Proof.Machine.execServiceConnection cert s := rfl
@[simp] theorem exec_serviceConnectionClose (conn : Fin 4) (s : State) :
    exec (.serviceConnectionClose conn) s = Sys2Proof.Machine.execServiceConnectionClose conn s := rfl
@[simp] theorem exec_readBootRecord (conn : Fin 4) (seq : W32) (body : List (BitVec 8)) (s : State) :
    exec (.readBootRecord conn seq body) s = Sys2Proof.Machine.execReadBootRecord conn seq body s := rfl
@[simp] theorem exec_clearBootRecord (conn : Fin 4) (seq : W32) (body : List (BitVec 8)) (s : State) :
    exec (.clearBootRecord conn seq body) s = Sys2Proof.Machine.execClearBootRecord conn seq body s := rfl
@[simp] theorem exec_readServiceLog (conn : Fin 4) (seq : W32) (body : List (BitVec 8)) (s : State) :
    exec (.readServiceLog conn seq body) s = Sys2Proof.Machine.execReadServiceLog conn seq body s := rfl
@[simp] theorem exec_readSpeedTable (conn : Fin 4) (seq : W32) (body : List (BitVec 8)) (s : State) :
    exec (.readSpeedTable conn seq body) s = Sys2Proof.Machine.execReadSpeedTable conn seq body s := rfl
@[simp] theorem exec_readRlim (conn : Fin 4) (seq : W32) (body : List (BitVec 8)) (s : State) :
    exec (.readRlim conn seq body) s = Sys2Proof.Machine.execReadRlim conn seq body s := rfl
@[simp] theorem exec_readTelemetry (conn : Fin 4) (seq : W32) (body : List (BitVec 8)) (s : State) :
    exec (.readTelemetry conn seq body) s = Sys2Proof.Machine.execReadTelemetry conn seq body s := rfl
@[simp] theorem exec_beginFirmwareImage (conn : Fin 4) (seq : W32) (body : List (BitVec 8)) (s : State) :
    exec (.beginFirmwareImage conn seq body) s = Sys2Proof.Machine.execBeginFirmwareImage conn seq body s := rfl
@[simp] theorem exec_firmwareChunk (conn : Fin 4) (seq : W32) (body : List (BitVec 8)) (s : State) :
    exec (.firmwareChunk conn seq body) s = Sys2Proof.Machine.execFirmwareChunk conn seq body s := rfl
@[simp] theorem exec_commitFirmwareImage (conn : Fin 4) (seq : W32) (body : List (BitVec 8)) (s : State) :
    exec (.commitFirmwareImage conn seq body) s = Sys2Proof.Machine.execCommitFirmwareImage conn seq body s := rfl
@[simp] theorem exec_registerWrite (offset : Nat) (bytes : Nat) (v : W64) (s : State) :
    exec (.registerWrite offset bytes v) s = Sys2Proof.Machine.execRegisterWrite offset bytes v s := rfl
@[simp] theorem exec_hostCoreAccess (core : Fin 48) (pasid : Nat) (va : W64) (op : HostOp) (s : State) :
    exec (.hostCoreAccess core pasid va op) s = Sys2Proof.Machine.execHostCoreAccess core pasid va op s := rfl
@[simp] theorem exec_pcieDeviceAccess (link : Fin 2) (pasid : Nat) (va : W64) (op : HostOp) (s : State) :
    exec (.pcieDeviceAccess link pasid va op) s = Sys2Proof.Machine.execPcieDeviceAccess link pasid va op s := rfl

end Sys2Proof.Machine
end

