-- ==== Sys2Proof/Laws/Frames.lean ====
section
/-! SUPPORT. The frames of the meanings: what each answers, said once, so that no proof about an instruction unfolds
them. -/

namespace Sys2Proof.Machine

/-! ## runPure -/

theorem runPure_ok {s : State} {t t' : Thread} {f : Thread → Except Stop Thread}
    (ht : mfind s.threads s.cur = some t) (hf : f t = .ok t') : runPure s f = .next (s.setThread s.cur t') := by
  simp [runPure, ht, hf]

theorem runPure_error {s : State} {t : Thread} {f : Thread → Except Stop Thread} {e : Stop}
    (ht : mfind s.threads s.cur = some t) (hf : f t = .error e) : runPure s f = .next (stopAt s s.cur t e) := by
  simp [runPure, ht, hf]

/-- Everything a register operation can do. -/
theorem runPure_cases (s : State) (f : Thread → Except Stop Thread) :
    (mfind s.threads s.cur = none ∧ runPure s f = .next s)
    ∨ (∃ t t', mfind s.threads s.cur = some t ∧ f t = .ok t' ∧ runPure s f = .next (s.setThread s.cur t'))
    ∨ ∃ t e, mfind s.threads s.cur = some t ∧ f t = .error e ∧ runPure s f = .next (stopAt s s.cur t e) := by
  cases ht : mfind s.threads s.cur with
  | none => exact .inl ⟨rfl, by simp [runPure, ht]⟩
  | some t =>
    cases hf : f t with
    | ok t' => exact .inr (.inl ⟨t, t', rfl, hf, runPure_ok ht hf⟩)
    | error e => exact .inr (.inr ⟨t, e, rfl, hf, runPure_error ht hf⟩)

/-! ## runOp -/

theorem runOp_ok {s s' : State} {t t' : Thread} {f : Thread → Op Thread}
    (ht : mfind s.threads s.cur = some t) (hf : (f t).run s = (.ok t', s')) :
    runOp s f = .next (s'.setThread s.cur t') := by
  simp only [runOp, ht]
  rw [hf]

theorem runOp_error {s s' : State} {t : Thread} {f : Thread → Op Thread} {e : Stop}
    (ht : mfind s.threads s.cur = some t) (hf : (f t).run s = (.error e, s')) :
    runOp s f = .next (stopAt s' s.cur t e) := by
  simp only [runOp, ht]
  rw [hf]

/-- Everything an operation on the device can do. -/
theorem runOp_cases (s : State) (f : Thread → Op Thread) :
    (mfind s.threads s.cur = none ∧ runOp s f = .next s)
    ∨ (∃ t t' s', mfind s.threads s.cur = some t ∧ (f t).run s = (.ok t', s')
        ∧ runOp s f = .next (s'.setThread s.cur t'))
    ∨ ∃ t e s', mfind s.threads s.cur = some t ∧ (f t).run s = (.error e, s')
        ∧ runOp s f = .next (stopAt s' s.cur t e) := by
  cases ht : mfind s.threads s.cur with
  | none => exact .inl ⟨rfl, by simp [runOp, ht]⟩
  | some t =>
    rcases hf : (f t).run s with ⟨r, s'⟩
    cases r with
    | ok t' => exact .inr (.inl ⟨t, t', s', rfl, hf, runOp_ok ht hf⟩)
    | error e => exact .inr (.inr ⟨t, e, s', rfl, hf, runOp_error ht hf⟩)

/-! ## The monad of the operations, computed -/

@[simp] theorem op_run_pure {α : Type} (x : α) (s : State) : (pure x : Op α).run s = (.ok x, s) := rfl
@[simp] theorem op_run_throw {α : Type} (e : Stop) (s : State) : (throw e : Op α).run s = (.error e, s) := rfl
@[simp] theorem op_run_get (s : State) : (get : Op State).run s = (.ok s, s) := rfl
@[simp] theorem op_run_set (x s : State) : (set x : Op PUnit).run s = (.ok ⟨⟩, x) := rfl
@[simp] theorem op_run_modify (f : State → State) (s : State) : (modify f : Op PUnit).run s = (.ok ⟨⟩, f s) := rfl

theorem op_run_bind {α β : Type} (m : Op α) (f : α → Op β) (s : State) :
    (m >>= f).run s = match m.run s with
      | (.ok x, s') => (f x).run s'
      | (.error e, s') => (.error e, s') := by
  show (ExceptT.run (m >>= f)).run s = _
  rw [ExceptT.run_bind]
  rcases h : m.run s with ⟨r, s'⟩
  have h' : (ExceptT.run m).run s = (r, s') := h
  cases r <;> (rw [StateT.run_bind, h']; rfl)

theorem op_run_bind_ok {α β : Type} {m : Op α} {f : α → Op β} {s s' : State} {x : α} (h : m.run s = (.ok x, s')) :
    (m >>= f).run s = (f x).run s' := by
  rw [op_run_bind, h]

theorem op_run_bind_error {α β : Type} {m : Op α} {f : α → Op β} {s s' : State} {e : Stop}
    (h : m.run s = (.error e, s')) : (m >>= f).run s = (.error e, s') := by
  rw [op_run_bind, h]

@[simp] theorem op_run_lift_ok {α : Type} (x : α) (s : State) :
    (liftM (.ok x : Except Stop α) : Op α).run s = (.ok x, s) := rfl
@[simp] theorem op_run_lift_error {α : Type} (e : Stop) (s : State) :
    (liftM (.error e : Except Stop α) : Op α).run s = (.error e, s) := rfl

/-! ## runGated -/

/-- At its place in a block, a gated operation is captured. -/
theorem runGated_capture {i : Instr} {cap : Thread → Op Thread} {iss : Gated → Thread → Op Thread} {s s' : State}
    {t t' : Thread} (ht : mfind s.threads s.cur = some t) (hr : t.run ≠ .issuing)
    (hc : (cap t).run s = (.ok t', s')) : runGated i cap iss s = .next (s'.setThread s.cur t') := by
  refine runOp_ok ht ?_
  simpa [hr] using hc

/-- After the seal, the first gated operation left issues. -/
theorem runGated_issue {i : Instr} {cap : Thread → Op Thread} {iss : Gated → Thread → Op Thread} {s s' : State}
    {t t' : Thread} {g : Gated} {rest : List Gated} (ht : mfind s.threads s.cur = some t) (hr : t.run = .issuing)
    (hi : t.issue = g :: rest) (hg : g.instr = i) (hp : (s.pondOf t.op).isSome = false ∨ pondMay i = true)
    (hc : (iss g { t with issue := rest }).run s = (.ok t', s')) :
    runGated i cap iss s = .next (s'.setThread s.cur (finishIssue s' t')) := by
  refine runOp_ok ht ?_
  rw [if_pos hr]
  simp only [hi, hg, if_true]
  have hb : ((s.pondOf t.op).isSome && !pondMay i) = false := by rcases hp with h | h <;> simp [h]
  rw [op_run_bind_ok (op_run_get s)]
  simp only [hb, Bool.false_eq_true, if_false]
  rw [op_run_bind_ok hc, op_run_bind_ok (op_run_get s'), op_run_pure]

end Sys2Proof.Machine
end

