-- ==== Sys2Proof/Laws/State.lean ====
section
/-! SUPPORT. One lemma per field per update of the machine's state, true by rfl: what each update changes, and that it
leaves every other field as it was. -/

namespace Sys2Proof.Machine

/-! ## setThread -/

@[simp] theorem State.setThread_time (s : State) (k : Nat) (t : Thread) : (s.setThread k t).time = s.time := rfl
@[simp] theorem State.setThread_cur (s : State) (k : Nat) (t : Thread) : (s.setThread k t).cur = s.cur := rfl
@[simp] theorem State.setThread_agenda (s : State) (k : Nat) (t : Thread) : (s.setThread k t).agenda = s.agenda := rfl
@[simp] theorem State.setThread_freshTick (s : State) (k : Nat) (t : Thread) : (s.setThread k t).freshTick = s.freshTick := rfl
@[simp] theorem State.setThread_drainPicks (s : State) (k : Nat) (t : Thread) : (s.setThread k t).drainPicks = s.drainPicks := rfl
@[simp] theorem State.setThread_hole (s : State) (k : Nat) (t : Thread) : (s.setThread k t).hole = s.hole := rfl
@[simp] theorem State.setThread_hwErrors (s : State) (k : Nat) (t : Thread) : (s.setThread k t).hwErrors = s.hwErrors := rfl
@[simp] theorem State.setThread_mem (s : State) (k : Nat) (t : Thread) : (s.setThread k t).mem = s.mem := rfl
@[simp] theorem State.setThread_l2 (s : State) (k : Nat) (t : Thread) : (s.setThread k t).l2 = s.l2 := rfl
@[simp] theorem State.setThread_threads (s : State) (k : Nat) (t : Thread) : (s.setThread k t).threads = mput s.threads k t := rfl
@[simp] theorem State.setThread_ops (s : State) (k : Nat) (t : Thread) : (s.setThread k t).ops = s.ops := rfl
@[simp] theorem State.setThread_opTiles (s : State) (k : Nat) (t : Thread) : (s.setThread k t).opTiles = s.opTiles := rfl
@[simp] theorem State.setThread_tiles (s : State) (k : Nat) (t : Thread) : (s.setThread k t).tiles = s.tiles := rfl
@[simp] theorem State.setThread_flumes (s : State) (k : Nat) (t : Thread) : (s.setThread k t).flumes = s.flumes := rfl
@[simp] theorem State.setThread_nextFlume (s : State) (k : Nat) (t : Thread) : (s.setThread k t).nextFlume = s.nextFlume := rfl
@[simp] theorem State.setThread_objs (s : State) (k : Nat) (t : Thread) : (s.setThread k t).objs = s.objs := rfl
@[simp] theorem State.setThread_terraces (s : State) (k : Nat) (t : Thread) : (s.setThread k t).terraces = s.terraces := rfl
@[simp] theorem State.setThread_basin (s : State) (k : Nat) (t : Thread) : (s.setThread k t).basin = s.basin := rfl
@[simp] theorem State.setThread_speedt (s : State) (k : Nat) (t : Thread) : (s.setThread k t).speedt = s.speedt := rfl
@[simp] theorem State.setThread_queues (s : State) (k : Nat) (t : Thread) : (s.setThread k t).queues = s.queues := rfl
@[simp] theorem State.setThread_recs (s : State) (k : Nat) (t : Thread) : (s.setThread k t).recs = s.recs := rfl
@[simp] theorem State.setThread_reqs (s : State) (k : Nat) (t : Thread) : (s.setThread k t).reqs = s.reqs := rfl
@[simp] theorem State.setThread_reqSeq (s : State) (k : Nat) (t : Thread) : (s.setThread k t).reqSeq = s.reqSeq := rfl
@[simp] theorem State.setThread_nextOp (s : State) (k : Nat) (t : Thread) : (s.setThread k t).nextOp = s.nextOp := rfl
@[simp] theorem State.setThread_headSince (s : State) (k : Nat) (t : Thread) : (s.setThread k t).headSince = s.headSince := rfl
@[simp] theorem State.setThread_ponds (s : State) (k : Nat) (t : Thread) : (s.setThread k t).ponds = s.ponds := rfl
@[simp] theorem State.setThread_pondFree (s : State) (k : Nat) (t : Thread) : (s.setThread k t).pondFree = s.pondFree := rfl
@[simp] theorem State.setThread_sweepers (s : State) (k : Nat) (t : Thread) : (s.setThread k t).sweepers = s.sweepers := rfl
@[simp] theorem State.setThread_allot (s : State) (k : Nat) (t : Thread) : (s.setThread k t).allot = s.allot := rfl
@[simp] theorem State.setThread_riders (s : State) (k : Nat) (t : Thread) : (s.setThread k t).riders = s.riders := rfl
@[simp] theorem State.setThread_packets (s : State) (k : Nat) (t : Thread) : (s.setThread k t).packets = s.packets := rfl
@[simp] theorem State.setThread_ports (s : State) (k : Nat) (t : Thread) : (s.setThread k t).ports = s.ports := rfl
@[simp] theorem State.setThread_svc (s : State) (k : Nat) (t : Thread) : (s.setThread k t).svc = s.svc := rfl
@[simp] theorem State.setThread_junction (s : State) (k : Nat) (t : Thread) : (s.setThread k t).junction = s.junction := rfl
@[simp] theorem State.setThread_off (s : State) (k : Nat) (t : Thread) : (s.setThread k t).off = s.off := rfl
@[simp] theorem State.setThread_hostSeen (s : State) (k : Nat) (t : Thread) : (s.setThread k t).hostSeen = s.hostSeen := rfl
@[simp] theorem State.setThread_hostRes (s : State) (k : Nat) (t : Thread) : (s.setThread k t).hostRes = s.hostRes := rfl
@[simp] theorem State.setThread_loaderOut (s : State) (k : Nat) (t : Thread) : (s.setThread k t).loaderOut = s.loaderOut := rfl

/-! ## setOp -/

@[simp] theorem State.setOp_time (s : State) (k : Nat) (o : Operator) : (s.setOp k o).time = s.time := rfl
@[simp] theorem State.setOp_cur (s : State) (k : Nat) (o : Operator) : (s.setOp k o).cur = s.cur := rfl
@[simp] theorem State.setOp_agenda (s : State) (k : Nat) (o : Operator) : (s.setOp k o).agenda = s.agenda := rfl
@[simp] theorem State.setOp_freshTick (s : State) (k : Nat) (o : Operator) : (s.setOp k o).freshTick = s.freshTick := rfl
@[simp] theorem State.setOp_drainPicks (s : State) (k : Nat) (o : Operator) : (s.setOp k o).drainPicks = s.drainPicks := rfl
@[simp] theorem State.setOp_hole (s : State) (k : Nat) (o : Operator) : (s.setOp k o).hole = s.hole := rfl
@[simp] theorem State.setOp_hwErrors (s : State) (k : Nat) (o : Operator) : (s.setOp k o).hwErrors = s.hwErrors := rfl
@[simp] theorem State.setOp_mem (s : State) (k : Nat) (o : Operator) : (s.setOp k o).mem = s.mem := rfl
@[simp] theorem State.setOp_l2 (s : State) (k : Nat) (o : Operator) : (s.setOp k o).l2 = s.l2 := rfl
@[simp] theorem State.setOp_threads (s : State) (k : Nat) (o : Operator) : (s.setOp k o).threads = s.threads := rfl
@[simp] theorem State.setOp_ops (s : State) (k : Nat) (o : Operator) : (s.setOp k o).ops = mput s.ops k o := rfl
@[simp] theorem State.setOp_opTiles (s : State) (k : Nat) (o : Operator) : (s.setOp k o).opTiles = s.opTiles := rfl
@[simp] theorem State.setOp_tiles (s : State) (k : Nat) (o : Operator) : (s.setOp k o).tiles = s.tiles := rfl
@[simp] theorem State.setOp_flumes (s : State) (k : Nat) (o : Operator) : (s.setOp k o).flumes = s.flumes := rfl
@[simp] theorem State.setOp_nextFlume (s : State) (k : Nat) (o : Operator) : (s.setOp k o).nextFlume = s.nextFlume := rfl
@[simp] theorem State.setOp_objs (s : State) (k : Nat) (o : Operator) : (s.setOp k o).objs = s.objs := rfl
@[simp] theorem State.setOp_terraces (s : State) (k : Nat) (o : Operator) : (s.setOp k o).terraces = s.terraces := rfl
@[simp] theorem State.setOp_basin (s : State) (k : Nat) (o : Operator) : (s.setOp k o).basin = s.basin := rfl
@[simp] theorem State.setOp_speedt (s : State) (k : Nat) (o : Operator) : (s.setOp k o).speedt = s.speedt := rfl
@[simp] theorem State.setOp_queues (s : State) (k : Nat) (o : Operator) : (s.setOp k o).queues = s.queues := rfl
@[simp] theorem State.setOp_recs (s : State) (k : Nat) (o : Operator) : (s.setOp k o).recs = s.recs := rfl
@[simp] theorem State.setOp_reqs (s : State) (k : Nat) (o : Operator) : (s.setOp k o).reqs = s.reqs := rfl
@[simp] theorem State.setOp_reqSeq (s : State) (k : Nat) (o : Operator) : (s.setOp k o).reqSeq = s.reqSeq := rfl
@[simp] theorem State.setOp_nextOp (s : State) (k : Nat) (o : Operator) : (s.setOp k o).nextOp = s.nextOp := rfl
@[simp] theorem State.setOp_headSince (s : State) (k : Nat) (o : Operator) : (s.setOp k o).headSince = s.headSince := rfl
@[simp] theorem State.setOp_ponds (s : State) (k : Nat) (o : Operator) : (s.setOp k o).ponds = s.ponds := rfl
@[simp] theorem State.setOp_pondFree (s : State) (k : Nat) (o : Operator) : (s.setOp k o).pondFree = s.pondFree := rfl
@[simp] theorem State.setOp_sweepers (s : State) (k : Nat) (o : Operator) : (s.setOp k o).sweepers = s.sweepers := rfl
@[simp] theorem State.setOp_allot (s : State) (k : Nat) (o : Operator) : (s.setOp k o).allot = s.allot := rfl
@[simp] theorem State.setOp_riders (s : State) (k : Nat) (o : Operator) : (s.setOp k o).riders = s.riders := rfl
@[simp] theorem State.setOp_packets (s : State) (k : Nat) (o : Operator) : (s.setOp k o).packets = s.packets := rfl
@[simp] theorem State.setOp_ports (s : State) (k : Nat) (o : Operator) : (s.setOp k o).ports = s.ports := rfl
@[simp] theorem State.setOp_svc (s : State) (k : Nat) (o : Operator) : (s.setOp k o).svc = s.svc := rfl
@[simp] theorem State.setOp_junction (s : State) (k : Nat) (o : Operator) : (s.setOp k o).junction = s.junction := rfl
@[simp] theorem State.setOp_off (s : State) (k : Nat) (o : Operator) : (s.setOp k o).off = s.off := rfl
@[simp] theorem State.setOp_hostSeen (s : State) (k : Nat) (o : Operator) : (s.setOp k o).hostSeen = s.hostSeen := rfl
@[simp] theorem State.setOp_hostRes (s : State) (k : Nat) (o : Operator) : (s.setOp k o).hostRes = s.hostRes := rfl
@[simp] theorem State.setOp_loaderOut (s : State) (k : Nat) (o : Operator) : (s.setOp k o).loaderOut = s.loaderOut := rfl

/-! ## setOpTile -/

@[simp] theorem State.setOpTile_time (s : State) (k : Nat) (o : OpTile) : (s.setOpTile k o).time = s.time := rfl
@[simp] theorem State.setOpTile_cur (s : State) (k : Nat) (o : OpTile) : (s.setOpTile k o).cur = s.cur := rfl
@[simp] theorem State.setOpTile_agenda (s : State) (k : Nat) (o : OpTile) : (s.setOpTile k o).agenda = s.agenda := rfl
@[simp] theorem State.setOpTile_freshTick (s : State) (k : Nat) (o : OpTile) : (s.setOpTile k o).freshTick = s.freshTick := rfl
@[simp] theorem State.setOpTile_drainPicks (s : State) (k : Nat) (o : OpTile) : (s.setOpTile k o).drainPicks = s.drainPicks := rfl
@[simp] theorem State.setOpTile_hole (s : State) (k : Nat) (o : OpTile) : (s.setOpTile k o).hole = s.hole := rfl
@[simp] theorem State.setOpTile_hwErrors (s : State) (k : Nat) (o : OpTile) : (s.setOpTile k o).hwErrors = s.hwErrors := rfl
@[simp] theorem State.setOpTile_mem (s : State) (k : Nat) (o : OpTile) : (s.setOpTile k o).mem = s.mem := rfl
@[simp] theorem State.setOpTile_l2 (s : State) (k : Nat) (o : OpTile) : (s.setOpTile k o).l2 = s.l2 := rfl
@[simp] theorem State.setOpTile_threads (s : State) (k : Nat) (o : OpTile) : (s.setOpTile k o).threads = s.threads := rfl
@[simp] theorem State.setOpTile_ops (s : State) (k : Nat) (o : OpTile) : (s.setOpTile k o).ops = s.ops := rfl
@[simp] theorem State.setOpTile_opTiles (s : State) (k : Nat) (o : OpTile) : (s.setOpTile k o).opTiles = mput s.opTiles k o := rfl
@[simp] theorem State.setOpTile_tiles (s : State) (k : Nat) (o : OpTile) : (s.setOpTile k o).tiles = s.tiles := rfl
@[simp] theorem State.setOpTile_flumes (s : State) (k : Nat) (o : OpTile) : (s.setOpTile k o).flumes = s.flumes := rfl
@[simp] theorem State.setOpTile_nextFlume (s : State) (k : Nat) (o : OpTile) : (s.setOpTile k o).nextFlume = s.nextFlume := rfl
@[simp] theorem State.setOpTile_objs (s : State) (k : Nat) (o : OpTile) : (s.setOpTile k o).objs = s.objs := rfl
@[simp] theorem State.setOpTile_terraces (s : State) (k : Nat) (o : OpTile) : (s.setOpTile k o).terraces = s.terraces := rfl
@[simp] theorem State.setOpTile_basin (s : State) (k : Nat) (o : OpTile) : (s.setOpTile k o).basin = s.basin := rfl
@[simp] theorem State.setOpTile_speedt (s : State) (k : Nat) (o : OpTile) : (s.setOpTile k o).speedt = s.speedt := rfl
@[simp] theorem State.setOpTile_queues (s : State) (k : Nat) (o : OpTile) : (s.setOpTile k o).queues = s.queues := rfl
@[simp] theorem State.setOpTile_recs (s : State) (k : Nat) (o : OpTile) : (s.setOpTile k o).recs = s.recs := rfl
@[simp] theorem State.setOpTile_reqs (s : State) (k : Nat) (o : OpTile) : (s.setOpTile k o).reqs = s.reqs := rfl
@[simp] theorem State.setOpTile_reqSeq (s : State) (k : Nat) (o : OpTile) : (s.setOpTile k o).reqSeq = s.reqSeq := rfl
@[simp] theorem State.setOpTile_nextOp (s : State) (k : Nat) (o : OpTile) : (s.setOpTile k o).nextOp = s.nextOp := rfl
@[simp] theorem State.setOpTile_headSince (s : State) (k : Nat) (o : OpTile) : (s.setOpTile k o).headSince = s.headSince := rfl
@[simp] theorem State.setOpTile_ponds (s : State) (k : Nat) (o : OpTile) : (s.setOpTile k o).ponds = s.ponds := rfl
@[simp] theorem State.setOpTile_pondFree (s : State) (k : Nat) (o : OpTile) : (s.setOpTile k o).pondFree = s.pondFree := rfl
@[simp] theorem State.setOpTile_sweepers (s : State) (k : Nat) (o : OpTile) : (s.setOpTile k o).sweepers = s.sweepers := rfl
@[simp] theorem State.setOpTile_allot (s : State) (k : Nat) (o : OpTile) : (s.setOpTile k o).allot = s.allot := rfl
@[simp] theorem State.setOpTile_riders (s : State) (k : Nat) (o : OpTile) : (s.setOpTile k o).riders = s.riders := rfl
@[simp] theorem State.setOpTile_packets (s : State) (k : Nat) (o : OpTile) : (s.setOpTile k o).packets = s.packets := rfl
@[simp] theorem State.setOpTile_ports (s : State) (k : Nat) (o : OpTile) : (s.setOpTile k o).ports = s.ports := rfl
@[simp] theorem State.setOpTile_svc (s : State) (k : Nat) (o : OpTile) : (s.setOpTile k o).svc = s.svc := rfl
@[simp] theorem State.setOpTile_junction (s : State) (k : Nat) (o : OpTile) : (s.setOpTile k o).junction = s.junction := rfl
@[simp] theorem State.setOpTile_off (s : State) (k : Nat) (o : OpTile) : (s.setOpTile k o).off = s.off := rfl
@[simp] theorem State.setOpTile_hostSeen (s : State) (k : Nat) (o : OpTile) : (s.setOpTile k o).hostSeen = s.hostSeen := rfl
@[simp] theorem State.setOpTile_hostRes (s : State) (k : Nat) (o : OpTile) : (s.setOpTile k o).hostRes = s.hostRes := rfl
@[simp] theorem State.setOpTile_loaderOut (s : State) (k : Nat) (o : OpTile) : (s.setOpTile k o).loaderOut = s.loaderOut := rfl

/-! ## setTile -/

@[simp] theorem State.setTile_time (s : State) (k : Nat) (t : Tile) : (s.setTile k t).time = s.time := rfl
@[simp] theorem State.setTile_cur (s : State) (k : Nat) (t : Tile) : (s.setTile k t).cur = s.cur := rfl
@[simp] theorem State.setTile_agenda (s : State) (k : Nat) (t : Tile) : (s.setTile k t).agenda = s.agenda := rfl
@[simp] theorem State.setTile_freshTick (s : State) (k : Nat) (t : Tile) : (s.setTile k t).freshTick = s.freshTick := rfl
@[simp] theorem State.setTile_drainPicks (s : State) (k : Nat) (t : Tile) : (s.setTile k t).drainPicks = s.drainPicks := rfl
@[simp] theorem State.setTile_hole (s : State) (k : Nat) (t : Tile) : (s.setTile k t).hole = s.hole := rfl
@[simp] theorem State.setTile_hwErrors (s : State) (k : Nat) (t : Tile) : (s.setTile k t).hwErrors = s.hwErrors := rfl
@[simp] theorem State.setTile_mem (s : State) (k : Nat) (t : Tile) : (s.setTile k t).mem = s.mem := rfl
@[simp] theorem State.setTile_l2 (s : State) (k : Nat) (t : Tile) : (s.setTile k t).l2 = s.l2 := rfl
@[simp] theorem State.setTile_threads (s : State) (k : Nat) (t : Tile) : (s.setTile k t).threads = s.threads := rfl
@[simp] theorem State.setTile_ops (s : State) (k : Nat) (t : Tile) : (s.setTile k t).ops = s.ops := rfl
@[simp] theorem State.setTile_opTiles (s : State) (k : Nat) (t : Tile) : (s.setTile k t).opTiles = s.opTiles := rfl
@[simp] theorem State.setTile_tiles (s : State) (k : Nat) (t : Tile) : (s.setTile k t).tiles = mput s.tiles k t := rfl
@[simp] theorem State.setTile_flumes (s : State) (k : Nat) (t : Tile) : (s.setTile k t).flumes = s.flumes := rfl
@[simp] theorem State.setTile_nextFlume (s : State) (k : Nat) (t : Tile) : (s.setTile k t).nextFlume = s.nextFlume := rfl
@[simp] theorem State.setTile_objs (s : State) (k : Nat) (t : Tile) : (s.setTile k t).objs = s.objs := rfl
@[simp] theorem State.setTile_terraces (s : State) (k : Nat) (t : Tile) : (s.setTile k t).terraces = s.terraces := rfl
@[simp] theorem State.setTile_basin (s : State) (k : Nat) (t : Tile) : (s.setTile k t).basin = s.basin := rfl
@[simp] theorem State.setTile_speedt (s : State) (k : Nat) (t : Tile) : (s.setTile k t).speedt = s.speedt := rfl
@[simp] theorem State.setTile_queues (s : State) (k : Nat) (t : Tile) : (s.setTile k t).queues = s.queues := rfl
@[simp] theorem State.setTile_recs (s : State) (k : Nat) (t : Tile) : (s.setTile k t).recs = s.recs := rfl
@[simp] theorem State.setTile_reqs (s : State) (k : Nat) (t : Tile) : (s.setTile k t).reqs = s.reqs := rfl
@[simp] theorem State.setTile_reqSeq (s : State) (k : Nat) (t : Tile) : (s.setTile k t).reqSeq = s.reqSeq := rfl
@[simp] theorem State.setTile_nextOp (s : State) (k : Nat) (t : Tile) : (s.setTile k t).nextOp = s.nextOp := rfl
@[simp] theorem State.setTile_headSince (s : State) (k : Nat) (t : Tile) : (s.setTile k t).headSince = s.headSince := rfl
@[simp] theorem State.setTile_ponds (s : State) (k : Nat) (t : Tile) : (s.setTile k t).ponds = s.ponds := rfl
@[simp] theorem State.setTile_pondFree (s : State) (k : Nat) (t : Tile) : (s.setTile k t).pondFree = s.pondFree := rfl
@[simp] theorem State.setTile_sweepers (s : State) (k : Nat) (t : Tile) : (s.setTile k t).sweepers = s.sweepers := rfl
@[simp] theorem State.setTile_allot (s : State) (k : Nat) (t : Tile) : (s.setTile k t).allot = s.allot := rfl
@[simp] theorem State.setTile_riders (s : State) (k : Nat) (t : Tile) : (s.setTile k t).riders = s.riders := rfl
@[simp] theorem State.setTile_packets (s : State) (k : Nat) (t : Tile) : (s.setTile k t).packets = s.packets := rfl
@[simp] theorem State.setTile_ports (s : State) (k : Nat) (t : Tile) : (s.setTile k t).ports = s.ports := rfl
@[simp] theorem State.setTile_svc (s : State) (k : Nat) (t : Tile) : (s.setTile k t).svc = s.svc := rfl
@[simp] theorem State.setTile_junction (s : State) (k : Nat) (t : Tile) : (s.setTile k t).junction = s.junction := rfl
@[simp] theorem State.setTile_off (s : State) (k : Nat) (t : Tile) : (s.setTile k t).off = s.off := rfl
@[simp] theorem State.setTile_hostSeen (s : State) (k : Nat) (t : Tile) : (s.setTile k t).hostSeen = s.hostSeen := rfl
@[simp] theorem State.setTile_hostRes (s : State) (k : Nat) (t : Tile) : (s.setTile k t).hostRes = s.hostRes := rfl
@[simp] theorem State.setTile_loaderOut (s : State) (k : Nat) (t : Tile) : (s.setTile k t).loaderOut = s.loaderOut := rfl

/-! ## setPond -/

@[simp] theorem State.setPond_time (s : State) (i : Nat) (p : Pond) : (s.setPond i p).time = s.time := rfl
@[simp] theorem State.setPond_cur (s : State) (i : Nat) (p : Pond) : (s.setPond i p).cur = s.cur := rfl
@[simp] theorem State.setPond_agenda (s : State) (i : Nat) (p : Pond) : (s.setPond i p).agenda = s.agenda := rfl
@[simp] theorem State.setPond_freshTick (s : State) (i : Nat) (p : Pond) : (s.setPond i p).freshTick = s.freshTick := rfl
@[simp] theorem State.setPond_drainPicks (s : State) (i : Nat) (p : Pond) : (s.setPond i p).drainPicks = s.drainPicks := rfl
@[simp] theorem State.setPond_hole (s : State) (i : Nat) (p : Pond) : (s.setPond i p).hole = s.hole := rfl
@[simp] theorem State.setPond_hwErrors (s : State) (i : Nat) (p : Pond) : (s.setPond i p).hwErrors = s.hwErrors := rfl
@[simp] theorem State.setPond_mem (s : State) (i : Nat) (p : Pond) : (s.setPond i p).mem = s.mem := rfl
@[simp] theorem State.setPond_l2 (s : State) (i : Nat) (p : Pond) : (s.setPond i p).l2 = s.l2 := rfl
@[simp] theorem State.setPond_threads (s : State) (i : Nat) (p : Pond) : (s.setPond i p).threads = s.threads := rfl
@[simp] theorem State.setPond_ops (s : State) (i : Nat) (p : Pond) : (s.setPond i p).ops = s.ops := rfl
@[simp] theorem State.setPond_opTiles (s : State) (i : Nat) (p : Pond) : (s.setPond i p).opTiles = s.opTiles := rfl
@[simp] theorem State.setPond_tiles (s : State) (i : Nat) (p : Pond) : (s.setPond i p).tiles = s.tiles := rfl
@[simp] theorem State.setPond_flumes (s : State) (i : Nat) (p : Pond) : (s.setPond i p).flumes = s.flumes := rfl
@[simp] theorem State.setPond_nextFlume (s : State) (i : Nat) (p : Pond) : (s.setPond i p).nextFlume = s.nextFlume := rfl
@[simp] theorem State.setPond_objs (s : State) (i : Nat) (p : Pond) : (s.setPond i p).objs = s.objs := rfl
@[simp] theorem State.setPond_terraces (s : State) (i : Nat) (p : Pond) : (s.setPond i p).terraces = s.terraces := rfl
@[simp] theorem State.setPond_basin (s : State) (i : Nat) (p : Pond) : (s.setPond i p).basin = s.basin := rfl
@[simp] theorem State.setPond_speedt (s : State) (i : Nat) (p : Pond) : (s.setPond i p).speedt = s.speedt := rfl
@[simp] theorem State.setPond_queues (s : State) (i : Nat) (p : Pond) : (s.setPond i p).queues = s.queues := rfl
@[simp] theorem State.setPond_recs (s : State) (i : Nat) (p : Pond) : (s.setPond i p).recs = s.recs := rfl
@[simp] theorem State.setPond_reqs (s : State) (i : Nat) (p : Pond) : (s.setPond i p).reqs = s.reqs := rfl
@[simp] theorem State.setPond_reqSeq (s : State) (i : Nat) (p : Pond) : (s.setPond i p).reqSeq = s.reqSeq := rfl
@[simp] theorem State.setPond_nextOp (s : State) (i : Nat) (p : Pond) : (s.setPond i p).nextOp = s.nextOp := rfl
@[simp] theorem State.setPond_headSince (s : State) (i : Nat) (p : Pond) : (s.setPond i p).headSince = s.headSince := rfl
@[simp] theorem State.setPond_ponds (s : State) (i : Nat) (p : Pond) : (s.setPond i p).ponds = mput s.ponds i p := rfl
@[simp] theorem State.setPond_pondFree (s : State) (i : Nat) (p : Pond) : (s.setPond i p).pondFree = s.pondFree := rfl
@[simp] theorem State.setPond_sweepers (s : State) (i : Nat) (p : Pond) : (s.setPond i p).sweepers = s.sweepers := rfl
@[simp] theorem State.setPond_allot (s : State) (i : Nat) (p : Pond) : (s.setPond i p).allot = s.allot := rfl
@[simp] theorem State.setPond_riders (s : State) (i : Nat) (p : Pond) : (s.setPond i p).riders = s.riders := rfl
@[simp] theorem State.setPond_packets (s : State) (i : Nat) (p : Pond) : (s.setPond i p).packets = s.packets := rfl
@[simp] theorem State.setPond_ports (s : State) (i : Nat) (p : Pond) : (s.setPond i p).ports = s.ports := rfl
@[simp] theorem State.setPond_svc (s : State) (i : Nat) (p : Pond) : (s.setPond i p).svc = s.svc := rfl
@[simp] theorem State.setPond_junction (s : State) (i : Nat) (p : Pond) : (s.setPond i p).junction = s.junction := rfl
@[simp] theorem State.setPond_off (s : State) (i : Nat) (p : Pond) : (s.setPond i p).off = s.off := rfl
@[simp] theorem State.setPond_hostSeen (s : State) (i : Nat) (p : Pond) : (s.setPond i p).hostSeen = s.hostSeen := rfl
@[simp] theorem State.setPond_hostRes (s : State) (i : Nat) (p : Pond) : (s.setPond i p).hostRes = s.hostRes := rfl
@[simp] theorem State.setPond_loaderOut (s : State) (i : Nat) (p : Pond) : (s.setPond i p).loaderOut = s.loaderOut := rfl

/-! ## setStack -/

@[simp] theorem State.setStack_time (s : State) (k : Fin 8) (x : Stack) : (s.setStack k x).time = s.time := rfl
@[simp] theorem State.setStack_cur (s : State) (k : Fin 8) (x : Stack) : (s.setStack k x).cur = s.cur := rfl
@[simp] theorem State.setStack_agenda (s : State) (k : Fin 8) (x : Stack) : (s.setStack k x).agenda = s.agenda := rfl
@[simp] theorem State.setStack_freshTick (s : State) (k : Fin 8) (x : Stack) : (s.setStack k x).freshTick = s.freshTick := rfl
@[simp] theorem State.setStack_drainPicks (s : State) (k : Fin 8) (x : Stack) : (s.setStack k x).drainPicks = s.drainPicks := rfl
@[simp] theorem State.setStack_hole (s : State) (k : Fin 8) (x : Stack) : (s.setStack k x).hole = s.hole := rfl
@[simp] theorem State.setStack_hwErrors (s : State) (k : Fin 8) (x : Stack) : (s.setStack k x).hwErrors = s.hwErrors := rfl
@[simp] theorem State.setStack_mem (s : State) (k : Fin 8) (x : Stack) : (s.setStack k x).mem = s.mem := rfl
@[simp] theorem State.setStack_l2 (s : State) (k : Fin 8) (x : Stack) : (s.setStack k x).l2 = s.l2 := rfl
@[simp] theorem State.setStack_threads (s : State) (k : Fin 8) (x : Stack) : (s.setStack k x).threads = s.threads := rfl
@[simp] theorem State.setStack_ops (s : State) (k : Fin 8) (x : Stack) : (s.setStack k x).ops = s.ops := rfl
@[simp] theorem State.setStack_opTiles (s : State) (k : Fin 8) (x : Stack) : (s.setStack k x).opTiles = s.opTiles := rfl
@[simp] theorem State.setStack_tiles (s : State) (k : Fin 8) (x : Stack) : (s.setStack k x).tiles = s.tiles := rfl
@[simp] theorem State.setStack_flumes (s : State) (k : Fin 8) (x : Stack) : (s.setStack k x).flumes = s.flumes := rfl
@[simp] theorem State.setStack_nextFlume (s : State) (k : Fin 8) (x : Stack) : (s.setStack k x).nextFlume = s.nextFlume := rfl
@[simp] theorem State.setStack_objs (s : State) (k : Fin 8) (x : Stack) : (s.setStack k x).objs = s.objs := rfl
@[simp] theorem State.setStack_terraces (s : State) (k : Fin 8) (x : Stack) : (s.setStack k x).terraces = s.terraces := rfl
@[simp] theorem State.setStack_basin (s : State) (k : Fin 8) (x : Stack) : (s.setStack k x).basin = s.basin := rfl
@[simp] theorem State.setStack_speedt (s : State) (k : Fin 8) (x : Stack) : (s.setStack k x).speedt = s.speedt := rfl
@[simp] theorem State.setStack_queues (s : State) (k : Fin 8) (x : Stack) : (s.setStack k x).queues = s.queues := rfl
@[simp] theorem State.setStack_recs (s : State) (k : Fin 8) (x : Stack) : (s.setStack k x).recs = s.recs := rfl
@[simp] theorem State.setStack_reqs (s : State) (k : Fin 8) (x : Stack) : (s.setStack k x).reqs = s.reqs := rfl
@[simp] theorem State.setStack_reqSeq (s : State) (k : Fin 8) (x : Stack) : (s.setStack k x).reqSeq = s.reqSeq := rfl
@[simp] theorem State.setStack_nextOp (s : State) (k : Fin 8) (x : Stack) : (s.setStack k x).nextOp = s.nextOp := rfl
@[simp] theorem State.setStack_headSince (s : State) (k : Fin 8) (x : Stack) : (s.setStack k x).headSince = s.headSince := rfl
@[simp] theorem State.setStack_ponds (s : State) (k : Fin 8) (x : Stack) : (s.setStack k x).ponds = s.ponds := rfl
@[simp] theorem State.setStack_pondFree (s : State) (k : Fin 8) (x : Stack) : (s.setStack k x).pondFree = s.pondFree := rfl
@[simp] theorem State.setStack_sweepers (s : State) (k : Fin 8) (x : Stack) : (s.setStack k x).sweepers = s.sweepers.set k x := rfl
@[simp] theorem State.setStack_allot (s : State) (k : Fin 8) (x : Stack) : (s.setStack k x).allot = s.allot := rfl
@[simp] theorem State.setStack_riders (s : State) (k : Fin 8) (x : Stack) : (s.setStack k x).riders = s.riders := rfl
@[simp] theorem State.setStack_packets (s : State) (k : Fin 8) (x : Stack) : (s.setStack k x).packets = s.packets := rfl
@[simp] theorem State.setStack_ports (s : State) (k : Fin 8) (x : Stack) : (s.setStack k x).ports = s.ports := rfl
@[simp] theorem State.setStack_svc (s : State) (k : Fin 8) (x : Stack) : (s.setStack k x).svc = s.svc := rfl
@[simp] theorem State.setStack_junction (s : State) (k : Fin 8) (x : Stack) : (s.setStack k x).junction = s.junction := rfl
@[simp] theorem State.setStack_off (s : State) (k : Fin 8) (x : Stack) : (s.setStack k x).off = s.off := rfl
@[simp] theorem State.setStack_hostSeen (s : State) (k : Fin 8) (x : Stack) : (s.setStack k x).hostSeen = s.hostSeen := rfl
@[simp] theorem State.setStack_hostRes (s : State) (k : Fin 8) (x : Stack) : (s.setStack k x).hostRes = s.hostRes := rfl
@[simp] theorem State.setStack_loaderOut (s : State) (k : Fin 8) (x : Stack) : (s.setStack k x).loaderOut = s.loaderOut := rfl

end Sys2Proof.Machine
end

