-- ==== Sys2Proof/Laws/Tables.lean ====
section
/-! SUPPORT. Tables and stack memory: what is found after an update, and that every operation keeps the canonical
form. -/

namespace Sys2Proof.Machine

/-! ## Tables -/

@[simp] theorem mfind_nil {α : Type} (n : Nat) : mfind ([] : Map α) n = none := rfl

@[simp] theorem mfind_mput_same {α : Type} (m : Map α) (n : Nat) (x : α) : mfind (mput m n x) n = some x := by
  induction m with
  | nil => simp [mput, mfind]
  | cons e r ih =>
    obtain ⟨k, v⟩ := e
    unfold mput
    split
    · simp [mfind]
    · split
      · simp [mfind]
      · rename_i h1 h2
        simp only [mfind]
        rw [if_neg (fun h => h2 h), if_neg h1]
        exact ih

theorem mfind_mput_ne {α : Type} (m : Map α) (n k : Nat) (x : α) (h : k ≠ n) : mfind (mput m n x) k = mfind m k := by
  induction m with
  | nil => simp only [mput, mfind]; split <;> simp_all
  | cons e r ih =>
    obtain ⟨j, v⟩ := e
    unfold mput
    split
    · rename_i hn
      simp only [mfind]
      split
      · contradiction
      · split
        · split
          · omega
          · split
            · rfl
            · omega
        · rfl
    · split
      · subst_vars
        simp only [mfind]
        split <;> simp_all
      · simp only [mfind]
        split
        · rfl
        · split
          · rfl
          · exact ih

/-- The keys rise strictly from `lo` on (as a proposition). -/
theorem mrises_cons {α : Type} (k : Nat) (v : α) (r : Map α) (lo : Nat) :
    mrises ((k, v) :: r) lo = true ↔ lo ≤ k ∧ mrises r (k + 1) = true := by
  simp [mrises]

theorem mrises_mono {α : Type} (m : Map α) {lo lo' : Nat} (h : lo' ≤ lo) (hm : mrises m lo = true) :
    mrises m lo' = true := by
  cases m with
  | nil => rfl
  | cons e r =>
    rw [mrises_cons] at hm ⊢
    exact ⟨by omega, hm.2⟩

theorem mrises_mput {α : Type} (m : Map α) (n : Nat) (x : α) (lo : Nat) (hn : lo ≤ n) (hm : mrises m lo = true) :
    mrises (mput m n x) lo = true := by
  induction m generalizing lo with
  | nil => simpa [mput, mrises] using hn
  | cons e r ih =>
    obtain ⟨k, v⟩ := e
    rw [mrises_cons] at hm
    unfold mput
    split
    · rename_i h
      rw [mrises_cons, mrises_cons]
      exact ⟨hn, by omega, hm.2⟩
    · split
      · subst_vars
        rw [mrises_cons]
        exact hm
      · rw [mrises_cons]
        exact ⟨hm.1, ih (k + 1) (by omega) hm.2⟩

theorem mrises_mdel {α : Type} (m : Map α) (n lo : Nat) (hm : mrises m lo = true) : mrises (mdel m n) lo = true := by
  induction m generalizing lo with
  | nil => exact hm
  | cons e r ih =>
    obtain ⟨k, v⟩ := e
    have h := (mrises_cons k v r lo).mp hm
    unfold mdel
    split
    · exact mrises_mono r (by omega) h.2
    · split
      · exact hm
      · rw [mrises_cons]
        exact ⟨h.1, ih _ h.2⟩

theorem mrises_filter {α : Type} (m : Map α) (p : Nat × α → Bool) (lo : Nat) (hm : mrises m lo = true) :
    mrises (m.filter p) lo = true := by
  induction m generalizing lo with
  | nil => exact hm
  | cons e r ih =>
    obtain ⟨k, v⟩ := e
    have h := (mrises_cons k v r lo).mp hm
    rw [List.filter_cons]
    split
    · rw [mrises_cons]
      exact ⟨h.1, ih _ h.2⟩
    · exact ih _ (mrises_mono r (by omega) h.2)

/-- A key below where a rising table starts is not in it. -/
theorem mfind_below {α : Type} (m : Map α) (n lo : Nat) (h : n < lo) (hm : mrises m lo = true) : mfind m n = none := by
  cases m with
  | nil => rfl
  | cons e r =>
    obtain ⟨k, v⟩ := e
    rw [mrises_cons] at hm
    simp only [mfind]
    split
    · omega
    · split
      · rfl
      · omega

theorem mfind_mdel_same {α : Type} (m : Map α) (n lo : Nat) (hm : mrises m lo = true) : mfind (mdel m n) n = none := by
  induction m generalizing lo with
  | nil => rfl
  | cons e r ih =>
    obtain ⟨k, v⟩ := e
    have h := (mrises_cons k v r lo).mp hm
    unfold mdel
    split
    · subst_vars
      exact mfind_below r _ _ (Nat.lt_succ_self _) h.2
    · rename_i h1
      split
      · rename_i h2
        simp only [mfind]
        rw [if_neg (fun h => h1 h), if_pos h2]
      · rename_i h2
        simp only [mfind]
        rw [if_neg (fun h => h1 h), if_neg h2]
        exact ih _ h.2

theorem mfind_mdel_ne {α : Type} (m : Map α) (n k lo : Nat) (hk : k ≠ n) (hm : mrises m lo = true) :
    mfind (mdel m n) k = mfind m k := by
  induction m generalizing lo with
  | nil => rfl
  | cons e r ih =>
    obtain ⟨j, v⟩ := e
    have h := (mrises_cons j v r lo).mp hm
    unfold mdel
    split
    · subst_vars
      simp only [mfind]
      split
      · contradiction
      · split
        · exact mfind_below r _ _ (by omega) h.2
        · rfl
    · split
      · rfl
      · simp only [mfind]
        split
        · rfl
        · split
          · rfl
          · exact ih _ h.2

theorem mem_mput {α : Type} (m : Map α) (n : Nat) (x : α) (e : Nat × α) (h : e ∈ mput m n x) :
    e = (n, x) ∨ e ∈ m := by
  induction m with
  | nil => simpa [mput] using h
  | cons c r ih =>
    obtain ⟨k, v⟩ := c
    unfold mput at h
    split at h
    · simpa using h
    · split at h
      · rcases List.mem_cons.mp h with h | h
        · exact .inl h
        · exact .inr (List.mem_cons_of_mem _ h)
      · rcases List.mem_cons.mp h with h | h
        · exact .inr (h ▸ List.mem_cons_self ..)
        · rcases ih h with h | h
          · exact .inl h
          · exact .inr (List.mem_cons_of_mem _ h)

theorem mem_mdel {α : Type} (m : Map α) (n : Nat) (e : Nat × α) (h : e ∈ mdel m n) : e ∈ m := by
  induction m with
  | nil => exact h
  | cons c r ih =>
    obtain ⟨k, v⟩ := c
    unfold mdel at h
    split at h
    · exact List.mem_cons_of_mem _ h
    · split at h
      · exact h
      · rcases List.mem_cons.mp h with h | h
        · exact h ▸ List.mem_cons_self ..
        · exact List.mem_cons_of_mem _ (ih h)

/-! ## The canonical form of memory -/

theorem wf_iff (m : List Host.Cell) : Memory.wf m = true ↔ mrises m 0 = true ∧ ∀ e ∈ m, e.2 ≠ 0 := by
  simp [Memory.wf]

@[simp] theorem wf_nil : Memory.wf [] = true := rfl

theorem wf_writeByte (m : List Host.Cell) (a : Nat) (b : Byte) (h : Memory.wf m = true) :
    Memory.wf (writeByte m a b) = true := by
  rw [wf_iff] at h ⊢
  unfold writeByte
  split
  · exact ⟨mrises_mdel m a 0 h.1, fun e he => h.2 e (mem_mdel m a e he)⟩
  · refine ⟨mrises_mput m a b 0 (Nat.zero_le _) h.1, fun e he => ?_⟩
    rcases mem_mput m a b e he with he | he
    · subst he; assumption
    · exact h.2 e he

theorem wf_writeBytes (bs : List Byte) (m : List Host.Cell) (a : Nat) (h : Memory.wf m = true) :
    Memory.wf (writeBytes m a bs) = true := by
  induction bs generalizing m a with
  | nil => exact h
  | cons b r ih => exact ih _ _ (wf_writeByte m a b h)

theorem wf_filter (m : List Host.Cell) (p : Host.Cell → Bool) (h : Memory.wf m = true) :
    Memory.wf (m.filter p) = true := by
  rw [wf_iff] at h ⊢
  exact ⟨mrises_filter m p 0 h.1, fun e he => h.2 e (List.mem_filter.mp he).1⟩

theorem wf_writes {β : Type} (xs : List β) (f : List Host.Cell → β → List Host.Cell)
    (hf : ∀ m x, Memory.wf m = true → Memory.wf (f m x) = true) (m : List Host.Cell) (h : Memory.wf m = true) :
    Memory.wf (xs.foldl f m) = true := by
  induction xs generalizing m with
  | nil => exact h
  | cons x r ih => exact ih _ (hf m x h)

theorem wf_copyCells (m : List Host.Cell) (old new : Nat) (h : Memory.wf m = true) :
    Memory.wf (copyCells m old new) = true :=
  wf_writes _ _ (fun m e hm => wf_writeByte m e.1 e.2 hm) _ (wf_filter m _ h)

/-! ## Reading after writing -/

theorem readByte_writeByte_same (m : List Host.Cell) (a : Nat) (b : Byte) (h : Memory.wf m = true) :
    readByte (writeByte m a b) a = b := by
  have hr := ((wf_iff m).mp h).1
  unfold readByte writeByte mget
  split
  · rename_i hb
    rw [mfind_mdel_same m a 0 hr, hb]
    rfl
  · simp

theorem readByte_writeByte_ne (m : List Host.Cell) (a c : Nat) (b : Byte) (hc : c ≠ a) (h : Memory.wf m = true) :
    readByte (writeByte m a b) c = readByte m c := by
  have hr := ((wf_iff m).mp h).1
  unfold readByte writeByte mget
  split
  · rw [mfind_mdel_ne m a c 0 hc hr]
  · rw [mfind_mput_ne m a c b hc]

/-- A write of a run of bytes leaves every byte outside it as it was. -/
theorem readByte_writeBytes_outside (bs : List Byte) (m : List Host.Cell) (a c : Nat) (h : Memory.wf m = true)
    (hc : c < a ∨ a + bs.length ≤ c) : readByte (writeBytes m a bs) c = readByte m c := by
  induction bs generalizing m a with
  | nil => rfl
  | cons b r ih =>
    simp only [List.length_cons] at hc
    rw [writeBytes, ih _ _ (wf_writeByte m a b h) (by omega), readByte_writeByte_ne m a c b (by omega) h]

/-- A run of bytes reads back as it was written. -/
theorem readBytes_writeBytes (bs : List Byte) (m : List Host.Cell) (a : Nat) (h : Memory.wf m = true) :
    readBytes (writeBytes m a bs) a bs.length = bs := by
  induction bs generalizing m a with
  | nil => rfl
  | cons b r ih =>
    have hw := wf_writeByte m a b h
    simp only [List.length_cons, readBytes, writeBytes]
    rw [readByte_writeBytes_outside r _ _ _ hw (by omega), readByte_writeByte_same m a b h, ih _ _ hw]

end Sys2Proof.Machine
end

