-- ==== Sys2Proof/Laws/Memory.lean ====
section
/-! SUPPORT. Memory keeps its canonical form under every shared operation that writes it, and what no such operation
changes; the same for the operations of the monad, once for each way they are put together. -/

namespace Sys2Proof.Machine

/-- The memory of a state is in its canonical form. -/
def State.memOk (s : State) : Prop := Memory.wf s.mem = true

/-- A change that leaves memory as it is keeps its form. -/
theorem memOk_of_mem {s s' : State} (h : s.memOk) (he : s'.mem = s.mem) : s'.memOk := by
  rw [State.memOk, he]
  exact h

theorem memOk_ops {s : State} (g : Map Operator) (h : s.memOk) : ({ s with ops := g } : State).memOk := h

theorem memOk_freshTick {s : State} (n : Nat) (h : s.memOk) : ({ s with freshTick := n } : State).memOk := h

/-- A fold of steps that each keep a property of the state keeps it. -/
theorem foldl_keeps {σ β : Type} (P : σ → Prop) (f : σ → β → σ) (hf : ∀ s x, P s → P (f s x)) (xs : List β) (s : σ)
    (h : P s) : P (xs.foldl f s) := by
  induction xs generalizing s with
  | nil => exact h
  | cons x r ih => exact ih _ (hf s x h)

/-! ## Writes at the home -/

theorem homeWriteByte_memOk (s : State) (pa : Nat) (b : Byte) (h : s.memOk) : (homeWriteByte s pa b).memOk := by
  unfold homeWriteByte
  split
  · exact h
  · exact wf_writeByte s.mem pa b h

theorem homeWriteBytes_memOk (bs : List Byte) (s : State) (pa : Nat) (h : s.memOk) : (homeWriteBytes s pa bs).memOk := by
  induction bs generalizing s pa with
  | nil => exact h
  | cons b r ih => exact ih _ _ (homeWriteByte_memOk s pa b h)

theorem homeWrite_memOk (s : State) (pa n v : Nat) (h : s.memOk) : (homeWrite s pa n v).memOk :=
  homeWriteBytes_memOk _ s pa h

@[simp] theorem noteWrite_mem (s : State) (line : Nat) : (s.noteWrite line).mem = s.mem := rfl
@[simp] theorem noteHole_mem (s : State) (pa : Nat) : (s.noteHole pa).mem = s.mem := by
  unfold State.noteHole
  split <;> rfl

theorem noteHole_memOk (s : State) (pa : Nat) (h : s.memOk) : (s.noteHole pa).memOk := by
  exact memOk_of_mem h (noteHole_mem s pa)

/-- Where the L2 holds no copy of its line, a byte is written in the stack alone. -/
theorem homeWriteByte_uncached (s : State) (pa : Nat) (b : Byte) (h : mfind s.l2 (lineOf pa) = none) :
    homeWriteByte s pa b = { s with mem := writeByte s.mem pa b } := by
  simp [homeWriteByte, h]

/-! ## Update-only lines, reads, write-backs -/

theorem mergeWords_memOk (ws : Map W64) (s : State) (line : Nat) (u : Uol) (h : s.memOk) :
    (mergeWords s line u ws).memOk := by
  induction ws generalizing s with
  | nil => exact h
  | cons e r ih =>
    rw [mergeWords]
    exact ih _ (homeWrite_memOk _ _ _ _ (memOk_of_mem h rfl))

theorem mergeTileLine_memOk (s : State) (tile line : Nat) (h : s.memOk) : (mergeTileLine s tile line).memOk := by
  unfold mergeTileLine
  split
  · exact h
  · exact mergeWords_memOk _ _ _ _ (memOk_of_mem h rfl)

theorem mergeLine_memOk (s : State) (line : Nat) (h : s.memOk) : (mergeLine s line).memOk :=
  foldl_keeps State.memOk _ (fun s e hs => mergeTileLine_memOk s e.1 line hs) _ s h

/-- With no update-only data of a line, a merge changes nothing. -/
theorem mergeLine_none (s : State) (line : Nat) (h : ∀ e ∈ s.tiles, mfind e.2.uol line = none) : mergeLine s line = s := by
  have hn : s.tiles.filter (fun e => (mfind e.2.uol line).isSome) = [] := by
    rw [List.filter_eq_nil_iff]
    intro e he
    simp [h e he]
  simp [mergeLine, hn]

theorem physRead_mem (s : State) (tile pa n : Nat) (c : Bool) : (physRead s tile pa n c).1.mem = (mergeLine s (lineOf pa)).mem := by
  unfold physRead
  cases c with
  | false => rfl
  | true =>
    dsimp only [if_true]
    simp only [if_true]
    generalize (if homeTerrace pa = terraceOf tile || _ then l2Line (mergeLine s (lineOf pa)) (lineOf pa) else _) = l
    split <;> rfl

theorem physRead_memOk (s : State) (tile pa n : Nat) (c : Bool) (h : s.memOk) : (physRead s tile pa n c).1.memOk :=
  memOk_of_mem (mergeLine_memOk s (lineOf pa) h) (physRead_mem s tile pa n c)

theorem physWrite_memOk (s : State) (tile pa : Nat) (bs : List Byte) (c : Bool) (h : s.memOk) :
    (physWrite s tile pa bs c).memOk := by
  unfold physWrite
  cases c with
  | false =>
    show Memory.wf (writeBytes s.mem pa bs) = true
    exact wf_writeBytes bs s.mem pa h
  | true => exact homeWriteBytes_memOk bs _ pa (memOk_of_mem (mergeLine_memOk s (lineOf pa) h) rfl)

theorem writeBackLine_memOk (s : State) (line : Nat) (h : s.memOk) : (writeBackLine s line).memOk := by
  unfold writeBackLine
  split
  · exact h
  · refine wf_writes _ _ (fun m i hm => ?_) s.mem h
    show Memory.wf (if _ then _ else _) = true
    split
    · exact wf_writeBytes _ m _ hm
    · exact hm

@[simp] theorem dropLine_mem (s : State) (line : Nat) : (dropLine s line).mem = s.mem := rfl

/-! ## Translation -/

theorem setPteBit_memOk (s : State) (pte i : Nat) (h : s.memOk) : (setPteBit s pte i).memOk := by
  unfold setPteBit
  dsimp only
  split
  · exact h
  · exact homeWrite_memOk s _ _ _ h

@[simp] theorem noteMalformed_mem (s : State) (ter pa : Nat) : (noteMalformed s ter pa).mem = s.mem := rfl

theorem setFrameAccessed_memOk (s : State) (pa : Nat) (h : s.memOk) : (setFrameAccessed s pa).memOk := by
  unfold setFrameAccessed
  dsimp only
  split
  · exact h
  · exact homeWrite_memOk _ _ _ _ (noteHole_memOk s _ h)

theorem translateFor_memOk (s : State) (tile pasid va : Nat) (w m : Bool) (h : s.memOk) :
    (translateFor s tile pasid va w m).1.memOk := by
  unfold translateFor
  dsimp only
  repeat' split
  all_goals try dsimp only
  all_goals
    first
    | with_reducible exact h
    | with_reducible refine setPteBit_memOk _ _ _ (setFrameAccessed_memOk _ _ (setPteBit_memOk _ _ _ ?_))
      exact memOk_of_mem h rfl
    | with_reducible refine setFrameAccessed_memOk _ _ (setPteBit_memOk _ _ _ ?_)
      exact memOk_of_mem h rfl
    | with_reducible refine setPteBit_memOk _ _ _ ?_
      exact memOk_of_mem h rfl
    | exact memOk_of_mem h rfl

theorem translate_memOk (s : State) (tile pasid va : Nat) (w : Bool) (h : s.memOk) : (translate s tile pasid va w).1.memOk :=
  translateFor_memOk s tile pasid va w w h

/-! ## Frames and pins -/

theorem copyFrame_memOk (s : State) (old new : Nat) (c : Bool) (h : s.memOk) : (copyFrame s old new c).memOk := by
  have h1 : (if c then (cachedLines s old).foldl (fun s l => writeBackLine (mergeLine s l) l) s else s).memOk := by
    split
    · exact foldl_keeps State.memOk _ (fun s l hs => writeBackLine_memOk _ l (mergeLine_memOk s l hs)) _ s h
    · exact h
  unfold copyFrame
  revert h1
  generalize (if c then (cachedLines s old).foldl (fun s l => writeBackLine (mergeLine s l) l) s else s) = s1
  intro h1
  have hd : ∀ (x : State) (l : Nat), x.memOk → (dropLine x l).memOk := fun x l hx => memOk_of_mem hx (dropLine_mem x l)
  have h2 : ((cachedLines s1 new).foldl dropLine s1).memOk := foldl_keeps State.memOk dropLine hd _ _ h1
  dsimp only
  revert h2
  generalize (cachedLines s1 new).foldl dropLine s1 = s2
  intro h2
  show Memory.wf (copyCells s2.mem old new) = true
  exact wf_copyCells _ old new h2

theorem setFramePins_memOk (s : State) (pa n : Nat) (h : s.memOk) : (setFramePins s pa n).memOk := by
  unfold setFramePins
  dsimp only
  with_reducible exact homeWrite_memOk _ _ _ _ (noteHole_memOk s _ h)

theorem pinFrames_memOk (s s' : State) (op pasid : Nat) (fs : List Nat) (h : s.memOk)
    (hp : pinFrames s op pasid fs = .ok s') : s'.memOk := by
  unfold pinFrames at hp
  simp only at hp
  split at hp
  · cases hp
  · split at hp
    · cases hp
    · cases hp
      refine foldl_keeps State.memOk _ (fun s f hs => ?_) _ s h
      exact memOk_ops _ (setFramePins_memOk s (framePa f) (framePins s (framePa f) + 1) hs)

theorem unpinFrame_memOk (s : State) (op f n : Nat) (h : s.memOk) : (unpinFrame s op f n).memOk := by
  delta unpinFrame
  exact memOk_ops _ (setFramePins_memOk s (framePa f) (framePins s (framePa f) - n) h)

theorem dropPins_memOk (s : State) (op : Nat) (h : s.memOk) : (dropPins s op).memOk := by
  unfold dropPins
  split
  · exact h
  · refine foldl_keeps State.memOk _ (fun s e hs => ?_) _ s h
    with_reducible exact unpinFrame_memOk s op e.1 e.2 hs

/-! ## The accesses of an operator -/

theorem pondTranslate_memOk (s : State) (i : Nat) (p : Pond) (tile pasid va : Nat) (w : Bool) (h : s.memOk) :
    (pondTranslate s i p tile pasid va w).1.memOk := by
  have ht := translateFor_memOk s tile pasid va w false h
  unfold pondTranslate
  generalize translateFor s tile pasid va w false = r at ht ⊢
  obtain ⟨s1, _ | ⟨pa, c⟩⟩ := r
  · exact ht
  · dsimp only at ht ⊢
    have hpin : ∀ (l : Bool) (s2 : State), (if p.pinned.contains (frameIndex pa) then Except.ok s1
        else if l then Except.error 3 else pinFrames s1 p.op pasid [frameIndex pa]) = .ok s2 → s2.memOk := by
      intro l s2 h2
      split at h2
      · cases h2; exact ht
      · split at h2
        · cases h2
        · exact pinFrames_memOk s1 s2 _ _ _ ht h2
    clear h
    repeat' split
    all_goals try dsimp only
    all_goals
      first
      | with_reducible exact ht
      | with_reducible exact memOk_of_mem ht (State.setPond_mem ..)
      | with_reducible exact memOk_of_mem (copyFrame_memOk _ _ _ _ (hpin _ _ ‹_›)) (State.setPond_mem ..)
      | with_reducible exact memOk_of_mem (hpin _ _ ‹_›) (State.setPond_mem ..)
      | with_reducible exact hpin _ _ ‹_›

theorem translateOp_memOk (s : State) (op tile pasid va : Nat) (w : Bool) (h : s.memOk) :
    (translateOp s op tile pasid va w).1.memOk := by
  unfold translateOp
  split
  · exact translate_memOk s tile pasid va w h
  · exact pondTranslate_memOk s _ _ tile pasid va w h

@[simp] theorem wantLines_mem (s : State) (tile : Nat) (rs : List PortReq) : (wantLines s tile rs).1.mem = s.mem := by
  unfold wantLines
  dsimp only
  split <;> rfl

@[simp] theorem dropSent_mem (s : State) (tile : Nat) (p : PortReq → Bool) : (s.dropSent tile p).mem = s.mem := by
  unfold State.dropSent
  dsimp only
  split <;> rfl

theorem dropOwner_memOk (s : State) (o : PortOwner) (h : s.memOk) : (s.dropOwner o).memOk :=
  foldl_keeps State.memOk _ (fun s e hs => memOk_of_mem hs (dropSent_mem s e.1 _)) _ s h

theorem keepPorts_memOk (s s' : State) (h : s.memOk) : (keepPorts s s').memOk := by
  refine foldl_keeps State.memOk _ (fun s e hs => ?_) _ s h
  dsimp only
  split <;> exact hs

@[simp] theorem dropLoads_mem (s : State) (t : Thread) : (s.dropLoads t).mem = s.mem := by
  unfold State.dropLoads
  dsimp only
  split <;> rfl

theorem dropLoads_memOk (s : State) (t : Thread) (h : s.memOk) : (s.dropLoads t).memOk := memOk_of_mem h (dropLoads_mem s t)

/-! ## Traps and contexts -/

theorem setCtxField_memOk (s : State) (ctx hi lo v : Nat) (h : s.memOk) : (setCtxField s ctx hi lo v).memOk :=
  homeWrite_memOk _ _ _ _ (noteHole_memOk s _ h)

theorem writeTrapRecord_memOk (s : State) (o : Operator) (f : Fate) (x : TrapNote) (h : s.memOk) :
    (writeTrapRecord s o f x).memOk := by
  unfold writeTrapRecord
  simp only
  split
  · exact setCtxField_memOk s _ _ _ _ h
  · exact setCtxField_memOk _ _ _ _ _ (homeWrite_memOk _ _ _ _ (noteHole_memOk s _ h))

@[simp] theorem markTicket_mem (s : State) (c : FlumeCmd) (x : TicketState) : (markTicket s c x).mem = s.mem := by
  unfold markTicket
  split <;> rfl

@[simp] theorem returnFrames_mem (s : State) (ter : Nat) (fs : List Nat) : (returnFrames s ter fs).mem = s.mem := rfl

theorem cancelFlumes_memOk (s : State) (p : Nat → FlumeCmd → Bool) (h : s.memOk) : (cancelFlumes s p).memOk := by
  unfold cancelFlumes
  dsimp only
  refine foldl_keeps State.memOk _ (fun s f hs => memOk_of_mem hs (returnFrames_mem s _ _)) _ _ ?_
  exact foldl_keeps State.memOk _ (fun s e hs => memOk_of_mem hs (markTicket_mem s _ _)) _ _ (memOk_of_mem h rfl)

theorem killContext_memOk (s : State) (ctx : Nat) (f : Option Nat) (h : s.memOk) : (killContext s ctx f).memOk := by
  have h1 := cancelFlumes_memOk (setCtxField s ctx 367 364 4)
    (fun _ c => (mfind (setCtxField s ctx 367 364 4).ops (keyOp c.thread)).any (·.ctx = ctx)) (setCtxField_memOk s ctx _ _ _ h)
  unfold killContext
  dsimp only
  generalize cancelFlumes _ _ = s1 at h1 ⊢
  exact memOk_of_mem h1 rfl

theorem spillSeq_memOk (o : Operator) (s : State) (t : Thread) (h : s.memOk) : (spillSeq o s t).memOk := by
  unfold spillSeq
  generalize List.finRange 32 = ns
  generalize List.range 512 = is
  dsimp only
  refine memOk_freshTick _ ?_
  refine foldl_keeps State.memOk _ (fun s i hs => homeWrite_memOk s _ 8 _ hs) _ _ ?_
  refine foldl_keeps State.memOk _ (fun s n hs => ?_) _ s h
  split
  · exact homeWriteBytes_memOk _ s _ hs
  · exact hs

theorem strikeSpill_memOk (s : State) (op : Nat) (h : s.memOk) : (s.strikeSpill op).memOk := by
  unfold State.strikeSpill
  split
  · exact memOk_of_mem h rfl
  · exact h

theorem spillNow_memOk (s : State) (op : Nat) (h : s.memOk) : (spillNow s op).memOk := by
  unfold spillNow
  split
  · exact h
  · exact foldl_keeps State.memOk _ (fun s t hs => spillSeq_memOk _ s t hs) _ _ (strikeSpill_memOk s op h)

theorem settleTrap_memOk (s : State) (op : Nat) (h : s.memOk) : (settleTrap s op).memOk := by
  unfold settleTrap
  split
  · exact h
  · split
    · split
      · have hw := fun (o : Operator) (f : Fate) (x : TrapNote) => writeTrapRecord_memOk s o f x h
        simp only
        split
        · split
          · exact hw _ _ _
          · exact spillNow_memOk _ _ (hw _ _ _)
        · split
          · exact hw _ _ _
          · exact hw _ _ _
        · exact hw _ _ _
      · exact h
    · exact h

theorem raiseTrapFor_memOk (s : State) (k : Nat) (t : Thread) (c : TrapClass) (n : W32) (x : Option (W64 × BitVec 16))
    (h : s.memOk) : (raiseTrapFor s k t c n x).memOk := by
  unfold raiseTrapFor
  replace h := dropLoads_memOk s t h
  simp only
  split
  · exact h
  · split
    · exact h
    · refine settleTrap_memOk _ _ ?_
      split
      · exact killContext_memOk _ _ _ h
      · exact h

theorem raiseTrap_memOk (s : State) (k : Nat) (t : Thread) (c : TrapClass) (n : W32) (h : s.memOk) :
    (raiseTrap s k t c n).memOk := raiseTrapFor_memOk s k t c n none h

theorem rerunBlock_memOk (s : State) (k : Nat) (t : Thread) (h : s.memOk) : (rerunBlock s k t).memOk := by
  unfold rerunBlock
  split
  · exact raiseTrap_memOk s k t _ _ h
  · exact dropLoads_memOk s t h

theorem stopAt_memOk (s : State) (k : Nat) (t : Thread) (e : Stop) (h : s.memOk) : (stopAt s k t e).memOk := by
  cases e with
  | trap c n => exact raiseTrap_memOk s k t c n h
  | wait n => exact h
  | rerun => exact rerunBlock_memOk s k t h

/-! ## The frames of the meanings -/

/-- What an outcome's next state satisfies. -/
def Next (P : State → Prop) (r : Host.Outcome State Fault Refusal) : Prop :=
  match r with
  | .next s => P s
  | _ => True

theorem runPure_memOk (s : State) (f : Thread → Except Stop Thread) (h : s.memOk) : Next State.memOk (runPure s f) := by
  rcases runPure_cases s f with ⟨_, hr⟩ | ⟨t, t', _, _, hr⟩ | ⟨t, e, _, _, hr⟩ <;> rw [hr]
  · exact h
  · exact h
  · exact stopAt_memOk s s.cur t e h

/-- An operation of the monad keeps memory's form, whether it completes or stops. -/
def KeepsMem {α : Type} (m : Op α) : Prop := ∀ s : State, s.memOk → (m.run s).2.memOk

theorem keepsMem_pure {α : Type} (x : α) : KeepsMem (pure x) := fun _ h => h
theorem keepsMem_throw {α : Type} (e : Stop) : KeepsMem (throw e : Op α) := fun _ h => h
theorem keepsMem_get : KeepsMem (get : Op State) := fun _ h => h
theorem keepsMem_lift {α : Type} (x : Except Stop α) : KeepsMem (liftM x : Op α) := by
  intro s h
  cases x <;> exact h

theorem keepsMem_modify (f : State → State) (hf : ∀ s : State, s.memOk → (f s).memOk) :
    KeepsMem (modify f : Op PUnit) := fun s h => hf s h

theorem keepsMem_bind {α β : Type} {m : Op α} {f : α → Op β} (hm : KeepsMem m) (hf : ∀ x, KeepsMem (f x)) :
    KeepsMem (m >>= f) := by
  intro s h
  rw [op_run_bind]
  have h1 := hm s h
  rcases hr : m.run s with ⟨r, s'⟩
  rw [hr] at h1
  cases r with
  | ok x => exact hf x s' h1
  | error e => exact h1

/-- The state is read, and what follows keeps the form from exactly that state on. -/
theorem keepsMem_get_bind {β : Type} {f : State → Op β} (hf : ∀ s : State, s.memOk → ((f s).run s).2.memOk) :
    KeepsMem (get >>= f) := by
  intro s h
  rw [op_run_bind_ok (op_run_get s)]
  exact hf s h

theorem keepsMem_ite {α : Type} {p : Prop} [Decidable p] {m n : Op α} (hm : KeepsMem m) (hn : KeepsMem n) :
    KeepsMem (if p then m else n) := by
  split <;> assumption

theorem keepsMem_foldlM {α β : Type} (f : β → α → Op β) (hf : ∀ b a, KeepsMem (f b a)) (xs : List α) (b : β) :
    KeepsMem (xs.foldlM f b) := by
  induction xs generalizing b with
  | nil => exact keepsMem_pure b
  | cons x r ih => exact keepsMem_bind (hf b x) ih

theorem runOp_memOk (s : State) (f : Thread → Op Thread) (hf : ∀ t, KeepsMem (f t)) (h : s.memOk) :
    Next State.memOk (runOp s f) := by
  rcases runOp_cases s f with ⟨_, hr⟩ | ⟨t, t', s', _, hs, hr⟩ | ⟨t, e, s', _, hs, hr⟩ <;> rw [hr]
  · exact h
  · have := hf t s h
    rw [hs] at this
    exact this
  · have := hf t s h
    rw [hs] at this
    exact stopAt_memOk s' s.cur t e this

theorem keepsMem_chargeGated (t : Thread) : KeepsMem (chargeGated t) := by
  refine keepsMem_get_bind fun s h => ?_
  split
  · split <;> exact h
  · exact h

theorem keepsMem_capture (i : Instr) (t : Thread) : KeepsMem (capture i t) :=
  keepsMem_bind (keepsMem_chargeGated t) fun _ => keepsMem_pure _

/-- A gated operation keeps memory's form if both of its phases do. -/
theorem runGated_memOk (i : Instr) (cap : Thread → Op Thread) (iss : Gated → Thread → Op Thread) (s : State)
    (hc : ∀ t, KeepsMem (cap t)) (hi : ∀ g t, KeepsMem (iss g t)) (h : s.memOk) :
    Next State.memOk (runGated i cap iss s) := by
  refine runOp_memOk s _ (fun t => ?_) h
  split
  · split
    · split
      · refine keepsMem_get_bind fun s hs => ?_
        split
        · exact hs
        · exact (keepsMem_bind (hi _ _) fun t => keepsMem_bind keepsMem_get fun s => keepsMem_pure _) s hs
      · exact keepsMem_pure t
    · exact keepsMem_pure t
  · exact hc t

end Sys2Proof.Machine
end

