-- ==== Sys2Proof/Laws/Walk.lean ====
section
/-! SUPPORT. Every byte of a 64 KiB page has one walk, so a claim about a page's first byte is one about the page. -/

namespace Sys2Proof.Machine

theorem levelIndex_page (va l : Nat) : levelIndex va l = levelIndex (va / 65536 * 65536) l := by
  unfold levelIndex
  split
  · omega
  · rw [show 21 + 9 * (l - 1) = 16 + (5 + 9 * (l - 1)) by omega, Nat.pow_add, ← Nat.div_div_eq_div_mul,
      ← Nat.div_div_eq_div_mul]
    congr 2
    omega

theorem walkFrom_zero (s : State) (va table : Nat) : walkFrom s va 0 table =
    if homeRead s (table + 8 * levelIndex va 0) 8 % 2 = 0 then .missing
    else if bit (homeRead s (table + 8 * levelIndex va 0) 8) 1 && !badLeaf 0 (homeRead s (table + 8 * levelIndex va 0) 8) then
      .leaf (table + 8 * levelIndex va 0) false (homeRead s (table + 8 * levelIndex va 0) 8)
    else .malformed (table + 8 * levelIndex va 0) := rfl
theorem walkFrom_succ (s : State) (va l table : Nat) : walkFrom s va (l + 1) table =
    let pte := table + 8 * levelIndex va (l + 1)
    let e := homeRead s pte 8
    if e % 2 = 0 then .missing
    else if bit e 1 then if l = 0 && !badLeaf 1 e then .leaf pte true e else .malformed pte
    else if badPointer (l + 1) e then .malformed pte
    else walkFrom s va l (bits e 38 8 * 256) := rfl

theorem walkFrom_page (s : State) (va : Nat) (l table : Nat) :
    walkFrom s va l table = walkFrom s (va / 65536 * 65536) l table := by
  induction l generalizing table with
  | zero => rw [walkFrom_zero, walkFrom_zero, levelIndex_page va]
  | succ l ih => simp only [walkFrom_succ, ih, levelIndex_page va]

/-- A walk sees the page alone (R66 to R68). -/
theorem walk_page (s : State) (pasid va : Nat) : walk s pasid va = walk s pasid (va / 65536 * 65536) := by
  unfold walk
  split
  · rfl
  · by_cases h : 2 ^ 57 ≤ va
    · rw [if_pos h, if_pos (by omega)]
    · rw [if_neg h, if_neg (by omega)]
      exact walkFrom_page s va 4 _

theorem walk_offset (s : State) (pasid page j : Nat) (h : j < 65536) :
    walk s pasid (65536 * page + j) = walk s pasid (65536 * page) := by
  rw [walk_page s pasid (65536 * page + j), show (65536 * page + j) / 65536 * 65536 = 65536 * page by omega]

theorem leafPa_offset (large : Bool) (e page j : Nat) (h : j < 65536) :
    leafPa large e (65536 * page + j) = leafPa large e (65536 * page) + j := by
  unfold leafPa
  split <;> omega

/-- Where the front end finds a page's first byte, it finds its others in order. -/
theorem basinAddr_offset {s : State} {pasid page pa : Nat} {w c : Bool} (h : basinAddr s pasid (65536 * page) w = some (pa, c))
    (j : Nat) (hj : j < 65536) : basinAddr s pasid (65536 * page + j) w = some (pa + j, c) := by
  unfold basinAddr at h ⊢
  rw [walk_offset s pasid page j hj]
  cases hw : walk s pasid (65536 * page) with
  | leaf pte large e =>
    rw [hw] at h
    simp only at h ⊢
    by_cases hb : bit e (if w = true then 3 else 2) = true
    · rw [if_pos hb] at h ⊢
      simp only [Option.some.injEq, Prod.mk.injEq] at h
      rw [leafPa_offset large e page j hj, h.1, h.2]
    · rw [if_neg hb] at h
      cases h
  | missing => rw [hw] at h; cases h
  | malformed a => rw [hw] at h; cases h
  | hole => rw [hw] at h; cases h

/-- The line requests of a granule of a page that is there, in order. -/
theorem granuleReqs_page {s : State} {otk pasid region g page pte e : Nat} {large write : Bool}
    (h : walk s pasid (65536 * page) = .leaf pte large e) : granuleReqs s otk pasid region g (65536 * page) write =
      (List.range 64).map fun i => portReq s (otk / 512) (lineOf (leafPa large e (65536 * page) + 64 * i)) (.granule otk region g)
        (bits e 7 6 = 0 && !write) := by
  unfold granuleReqs
  have hs : ∀ i ∈ List.range 64, i < 64 := fun i hi => List.mem_range.mp hi
  generalize List.range 64 = l at hs
  induction l with
  | nil => rfl
  | cons i l ih =>
    have hi := hs i (.head l)
    rw [List.map_cons, ← ih fun j hj => hs j (.tail i hj)]
    simp only [List.filterMap_cons, walk_offset s pasid page (64 * i) (by omega), h, leafPa_offset large e page (64 * i) (by omega)]

/-- A translation in the TLB serves its page whole. -/
theorem tlbFind_offset (t : List TlbEntry) (pasid page j : Nat) (h : j < 65536) :
    tlbFind t pasid (65536 * page + j) = tlbFind t pasid (65536 * page) := by
  unfold tlbFind
  congr 1
  funext x
  rw [show (65536 * page + j) / 2 ^ 21 = 65536 * page / 2 ^ 21 by omega,
    show (65536 * page + j) / 2 ^ 16 = 65536 * page / 2 ^ 16 by omega]

end Sys2Proof.Machine
end

