-- ==== Sys2Proof/Safety.lean ====
section
/-! DEFINITION. What counts as a safe run: the invariant of every state, and steps none of which stops. -/

namespace Sys2Proof

/-- What every step keeps: memory is in its canonical form (log entry 1). -/
def Inv (s : Machine.State) : Prop := Machine.Memory.wf s.mem = true

/-- The state after `n` steps, where none of them stops. -/
def runs : Nat → Machine.State → Option Machine.State
  | 0, s => some s
  | n + 1, s =>
    match Machine.step s with
    | .next s' => runs n s'
    | .fault _ => none
    | .refused _ => none

/-- A run of `n` steps that meets no fault and no refusal. -/
def SafeRun (n : Nat) (s : Machine.State) : Prop := ∃ s', runs n s = some s'

/-- A state in which no operator has a trap to report: nothing that runs has taken a trap (R370). -/
def TrapFree (s : Machine.State) : Prop := ∀ e ∈ s.ops, e.2.trap = none

end Sys2Proof
end

