-- ==== Sys2Proof/Tests/Slice0.lean ====
section
/-! SUPPORT. Tests: words of the spec and what they decode to, terms that are not well formed, single steps with the values
the spec gives, and for every statement with hypotheses a state and operands that meet them. -/

namespace Sys2Proof.Tests
set_option Elab.async false
open Sys2Proof Sys2Proof.Machine Sys2Proof.Says

/-! ## Decoding: words written out from the encodings of the spec -/

/-- What the decoder answers is an operation. -/
def gives (r : Except DecodeError Instr) (i : Instr) : Bool :=
  match r with
  | .ok j => j = i
  | .error _ => false
/-- A word of the Jexcy form reads as an operation. -/
def Reads (w : W64) (i : Instr) : Bool := gives (decodeWord .jexcy w) i
/-- A word of the Jexcy form is refused by name. -/
def Refuses (w : W64) (e : DecodeError) : Bool :=
  match decodeWord .jexcy w with
  | .ok _ => false
  | .error x => x = e

/-- R50, and the words of files 07, 17, 18, 20 and 21. -/
theorem test_decode_control :
    Reads 0 .nop ∧ Reads 0x0106800000000000 (.br 1 2 true) ∧ Reads 0x00280000FFFFFFFC (.prep 2 0xFFFFFFFC)
      ∧ Reads 0x0140004000000000 (.jtab 4 0) ∧ Reads 0x008000102000000E (.cOp 0 1 2 0xE)
      ∧ Reads 0x0190000000000020 (.loopi 32) ∧ Reads 0x018001A000000000 (.loop (.reg 26)) ∧ Reads 0x0210008000000000 (.exit 8)
      ∧ Reads 0x0200000000000007 (.trap 7) ∧ Reads 0x0320024000000000 (.bar 18) ∧ Reads 0x02C1400000000000 (.sysr 20 0)
      ∧ Reads 0x0050110400004000 (.cmpi .ltb 1 (.reg 16) 16384) := by decide +kernel

/-- R51, and the words of files 07 and 20. -/
theorem test_decode_scalar :
    Reads 0x11E050500000001F (.srai ⟨false, 5, .reg 5, 31⟩) ∧ Reads 0x1040C0A0B0000000 (.mul ⟨false, 12, .reg 10, .reg 11⟩)
      ∧ Reads 0x1390404000000002 (.addiP 2 2 2) ∧ Reads 0x1300900011060301 (.li false 9 0x11060301) := by decide +kernel

/-- R52, and the words of files 03, 06, 17, 19, 20 and 22. -/
theorem test_decode_access :
    Reads 0x2020A04000000000 (.ldSh ⟨10, .pair 2, 0⟩) ∧ Reads 0x212001A002000000 (.stV (.pair 13) 0 (.reg 2) 0)
      ∧ Reads 0x2140100000000008 (.commit (.reg 1) 8) ∧ Reads 0x23D0000000000005 (.runmap 5)
      ∧ Reads 0x21A0404290000006 (.hset 4 4 (.reg 41) 6) ∧ Reads 0x2200004209000008 (.atAdd ⟨.pair 2, 8, false, 9, 2⟩)
      ∧ Reads 0x2280143020300004 (.atCas 1 (.handle 3) 2 3 false 4) ∧ Reads 0x231000010000000F (.fence .tile 0x0F)
      ∧ Reads 0x2380912080000001 (.probe (some 9) 9 8 1) ∧ Reads 0x2400003000000006 (.stamp 6 (.reg 3)) := by decide +kernel

/-- R53, and the words of files 04 and 17. -/
theorem test_decode_flume :
    Reads 0x3081402030A0C101 (.flPatch ⟨false, 20, 2, 3, 5, 12, 1, false, 1⟩)
      ∧ Reads 0x3052404001A30F00 (.flFill ⟨false, 36, 4, 0, 13, 48, 15, false, 0⟩) := by decide +kernel

/-- R54, and the words of files 08, 18 and 19. -/
theorem test_decode_vector :
    Reads 0x4000101030052000 (.vAdd ⟨false, .reg 1, .reg 1, .reg 3, .si32, 2, false, .rne⟩)
      ∧ Reads 0x40C0C01020C10000 (.vDot ⟨false, .reg 12, .reg 1, .reg 2, .reg 12, .si8, 0, false, .rne⟩)
      ∧ Reads 0x4100201000080000 (.vRcp ⟨false, .reg 2, .reg 1, .f32, 0, false, .rne⟩)
      ∧ Reads 0x42003070A0020005 (.vCmp .geb 3 (.reg 7) (.reg 10) .ui8 0)
      ∧ Reads 0x4410200070080001 (.vBcastScalar false (.reg 2) (.reg 7) .f32 0)
      ∧ Reads 0x4420601020080002 (.vShuf ⟨false, .reg 6, .reg 1, .reg 2, .f32, 0, false, .rne⟩ 2)
      ∧ Reads 0x4430801020980000 (.vSlide ⟨false, .reg 8, .reg 1, .reg 2, .f32, 0, false, .rne⟩ (.reg 9))
      ∧ Reads 0x4440403000080000 (.vBrev ⟨false, .reg 4, .reg 3, .f32, 0, false, .rne⟩ 0)
      ∧ Reads 0x44601161E0070000 (.vIns 1 (.reg 22) (.reg 30) .si64)
      ∧ Reads 0x4471405180050000 (.vGet 20 (.reg 5) (.reg 24) .si32)
      ∧ Reads 0x4480603050040000 (.vPack ⟨false, .reg 6, .reg 3, .reg 5, .ui16, 0, false, .rne⟩)
      ∧ Reads 0x4490201000020002 (.vUnpack ⟨false, .reg 2, .reg 1, .ui8, 0, false, .rne⟩ false true)
      ∧ Reads 0x4380200000060000 (.vRedAdd ⟨false, .reg 2, .reg 0, false, 0, false, .ui32, 0, false, .rne⟩)
      ∧ Reads 0x4500102030000000 (.qAnd ⟨1, 2, 3⟩) := by decide +kernel

/-- R55, and the words of files 09, 18, 19 and 21. -/
theorem test_decode_matrix :
    Reads 0x5000000000000001 (.mLease 1) ∧ Reads 0x5028000000000000 (.mZero 2) ∧ Reads 0x5030000000000000 .mWait
      ∧ Reads 0x5080020311000080 (.mMma ⟨0, .handle 2, .handle 3, .si8, .si8, false, false, 128⟩)
      ∧ Reads 0x50900406DDC40030 (.mMmas 0 4 6 .e2m1 .e2m1 .e5m2 1 false 48)
      ∧ Reads 0x5100040055000000 (.mDrain 0 4 .si32 .si32 false .rne) ∧ Reads 0x5110020080000000 (.mFill 0 (.handle 2) .f32)
      ∧ Reads 0x51300800A0000000 (.mScale 0 (.handle 8) .bf16) ∧ Reads 0x5194000080000012 (.mBrev 1 0 2 1 0 false) := by
  decide +kernel

/-- R33, R39 to R43: latch selectors and nw = 1 in native code alone, and the seal of file 01. -/
theorem test_decode_native :
    gives (decodeWord .native 0x4028001020080000) (.vMul ⟨true, .reg 0, .reg 1, .reg 2, .f32, 0, false, .rne⟩)
      ∧ Refuses 0x4028001020080000 .formForbids ∧ Refuses 0x4000482030080000 .formForbids
      ∧ gives (sealOf 0x0010000000000000 0xF000001200000013 0xF000000000000000 0xF000504000000000)
          (.sealOp ⟨0, 0, 0x12, 0, 0x13, 0, 5, 1, 0, 0, false⟩) := by decide +kernel

/-- R7, R18 to R24, R38, R56: words that name nothing are refused, each by name. -/
theorem test_decode_refuses :
    Refuses 0x6000000000000000 .badClass ∧ Refuses 0xF000000000000000 .straySealWord ∧ Refuses 0x0000000000000001 .unassigned
      ∧ Refuses 0x1030000000000000 .unassigned ∧ Refuses 0x1000304800000000 .formForbids
      ∧ Refuses 0x1004004050000000 .operand ∧ Refuses 0x2040905000000000 .operand ∧ Refuses 0x1000304050000001 .reserved
      ∧ Refuses 0x4000101030000000 .notAccepted ∧ Refuses 0x0050009600000064 .operand := by decide +kernel

/-! ## Terms that are not well formed, one for each check -/

/-- The operations of classes 0 to 2. -/
theorem test_illformed_scalar_and_access :
    ([.sealOp ⟨0, 0, 0, 0, 0, 0, 0, 0, 0, 0, false⟩, .sealOp ⟨0, 0, 1, 0, 0, 0, 0, 33, 0, 0, false⟩,
      .sealOp ⟨0, 0, 1, 0, 0, 0, 0, 0, 513, 0, false⟩, .sealOp ⟨0, 0, 1, 0, 0, 0, 0, 0, 0, 9, false⟩, .trap 65536, .lpipe (.reg 4) 9,
      .lpipe (.reg 4) 0, .fmti 5, .sysr 4 0x00A, .sysw 0x001 (.reg 4), .add ⟨true, 3, .reg 4, .reg 5⟩,
      .sel ⟨true, 3, .reg 4, .reg 5⟩ 0, .addi ⟨true, 3, .reg 4, 1⟩, .shli ⟨false, 3, .reg 4, 32⟩, .clz ⟨true, 3, .reg 4⟩,
      .li true 3 0, .extS ⟨false, 3, .reg 4⟩ 0, .leaH 3 2 62, .atAdd ⟨.pair 2, 0, true, 5, 0⟩,
      .atXchg 5 ⟨.pair 2, 0, true, 4, 0⟩, .atCas 4 (.pair 2) 6 7 true 0, .fence .tile 0, .probe (some 4) 2 6 3,
      .ldVg 0 (.pair 2) (.reg 1) .si16 0, .stVs (.pair 2) (.reg 1) (.reg 2) .f32 0 0, .wset 0 2 0 0, .wset 0 2 5 0,
      .wset 0 31 1 0] : List Instr).all (fun i => !i.accepts) = true := by decide +kernel

/-- The flume operations. -/
theorem test_illformed_flume :
    ([.flCopy ⟨true, 4, 0, 0, 0, 4, 0, false, 0⟩, .flCopy ⟨false, 4, 0, 0, 0, 4, 5, false, 0⟩,
      .flCopy ⟨false, 4, 0, 0, 0, 63, 0, false, 0⟩, .flXpose ⟨false, 4, 0, 0, 0, 4, 0, false, 1⟩,
      .flPerm ⟨false, 4, 0, 0, 0, 4, 0, false, 6⟩, .flGather ⟨false, 4, 0, 0, 0, 61, 0, false, 0⟩,
      .flScatter ⟨false, 4, 0, 0, 0, 4, 0, false, 2⟩, .flFill ⟨false, 4, 0, 1, 0, 4, 0, false, 0⟩,
      .flMcast ⟨false, 4, 0, 0, 0, 4, 0, false, 0x40⟩, .flPatch ⟨false, 4, 0, 1, 0, 4, 0, false, 0⟩,
      .flRope ⟨false, 4, 0, 0, 0, 4, 0, false, 2⟩, .flPublish ⟨false, 4, 0, 1, 0, 4, 0, false, 0⟩,
      .flPoll ⟨false, 4, 1, 0, 0, 4, 0, false, 0⟩, .flCancel ⟨false, 4, 0, 0, 1, 4, 0, false, 0⟩] : List Instr).all
        (fun i => !i.accepts) = true := by decide +kernel

/-- The vector operations. -/
theorem test_illformed_vector :
    let v2 (ty : Ty) : V2 := ⟨false, .reg 1, .reg 2, .reg 3, ty, 0, false, .rne⟩
    let v1 (ty : Ty) : V1 := ⟨false, .reg 1, .reg 2, ty, 0, false, .rne⟩
    let v3 (ty : Ty) : V3 := ⟨false, .reg 1, .reg 2, .reg 3, .reg 4, ty, 0, false, .rne⟩
    let vr (ty : Ty) : VRed := ⟨false, .reg 1, .reg 2, false, 0, false, ty, 0, false, .rne⟩
    ([.vAdd (v2 .none), .vAdd { v2 .si32 with rnd := .rtz }, .vAdd { v2 .si32 with nw := true }, .vFma (v3 .si32),
      .vMin { v2 .f32 with sat := true }, .vAbs { v1 .f32 with sat := true }, .vMulh (v2 .f32), .vMadd (v3 .f32),
      .vDot (v3 .f32), .vRcp (v1 .si32), .vCvt (v1 .f32) .none 0, .vCvt (v1 .f32) .f16 2, .vScl (v2 .f32) .f16 .f32,
      .vScl (v2 .f32) .f32 .si8, .vScl (v2 .si32) .f32 .f32, .vRnd { v1 .f32 with sat := true }, .vCmp .ltb 1 (.reg 2) (.reg 3) .f32 0,
      .vCmp .lt 1 (.reg 2) (.reg 3) .e2m1 0, .vClass 1 (.reg 2) 0 .si32 0, .vSel (v2 .e2m1) 1, .vAnd (v2 .f32), .vNot (v1 .f32),
      .vRedAdd { vr .si32 with excl := true }, .vRedMax { vr .si32 with sat := true }, .vScan { vr .si32 with q := 1 },
      .vRedMin (vr .e4m3), .vPerm (v2 .e2m1), .vBcast (v1 .e2m1) (.reg 4), .vBcastScalar false (.reg 1) (.reg 5) .si64 0,
      .vBcastScalar true (.reg 1) (.reg 4) .f32 0, .vBrev (v1 .f32) 9, .vMov { v1 .f32 with rnd := .rtz }, .vIns 1 (.reg 5) (.reg 4) .si64,
      .vGet 5 (.reg 1) (.reg 4) .si64, .vPack (v2 .f32), .vUnpack (v1 .si64) false false, .vUnpack (v1 .si16) false true,
      .vIota false (.reg 1) (.reg 4) .f32 0] : List Instr).all (fun i => !i.accepts) = true := by decide +kernel

/-- The matrix operations, and what the Jexcy form refuses. -/
theorem test_illformed_matrix_and_form :
    ([.mLease 0, .mFree 0, .mMma ⟨0, .handle 0, .handle 1, .si8, .f32, false, false, 16⟩,
      .mMma ⟨0, .handle 0, .handle 1, .f16, .f16, true, false, 16⟩, .mMma ⟨0, .handle 0, .handle 1, .si8, .si8, false, false, 0⟩,
      .mCellp ⟨0, .handle 0, .handle 1, .si8, .ds8, false, false, 16⟩,
      .mCellp ⟨0, .handle 0, .handle 1, .si8, .si8, false, false, 0x4000⟩, .mMmas 0 31 1 .e4m3 .e4m3 .e8m0 1 false 16,
      .mMmas 0 0 2 .e4m3 .e4m3 .e8m0 0 false 16, .mMmas 0 0 2 .e4m3 .e4m3 .f32 1 false 16, .mDrain 0 1 .si64 .si32 false .rne,
      .mDrain 0 1 .si32 .f16 false .rne, .mFill 0 (.handle 1) .f16, .mAdd 0 1 .f32 true, .mAdd 0 1 .f16 false,
      .mScale 0 (.handle 1) .si8, .mBfly 0 14 0 0 0 0 false, .mBfly 0 2 0 0 1 0 false, .mBrev 0 1 2 1 0 true,
      .mBrev 0 1 0 0 0 false, .mTwid 0 1 17 0 0 false false, .mTwid 0 1 0 0 0 false false] : List Instr).all
        (fun i => !i.accepts) = true
      ∧ Instr.wf .jexcy (.add ⟨false, 3, .lat 0, .reg 5⟩) = false ∧ Instr.wf .native (.add ⟨false, 3, .lat 0, .reg 5⟩) = true
      ∧ Instr.wf .jexcy (.vAdd ⟨true, .reg 0, .reg 1, .reg 2, .f32, 0, false, .rne⟩) = false := by decide +kernel

/-! ## Small devices -/

/-- A device with one sequencer at a block of two words and its seal, changed by `f`. -/
def place (f : Thread → Thread) : State :=
  let s := State.reset.withFetchWord 64 0
  { s with threads := s.threads.map fun e => (e.1, f e.2) }

/-- The sequencer that runs. -/
def runner (s : State) : Thread :=
  (mfind s.threads s.cur).getD { op := 0, ltile := 0, seq := 0, tile := 0, pseq := 0 }

/-- Scalars set. -/
def sets (l : List (Fin 64 × W32)) (t : Thread) : Thread :=
  { t with regs := { t.regs with s := l.foldl (fun v e => v.set e.1 e.2) t.regs.s } }

/-- Vector registers set; the block has named v1 to v4 as results. -/
def vsets (l : List (Fin 96 × VReg)) (t : Thread) : Thread :=
  { t with v := l.foldl (fun v e => v.set e.1 e.2) t.v, blk := { t.blk with vNamed := [1, 2, 3, 4] } }

/-- A handle register set. -/
def hsets (n : Fin 32) (r : HRec) (t : Thread) : Thread := { t with regs := { t.regs with h := t.regs.h.set n r } }

/-- The running sequencer with a seal passed and one gated operation to issue, with the registers it was captured with. -/
def issues (i : Instr) (t : Thread) : Thread :=
  { t with run := .issuing, issue := [⟨i, t.regs, t.pc, t.ord⟩], ord := t.ord + 1 }

/-- A record of elements of the format code `ty`: base, whether it names a region, the three extents. -/
def record (ty base : Nat) (scr : Bool) (e0 e1 e2 : Nat) : HRec :=
  BitVec.ofNat 256 (base + (if scr then 2 ^ 57 else 0) + ty * 2 ^ 58 + e0 * 2 ^ 64 + e1 * 2 ^ 88 + e2 * 2 ^ 112)

/-- The device with one-granule regions 0 to 3 on the sequencer's logical tile, and with the pages at 0x40000 (uncached) and
0x50000 (cached) in the TLB of tile 0. -/
def furnish (s : State) : State :=
  let tlb : List TlbEntry :=
    [⟨0, 4, false, 0x300000, false, true, true, true, 0x105020⟩, ⟨0, 5, false, 0x310000, true, true, true, true, 0x105028⟩]
  (s.setTile 0 { s.tile 0 with tlb := tlb }).setOpTile (runner s).ot
    { regions := [(0, { size := 1 }), (1, { size := 1 }), (2, { size := 1 }), (3, { size := 1 })] }

/-- s4:s5 a global address of the uncached page, s6:s7 one of region 0, s8:s9 one of the cached page. -/
def based (t : Thread) : Thread := sets [(4, 0x40000), (7, 0x80000000), (8, 0x50000)] t

/-- The device of most tests: `based`, `furnish`ed, changed by `f`. -/
def dev (f : Thread → Thread) : State := furnish (place fun t => f (based t))

/-- The sequencer after an operation. -/
def after (i : Instr) (s : State) : Thread :=
  match exec i s with
  | .next u => runner u
  | _ => { op := 0, ltile := 0, seq := 0, tile := 0, pseq := 0 }

/-- An operation that answers in the monad does so with some value and device. -/
theorem exists_run {α : Type} {m : Op α} {s : State} (h : (m.run s).1.isOk = true) : ∃ x s', m.run s = (.ok x, s') := by
  rcases hr : m.run s with ⟨_ | x, s'⟩
  · rw [hr] at h
    cases h
  · exact ⟨x, s', rfl⟩

/-! ## Single steps: the values are the spec's -/

/-- The scalar `n` after an operation on a device with the scalars `l`. -/
def scalarAfter (i : Instr) (l : List (Fin 64 × W32)) (n : Fin 64) : W32 := (after i (place (sets l))).regs.s[n]

/-- R191. -/
theorem test_addi_wraps : scalarAfter (.addi ⟨false, 4, .reg 4, 1⟩) [(4, 0xFFFFFFFF)] 4 = 0 := by decide +kernel
/-- R191: the high halves of a signed and an unsigned product. -/
theorem test_mulh_signs : scalarAfter (.mulh ⟨false, 9, .reg 4, .reg 4⟩) [(4, 0xFFFFFFFF)] 9 = 0
    ∧ scalarAfter (.mulhz ⟨false, 9, .reg 4, .reg 4⟩) [(4, 0xFFFFFFFF)] 9 = 0xFFFFFFFE := by decide +kernel
/-- R192: division truncates; by zero it gives all ones. -/
theorem test_div : scalarAfter (.div ⟨false, 9, .reg 10, .reg 11⟩) [(10, 0xFFFFFFF9), (11, 2)] 9 = 0xFFFFFFFD
    ∧ scalarAfter (.div ⟨false, 9, .reg 10, .reg 11⟩) [(10, 7)] 9 = 0xFFFFFFFF := by decide +kernel
/-- R192: a remainder takes the sign of the dividend. -/
theorem test_rem : scalarAfter (.rem ⟨false, 9, .reg 10, .reg 11⟩) [(10, 0xFFFFFFF9), (11, 2)] 9 = 0xFFFFFFFF := by decide +kernel
/-- R193: a shift by 256 is no shift by 0. -/
theorem test_shl_by_256 : scalarAfter (.shl ⟨false, 9, .reg 10, .reg 11⟩) [(10, 7), (11, 0x100)] 9 = 0 := by decide +kernel
/-- R198: `ext.s s6, s7, 12` of 0xABC. -/
theorem test_ext : scalarAfter (.extS ⟨false, 6, .reg 7⟩ 12) [(7, 0xABC)] 6 = 0xFFFFFABC := by decide +kernel
/-- R196: the leading zeros of 0. -/
theorem test_clz : scalarAfter (.clz ⟨false, 6, .reg 7⟩) [] 6 = 32 := by decide +kernel
/-- R199: the carry crosses the halves of a pair. -/
theorem test_addP_carries : (after (.addiP 2 2 1) (place (sets [(4, 0xFFFFFFFF)]))).regs.s[5] = 1 := by decide +kernel
/-- R201: signed and unsigned order. -/
theorem test_cmp : (after (.cmp .lt 1 (.reg 4) (.reg 5)) (place (sets [(4, 0xFFFFFFFF)]))).regs.c[1] = true
    ∧ (after (.cmp .ltb 1 (.reg 4) (.reg 5)) (place (sets [(4, 0xFFFFFFFF)]))).regs.c[1] = false := by decide +kernel
/-- R171: `fmti` of 5 is illegal and stops the sequencer. -/
theorem test_fmti_traps : (after (.fmti 5) (place id)).run = .stopped := by decide +kernel
/-- R205: a store enters the buffer and no byte of the region changes before the seal. -/
theorem test_store_is_buffered : let t := after (.stW ⟨.pair 3, 0, .reg 4, 0⟩) (dev id)
    t.blk.stores.length = 1 ∧ t.blk.storeBytes = 4 := by decide +kernel

/-- A lane after an operation on v1, v2 and v3. -/
def laneAfter (i : Instr) (a b c : VReg) (n : Fin 96) (w j : Nat) : Nat :=
  laneOf w ((after i (place (vsets [(1, a), (2, b), (3, c)]))).v[n]).toNat j

/-- R220: −0 · +1 + −0 is −0. -/
theorem test_fma_zero : laneAfter (.vFma ⟨false, .reg 4, .reg 1, .reg 2, .reg 3, .f32, 0, false, .rne⟩)
    0x80000000 0x3F800000 0x80000000 4 32 0 = 0x80000000 := by decide +kernel
/-- R155: a saturating sum stays at the largest value. -/
theorem test_vadd_saturates : laneAfter (.vAdd ⟨false, .reg 4, .reg 1, .reg 2, .si32, 0, true, .rne⟩)
    0x7FFFFFFF 1 0 4 32 0 = 0x7FFFFFFF := by decide +kernel
/-- R280: a 32-bit sum wraps and sets no flag. -/
theorem test_atomic_add : atApply .add 32 0xFFFFFFFF 2 0 = (1, 0) := by decide +kernel
/-- R401: a write of 4 bytes at no register does nothing. -/
theorem test_window : (match exec (.registerWrite 0x78 8 1) State.reset with
    | .next u => u.basin.rlimLocked && u.basin.prdl = 2000
    | _ => false) = true := by decide +kernel
/-- R16, R44: a step runs the placed word: `addi s4, s4, 1`. -/
theorem test_step_runs : (match step (State.reset.withFetchWord 64 0x1020404000000001) with
    | .next u => (runner u).regs.s[4] = 1 && (runner u).pc = 0x10008
    | _ => false) = true := by decide +kernel

/-! ## What meets the hypotheses of the statements, in the order of the statements -/

/-- Two register sources, and two latches in native code. -/
theorem witness_scalar_sources : (∃ a ta b tb, Running (place id) (runner (place id))
      ∧ readS (runner (place id)) (.reg 0) = .ok (a, ta) ∧ readS (runner (place id)) (.reg 63) = .ok (b, tb))
    ∧ let f (t : Thread) : Thread := { t with form := .native, blk := { t.blk with latS := #v[some (1, 2), some (3, 4)] } }
      Running (place f) (runner (place f)) ∧ readS (runner (place f)) (.lat 0) = .ok (1, 2)
        ∧ readS (runner (place f)) (.lat 1) = .ok (3, 4) :=
  ⟨⟨_, _, _, _, rfl, rfl, rfl⟩, rfl, rfl, rfl⟩

/-- Records for `lea.h`: malformed, empty, at the top of the address space, one byte past it, and at the end of a region. -/
theorem witness_leaH : let ot := (dev id).opTile (runner (dev id)).ot
    let r := record 5 (2 ^ 57 - 4) false 1 1 1
    let q := record 5 (2 ^ 57 - 3) false 1 1 1
    let x := record 5 4092 true 1 1 1
    hMalformed (record 16 0 false 1 1 1) = true ∧ hEmpty (record 5 0 false 0 1 1) = true
      ∧ hMalformed (record 5 0 false 0 1 1) = false
      ∧ (hMalformed r = false ∧ hEmpty r = false ∧ hScr r = false ∧ hBase r + elemOff r 0 0 0 + elemBytes r ≤ 2 ^ 57)
      ∧ (hMalformed q = false ∧ hEmpty q = false ∧ hScr q = false ∧ 2 ^ 57 < hBase q + elemOff q 0 0 0 + elemBytes q)
      ∧ (hMalformed x = false ∧ hEmpty x = false ∧ hScr x = true ∧ hField x 56 28 = 0
        ∧ 0 ≤ hOffset x + elemOff x 0 0 0
        ∧ hOffset x + elemOff x 0 0 0 + elemBytes x ≤ ((regionOf ot (hRegion x)).size.toNat * 4096 : Int)) := by
  decide +kernel

/-- s0 and its tag are 0 at the start. -/
theorem witness_register_zero : (runner (place id)).regs.s[0] = 0 ∧ (runner (place id)).regs.sTag[0] = 0
    ∧ (runner (place id)).form = .jexcy := by decide +kernel

/-- A place two units before a seal, targets in the section, with 15 and with 16 returns stacked, and one to return to. -/
theorem witness_transfers :
    let calls (n : Nat) (t : Thread) : Thread :=
      { t with regs := { t.regs with calls := List.replicate n 0x10000, t := Vector.replicate 4 0x10000 } }
    let s := place (calls 15)
    transferPlace s (runner s) = true ∧ s.codeHas (runner s) (runner s).regs.t[3] = true
      ∧ (runner s).regs.calls.length = 15 ∧ (runner s).regs.loops.head? = none
      ∧ (runner (place (calls 16))).regs.calls.length = 16 ∧ (runner (place (calls 0))).regs.calls = []
      ∧ (place id).codeHas (runner (place id)) (runner (place id)).regs.t[3] = false
      ∧ transferPlace (place fun t => { t with pc := 0x10008 }) (runner (place fun t => { t with pc := 0x10008 })) = false
      ∧ (pairVal (runner (place (sets [(4, 0x10008)]))).regs 2).toNat % 8 = 0
      ∧ (pairVal (runner (place (sets [(4, 0x10008)]))).regs 2).toNat < 2 ^ 63
      ∧ (place id).codeHas (runner (place id)) (pairVal (runner (place (sets [(4, 0x10008)]))).regs 2) = true := by
  decide +kernel

/-- A jump table in the constant area at 0x10100: one entry, unit 1, and no default. -/
def tabled : State :=
  let s := place fun t => { t with launch := { t.launch with constBase := 0x10100, constLen := 24 } }
  { s with mem := putWords s.mem 0x200100 [1, 0xFFFFFFFFFFFFFFFF, 1] }

/-- The entry leads to a unit of the section, past the last one the default is illegal, and the table ends where the area
does. -/
theorem witness_jump_table : let t := runner tabled
    let word (k : Nat) : Nat := ((peekWord tabled t.launch.pasid.toNat (t.launch.constBase.toNat + 8 * k)).getD 0).toNat
    t.form = .jexcy ∧ (tabled.objOf t).isSome = true ∧ 16 + 8 * (word 0 % 2 ^ 16) ≤ t.launch.constLen
      ∧ word 2 % 2 ^ 32 = 1 ∧ tabled.codeHas t 0x10008 = true ∧ word 1 % 2 ^ 32 = 2 ^ 32 - 1
      ∧ (jtabTarget tabled t 0 0).isOk = true ∧ transferPlace tabled t = true ∧ HwError.table t.key ∉ tabled.hwErrors := by decide +kernel

/-- No loop open and six open; one open at the call depth, past its prologue and in it. -/
theorem witness_loops : let e : LoopEntry := { start := 0x10000, exit := 0, remaining := 2 }
    let loops (n : Nat) (x : LoopEntry) (t : Thread) : Thread := { t with regs := { t.regs with loops := List.replicate n x } }
    (runner (place id)).regs.loops = [] ∧ (runner (place (loops 6 e))).regs.loops.length = 6
      ∧ (runner (place (loops 5 e))).regs.loops.length < 6
      ∧ (∀ x ∈ (runner (place (loops 6 e))).regs.loops.head?, x.armed = false)
      ∧ ((runner (place (loops 1 e))).regs.loops = [e] ∧ e.depth = (runner (place (loops 1 e))).regs.calls.length)
      ∧ (runner (place (loops 1 { e with armed := true }))).regs.loops = [{ e with armed := true }] := by decide +kernel

/-- A context with the test permission and one without. -/
theorem witness_system_registers :
    (runner (place fun t => { t with launch := { t.launch with test := true } })).launch.test = true
      ∧ (runner (place id)).launch.test = false ∧ ∃ x ta, readS (runner (place id)) (.reg 13) = .ok (x, ta) :=
  ⟨by decide +kernel, by decide +kernel, _, _, rfl⟩

/-! ### The seal -/

/-- A seal that closes a block of one unit with the hashes of an empty block. -/
def emptySeal : SealData := ⟨0, 0, 1, 0, 0, 0, 0, 0, 0, 0, false⟩

/-- A block of one unit that has done nothing, at the seal. -/
theorem witness_seal_passes : PlainBlock (runner (place id)) ∧ SealHolds (runner (place id)) emptySeal
    ∧ HwError.storeParity (runner (place id)).key ∉ (place id).hwErrors
    ∧ seqStops (place id) { runner (place id) with point := preemptPoint (runner (place id)) emptySeal } = false
    ∧ pendingResults (runner (place id)) = false ∧ (runner (place id)).results = []
    ∧ Untranslated (place id) (runner (place id)) ∧ SealRuns (place id) (runner (place id)) := by
  refine ⟨?_, ?_, ?_, ?_, ?_, ?_, ?_, ?_⟩
  on_goal 7 =>
    intro o h
    have : (place id).objOf (runner (place id)) = some { pasid := 0, number := 1, jexBase := 0x10000, jexLen := 48, entries := [1] } := by
      decide +kernel
    rw [this] at h
    cases h
    exact ⟨rfl, rfl⟩
  all_goals
    try unfold PlainBlock
    try unfold SealHolds
    try unfold SealRuns
    decide +kernel

/-- Blocks with one gated operation, one store to memory, one store at the end of a region, and one `sysw`. -/
theorem witness_seal_effects :
    let blk (f : Block → Block) (t : Thread) : Thread := { t with blk := f t.blk }
    let g := blk fun b => { b with gated := [⟨.yield, b.start, 0x10000, 1⟩] }
    let m := blk fun b => { b with stores := [.st { loc := .glob 0x300000 false, data := [1], col := 7, ord := 1 }] }
    let r := blk fun b => { b with stores := [.st { loc := .scr 0 4095, data := [1], col := 0, ord := 1 }] }
    let w := blk fun b => { b with pend := [.sysw 0 0x3F] }
    let a (wide : Bool) (d : Option (Fin 64)) := blk fun b => { b with stores := [.atom
      { kind := .add, loc := .scr 0 4088, v := 1, cmp := 0, wide := wide, dest := d, col := 0, ord := 1 }] }
    ∀ f ∈ [g, m, r, w, a false (some 5), a true (some 4), a false none], let s := dev f
      let t := runner s
      t.regs.preds.has emptySeal.own = true ∧ t.blk.entry = t.pc ∧ t.blk.shape = emptySeal.shape ∧ t.blk.sig = emptySeal.sig
        ∧ slotBefore s t = none ∧ commandBefore s t = false ∧ mapBefore s t = false ∧ t.blk.writes = [] ∧ t.blk.opened = none
        ∧ t.blk.transfer = none ∧ t.blk.kept = [] ∧ t.barriers = [] ∧ s.pondOf t.op = none
        ∧ Memory.wf (frontCells (regionOf (s.opTile t.ot) 0)) = true ∧ pendingResults t = false := by decide +kernel

/-- A store to a region at a seal behind an older fence of the tile, which a queued store of one of its colours keeps. -/
theorem witness_seal_waits :
    let s := dev fun t => { t with
      barriers := [⟨false, .tile, 0x04, 2⟩]
      queues := t.queues.set 2 [.st { loc := .glob 0x300000 false, data := [1], col := 2, ord := 1 }]
      blk := { t.blk with stores := [.st { loc := .scr 0 4095, data := [1], col := 0, ord := 3 }] } }
    let t := runner s
    (∃ b ∈ t.barriers, b.ord < 3 ∧ b.scope ≠ .seq ∧ ∃ c : Fin 8, b.mask.getLsbD c.val = true ∧ ∃ e ∈ t.queues[c], e.ord ≤ b.ord)
      ∧ slotBefore s t = none ∧ commandBefore s t = false ∧ t.blk.kept = []
      ∧ (match exec (.sealOp emptySeal) s with
        | .next u => (runner u).flow = .stalled .queues && (runner u).pc = t.pc && u.opTiles = s.opTiles
        | _ => false) = true := by decide +kernel

/-- Where a seal leaves its sequencer: the program counter, the call stack and the loop stack. -/
def sealLeaves (lend : Bool) (s : State) : Option (W64 × List W64 × List LoopEntry) :=
  match exec (.sealOp { emptySeal with lend := lend }) s with
  | .next u => if (runner u).run = .running then some ((runner u).pc, (runner u).regs.calls, (runner u).regs.loops) else none
  | _ => none

/-- A block at the seal whose operations have left `f`, with stacked returns and open loops. -/
def atSeal (calls : List W64) (loops : List LoopEntry) (f : Block → Block) : State :=
  place fun t => { t with regs := { t.regs with calls := calls, loops := loops }, blk := f t.blk }

/-- The device whose block opens a loop of `n` rounds and two stages, the seal of its body with lend 40 bytes on. -/
def atLoop (n : W32) : State :=
  let s := atSeal [] [] fun b => { b with opened := some (n, 2) }
  { s with mem := putWords s.mem 0x200020 (0 :: encode (.sealOp { emptySeal with lend := true }))
           objs := s.objs.map fun e => (e.1, { e.2 with jexLen := 0x48 }) }

/-- R297, R305 to R308: a jump, a call and a return; a break and a pending count; the boundary of a loop with rounds left,
with none, with a pending count and armed; a loop that is opened, and one of no rounds. -/
theorem witness_seal_carries_out :
    let e : LoopEntry := { start := 0x10000, exit := 0x10040, remaining := 2 }
    let goes (lend : Bool) (s : State) (pc : W64) (calls : List W64) (loops : List LoopEntry) : Bool :=
      sealLeaves lend s = some (pc, calls, loops)
    goes false (atSeal [] [] fun b => { b with transfer := some (.jump 0x10008) }) 0x10008 [] []
      && goes false (atSeal [] [] fun b => { b with transfer := some (.call 0x10008) }) 0x10008 [0x10020] []
      && goes false (atSeal [0x10010] [] fun b => { b with transfer := some .ret }) 0x10010 [] []
      && goes false (atSeal [] [e] fun b => { b with brk := true }) 0x10040 [] []
      && goes false (atSeal [] [e] fun b => { b with pend := [.lpset 7] }) 0x10020 [] [{ e with pending := 7, pvalid := true }]
      && goes true (atSeal [] [e] id) 0x10000 [] [{ e with remaining := 1 }]
      && goes true (atSeal [] [{ e with remaining := 1 }] id) 0x10040 [] []
      && goes true (atSeal [] [{ e with pvalid := true, pending := 9 }] id) 0x10000 [] [{ e with remaining := 9, pending := 9 }]
      && goes true (atSeal [] [{ e with armed := true }] id) 0x10000 [] [e]
      && goes true (atSeal [] [{ e with armed := true, remaining := 0 }] id) 0x10040 [] []
      && sealLeaves true (atSeal [0] [e] id) = none
      && (findSeal (atLoop 3) (runner (atLoop 3)) 256 0x10020).any (fun p => p.1.lend && p.2 = 0x10028)
      && goes false (atLoop 3) 0x10020 [] [{ start := 0x10020, exit := 0x10048, remaining := 5, stages := 2 }]
      && goes false (atLoop 0) 0x10048 [] [] := by decide +kernel

/-- Blocks that hold a store to memory, one to a region, a gated and a pending operation, a transfer, an opened loop, a slot
they took and a vector register they changed: nothing keeps the seal of any of them waiting. -/
theorem witness_seal_drops :
    let blk (f : Block → Block) (t : Thread) : Thread := { t with blk := f t.blk }
    ∀ f ∈ [blk fun b => { b with stores := [.st { loc := .glob 0x300000 false, data := [1], col := 7, ord := 1 }] },
        blk fun b => { b with stores := [.st { loc := .scr 0 4095, data := [1], col := 0, ord := 1 }] },
        blk fun b => { b with gated := [⟨.yield, b.start, 0x10000, 1⟩], pend := [.rmap 3 0x1000 1, .sysw 0 1] },
        blk fun b => { b with transfer := some .ret, opened := some (4, 0) },
        blk fun b => { b with took := [5], journal := [(3, 1, 2)] }],
      let t := runner (dev f)
      slotBefore (dev f) t = none ∧ commandBefore (dev f) t = false ∧ mapBefore (dev f) t = false ∧ sealHeld (dev f) t = false
        ∧ t.regs.preds.has emptySeal.own = true ∧ t.blk.entry = t.pc ∧ t.blk.writes = [] := by decide +kernel

/-- The tile's column with a spare and without one; an operator with another sequencer that runs. -/
theorem witness_last_spare :
    let s0 := place fun t => { t with misses := 2, missAt := t.blk.entry }
    let s : State := { s0 with
      threads := s0.threads ++ [(1, { (runner s0) with seq := 1, pseq := 1 })]
      speedt := (columnOf 0).map fun n => (n, 44) }
    (spareOf s0 0).isSome = true ∧ spareOf s 0 = none
      ∧ ((mfind s.ops 0).any fun o => o.pond.isNone && o.trap.isNone && o.rolled.isEmpty) = true
      ∧ ((mfind s.threads 1).any fun w => w.op = 0 && !w.idle) = true ∧ s.cur = 0 := by decide +kernel

/-- A label the block may not be entered under, a length that does not fit, and hashes that differ: for the first and for the
third time, on a tile that is not being retired. -/
theorem witness_seal_fails : let t := runner (place id)
    let u := runner (place fun t => { t with misses := 2, missAt := t.blk.entry })
    t.regs.preds.has { emptySeal with own := 2 }.own = false ∧ t.blk.entry.toNat ≠ t.pc.toNat - (1#8).toNat * 8
      ∧ t.blk.shape ≠ (1#32) ∧ ((place id).tile t.tile).retiring = false ∧ ¬ (2 ≤ t.misses ∧ t.missAt = t.blk.entry)
      ∧ u.misses = 2 ∧ u.missAt = u.blk.entry ∧ (mfind (place id).ops u.op).any (·.rolled.isEmpty) = true := by decide +kernel

/-! ### Memory, handles, walkers, landing slots -/

/-- What a computation that may stop answers. -/
def okIs {α : Type} [DecidableEq α] (x : Except Stop α) (v : α) : Bool :=
  match x with
  | .ok y => y = v
  | .error _ => false

theorem eq_ok {α : Type} [DecidableEq α] {x : Except Stop α} {v : α} (h : okIs x v = true) : x = .ok v := by
  cases x with
  | error e => cases h
  | ok y => rw [of_decide_eq_true (show decide (y = v) = true from h)]

/-- The device whose tile 0 has sent these requests and holds these lines in its L1. -/
def atPort (s : State) (rs : List PortReq) (l1 : List Nat) : State := s.setTile 0 { s.tile 0 with sent := rs, l1 := l1 }

/-- One page of the TLB holds the bytes, with the permission and the policy. -/
def reached (s : State) (t : Thread) (va n : Nat) (cached : Bool) : Bool :=
  va % 2 ^ 16 + n ≤ 2 ^ 16 && (List.range n).all fun j => (tlbFind (s.tile t.tile).tlb t.launch.pasid.toNat (va + j)).any fun e =>
    !e.large && e.readable && e.writable && e.dirty && e.cached = cached && e.page = va / 2 ^ 16

/-- Loads of each size at the end of a region and of a page, each with the address and the bytes it finds. -/
theorem witness_loads : let s := atPort (dev id) [⟨0, 0x30FFFF / 64, .unit (runner (dev id)).key, false⟩,
      ⟨0, 0x310040 / 64, .unit 7, true⟩] [0x310000 / 64]
    let t := runner s
    loadsGo s t = true ∧ HwError.load t.key ∉ s.hwErrors ∧ s.pondOf t.op = none ∧
    (∀ n ∈ [1, 2, 4, 8, 32], okIs (baseAddr (viewOf s t) t.regs (.pair 3) (4096 - n : Nat) n n) (.scr 0 (4096 - n), 0) = true
      ∧ ((loadAddr t (.scr 0 (4096 - n)) n).run s).1.isOk = true ∧ (∀ p ∈ s.ops, p.2.away = false)
      ∧ (∀ j < n, granOf (viewRegion s t 0) (4096 - n + j) ≠ some .empty)
      ∧ ∀ p ∈ pieces n (4096 - n) n, loadWaits t (.scr 0 p.1) p.2 t.ord = none)
    ∧ (∀ n ∈ [1, 2, 4, 8, 32], okIs (baseAddr (viewOf s t) t.regs (.pair 2) (65536 - n : Nat) n n) (.glob (0x50000 - n), 0) = true
      ∧ ((loadAddr t (.glob (0x50000 - n)) n).run s).1.isOk = true)
    ∧ ∀ n ∈ [1, 2, 4, 8], loadWaits t (.glob (0x310000 - n) false) n t.ord = none
      ∧ behindDrain s t (.glob (0x310000 - n) false) t.ord = false ∧ reached s t (0x50000 - n) n false = true
      ∧ reached s t 0x50000 n true = true ∧ ((s.tile t.tile).sent.any fun r => r.line = (0x310000 - n) / 64 && r.owner = .unit t.key && !r.fetch) = true
      ∧ 0x310000 / 64 ∈ (s.tile t.tile).l1 ∧ ((s.tile t.tile).sent.any fun r => r.line = 0x310040 / 64 && r.fetch) = true ∧ (s.tiles.all fun p => p.2.uol = []) = true := by decide +kernel

/-- Stores of each size at the end of a region, within the limit of the block. -/
theorem witness_stores : let s := dev id
    let t := runner s
    (∀ n ∈ [1, 2, 4, 8, 32], okIs (baseAddr (viewOf s t) t.regs (.pair 3) (4096 - n : Nat) n n) (.scr 0 (4096 - n), 0) = true
      ∧ okIs (baseAddr (viewOf s t) t.regs (.pair 2) (65536 - n : Nat) n n) (.glob (0x50000 - n), 0) = true
      ∧ reached s t (0x50000 - n) n false = true ∧ s.pondOf t.op = none
      ∧ (∀ j < n, granOf (viewRegion s t 0) (4096 - n + j) ≠ some .empty)
      ∧ (declared s t).any (fun x => (t.blk.storeBytes + n + 31) / 32 ≤ x.stores.toNat) = true
      ∧ ((bufferStore { t with blk := { t.blk with storeBytes := t.blk.storeBytes + n } } (.scr 0 (4096 - n))
          (List.replicate n 0xA5) 7).run s).1.isOk = true)
    ∧ okIs (baseAddr (viewOf s t) t.regs (.pair 3) 3072 1024 4) (.scr 0 3072, 0) = true
    ∧ okIs (baseAddr (viewOf s t) t.regs (.pair 2) 64512 1024 4) (.glob 0x4FC00, 0) = true ∧ reached s t 0x4FC00 1024 false = true
    ∧ ((runner (dev fun t => { t with blk := { t.blk with latV := t.blk.latV.set 5 (some (1, 2)) } })).blk.latV[(5 : Fin 6)]) = some (1, 2)
    ∧ (declared s t).any (fun x => (t.blk.storeBytes + 1024 + 31) / 32 ≤ x.stores.toNat) = true
    ∧ ((bufferStore { t with blk := { t.blk with storeBytes := t.blk.storeBytes + 1024 } } (.scr 0 3072)
        (List.replicate 1024 0xA5) 7).run s).1.isOk = true
    ∧ (∀ p ∈ s.ops, p.2.away = false) ∧ ∀ y ∈ ownStores t, y.ord < t.ord := by decide +kernel

/-- A walker of four levels at the last scalars a `wset` may name, with a count of 65,535 and the least and the greatest
stride. -/
theorem witness_wset : let par (t : Thread) (j : Nat) : W32 := t.regs.s.toList.getD (54 + 2 + j) 0
    let t := runner (place (sets [(55, 0x80000000), (56, 1), (57, 0), (58, 65535), (59, 0xFF800000), (60, 1), (61, 0x7FFFFC),
      (62, 1), (63, 4)]))
    2 * 27 + 2 + 2 * 4 ≤ 64 ∧ t.regs.w[(5 : Fin 6)].busy = false ∧ (pairVal t.regs 27).getLsbD 63 = true
      ∧ (pairVal t.regs 27).extractLsb' 28 35 = 0 ∧ (pairVal t.regs 27).toNat % 4 = 0
      ∧ ∀ j < 4, 1 ≤ (par t (2 * j)).toNat ∧ (par t (2 * j)).toNat ≤ 65535 ∧ (par t (2 * j + 1)).toInt % 4 = 0
        ∧ -(2 ^ 23 : Int) ≤ (par t (2 * j + 1)).toInt ∧ (par t (2 * j + 1)).toInt < 2 ^ 23 := by decide +kernel

/-- A walker at the last point of a walk of two levels. -/
theorem witness_walk : let w : Walker := { levels := 1, count := #v[2, 3, 0, 0], index := #v[1, 2, 0, 0] }
    ∀ j : Fin 4, j ≤ w.levels → 1 ≤ (w.count[j]).toNat ∧ (w.index[j]).toNat < (w.count[j]).toNat := by decide +kernel

/-- A slot that is taken and one that is free, a load of a whole vector at the end of a region and a gather from a pair
whose index vector is 0. -/
theorem witness_slot_loads : let s := dev id
    let t := runner s
    let taken := runner (dev fun t => { t with regs := { t.regs with slots := t.regs.slots.set 31 { state := .pending } } })
    taken.regs.slots[(31 : Fin 32)].state ≠ .free ∧ t.regs.slots[(31 : Fin 32)].state = .free
      ∧ okIs (baseAddr (viewOf s t) t.regs (.pair 3) 3072 1024 4) (.scr 0 3072, 0) = true
      ∧ (s.tile t.tile).portQ.length + 16 ≤ 512 ∧ (∀ p ∈ s.ops, p.2.away = false)
      ∧ (∀ j < 1024, granOf (viewRegion s t 0) (3072 + j) ≠ some .empty)
      ∧ okIs (baseAddr (viewOf s t) t.regs (.pair 4) 0 1024 4) (.glob 0x50000, 0) = true
      ∧ ((slotPieces t 0 (.glob 0x50000) 1024).run s).1.isOk = true
      ∧ ((slotPieces t 0 (.scr 0 3072) 1024).run s).1.isOk = true ∧ gatherBaseOk t.regs (.pair 3) = true
      ∧ (∀ i < 256, okIs (laneAddr (viewOf s t) t.regs (.pair 3) .si32 t.v[(1 : Fin 96)] i) (.scr 0 0) = true)
      ∧ ((slotPieces t 1020 (.scr 0 0) 4).run s).1.isOk = true := by decide +kernel

/-- A pending slot whose one piece is a region's last kilobyte, a landed one whose commit names v1, and a free one. -/
theorem witness_slot_lands :
    let slot (x : Slot) (t : Thread) : Thread := { t with regs := { t.regs with slots := t.regs.slots.set 0 x } }
    let p : Slot := { state := .pending, pieces := [⟨0, .scr 0 3072, 1024⟩], ord := 1 }
    let s := dev (slot p)
    let t := runner s
    t.regs.slots[(0 : Fin 32)].state = .pending ∧ HwError.load 0 ∉ s.hwErrors ∧ (s.tile t.tile).sent = []
      ∧ (∀ q ∈ t.regs.slots[(0 : Fin 32)].pieces, q.loc = .scr 0 (3072 + q.pos) ∧ 0 < q.len ∧ q.pos + q.len ≤ 1024)
      ∧ (∀ q ∈ t.regs.slots[(0 : Fin 32)].pieces, q.pos = 0 ∧ q.len = 1024)
      ∧ slotMayLand s t t.regs.slots[(0 : Fin 32)] = true
      ∧ t.regs.slots[(0 : Fin 32)].got = []
      ∧ let u := runner (dev fun t => slot { state := .landed } (vsets [] t))
        u.form = .jexcy ∧ u.regs.slots[(0 : Fin 32)].state = .landed ∧ (1 : Fin 96) ∈ u.blk.vNamed
          ∧ HwError.slotParity u.key ∉ s.hwErrors ∧ (runner (dev id)).regs.slots[(0 : Fin 32)].state = .free
          ∧ HwError.slotParity u.key ∈ ({ s with hwErrors := [.slotParity u.key] } : State).hwErrors
          ∧ u.regs.slots[(0 : Fin 32)].parity = false ∧ ({ p with state := .landed, parity := true } : Slot).parity = true := by
  decide +kernel

/-- R273: a slot whose kilobyte overlaps an older store in its sequencer's buffer. -/
theorem witness_slot_own_store :
    let p : Slot := { state := .pending, pieces := [⟨0, .scr 0 3072, 1024⟩], ord := 4 }
    let s := dev fun t => { t with
      regs := { t.regs with slots := t.regs.slots.set 0 p }
      blk := { t.blk with stores := [.st { loc := .scr 0 4095, data := [0x5A], col := 0, ord := 2 }] } }
    slotMayLand s (runner s) p = true ∧ latestStore (ownStores (runner s)) (.scr 0 4095) 0 = some 0x5A := by decide +kernel

/-- A scatter to the first word of a region. -/
theorem witness_scatter : let s := dev id
    let t := runner s
    gatherBaseOk t.regs (.pair 3) = true
      ∧ (declared s t).any (fun x => (t.blk.storeBytes + 1024 + 31) / 32 ≤ x.stores.toNat) = true
      ∧ (∀ i < 256, okIs (laneAddr (viewOf s t) t.regs (.pair 3) .ui32 t.v[(2 : Fin 96)] i) (.scr 0 0) = true)
      ∧ (∀ i < 256, okIs (laneAddr (viewOf s t) t.regs (.pair 2) .ui32 t.v[(2 : Fin 96)] i) (.glob 0x40000) = true)
      ∧ reached s t 0x40000 4 false = true
      ∧ ((((List.range 256).filter (maskActive t.regs 0)).foldlM (fun (u : Thread) _ =>
          bufferStore u (.scr 0 0) (List.replicate 4 1) 7) t).run s).1.isOk = true := by decide +kernel

/-! ### Pending and gated operations, atomics, caches -/

/-- A map of a granule at an aligned address, one of a wrong length and one of an unaligned address, a region that exists and
one that does not, and a flush of the last byte of a page. -/
theorem witness_pending : let s := dev (sets [(10, 0x1000), (12, 0x100), (20, 4096), (21, 4095), (22, 1), (24, 0x4FFFF)])
    let t := runner s
    (regionOf (s.opTile t.ot) 3).size ≠ 0 ∧ (regionOf (s.opTile t.ot) 63).size = 0
      ∧ (pairVal t.regs 5).toNat % 4096 = 0 ∧ (pairVal t.regs 5).toNat < 2 ^ 57 ∧ (pairVal t.regs 6).toNat % 4096 ≠ 0
      ∧ (t.regs.s[20]).toNat = (regionOf (s.opTile t.ot) 3).size.toNat * 4096
      ∧ (t.regs.s[21]).toNat ≠ (regionOf (s.opTile t.ot) 3).size.toNat * 4096
      ∧ 1 ≤ (t.regs.s[22]).toNat ∧ (pairVal t.regs 12).toNat % 2 ^ 16 + (t.regs.s[22]).toNat ≤ 2 ^ 16
      ∧ s.pondOf t.op = none
      ∧ (pairVal t.regs 12).toNat + (t.regs.s[22]).toNat ≤ 2 ^ 57
      ∧ (translate s t.tile t.launch.pasid.toNat (pairVal t.regs 12).toNat false).2 = some (0x30FFFF, false) := by
  decide +kernel

/-- A region's last two words and one of global memory as the addresses of a `wait.a`. -/
theorem witness_wait_captured : let s := dev (sets [(10, 4088), (11, 0x80000000), (12, 4096), (13, 0x80000000), (14, 0x40000)])
    let t := runner s
    let size := (regionOf (s.opTile t.ot) ((pairVal t.regs 5).extractLsb' 22 6).toNat).size.toNat * 4096
    (pairVal t.regs 5).getLsbD 63 = true ∧ (pairVal t.regs 5).extractLsb' 28 35 = 0 ∧ (pairVal t.regs 5).toNat % 8 = 0
      ∧ ((pairVal t.regs 5).extractLsb' 0 22).toNat + 8 ≤ size ∧ (pairVal t.regs 7).getLsbD 63 = false
      ∧ (after (.waitA 20 5 21 .eq) s).blk.gated.length = 1 ∧ (after (.waitA 20 7 21 .eq) s).run = .stopped := by
  decide +kernel

/-- A block whose seal declares eight gated operations, with seven and with eight captured. -/
theorem witness_gated : let filled (n : Nat) (t : Thread) : Thread :=
      { t with blk := { t.blk with gated := List.replicate n ⟨.yield, t.regs, t.pc, 1⟩ } }
    let s := place (filled 7)
    let u := place (filled 8)
    (runner s).run = .running ∧ (declared s (runner s)).any (fun x => (runner s).blk.gated.length
        + ((runner s).blk.stores.filter fun | .atom _ => true | _ => false).length + 1 ≤ x.gated.toNat) = true
      ∧ (runner u).run = .running
      ∧ (declared u (runner u)).any (fun x => x.gated.toNat < gatedCount (runner u) + 1) = true := by decide +kernel

/-- Atomics of 4 and 8 bytes at the end of a page and of a region. -/
theorem witness_atomics_captured : let s := dev id
    let t := runner s
    (∀ p ∈ s.ops, p.2.away = false) ∧
    ∀ n ∈ [4, 8], okIs (baseAddr (viewOf s t) t.regs (.pair 2) (65536 - n : Nat) n n) (.glob (0x50000 - n), 0) = true
      ∧ okIs (baseAddr (viewOf s t) t.regs (.pair 3) (4096 - n : Nat) n n) (.scr 0 (4096 - n), 0) = true
      ∧ ∀ j < n, granOf (viewRegion s t 0) (4096 - n + j) ≠ some .empty := by decide +kernel

/-- An atomic that issues, to the uncached page and to the cached one, where nothing older and where an older store of its
line waits. -/
theorem witness_atomics_issue :
    let i : Instr := .atAdd ⟨.pair 2, 0, false, 9, 2⟩
    let s := dev (issues i)
    let t := runner s
    Running s t ∧ t.run = .issuing ∧ t.issue = [⟨i, t.regs, t.pc, 1⟩] ∧ s.pondOf t.op = none ∧ t.barriers = []
      ∧ (∀ n : Fin 32, t.regs.slots[n].state ≠ .pending)
      ∧ HwError.home t.key ∉ s.hwErrors
      ∧ (okIs (baseAddr (viewOf s t) t.regs (.pair 2) 0 4 4) (.glob 0x40000, 0)
        && okIs (baseAddr (viewOf s t) t.regs (.pair 4) 0 8 8) (.glob 0x50000, 0)) = true
      ∧ (reached s t 0x40000 8 false && reached s t 0x50000 8 true) = true
      ∧ let a : Atomic := { kind := .add, wide := false, loc := .glob 0x310000 true, v := 1, col := 2, ord := 1 }
        let q := fun t : Thread => { t with
          queues := t.queues.set 2 [.st { loc := .glob 0x310004 true, data := [1], col := 2, ord := 0 }] }
        let other : Uol := ⟨.min, false, 2, [(0, 3)], []⟩
        let held := s.setTile 0 { s.tile 0 with uol := [(lineOf 0x310000, other)] }
        let ask (u : State) := wantLines u 0 [portReq u t.op (lineOf 0x310000) .evict false]
        let sent := held.setTile 0 { held.tile 0 with sent := [portReq s t.op (lineOf 0x310000) .evict false] }
        let merged := mergeTileLine (ask sent).1 0 (lineOf 0x310000)
        olderOnLine s { t with issue := [] } a (lineOf 0x310000) = false
          ∧ (ask held).2 = false ∧ (ask sent).2 = true ∧ mfind (merged.tile 0).uol (lineOf 0x310000) = none
          ∧ olderOnLine merged { t with issue := [] } a (lineOf 0x310000) = false ∧ uolRoom (merged.tile 0) = true
          ∧ olderOnLine s { q t with issue := [] } a (lineOf 0x310000) = true
          ∧ uolRoom (s.tile t.tile) = true
          ∧ uolRoom { s.tile t.tile with uol := (List.range Config.l1Lines).map fun j => (j, ⟨.add, false, 2, [], []⟩) } = false := by
  refine ⟨rfl, ?_⟩
  decide +kernel

/-- Words at the ends of the 32-bit and 64-bit ranges. -/
theorem witness_atomic_values : ∀ w ∈ [32, 64], 2 ^ w - 1 < 2 ^ w ∧ (0 : Nat) < 2 ^ w := by decide +kernel

/-- A tile with no update-only line, and one with a line of one pending word at its end. -/
theorem witness_update_only : let u : Uol := { kind := .add, wide := false, col := 0, words := [(60, 5)], from_ := [] }
    let s := (dev id).setTile 0 { (dev id).tile 0 with uol := [(0x310000 / 64, u)], sent := [⟨0, 0x310000 / 64, .evict, false⟩] }
    ((s.tile 0).sent.any fun r => r.line = 0x310000 / 64 && r.owner = .evict && !r.fetch) = true ∧ (s.threads.all fun k => k.2.waiting = []) = true ∧
    ((dev id).tile 0).sent = [] ∧
    mfind ((dev id).tile 0).uol (0x310000 / 64) = none ∧ mfind (s.tile 0).uol (0x310000 / 64) = some u
      ∧ mrises (s.tile 0).uol 0 = true
      ∧ 0x310000 + 60 = 64 * (0x310000 / 64) + 60 ∧ (0x310000 + 60) % 4 = 0 ∧ u.words = [(60, 5)] ∧ u.wide = false := by
  decide +kernel

/-- R93: an operand of the kind of a line's joins it, on a word that is pending and on one that is not, of 64 bits. -/
theorem witness_operands_combine :
    let u : Uol := { kind := .add, wide := true, col := 3, words := [(8, 5), (56, 1)], from_ := [] }
    let s := (dev id).setTile 0 { (dev id).tile 0 with uol := [(0x310000 / 64, u)] }
    let a : Atomic := { kind := .add, wide := true, loc := .glob 0x310008 true, v := 0xFFFFFFFFFFFFFFFC, col := 3, ord := 1 }
    (∀ p ∈ u.words, p.1 % 8 = 0 ∧ p.1 < 64) ∧ mrises u.words 0 = true
      ∧ ((mfind ((enterUol s 0 0 a 0x310008).tile 0).uol (0x310000 / 64)).any fun y =>
          mfind y.words 8 = some 1 && mfind y.words 56 = some 1) = true
      ∧ ((mfind ((enterUol s 0 0 a 0x310010).tile 0).uol (0x310000 / 64)).any fun y =>
          mfind y.words 8 = some 5 && mfind y.words 16 = some a.v) = true := by decide +kernel

/-- A dirty line of the L2. -/
theorem witness_l2 : let l : L2Line := { data := 1, dirty := 1 }
    let s := { dev id with l2 := [(0x310000 / 64, l)] }
    Memory.wf s.mem = true ∧ mrises s.l2 0 = true ∧ mfind s.l2 (0x310000 / 64) = some l := by decide +kernel

/-- Queues whose head is a store or an atomic, of 32 and of 64 bits, of an uncached page and of a cached one, that may
perform. -/
theorem witness_colour_queue :
    let st (c : Bool) : QEntry := .st { loc := .glob 0x300000 c, data := [1], col := 2, ord := 0 }
    let at_ (c w : Bool) : QEntry := .atom { kind := .xchg, wide := w, loc := .glob 0x300000 c, v := 1, col := 2, ord := 0, dest := some 4 }
    ∀ x ∈ [st false, st true, at_ false false, at_ true false, at_ true true], let s := dev fun t => { t with queues := t.queues.set 2 [x] }
      let t := runner s
      let u := atPort s [⟨0, 0x300000 / 64, .place s.cur 0, false⟩] []
      t.key = s.cur ∧ x.ord = 0 ∧ mayPerform u t 2 x = true
        ∧ ((u.tile t.tile).sent.any fun r => r.line = 0x300000 / 64 && r.owner = .place s.cur x.ord && !r.fetch) = true
        ∧ (s.tile t.tile).sent = [] ∧ t.queues[(2 : Fin 8)] = [x] ∧ mayPerform s t 2 x = true ∧ t.waiting = []
        ∧ (∀ e ∈ s.tiles, mfind e.2.uol (0x300000 / 64) = none) ∧ Memory.wf s.mem = true := by decide +kernel

/-- R279, R281: an exchange of a pair of a cached page performs in its queue: the old pair goes to s4:s5, the new one to the
home L2, memory stays. -/
theorem witness_atomic_performs :
    let a : Atomic := { kind := .xchg, wide := true, loc := .glob 0x310038 true, v := 0x1122334455667788, col := 2, ord := 0, dest := some 4 }
    let s := atPort (dev fun t => { t with queues := t.queues.set 2 [.atom a] }) [⟨0, 0x310038 / 64, .place (runner (dev id)).key 0, false⟩] []
    let u := { s with mem := putWords s.mem 0x310038 [0x0000000700000009] }
    (match exec (.colourQueuePerform u.cur 2) u with
      | .next w => (runner w).results = [(4, 9), (5, 7)] && homeRead w 0x310038 8 = 0x1122334455667788 && w.mem = u.mem
          && (runner w).queues[(2 : Fin 8)] = []
      | _ => false) = true := by decide +kernel

/-! ### Waits, barriers, probes -/

/-- A held trap, an exit, a yield that nobody wants the tile for, and one that a switched-out operator of its priority
wants it for. -/
theorem witness_exit_and_yield :
    let s := dev (issues (.exit 4))
    Running s (runner s) ∧ (runner s).run = .issuing ∧ (runner s).issue.length = 1 ∧ s.pondOf (runner s).op = none
      ∧ (runner s).key = s.cur
      ∧ (mfind s.ops (runner s).op).any (fun o => o.fate.isNone && !poolWants s 0 0 o.prio) = true
      ∧ let o : Operator := { slot := 1, index := 0, ctx := 0, pasid := 0, obj := 1, tiles := [(0, 0)], state := .out }
        let u := { s with ops := mput s.ops 1 o }
        poolWants u 0 0 0 = true ∧ (mfind u.ops 0).any (fun o => !o.stopping) = true
          ∧ (let v := { u with ops := u.ops.map fun e => if e.1 = 0 then (e.1, ({ e.2 with stopping := true } : Operator)) else e }
            poolWants v 0 0 0 = true ∧ (mfind v.ops 0).any (fun o => o.stopping) = true) :=
by
  refine ⟨rfl, ?_⟩
  decide +kernel

/-- A `wait.a` on a word of a region that satisfies its relation, and asleep on one that does and one that does not. -/
theorem witness_waits :
    let s := dev (issues (.waitA 37 3 10 .eq))
    let t := runner s
    let u := runner (dev fun t => { issues (.waitA 37 3 10 .eq) t with flow := .stalled .other })
    t.run = .issuing ∧ t.issue.length = 1 ∧ t.barriers = [] ∧ s.pondOf t.op = none
      ∧ okIs (waitAddr (s.opTile t.ot) t.regs 3) (.scr 0 0) = true
      ∧ HwError.load t.key ∉ s.hwErrors ∧ (∀ p ∈ s.ops, p.2.away = false)
      ∧ (∀ j < 4, granOf (viewRegion s t 0) j ≠ some .empty) ∧ loadWaits t (.scr 0 0) 4 1 = none
      ∧ relHolds .eq 0 t.regs.s[(10 : Fin 64)] = true ∧ relHolds .ne 0 t.regs.s[(10 : Fin 64)] = false
      ∧ u.flow = .stalled .other ∧ u.run = .issuing ∧ u.barriers = [] ∧ loadWaits u (.scr 0 0) 4 1 = none ∧ granOf (regionOf (s.opTile t.ot) 0) 0 ≠ some .empty := by decide +kernel

/-- The device whose gated operation is at its place, with s4:s5 the pair that names an address of the uncached page or of the
cached one, and whose tile has sent the line request of the operation. -/
def atGate (i : Instr) (cached : Bool) : State :=
  let s := dev fun t => issues i (sets [(4, if cached then 0x50000 else 0x40000)] t)
  atPort s [⟨0, (if cached then 0x310000 else 0x300000) / 64, .place (runner s).key 1, false⟩] []

/-- A `take` of a range of the cached page and of the uncached one. -/
theorem witness_take : ∀ c ∈ [true, false],
    let s := atGate (.take 13 2) c
    let t := runner s
    let pa := if c then 0x310000 else 0x300000
    t.barriers = [] ∧ (pairVal t.regs 2).toNat + 32 ≤ 2 ^ 57 ∧ (pairVal t.regs 2).toNat % 32 = 0
      ∧ reached s t (pairVal t.regs 2).toNat 32 c = true ∧ s.pondOf t.op = none ∧ t.issue.length = 1 ∧ t.run = .issuing
      ∧ ((s.tile t.tile).sent.any fun r => r.line = pa / 64 && r.owner = .place t.key 1 && !r.fetch) = true
      ∧ takeMayGo s { t with issue := [] } 1 pa c = true ∧ (∀ e ∈ s.tiles, mfind e.2.uol (pa / 64) = none)
      ∧ Memory.wf s.mem = true := by decide +kernel

/-- R347, R348: a `take` at a headgate of the cached page: index 5 of 12, a chunk of 7, one taker so far; a tile of the
slowest speed gets one index at least. -/
theorem witness_take_cached :
    let s0 := atGate (.take 13 2) true
    let s := { s0 with mem := putWords s0.mem 0x310000 [0x0000000C00000005, 7, 1, 0] }
    (match exec (.take 13 2) s with
      | .next u => homeRead u 0x310000 4 = 5 + max 1 (7 * ((speedEntry s 0).toNat % 64) / 44) && homeRead u 0x310010 4 = 2
          && homeRead u 0x310004 4 = 12 && u.mem = s.mem
      | _ => false) = true := by decide +kernel

/-- The device with a barrier object on the uncached page or the cached one: parties, arrived, and a record 128 bytes on. -/
def barred (cached : Bool) (parties arrived : Nat) : State :=
  let s := atGate (.bar 2) cached
  let ws : List W64 := [BitVec.ofNat 64 (parties + arrived * 2 ^ 32), 0, if cached then 0x50080 else 0x40080, 0]
  { s with mem := putWords s.mem (if cached then 0x310000 else 0x300000) ws }

/-- An object of no parties, of three with one arrived, of two with one arrived, of three with none and of one with none, of
either policy. -/
theorem witness_bar : ∀ c ∈ [true, false], ∀ x ∈ [(0, 1), (3, 1), (2, 1), (3, 0), (1, 0)], let s := barred c x.1 x.2
    let t := runner s
    let pa := if c then 0x310000 else 0x300000
    let va := if c then 0x50000 else 0x40000
    let word (k : Nat) : Nat := numAt s c (pa + 4 * k) 4
    word 0 = x.1 ∧ word 1 = x.2 ∧ numAt s c (pa + 16) 8 = va + 0x80 ∧ t.bar = none ∧ t.barriers = []
      ∧ olderDone t 1 = true ∧ ((s.tile t.tile).sent.any fun r => r.line = pa / 64 && r.owner = .place t.key 1 && !r.fetch) = true
      ∧ s.pondOf t.op = none ∧ (∀ e ∈ s.tiles, e.2.uol = []) ∧ Memory.wf s.mem = true ∧ (pairVal t.regs 2).toNat = va
      ∧ (tlbFind (s.tile t.tile).tlb t.launch.pasid.toNat va).any
          (fun e => e.frame = pa && !e.large && e.readable && e.writable && e.dirty && e.cached = c) = true
      ∧ (∀ i < 64 + 8 * word 0, tlbFind (s.tile t.tile).tlb t.launch.pasid.toNat (va + 0x80 + i)
          = tlbFind (s.tile t.tile).tlb t.launch.pasid.toNat va)
      ∧ (va + 0x80) % 2 ^ 16 + 64 + 8 * word 0 ≤ 2 ^ 16 ∧ pa + 64 ≤ pa + 0x80 := by decide +kernel

/-- R349, R350: the first of three arrivals and the only arrival of a barrier of one party, at an object of the cached page:
the count, the generation, and the record's entry and head. -/
theorem witness_bar_cached :
    (match exec (.bar 2) (barred true 3 0) with
      | .next u => homeRead u 0x310004 4 = 1 && homeRead u 0x310018 8 = u.time.toNat && homeRead u 0x3100C0 8 = 0
          && (runner u).bar = some (0x310000, false)
      | _ => false) = true
    ∧ (match exec (.bar 2) (barred true 1 0) with
      | .next u => homeRead u 0x310004 4 = 0 && homeRead u 0x310008 4 = 1 && homeRead u 0x310080 8 = 1 + 2 ^ 32
          && (runner u).bar = some (0x310000, true)
      | _ => false) = true := by decide +kernel

/-- The device whose PASID 0 may pin one page, with a probe of the code's page and one of a page that is missing. -/
def probing (va : W32) (len : W32) : State :=
  let s := dev fun t => issues (.probe (some 20) 5 12 0) (sets [(10, va), (12, len)] t)
  { s with mem := putWords s.mem 0x100008 [1] }

/-- No length, an end past the address space, more pages than may be pinned, a page that is there, one that is missing, and a
probe the host has refused. -/
theorem witness_probe : let s := probing 0x10000 0x10000
    let t := runner s
    t.run = .issuing ∧ t.probe = none ∧ (match pasidEntry s 0 with | .ok x => x.2 = 1 | .error _ => false) = true
      ∧ probePage s 0 0 1 = .ok 0x200000 ∧ probePage s 0 0 6 = .missing ∧ s.reqs = []
      ∧ (match pinFrames (s.noteHole s.basin.frtb.toNat) t.op 0 [frameIndex 0x200000] with | .ok _ => true | .error _ => false) = true
      ∧ (runner (probing 0 0)).regs.s[(12 : Fin 64)] = 0
      ∧ 2 ^ 57 < (pairVal (runner (dev (sets [(11, 0x2000000), (12, 1)]))).regs 5).toNat + 1
      ∧ (1 : Nat) < (List.range ((0x10000 + 0x10001 - 1) / 2 ^ 16 + 1 - 0x10000 / 2 ^ 16)).length := by decide +kernel

/-- R74, R79, R81: a PASID without a page table; a probe whose page has a malformed entry; a request that covers the pages of
another probe, and 256 of the terrace. -/
theorem witness_probe_ends :
    let s := probing 0x60000 1
    let m := { s with mem := putWords s.mem 0x105030 [0x8000000000000007] }
    let r : PageReq := ⟨7, 0, 0, 0, 2, 5, 6, true⟩
    (match pasidEntry { s with mem := [] } 0 with | .ok _ => false | .error _ => true) = true
      ∧ ([6].find? fun q => probePage m 0 0 q = .malformed) = some 6
      ∧ r.pasid = 0 ∧ r.first ≤ 6 ∧ 6 ≤ r.last ∧ (r.kind = 2 ∨ r.kind = 0)
      ∧ ([{ r with first := 7 }].all fun q => !(q.first ≤ 6 && 6 ≤ q.last)) = true
      ∧ 256 ≤ ((List.replicate 256 r).filter fun q => q.terrace = terraceOf 0).length := by decide +kernel

/-- An operator that holds a pin on a frame, of 65,535 pins and of fewer. -/
theorem witness_pins : ∀ n ∈ [65534, 65535],
    let s := probing 0x10000 0x10000
    let u := { s with
      ops := s.ops.map fun e => (e.1, { e.2 with pins := [(32, 1)] })
      mem := putWords s.mem 0x200 [BitVec.ofNat 64 (n * 2 ^ 16)] }
    homeRead u (frameEntry u (framePa 32)) 16 / 2 ^ 16 % 2 ^ 16 = n ∧ Memory.wf u.mem = true
      ∧ (mfind u.ops 0).any (fun o => o.pasid = 0 && (mfind o.pins 32).isSome) = true
      ∧ (countedFrames u 0).length ≤ pinLimit u 0 := by decide +kernel

/-- A release with an older flume command queued, which waits; of no length and past the address space; of a page on whose
frame the operator holds two pins, one, and none. -/
theorem witness_release :
    let s := dev fun t => issues (.release 5 12) (sets [(10, 0x1FFFF), (12, 1)] t)
    let t := runner s
    let c : FlumeCmd := { thread := t.key, ticket := 1, instr := .flFill ⟨false, 36, 1, 0, 0, 28, 0, false, 0⟩,
                          x := ⟨false, 36, 1, 0, 0, 28, 0, false, 0⟩, regs := t.regs, tile := 0, engine := 0, ord := 0, hold := false }
    mayTranslate { s with flumes := [(0, c)] } t 1 = true ∧ mayTranslate s t 1 = false
      ∧ (t.regs.s[(63 : Fin 64)] = 0 ∧ 2 ^ 57 < (pairVal (runner (dev (sets [(11, 0x2000000), (12, 1)]))).regs 5).toNat + 1)
      ∧ (pairVal t.regs 5).toNat = 0x1FFFF ∧ (t.regs.s[(12 : Fin 64)]).toNat = 1
      ∧ peekAddr s t.launch.pasid.toNat 0x10000 = some 0x200000 ∧ ((mfind s.ops t.op).any fun o => o.pins = []) = true
      ∧ (∀ n ∈ [1, 2], mfind [(frameIndex 0x200000, n)] (frameIndex 0x200000) = some (n - 1 + 1) ∧ mrises [(frameIndex 0x200000, n)] 0 = true)
      ∧ Memory.wf s.mem = true := by decide +kernel

/-- A sleeping probe of a missing page, with room in the ring and with none; a sequencer whose probe waits for an answer. -/
theorem witness_requests :
    let s0 := probing 0x60000 1
    let s : State := { s0 with mem := [], threads := s0.threads.map fun e => (e.1, { e.2 with flow := .stalled .other }) }
    let u : State := { s0 with threads := s0.threads.map fun e => (e.1, { e.2 with flow := .stalled .other }) }
    Memory.wf s.mem = true ∧ Memory.wf u.mem = true ∧ (mfind u.threads u.cur).any (fun t => t.probe.isNone && t.issue.length = 1) = true
      ∧ u.reqs = [] ∧ 1 ≤ pinLimit u 0 ∧ ([6].filter fun q => probePage u 0 0 q = .missing) = [6]
      ∧ probePage u 0 0 6 ≠ .malformed
      ∧ (u.basin.prqtail.toNat + 2048 - u.basin.prqhead.toNat % 2048) % 2048 ≠ 1024
      ∧ (let v := { u with basin := { u.basin with prqtail := 1024 } }
        (v.basin.prqtail.toNat + 2048 - v.basin.prqhead.toNat % 2048) % 2048 = 1024)
      ∧ (runner (dev fun t => { issues (.probe (some 20) 5 12 0) t with probe := some (7, [6], none) })).run = .issuing := by
  decide +kernel

/-- A release of the code's page with its operator's pins on it, a waiting probe whose request has room, and an answer to a
request that a probe waits for. -/
theorem witness_release_and_requests :
    let s := dev fun t => issues (.release 5 12) (sets [(10, 0x1FFFF), (12, 1)] t)
    let w := probing 0x60000 1
    let r : PageReq := { seq := 7, ctx := 0, pasid := 0, terrace := 0, kind := 0, first := 6, last := 6 }
    mayTranslate s (runner s) 1 = false ∧ 1 ≤ ((runner s).regs.s[(12 : Fin 64)]).toNat ∧ 0x1FFFF % 2 ^ 16 + 1 ≤ 2 ^ 16
      ∧ peekAddr s 0 (0x1FFFF / 2 ^ 16 * 2 ^ 16) = some 0x200000 ∧ mrises [(frameIndex 0x200000, 1)] 0 = true
      ∧ (runner w).probe = none ∧ 1 ≤ pinLimit w 0 ∧ probePage w 0 0 6 = .missing
      ∧ requestRoom w (terraceOf (runner w).tile) = true ∧ w.reqs = []
      ∧ r.seq = (7#64).setWidth 32 ∧ (7#64).extractLsb' 40 24 = 0 ∧ (9#64).setWidth 32 ≠ r.seq := by decide +kernel

/-! ### Flumes -/

/-- A fill of a record of region 1 by the tile's own flume. -/
def fillOp : Fl := ⟨false, 36, 1, 0, 0, 28, 0, false, 0⟩
def filling (i : Instr) : State :=
  dev fun t => issues i (hsets 1 (record 5 (2 ^ 22) true 4 1 1) (sets [(29, 0xFFFF), (30, 5)] t))

/-- A fill that is accepted, one that is refused, and one behind sixteen; a ticket that is known and one that is not. -/
theorem witness_flume_issue : let s := filling (.flFill fillOp)
    let t := runner s
    let c := fun x : Fl => flumeCmd s t x ⟨.flFill x, t.regs, t.pc, 1⟩
    refusal s (c fillOp) = none ∧ (destsOf s (c fillOp)).isSome = true ∧ indexCount (c fillOp) = none
      ∧ (refusal s (c { fillOp with hD := 0 })).isSome = true
      ∧ ((({ s with flumes := (List.range 16).map fun i => (i, c fillOp) } : State).flumes).filter
          (fun e => e.2.thread = t.key)).length = 16
      ∧ (1, TicketState.queued) ∈ [((1 : Nat), TicketState.queued)] ∧ ∀ e ∈ t.tickets, e.1 ≠ 1 := by decide +kernel

/-- A gather of one index from region 3, and a queued command that a cancel names by its ticket. -/
theorem witness_flume_gather_and_cancel :
    let gx : Fl := { fillOp with hS := 2 }
    let s := dev fun t => issues (.flGather gx) (hsets 2 (record 5 (2 * 2 ^ 22) true 4 1 1) (hsets 1 (record 5 (2 ^ 22) true 4 1 1)
      (sets [(29, 0xFFFF), (30, 0xC00000), (31, 0x80000000)] t)))
    let t := runner s
    let c := flumeCmd s t gx ⟨.flGather gx, t.regs, t.pc, 1⟩
    refusal s c = none ∧ (destsOf s c).isSome = true ∧ indexCount c = some 1
      ∧ okIs (valueAddr (s.opTile t.ot) c.par64 4) (.scr 3 0) = true ∧ t.barriers = [] ∧ olderDone t 1 = true ∧ s.flumes = []
      ∧ (∀ p ∈ s.ops, p.2.away = false) ∧ (∀ j < 4, granOf (regionOf (s.opTile t.ot) 3) j ≠ some .empty)
      ∧ (let u := { filling (.flCancel fillOp) with flumes := [(0, { c with ticket := 1 })] }
        let w := { (runner u) with tickets := [(1, .queued)] }
        w.key = u.cur ∧ (u.flumes.all fun e => e.2.thread = w.key && e.2.ticket = 1 && e.2.state = .queued) = true
          ∧ mrises u.flumes 0 = true) := by decide +kernel

/-- A command that may start, and one that has written a byte of a region whose granule is valid. -/
theorem witness_flume_runs : let s := filling (.flFill fillOp)
    let t := runner s
    let c := { flumeCmd s t fillOp ⟨.flFill fillOp, t.regs, t.pc, 1⟩ with
      dests := [.scr t.ot 0 1], left := [.scr t.ot 0 1] }
    let u := { s with flumes := [(0, c)], threads := s.threads.map fun e => (e.1, { e.2 with issue := [] }) }
    mayStart u 0 c = true ∧ hScr c.hD = true ∧ hEmpty c.hD = false ∧ c.hold = false ∧ HwError.flume 0 ∉ u.hwErrors
      ∧ (∀ p ∈ u.ops, p.2.away = false) ∧ ((indices c.hD).all fun i => (flPut u c i.1 i.2.1 i.2.2 c.par64).isOk) = true
      ∧ (let k := { c with instr := .flCopy { fillOp with hS := 2 }, x := { fillOp with hS := 2 },
                           regs := (hsets 2 (record 5 (2 * 2 ^ 22) true 4 1 1) t).regs }
        hEmpty k.hS = false ∧ (match sourceOf u k with | some (.scr ot _ r) => ot = t.ot && r = 2 | _ => false) = true
          ∧ mayStart { u with flumes := [(0, k)] } 0 k = true
          ∧ ((indices k.hS).all fun i =>
              (match handleAddr (u.opTile t.ot) k.hS (elemPlace k.hS (i.1 : Int) (i.2.1 : Int) (i.2.2 : Int)).1 (elemBytes k.hS) with
                | .ok (.scr r o) => r = 2 && (List.range (elemBytes k.hS)).all fun j => granOf (regionOf (u.opTile t.ot) 2) (o + j) ≠ some .empty
                | _ => false)
              && (flPut u k i.1 i.2.1 i.2.2 5).isOk) = true)
      ∧ mayStart u 0 { c with state := .writing } = false
      ∧ let w := { c with state := .writing, writes := [⟨4, 0xFF, 1⟩] }
        let v := u.setOpTile t.ot ((u.opTile t.ot).setRegion 1 { size := 1, gran := [(0, .valid)] })
        mayPublish v [(0, w)] = true ∧ w.arrAddr = 0 ∧ w.left.length = 1 ∧ c.state ≠ .writing ∧ isPublish w.instr = false ∧ w.frames = []
          ∧ (∀ x ∈ w.writes, granOf (regionOf (v.opTile t.ot) 1) x.at_ = some .valid)
          ∧ (regionOf (v.opTile t.ot) 1).mapped = false ∧ HwError.flume 0 ∉ v.hwErrors := by decide +kernel

/-- A tensor of a region: format, region, the three extents, the strides of axes 1 and 2. -/
def tensor (ty r e0 e1 e2 s1 s2 : Nat) : HRec := record ty (r * 2 ^ 22) true e0 e1 e2 + BitVec.ofNat 256 (s1 * 2 ^ 128 + s2 * 2 ^ 160)

/-- A device with one queued flume command, its parameters and its index list; the tile's region 2 holds 1, 2, 3 and so on. -/
def moving (i : Instr) (x : Fl) (hD hS : HRec) (par : List W32) (index : List Nat) (f : FlumeCmd → FlumeCmd) : State :=
  let s := dev fun t => hsets 1 hD (hsets 2 hS (sets (par.zipIdx.map fun e => (Fin.ofNat 64 (28 + e.2), e.1)) t))
  let t := runner s
  let c : FlumeCmd := { thread := t.key, ticket := 1, instr := i, x := x, regs := t.regs, tile := 0, engine := x.eng.val
                        ord := 0, hold := false, index := index, dests := [.scr t.ot 0 1], left := [.scr t.ot 0 1] }
  let r : Region := { size := 1, a := (List.range 16).map fun j => ⟨j, BitVec.ofNat 8 (j + 1)⟩, gran := [(0, .valid)] }
  { (s.setOpTile t.ot (((s.opTile t.ot).setRegion 2 r).setRegion 1 r)) with flumes := [(0, f c)] }

/-- What `HoldsElem` asks for, and the code it gives. -/
def elemHeld (s : State) (r : Nat) (h : HRec) (i : Nat × Nat × Nat) : Option Nat :=
  let p := elemPlace h (i.1 : Int) (i.2.1 : Int) (i.2.2 : Int)
  match handleAddr (s.opTile (runner s).ot) h p.1 (elemBytes h) with
  | .ok (.scr q o) =>
    let reg := regionOf (s.opTile (runner s).ot) r
    if q = r && (List.range (elemBytes h)).all fun j => granOf reg (o + j) ≠ some .empty then
      some (elemCode h p.2 ((List.range (elemBytes h)).map fun j => regionByte reg (o + j)))
    else none
  | _ => none

/-- The command starts, its source is the region, and its writes are those of the elements given: place and code. -/
def moves (s : State) (src : Nat) (es : List ((Nat × Nat × Nat) × Option Nat)) : Bool :=
  match s.flumes with
  | [(0, c)] =>
    let ws := es.map fun e => (e.2.bind fun v => (flPut s c e.1.1 e.1.2.1 e.1.2.2 v).toOption)
    (match exec (.flumeCommandStart 0) s with
      | .next u => (mfind u.flumes 0).any fun d => d.state = .writing && ws.all Option.isSome && d.writes = (ws.filterMap id).flatten
      | _ => false)
      && mayStart s 0 c && hScr c.hD && !hEmpty c.hD && !hEmpty c.hS && sourceOf s c = some (.scr (runner s).ot 0 src)
      && s.ops.all (fun p => !p.2.away) && HwError.flume 0 ∉ s.hwErrors
  | _ => false

/-- R131 to R133: a gather of rows 3 and 1, and a scatter into them. -/
theorem witness_gather_scatter :
    let x : Fl := { fillOp with hS := 2 }
    let g := moving (.flGather x) x (tensor 2 1 2 2 1 8 0) (tensor 2 2 2 4 1 4 0) [0, 0xFFFF] [3, 1] id
    let s := moving (.flScatter x) x (tensor 2 1 2 4 1 8 0) (tensor 2 2 2 2 1 4 0) [0, 0xFFFF] [3, 1] id
    moves g 2 ([(0, 0), (1, 0), (0, 1), (1, 1)].map fun e =>
        ((e.1, e.2, 0), elemHeld g 2 (tensor 2 2 2 4 1 4 0) (e.1, ([3, 1] : List Nat).getD e.2 0, 0))) = true
      ∧ moves s 2 ([(0, 0), (1, 0), (0, 1), (1, 1)].map fun e =>
        ((e.1, ([3, 1] : List Nat).getD e.2 0, 0), elemHeld s 2 (tensor 2 2 2 2 1 4 0) (e.1, e.2, 0))) = true := by decide +kernel

/-- R134: of five rows, row 1 goes and two zero rows come in its place; of eight, all go. -/
theorem witness_patch :
    let x : Fl := { fillOp with hS := 2 }
    let h := tensor 2 1 1 8 1 2 0
    let s (par : List W32) := moving (.flPatch x) x h (tensor 2 2 1 1 1 4 0) (0 :: par) [] id
    moves (s [1, 5, 0x20001]) 2 ([(3, 2), (4, 3), (5, 4)].map (fun e => ((0, e.1, 0), elemHeld (s [1, 5, 0x20001]) 1 h (0, e.2, 0)))
        ++ [((0, 1, 0), some 0), ((0, 2, 0), some 0)]) = true
      ∧ moves (s [0, 8, 8]) 2 [] = true := by decide +kernel

/-- R135: the pairs of rows 3 and 0 turned by 5 times their frequencies. -/
theorem witness_rope :
    let x : Fl := { fillOp with hS := 2 }
    let h := tensor 8 1 4 4 1 16 0
    let hS := tensor 6 2 2 1 1 8 0
    let s := moving (.flRope x) x h hS [0, 5, 3, 2] [] id
    let v (i row : Nat) : Nat := (elemHeld s 1 h (i, row, 0)).getD 0
    let turned (i row : Nat) : Option Nat := (elemHeld s 2 hS (i / 2, 0, 0)).map fun f =>
      let q := turnPair ff32 false (wrapN 32 (5 * f)) (v (i / 2 * 2) row) (v (i / 2 * 2 + 1) row)
      if i % 2 = 0 then q.1 else q.2
    moves s 2 ([(0, 3), (1, 3), (2, 3), (3, 3), (0, 0), (1, 0), (2, 0), (3, 0)].map fun e =>
      ((e.1, e.2, 0), turned e.1 e.2)) = true ∧ hExt0 h = 2 * hExt0 hS := by decide +kernel

/-- A fill of the last four bytes of the uncached page: with no frame in the pool, with one and its copies yet to be asked
for, and with one and every line request gone. -/
def filledPage (frames : List Nat) (paid : Nat) : State :=
  let x : Fl := { fillOp with eng := 1 }
  let s := moving (.flFill x) x (record 5 0x4FFFC false 1 1 1) 0 [0, 0xFFFF, 0x11223344] []
    fun c => { c with dests := [.glob], left := [.glob], paid := paid }
  let s := { s with
    terraces := s.terraces.setIfInBounds 0 { s.terraces.getD 0 {} with frames := frames }
    mem := putWords s.mem 0x30FFF0 [7, 9] }
  s.setTile 416 { s.tile 416 with sent := [portReq s 0 (0x50FFFC / 64) (.place (runner s).key 0) false] }

theorem witness_flume_page :
    let s := filledPage [0x500000] 2048
    (match s.flumes with
      | [(0, c)] => mayStart s 0 c && !hScr c.hD && !hEmpty c.hD && (s.pondOf (keyOp c.thread)).isNone && pagesOf (runsOf c.hD) = [4]
          && (flAgent s c .glob).port = 416
          && (tlbFind (s.tile c.tile).tlb (pasidOf s c) 0x40000).any (fun e => !e.large && e.writable && e.dirty && !e.cached
              && e.frame = 0x300000)
          && (indices c.hD).all (fun i => (flPut s c i.1 i.2.1 i.2.2 (c.par64 % 16 ^ hHalf c.hD)).isOk)
          && (shadowReqs s c [(4, 0x500000)] [⟨0x4FFFC, 0xFF, 0⟩]).all (s.tile 416).served
          && !(copyReqs s { c with paid := 0 } [(4, 0x300000, false)] [0x500000]).all (s.tile 416).served
      | _ => false) = true
    ∧ Memory.wf s.mem = true ∧ (filledPage [] 0).flumes.length = 1 := by decide +kernel

/-- The same fill once it has written, its page of memory mapped by the table; and a fill of a region with an arrival word in
region 3. -/
def publishing : State :=
  let s := filledPage [] 2048
  { s with
    mem := putWords s.mem 0x105020 [0x30004F]
    flumes := s.flumes.map fun e => (e.1, { e.2 with state := .writing, frames := [(4, 0x500000)], writes := [⟨0x4FFFC, 0xFF, 5⟩] }) }

theorem witness_flume_publishes : let s := publishing
    let x : Fl := { fillOp with arr := 10 }
    let a := moving (.flFill x) x (tensor 5 1 1 1 1 4 0) 0 [0xABCD, 0xFFFF, 5] [] fun c => { c with
      state := .writing, writes := [⟨4, 0xFF, 1⟩]
      regs := { c.regs with s := (c.regs.s.set 20 (BitVec.ofNat 32 (3 * 2 ^ 22 + 16))).set 21 0x80000000 } }
    (match s.flumes with
      | [(0, c)] => c.left = [.glob] && c.arrAddr = 0 && mayPublish s [(0, c)] && !isPublish c.instr
          && (match walk (writeFrames s c.frames c.writes) (pasidOf s c) 0x40000 with
            | .leaf pte false e => (pte = 0x105020 && e / 2 ^ 16 % 2 ^ 23 = 0x30)
                && ([0x300000, 0x500000] : List Nat).all (fun f => pte + 8 ≤ frameEntry s f || frameEntry s f + 16 ≤ pte)
            | _ => false)
      | _ => false) = true
    ∧ Memory.wf s.mem = true ∧ mrises s.flumes 0 = true
    ∧ (match exec (.flumePublish 0) s with
      | .next u => homeRead u 0x105020 8 = 0x50007F && u.flumes = [] && (u.tile 0).tlb.all (·.page ≠ 4)
      | _ => false) = true
    ∧ (match a.flumes, exec (.flumePublish 0) a with
      | [(0, c)], .next u => c.arrAddr / 2 ^ 22 % 64 = 3 && mayPublish a [(0, c)] && c.frames = []
          && c.writes.all (fun w => granOf (regionOf (a.opTile 0) 1) w.at_ = some .valid)
          && leOf ((List.range 8).map fun i => regionByte (regionOf (u.opTile 0) 3) (16 + i)) = 0xABCD
      | _, _ => false) = true := by decide +kernel

/-! ### Invalidations, the sweeper, retirement -/

/-- An invalidation under way with no access left, and with one of a queued store. -/
theorem witness_invalidation : let s := dev fun t => { t with
      queues := t.queues.set 0 [.st { loc := .glob 0x300000 false, data := [1], col := 0, ord := 1 }] }
    ((1#64 <<< 63).getLsbD 63 = true) ∧ (∀ w ∈ ([] : List (Nat × Nat)), oldAccess s w.1 w.2 = false)
      ∧ (∃ w ∈ [((0 : Nat), (2 : Nat))], oldAccess s w.1 w.2 = true) := by decide +kernel

/-- A stack that sweeps and one that does not; the last frame of the stack. -/
theorem witness_sweeper : let k : Stack := { swctl := BitVec.ofNat 64 (1 + 1 * 2 ^ 24 + 2 * 2 ^ 36) }
    sweepsNow k = true ∧ sweepsNow {} = false ∧ Memory.wf State.reset.mem = true
      ∧ stackFrames ≤ (2 ^ 62 - 1 : Nat) % 2 ^ 62 ∧ stackFrames - 1 < stackFrames
      ∧ frameHead State.reset 7 (stackFrames - 1) = stackFrames - 1 := by decide +kernel

/-- A tile that is to retire with nothing on it, one that is gone, and a channel being copied. -/
theorem witness_retirement : let s := State.reset.setTile 3 { retiring := true }
    (s.tile 3).retiring = true ∧ (s.tile 3).gone = false ∧ s.threads = [] ∧ s.ops = []
      ∧ (spareOf s 3).any (fun p => p ≠ 3) = true ∧ ((State.reset.setTile 3 { gone := true }).tile 3).gone = true
      ∧ (s.tile 4).retiring = false ∧ s.sweepers[(0 : Fin 8)].copying = none ∧ s.sweepers[(0 : Fin 8)].spared = [] := by decide +kernel

/-! ### Vectors and masks -/

/-- Walkers 0 and 4 configured on region 0. -/
def walkers (t : Thread) : Thread :=
  let w : Walker := { configured := true, count := #v[3, 0, 0, 0], stride := #v[1024, 0, 0, 0] }
  { t with regs := { t.regs with w := (t.regs.w.set 0 w).set 4 w } }

/-- Vector sources that are read, from a register, a read port and a latch, and one more result that may be named: in a
block that has named none and in one that has named 31. -/
theorem witness_vector_operands : let s := dev walkers
    let t := runner s
    ((readV t (.reg 95)).run s).1.isOk = true ∧ ((readV t (.port 0)).run s).1.isOk = true
      ∧ ((readV { t with blk := { t.blk with latV := t.blk.latV.set 5 (some (1, 2)) } } (.lat 5)).run s).1.isOk = true
      ∧ (declared s t).any (fun x => t.blk.vNamed.length + 1 ≤ x.vectors.toNat) = true
      ∧ (declared s t).any (fun x => (List.range 31).length + 1 ≤ x.vectors.toNat) = true ∧ t.form = .jexcy
      ∧ (readS t (.reg 63)).isOk = true := by decide +kernel

/-- A write port that is not configured, one that is busy and one that is free, with its stores. -/
theorem witness_write_port : let s := dev walkers
    let t := runner s
    (runner (dev id)).regs.w[(4 : Fin 6)].configured = false ∧ t.regs.w[(4 : Fin 6)].configured = true
      ∧ t.regs.w[(4 : Fin 6)].busy = false ∧ ({ t.regs.w[(4 : Fin 6)] with busy := true } : Walker).busy = true
      ∧ okIs (walkerAddr (viewOf s t) t.regs.w[(4 : Fin 6)]) (.scr 0 0) = true
      ∧ (declared s t).any (fun z => (t.blk.storeBytes + 1024 + 31) / 32 ≤ z.stores.toNat) = true
      ∧ (((List.range 256).foldlM (fun (u : Thread) i => bufferStore u (.scr 0 (4 * i)) (List.replicate 4 1) 0) t).run s).1.isOk
          = true := by decide +kernel

/-- Types for each shape of `v.cvt`, a type of each width `v.pack` takes, and the ends of the lanes' ranges. -/
theorem witness_vector_types :
    (Ty.f32.elems < Ty.f16.elems ∧ 1 < cvtParts .f32 .f16) ∧ (Ty.si32.elems = Ty.f32.elems ∧ 0 < cvtParts .si32 .f32)
      ∧ (Ty.f32.elems < Ty.e2m1.elems ∧ 7 < cvtParts .e2m1 .f32) ∧ (Ty.si32.isInt = true ∧ Ty.si32.width = 32)
      ∧ (Ty.ui16.isInt = true ∧ Ty.ui16.width = 16) ∧ (∀ ty ∈ [Ty.si8, .ui16, .si64], ty.isInt = true ∧ 2 ^ ty.width - 1 < 2 ^ ty.width)
      ∧ (∀ ty ∈ [Ty.f32, .f16, .bf16], ((ffOf ty).any fun f => match f.decode 0 with | .fin _ _ _ => true | _ => false) = true)
      ∧ ((ffOf .f16).any fun f => 0x7BFF < 2 ^ f.width && match f.decode 0x7BFF with | .fin _ _ _ => true | _ => false) = true := by
  decide +kernel

/-- Of each format of the lanes: a finite code, one that is 0, a power of two, an integer, a NaN and both infinities; codes of
DS8 and E8M0 that are finite, and the one that is a NaN. -/
theorem witness_float_codes :
    let fin (f : FF) (c : Nat) (v : Bool × Nat × Int) : Bool := f.decode c = .fin v.1 v.2.1 v.2.2
    ([Ty.f32, .f16, .bf16].all fun ty => ty.isFlt && (ffOf ty).any fun f =>
        let one := f.bias.toNat * 2 ^ f.m
        fin f 0 (false, 0, f.qmin) && fin f (2 ^ (f.width - 1)) (true, 0, f.qmin) && fin f one (false, 2 ^ f.m, -f.m)
          && fin f (one + 2 ^ f.m) (false, 2 ^ f.m, 1 - f.m) && f.nan.any (fun c => f.decode c = .nan)
          && f.infCode.any (fun c => f.decode c = .inf false && f.decode (c + 2 ^ (f.width - 1)) = .inf true)) = true
    ∧ ([Ty.f16, .bf16, .e4m3, .e5m2, .e2m1].all fun ty => ty ≠ .f32 && (ffOf ty).any fun f => fin f 1 (false, 1, f.qmin)) = true
    ∧ decodeElem .ds8 0x77 = .fin false 0 (-6) ∧ decodeElem .ds8 0x88 = .fin true 128 (-6)
    ∧ decodeElem .e8m0 127 = .fin false 1 0 ∧ decodeElem .e8m0 0xFF = .nan := by decide +kernel

/-- R9, R10, R147, R160: sums that round: up to even, to infinity with the flags of overflow, down to a tiny result; a sum of
two opposite zeros by mode. -/
theorem test_float_lanes :
    laneAdd .f16 false .rne 0x3C00 0x1001 = (0x3C01, 1) ∧ laneAdd .f16 false .rne 0x7BFF 0x7BFF = (0x7C00, 5)
      ∧ laneAdd .f16 true .rne 0x7BFF 0x7BFF = (0x7BFF, 5) ∧ laneMul .f16 false .rne 0x0001 0x3800 = (0, 3)
      ∧ laneAdd .f16 false .ninf 0x0000 0x8000 = (0x8000, 0) ∧ laneAdd .f16 false .rne 0x0000 0x8000 = (0, 0) := by
  decide +kernel

/-! ### The matrix array -/

/-- A port whose walker is configured and one whose is not, and a block that may capture. -/
theorem witness_matrix_captured : let s := dev walkers
    let t := runner s
    t.regs.w[(0 : Fin 6)].configured = true ∧ t.regs.w[(0 : Fin 6)].busy = false ∧ t.regs.w[(1 : Fin 6)].configured = false
      ∧ t.run = .running ∧ (declared s t).any (fun x => t.blk.gated.length + 0 + 1 ≤ x.gated.toNat) = true
      ∧ let u := runner (dev fun t => let x := walkers t
          { x with regs := { x.regs with w := x.regs.w.set 1 x.regs.w[(0 : Fin 6)] } })
        u.regs.w[(0 : Fin 6)].configured = true ∧ u.regs.w[(1 : Fin 6)].configured = true := by decide +kernel

/-- A matrix command to issue: with its accumulator held, with none, behind 16; and its operands' records. -/
theorem witness_matrix_issue :
    let x : MMul := ⟨0, .handle 1, .handle 2, .si8, .si8, false, false, 1⟩
    let h (t : Thread) : Thread := hsets 2 (record 1 0 true 1 1 1) (hsets 1 (record 1 0 true 1 1 1) t)
    let s := dev fun t => { issues (.mMma x) (h t) with acc := 1 }
    let t := runner s
    let full := dev fun t => { t with mq := List.replicate 16 { instr := .mWait, regs := t.regs, ord := 0 } }
    let w := runner (dev (issues .mWait))
    (w.run = .issuing ∧ w.issue.length = 1 ∧ w.mq.length < 16) ∧ t.run = .issuing ∧ t.issue.length = 1 ∧ s.pondOf t.op = none ∧ t.mq.length < 16 ∧ requested s t = 0
      ∧ accMask x.acc &&& ~~~(t.acc ||| requested s t) = 0 ∧ accMask 3 &&& ~~~(t.acc ||| requested s t) ≠ 0
      ∧ hMalformed t.regs.h[(1 : Fin 32)] = false ∧ hEmpty t.regs.h[(1 : Fin 32)] = false ∧ hFormat t.regs.h[(1 : Fin 32)] = tyTo .si8
      ∧ hFormat t.regs.h[(2 : Fin 32)] = tyTo .si8 ∧ 16 ≤ (runner full).mq.length ∧ (runner (dev id)).acc = 0
      ∧ (∀ c ∈ t.mq, c.ord ≠ 1) ∧ (∀ p ∈ s.ops, p.2.away = false) := by decide +kernel

/-- An `m.prog` whose older store stands in its queue, and whose word lies in a region, in an uncached page and in a cached
one; a word that is a program and one that is not. -/
theorem witness_program :
    let q (h : HRec) (t : Thread) : Thread := issues (.mProg 1 2) (hsets 1 h t)
    let x := record 0 (4096 - 8) true 1 1 1
    let s := dev (q x)
    let t := runner s
    let g0 := dev (q (record 0 0x4FFF8 false 1 1 1))
    let g := atPort g0 [⟨0, 0x30FFF8 / 64, .place (runner g0).key 1, false⟩] [0x310000 / 64]
    let c := runner (dev (q (record 0 0x50000 false 1 1 1)))
    olderDone (runner (dev fun t => { q x t with
        queues := t.queues.set 0 [.st { loc := .glob 0x300000 false, data := [1], col := 0, ord := 0 }] })) 1 = false
      ∧ t.barriers = [] ∧ olderDone t 1 = true ∧ t.mq = [] ∧ hMalformed x = false ∧ hEmpty x = false ∧ hFormat x = tyTo .none
      ∧ hLayout x = 0 ∧ hScr x = true ∧ hField x 56 28 = 0 ∧ hOffset x % 8 = 0 ∧ hOffset x + 8 ≤ 4096
      ∧ (regionOf (s.opTile t.ot) (hRegion x)).size = 1 ∧ granOf (regionOf (s.opTile t.ot) (hRegion x)) (hOffset x) ≠ some .empty
      ∧ progOk 0xF = false ∧ progOk 0 = true ∧ t.tile < 416 ∧ t.ltile < 512 ∧ s.pondOf t.op = none
      ∧ reached g (runner g) 0x4FFF8 8 false = true
      ∧ ((g.tile 0).sent.any fun r => r.line = 0x30FFF8 / 64 && r.owner = .place (runner g).key 1 && !r.fetch) = true
      ∧ reached g c 0x50000 8 true = true ∧ 0x310000 / 64 ∈ (g.tile 0).l1 := by decide +kernel

/-- Queued commands that are ready: a free, and a clear and a sum in the sequencer's turn; another has the turn. -/
theorem witness_matrix_complete :
    ∀ i ∈ [Instr.mFree 1, .mZero 0, .mAdd 0 1 .si32 false],
      let s0 := dev fun t => { t with mq := [{ instr := i, regs := t.regs, ord := 0 }], acc := 3 }
      let s := s0.setTile 0 { s0.tile 0 with turn := some s0.cur }
      let t := runner s
      (t.mq.map (·.instr)) = [i] ∧ (t.mq.all fun c => commandReady s t c) = true ∧ t.waiting = [] ∧ HwError.accum s.cur ∉ s.hwErrors
        ∧ t.key = s.cur ∧ (s.tile t.tile).turn = some s.cur ∧ (5 : Nat) ≠ s.cur ∧ usesArray (.mZero 0) = true := by decide +kernel

/-- A product over one element of K, from records of region 0. -/
theorem witness_product : let x : MMul := ⟨0, .handle 1, .handle 2, .si8, .si8, false, true, 1⟩
    let s := dev fun t => hsets 2 (record 1 0 true 192 1 1) (hsets 1 (record 1 0 true 1 128 1 + BitVec.ofNat 256 (2 ^ 128)) t)
    let t := runner s
    mmaCell x.tyA x.tyB = some false ∧ 1 ≤ x.modi.toNat
      ∧ (match (readOperands (t.agent 1) t.regs x.a x.b x.tyA x.tyB 0 1).run s with
        | (.ok (_, as, bs), s') => (List.range 128).all (fun m => (as.getD m []).length = 1)
            && (List.range 192).all (fun n => (bs.getD n []).length = 1) && s'.opTile t.ot = s.opTile t.ot
        | _ => false) = true := by decide +kernel

/-- A lease request that nothing conflicts with, one that meets only a victim of its operator, a sequencer that sits on what
another waits for, and a turn that is over and one that is not. -/
theorem witness_leases : let s0 := { dev (fun t => { t with acc := 3 }) with time := 2000000000 }
    let s := s0.setTile 0 { s0.tile 0 with leaseQ := [⟨9, 1⟩], turn := some 0 }
    let t := runner s
    (∀ e ∈ (dev id).threads, e.1 = 0 ∨ e.2.tile ≠ 0 ∨ e.2.acc &&& 1 = 0) ∧ t.tile = 0
      ∧ ((mfind s.ops t.op).any fun o => !o.isEnding && ({ o with state := .ending 3 } : Operator).isEnding) = true ∧ leaseIdle s 0 t = true
      ∧ Config.leaseTimeout ≤ tileClocks s t.tile (s.time.toNat - t.leaseSince) ∧ leaseIdle s0 0 t = false
      ∧ (s.tile 0).turn = some 0 ∧ t.mq = [] ∧ 8192 ≤ tileClocks s 0 (s.time.toNat - (s.tile 0).turnSince)
      ∧ (s0.tile 0).turn = none ∧ (s0.tile 0).leaseQ = []
      ∧ (let u : State := { s with
          ops := s.ops ++ ((mfind s.ops t.op).toList.map fun o => (1, ({ o with state := .out } : Operator)))
          threads := s.threads ++ [(2048, { t with op := 1, acc := 1, run := .out })] }
        (u.threads.all fun e => e.1 = 0 || newcomer u t.op e.2) = true ∧ (u.tile 0).leaseQ = [⟨9, 1⟩])
      ∧ tileClocks s 0 ((10 : W64).toNat - (s.tile 0).turnSince) < 8192 := by decide +kernel

/-! ### Fills, ports, the fabric -/

/-- A sequencer that waits for the fill of the empty granule 0 of region 2, which maps a page. -/
def fillDev (va : BitVec 57) : State :=
  let s0 := dev fun t => { t with flow := .stalled (.fill 0 2 0) }
  s0.setOpTile 0 ((s0.opTile 0).setRegion 2
    { size := 1, mapped := true, gva := va, gran := [(0, .empty)] })

/-- The same once the line requests of the fill have left. -/
def fillSent (va : BitVec 57) : State :=
  let s := dev fun t => { t with flow := .stalled (.fill 0 2 0) }
  let u := ({ s with mem := putWords s.mem 0x105020 [0x30004F, 0x31000F] } : State).setOpTile 0 ((s.opTile 0).setRegion 2 { size := 1, mapped := true, gva := va, gran := [(0, .empty)] })
  atPort u ((List.range 64).map fun i => portReq u 0 ((if va = 0x40000 then 0xC000 else 0xC400) + i) (.granule 0 2 0) (va ≠ 0x40000)) []

/-- The leaf of the page has the policy, its line requests have left, where before they had not, and one translation of the
TLB holds its page. -/
def fillReady (page : Nat) (leaf : Nat) (cached : Bool) : Bool :=
  let s := fillSent (BitVec.ofNat 57 (65536 * page))
  let first := lineOf (leafPa false leaf (65536 * page))
  (match walk s 0 (65536 * page) with | .leaf _ false e => e = leaf | _ => false) && (bits leaf 7 6 = 0 && !false) = cached
    && ((List.range 64).all fun i => (s.tile 0).served (portReq s 0 (first + i) (.granule 0 2 0) cached))
    && !({ s.tile 0 with sent := [] } : Tile).served (portReq s 0 first (.granule 0 2 0) cached)
    && (tlbFind (s.tile 0).tlb 0 (65536 * page)).any fun e => !e.large && e.readable && e.frame % 2 ^ 16 = 0

/-- What `fillReady` checks once holds for each line of the granule. -/
theorem fillReady_lines {page leaf : Nat} {cached : Bool} (h : fillReady page leaf cached = true) :
    let s := fillSent (BitVec.ofNat 57 (65536 * page))
    (∀ q ∈ granuleReqs s 0 0 2 0 (65536 * page) false, (s.tile 0).served q = true)
      ∧ ∃ e, (∀ j < 64, tlbFind (s.tile 0).tlb 0 (65536 * page + 64 * j) = some e) ∧ e.large = false ∧ e.readable = true
        ∧ e.frame % 2 ^ 16 = 0 := by
  intro s
  simp only [fillReady, Bool.and_eq_true] at h
  obtain ⟨⟨⟨⟨hw, hc⟩, hs⟩, -⟩, ht⟩ := h
  split at hw
  · rename_i pte e hw'
    have he : e = leaf := by simpa using hw
    subst he
    have hc : (bits e 7 6 = 0 && !false) = cached := by simpa using hc
    refine ⟨?_, ?_⟩
    · rw [granuleReqs_page hw', hc]
      intro q hq
      obtain ⟨i, hi, rfl⟩ := List.mem_map.mp hq
      rw [show lineOf (leafPa false e (65536 * page) + 64 * i) = lineOf (leafPa false e (65536 * page)) + i by
        unfold lineOf; omega]
      exact List.all_eq_true.mp hs i hi
    · cases hf : tlbFind (s.tile 0).tlb 0 (65536 * page) with
      | none => simp [s, hf] at ht
      | some e =>
        refine ⟨e, fun j hj => by rw [tlbFind_offset _ _ _ _ (by omega), hf], ?_⟩
        simpa [s, hf, and_assoc] using ht
  · simp at hw

/-- The same for a page whose leaf has a reserved bit set. -/
def brokenPage : State :=
  let s := fillDev 0x80000
  { s with mem := putWords s.mem 0x105040 [0x800000000030004F] }

/-- Of an uncached page, a cached one, one that does not translate and one whose entry is malformed, the requests gone or not; a granule nobody waits for,
and one that is no longer empty. -/
theorem witness_fill : ((fillWaiter (fillDev 0x40000) 0 2 0).any (fun p => mfind (fillDev 0x40000).threads p.1 = some p.2) = true
    ∧ fillWaiter (fillDev 0x40000) 0 2 1 = none
    ∧ (let s := fillDev 0x40000
      let t := runner s
      granOf (viewRegion s t 2) 0 = some .empty ∧ (viewRegion s t 2).gva.toNat % 4096 = 0 ∧ t.ltile < 512
        ∧ s.pondOf t.op = none ∧ Memory.wf (frontCells (viewRegion s t 2)) = true ∧ (∀ e ∈ s.tiles, e.2.uol = [])
        ∧ mfind t.blk.kept 2 = none ∧ granOf { (viewRegion s t 2) with gran := [(0, .valid)] } 0 ≠ some .empty)
    ∧ fillReady 4 0x30004F false = true ∧ fillReady 5 0x31000F true = true)
    ∧ ∀ j < 64, ((match walk (fillDev 0x70000) 0 (65536 * 7 + 64 * j) with | .missing => true | _ => false) = true
      ∧ tlbFind ((fillDev 0x70000).tile 0).tlb 0 (65536 * 7 + 64 * j) = none)
      ∧ (match walk brokenPage 0 (65536 * 8 + 64 * j) with | .malformed a => a = 0x105040 | _ => false) = true
      ∧ tlbFind (brokenPage.tile 0).tlb 0 (65536 * 8 + 64 * j) = none := by
  refine ⟨by decide +kernel, fun j hj => ?_⟩
  rw [walk_offset _ _ _ _ (by omega), tlbFind_offset _ _ _ _ (by omega), walk_offset _ _ _ _ (by omega),
    tlbFind_offset _ _ _ _ (by omega)]
  decide +kernel

/-- A port at its refill and one before it, a group with a share; a request of a group with a token, of one without, and at a
clock that has sent; two requests of one group and of two. -/
theorem witness_ports : let s := State.reset
    let r : PortReq := ⟨127, 3, .unit 0, true⟩
    let q : PortReq := ⟨127, 3, .evict, false⟩
    let full := s.setTile 0 { portQ := (List.range 512).map fun j => ⟨0, j, .unit 0, false⟩ }
    let t0 : Tile := { portQ := [r], groups := [(5, { tok := 1 }), (127, { tok := 1 })] }
    tileClocks s 0 s.time.toNat / 1024 ≤ (s.tile 0).refills ∧ (s.tile 0).portQ = []
      ∧ (let u := { s with time := 2048, allot := [(127, 1)] }
        (u.tile 0).refills < tileClocks u 0 u.time.toNat / 1024 ∧ mrises u.allot 0 = true ∧ shareOf u 127 ≠ 0)
      ∧ r.group < 128 ∧ 0 < (t0.group 127).tok ∧ t0.sentAt ≤ tileClocks s 0 s.time.toNat
      ∧ (({ t0 with groups := [] } : Tile).group 127).tok ≤ 0 ∧ tileClocks s 0 s.time.toNat < ({ t0 with sentAt := 9 } : Tile).sentAt
      ∧ (∀ e ∈ s.tiles, e.2.uol = []) ∧ q.fetch = false ∧ r.fetch = true
      ∧ (s.tile 0).served r = false ∧ outstandingReqs s 0 < 512 ∧ 512 ≤ outstandingReqs full 0
      ∧ ((full.tile 0).portQ.all fun x => x.line ≠ 600) = true ∧ (full.tile 0).served ⟨0, 600, .unit 0, false⟩ = false ∧ q ≠ ({ q with line := 4 } : PortReq)
      ∧ (({ q with group := 5 } : PortReq).group = ({ t0 with lastGroup := 5 } : Tile).lastGroup) ∧ 0 < (t0.group 5).tok := by
  decide +kernel

/-- A flit of 252 bytes of 0 and its check, in sequence, behind and ahead; a port with 15 failed replays, the last of them
asked for again or not, and one with 16. -/
theorem witness_flit : let body : List Byte := List.replicate 252 0
    let f := body ++ leBytes 4 (crc32 body)
    (f.length = 256 ∧ crc32 (f.take 252) = leOf (f.drop 252)) ∧ (BitVec.ofNat 12 (leOf (f.take 2)) : BitVec 12) = 0
      ∧ ((512#12) - 0#12).toNat ≤ 512 ∧ 1 ≤ ((512#12) - 0#12).toNat ∧ 512 < ((513#12) - 0#12).toNat ∧ ({} : Port).down = false
      ∧ ({} : Port).queue = [] ∧ ({} : Port).replay.length < 512 ∧ ({ replay := List.replicate 512 ((7, 0), f) } : Port).replay.length = 512
      ∧ (let p : Port := { replay := [((7, 0), f)], fails := 15 }
        0 < p.replay.length ∧ p.replay ≠ [] ∧ p.fails < 16 ∧ p.fails = 15 ∧ p.replayed = false ∧ p.replay.length ≤ 512
          ∧ ({ p with replayed := true } : Port).replayed = true)
      ∧ 16 ≤ ({ fails := 16 } : Port).fails
      ∧ (({ lanes := [(true, 1), (false, 2)] } : Port).lanes.filter (·.1 = true)).length < 2
      ∧ 2 ≤ (({ lanes := [(true, 1), (true, 2)] } : Port).lanes.filter (·.1 = true)).length
      ∧ ¬ ((f.set 3 1).length = 256 ∧ crc32 ((f.set 3 1).take 252) = leOf ((f.set 3 1).drop 252)) := by decide +kernel

/-- A core with a packet, one that has failed, a spare that is used; accesses at the end of a grant and one byte past it,
for loading and for storing, and in local memory. -/
theorem witness_riders : let r : Rider := { packet := some (5, 1), grants := [(63, ⟨0, 16, true, false⟩), (64, ⟨0x300000, 8, false, true⟩)] }
    let s := { State.reset with riders := State.reset.riders.set 0 r }
    ((s.riders[(0 : Fin 18)]).failed = false ∧ (s.riders[(1 : Fin 18)]).packet = none ∧ s.packets = []
      ∧ (s.riders[(16 : Fin 18)]).failed = false ∧ (s.riders[(16 : Fin 18)]).used = false ∧ ({ failed := true } : Rider).failed = true
      ∧ s.recs = [] ∧ s.ops = [] ∧ s.ponds = [] ∧ r.done = false ∧ (s.queue 5).valid = false
      ∧ spareRider { s with riders := s.riders.set 0 { r with failed := true } } = some 16
      ∧ (let u := { s with riders := s.riders.set 16 { used := true } }
        (∀ e : Fin 18, 16 ≤ e.val → e < 17 → e ≠ 0 → (u.riders[e]).failed = true ∨ (u.riders[e]).used = true))
      ∧ 2 ^ 19 - 4 + 4 ≤ (2 ^ 19 : Nat) ∧ Memory.wf r.mem = true ∧ r.packet = some (5, 1)
      ∧ (mfind r.grants 63).any (fun x => 12 + 4 ≤ x.len && x.read) = true
      ∧ (mfind r.grants 63).all (fun x => x.len < 13 + 4 || !x.read) = true ∧ (mfind r.grants 63).all (fun x => !x.write) = true
      ∧ (mfind r.grants 64).any (fun x => 4 + 4 ≤ x.len && x.write && (x.base + 4) % 8 + 4 ≤ 8) = true
      ∧ s.queues = [] ∧ ∀ e ∈ s.tiles, e.2.uol = []) ∧ bits rlimFields 15 8 ≤ 256 := by
  constructor
  · decide +kernel
  · unfold bits
    omega

/-! ### Contexts -/

/-- A device whose context `ctx` has the entry `e`; the table is at 0x400000. -/
def ctxDev (ctx e : Nat) : State :=
  let s := State.reset
  { s with mem := writeBytes [] (0x400000 + 64 * ctx) (leBytes 64 e), basin := { s.basin with ctxtb := 0x400000 } }

/-- A live context's fields: its state and Tmax. -/
def ctxEntry (state tmax : Nat) : Nat := state * 2 ^ 364 + tmax * 2 ^ 464

/-- Entries in each state of a context, at the ends of the table, well formed and not, busy and idle. -/
theorem witness_contexts :
    (∀ ctx ∈ [0, 4095], ∀ st ∈ [0, 1, 2, 4], let s := ctxDev ctx (ctxEntry st 384)
      ctxState s ctx = st ∧ s.basin.killing = none ∧ isHole (ctxAddr s ctx) = false ∧ s.basin.ctxtb.toNat % 2 ^ 18 = 0
        ∧ Memory.wf s.mem = true ∧ mfind s.l2 (lineOf (ctxAddr s ctx)) = none ∧ ctxWellFormed s ctx = true ∧ ctxBusy s ctx = false)
      ∧ ctxWellFormed (ctxDev 1 (ctxEntry 0 385)) 1 = false ∧ ctxState (ctxDev 1 (ctxEntry 0 385)) 1 = 0
      ∧ ctxBusy { ctxDev 1 (ctxEntry 1 384) with recs := [(0, { slot := 0, index := 0, ctx := 1, pasid := 0, words := [] })] } 1
          = true := by decide +kernel

/-- A held operator of the last queue, and no other; a kill that nothing holds up. -/
theorem witness_held : let s0 := ctxDev 4095 (ctxEntry 1 384)
    let s : State := { s0 with ops := [(7, { slot := 8191, index := 9, ctx := 4095, pasid := 0, obj := 1, state := .held })] }
    s.basin.killing = none ∧ isHole (ctxAddr s (heldCtx s 8191 9)) = false ∧ heldOp s none 8191 8 = none
      ∧ (heldOp s none 8191 9).any (fun p => p.1 = 7 ∧ p.2.ctx < 4096) = true
      ∧ (let u := { s0 with basin := { s0.basin with killing := some 4095 } }
        u.basin.killing = some 4095 ∧ u.ops = [] ∧ u.recs = [] ∧ u.ponds = [] ∧ u.basin.ctxq = []) := by decide +kernel

/-! ### Code objects -/

/-- An image: a block of two words in the Jexcy form, its native form too for the stepping `st`. -/
def image (st : Nat) (jex : Option (List W64)) : ObjImage :=
  { pasid := 0, native := some (placedSeal 1), stepping := st, jexcy := jex, consts := [1], data := [], bases := [], entries := [1],
    regions := [(0, 4096, 0)], restartable := false, nopredict := false }

/-- The device of `place` with one page for each area of object 2: code, code and constants readable, data writable. -/
def loadDev : State :=
  let s := place id
  let va (n : Nat) : Nat := Config.objectBase + 2 * Config.objectSpan + n * Config.areaSpan
  let top (m : List Host.Cell) : List Host.Cell := putWords (putWords m (0x101000 + 8 * levelIndex (va 0) 4) [0x106001])
    (0x106000 + 8 * levelIndex (va 0) 3) [0x107001]
  let one (m : List Host.Cell) (n leaf : Nat) : List Host.Cell :=
    let a := 0x110000 + n * 0x2000
    putWords (putWords (putWords m (0x107000 + 8 * levelIndex (va n) 2) [BitVec.ofNat 64 (a + 1)])
      (a + 8 * levelIndex (va n) 1) [BitVec.ofNat 64 (a + 0x1001)]) (a + 0x1000 + 8 * levelIndex (va n) 0) [BitVec.ofNat 64 leaf]
  { s with mem := one (one (one (top s.mem) 0 0x210017) 1 0x220017) 2 0x230007 }

/-- Images the validator accepts, whose pages are mapped or are not, one it refuses and one of no form of the part. -/
theorem witness_load : let s := loadDev
    let img := image Config.stepping (some (placedWords 0))
    (s.objs.filter fun e => e.2.pasid = img.pasid).length ≠ 65535 ∧ mfind s.objs (objKey img.pasid 2) = none
      ∧ (image 0 none).jexcy = none ∧ (image 0 none).stepping ≠ Config.stepping ∧ img.stepping = Config.stepping
      ∧ objectOk img img.native = true ∧ objectOk (image 0 (some [0])) none = false
      ∧ (objectFrames s (objectOf img 2 img.native)).any (fun fs => fs.length = 3
          ∧ fs.all fun f => framePins s (framePa f) ≠ 65535) = true
      ∧ objectFrames s (objectOf img 65535 img.native) = none
      ∧ let o := objectOf img 2 img.native
        o.jexLen ≤ 2 ^ 37 ∧ o.natLen ≤ 2 ^ 37 ∧ o.constLen ≤ 2 ^ 37 ∧ o.dataLen ≤ 2 ^ 37 := by decide +kernel

/-- An object in use, one that is not, one that waits to go, and no object. -/
theorem witness_unload : let s := place id
    (mfind s.objs (objKey 0 1)).any (fun x => refCount s x = 1 ∧ x.pasid = 0 ∧ x.number = 1 ∧ x.pending = false) = true
      ∧ (mfind s.objs (objKey 0 1)).any (fun x => refCount { s with threads := [] } x = 0) = true
      ∧ mrises s.objs 0 = true ∧ mfind s.objs (objKey 0 2) = none
      ∧ (let u := { s with objs := [(objKey 0 1, { pasid := 0, number := 1, pending := true })], threads := [] }
        (mfind u.objs (objKey 0 1)).any (fun x => refCount u x = 0 ∧ x.pending) = true ∧ mrises u.objs 0 = true) := by
  decide +kernel

/-- A native block that stands for the placed one, and words that do not. -/
theorem witness_translation :
    let s0 := place id
    let s : State := { s0 with objs := s0.objs.map fun e => (e.1, { e.2 with natBase := 0x18000 }) }
    let ws := encode (.sealOp { shape := 0, ind := 0, own := 1, taken := 0, fall := 0, sig := 0, len := 0, vectors := 0, stores := 0,
                                gated := 0, lend := false })
    (mfind s.objs (objKey 0 1)).any (fun o => o.translated = [] && (areaFrames s 0 o.natBase o.natLen false).isSome
        && (areaFrames s 0 o.natBase (o.natLen + 8 * ws.length + 32) false).isSome
        && (blocksOf .jexcy (sectionWords s 0 o.jexBase o.jexLen)).any fun bs => (bs.find? fun b => b.data.own = 1).any fun b =>
          standsFor { o with natLen := o.natLen + 8 * ws.length + 32 } (o.natBase + o.natLen) b ws
            && !standsFor o (o.natBase + o.natLen) b []) = true := by decide +kernel

/-! ### The front end -/

/-- A queue 0 of PASID 0 whose user half is at 0x40000, its ring of 16 records at 0x40400, in the live context 0; the
directory is at 0x500000. The page holds `ring` from the ring's start. -/
def frontDev (q : Queue) (ring : List W64) : State :=
  let s := place id
  let m := putWords s.mem 0x105020 [0x30004F]
  let m := writeBytes m 0x300000 (leBytes 8 0x40400)
  let m := putWords (writeBytes m 0x400000 (leBytes 64 (ctxEntry 1 384))) 0x300400 ring
  { s with mem := m, basin := { s.basin with ctxtb := 0x400000, qdbase := 0x500000 }
           queues := [(0, { q with entry := 1 + 0x40000 * 2 ^ 199 + 15 * 2 ^ 75 + 31 * 2 ^ 79, loaded := true })] }

/-- The readable cached page `page` is at `pa`: each of its bytes is where `pageAt_byte` says. -/
def pageAt (s : State) (pasid page pa : Nat) : Bool := basinAddr s pasid (65536 * page) false = some (pa, false)

theorem pageAt_byte {s : State} {pasid page pa : Nat} (h : pageAt s pasid page pa = true) (j : Nat) (hj : j < 65536) :
    basinAddr s pasid (65536 * page + j) false = some (pa + j, false) :=
  basinAddr_offset (by simpa [pageAt] using h) j hj

/-- The user half of a queue is at `pa`, as R336 wants it, with no withdraw word to act on. -/
def halfReady (s : State) (q : Queue) (pa : Nat) : Bool :=
  q.uva % 64 = 0 && pageAt s q.pasid (q.uva / 65536) (pa / 65536 * 65536) && q.uva % 65536 = pa % 65536
    && s.tiles.all (fun e => e.2.uol = []) && q.words = []
    && [(63, 57), (5, 0), (127, 100), (511, 224), (159, 144)].all (fun p => halfBits s pa p.1 p.2 = 0)
    && BitVec.ofNat 32 (halfBits s pa 191 160) = q.serial

theorem halfReady_bytes {s : State} {q : Queue} {pa : Nat} (h : halfReady s q pa = true) (j : Nat) (hj : j < 64) :
    basinAddr s q.pasid (q.uva + j) false = some (pa + j, false) := by
  simp only [halfReady, Bool.and_eq_true, decide_eq_true_eq] at h
  have hp := pageAt_byte h.1.1.1.1.1.2 (q.uva % 65536 + j) (by omega)
  rw [show 65536 * (q.uva / 65536) + (q.uva % 65536 + j) = q.uva + j by omega] at hp
  rw [hp]
  congr 2
  omega

/-- The directory with entries for the key (1, 5), whose slots begin at 7278. -/
def keyed (es : List Nat) : State :=
  let s := State.reset
  { s with mem := writeBytes [] (0x500000 + 32 * 7278) (es.flatMap fun e => leBytes 32 e), basin := { s.basin with qdbase := 0x500000 } }

/-- A key found behind a slot with tomb 1 and one of another key; ended by an invalid slot; and eight slots passed. -/
theorem witness_keys :
    let mine : Nat := 1 + 5 * 2 ^ 96 + 1 * 2 ^ 108
    let other : Nat := 1 + 6 * 2 ^ 96 + 1 * 2 ^ 108
    (mix (1#20 |>.setWidth 32) (5#12 |>.setWidth 32)).toNat % 8192 = 7278
      ∧ (let e (j : Nat) : Nat := dirEntry (keyed [2, other, mine]) (7278 + j)
        bit (e 0) 0 = false ∧ bit (e 0) 1 = true ∧ bit (e 1) 0 = true ∧ bits (e 1) 107 96 ≠ 5 ∧ bit (e 2) 0 = true
          ∧ bits (e 2) 127 108 = 1 ∧ bits (e 2) 107 96 = 5 ∧ bit (e 3) 0 = false ∧ bit (e 3) 1 = false)
      ∧ ∀ j < 8, bit (dirEntry (keyed (List.replicate 8 2)) (7278 + j)) 0 = false
          ∧ bit (dirEntry (keyed (List.replicate 8 2)) (7278 + j)) 1 = true := by decide +kernel

/-- A queue with a user half, at kicks within the ring, past it, and behind; a slot with no queue. -/
theorem witness_kicks : let s : State := { frontDev { kidx := 5 } [] with recs := [], ops := [] }
    (s.queue 0).valid = true ∧ (s.queue 0).err = 0 ∧ halfReady s (s.queue 0) 0x300000 = true
      ∧ ringSize s (s.queue 0) 0x300000 = 16
      ∧ ((6#32 - (5 + 1)).toNat < 16 ∧ (6#32 - 0).toNat ≤ 16) ∧ (16#32 - 0).toNat ≤ 16
      ∧ ((17#32 - (5 + 1)).toNat < 16 ∧ 16 < (17#32 - 0).toNat) ∧ 16 ≤ (5#32 - (5 + 1)).toNat ∧ 16 ≤ (22#32 - (5 + 1)).toNat
      ∧ (s.queue 8191).valid = false ∧ bit (homeRead s (dirAddr s 8191) 32) 0 = false := by decide +kernel

/-- A record that starts object 1 on one tile, with its wait word at 0x40800. -/
def wordsOf (waits : Bool) : List W64 := [0x10001, 0, 0, 0x101, if waits then 0x40800 else 0, 0, 0, 0]
def recOf (state : RecState) (waits : Bool) : Rec :=
  { slot := 0, index := 0, ctx := 0, pasid := 0, words := wordsOf waits, maxpri := 31, terr := 15, state := state }

/-- A queue with a record to read, one with none, and a withdrawal with a new serial. -/
theorem witness_reading :
    let s : State := { frontDev { kidx := 1 } (wordsOf true) with ops := [], threads := [] }
    let q := s.queue 0
    (q.valid = true ∧ q.err = 0 ∧ q.stopped = false ∧ q.ridx ≠ q.kidx ∧ ctxField s q.ctx 367 364 = 1 ∧ s.recs = [])
      ∧ halfReady s q 0x300000 = true ∧ halfBits s 0x300000 63 0 + 64 * (q.ridx.toNat % ringSize s q 0x300000) = 0x40400
      ∧ pageAt s q.pasid (0x40400 / 65536) 0x300000 = true
      ∧ (let v := { s with mem := writeBytes s.mem 0x300000 (leBytes 8 0x70000) }
        halfReady v q 0x300000 = true ∧ halfBits v 0x300000 63 0 = 0x70000 ∧ basinAddr v q.pasid 0x70000 false = none)
      ∧ ((frontDev {} []).queue 0).ridx = 0 ∧ (State.reset.queue 0).valid = false
      ∧ let u := { s with mem := writeBytes s.mem 0x300010 (leBytes 8 (2 ^ 32 + 7)), recs := [(0, { recOf .ready false with words := (wordsOf false).set 0 0x700010001 })] }
        (u.recs.all fun e => e.2.vtag = 7) = true ∧ halfBits u 0x300000 191 128 = 2 ^ 32 + 7 ∧ BitVec.ofNat 32 (halfBits u 0x300000 191 128 / 2 ^ 32) ≠ q.serial
          ∧ BitVec.ofNat 32 (0x200000009 / 2 ^ 32) ≠ q.serial ∧ 0x200000009 % 2 ^ 16 = 9
          ∧ (recOf .ready false).chained = false ∧ (recOf .ready false).barrier = false ∧ (u.recs.all fun e => e.1 = e.2.key) = true := by decide +kernel

/-- A record that waits for a word, one that does not wait; the six conditions. -/
theorem witness_wait_word :
    let s : State := { frontDev { kidx := 1 } [] with recs := [(recKey 0 0, recOf .waiting true)] }
    let r := recOf .waiting true
    (mfind s.recs (recKey 0 0) = some r ∧ r.slot = 0 ∧ r.index = 0 ∧ r.state = .waiting ∧ r.waitMet = false
      ∧ r.unread = false ∧ r.barrier = false ∧ r.chained = false ∧ r.word 4 ≠ 0 ∧ r.word 4 % 8 = 0 ∧ bits (r.word 5) 34 32 ≤ 5
      ∧ (∀ o ∈ s.ops, o.2.state ≠ .reserved) ∧ (∀ e ∈ s.tiles, e.2.uol = []) ∧ (∀ e ∈ s.recs, e.1 = e.2.key ∧ e.2 = r)
      ∧ basinAddr s r.pasid (r.word 4) false = some (0x300800, false)) ∧ (∀ k ≤ 5, bits (k * 2 ^ 32) 34 32 = k)
      ∧ (recOf .ready false).state ≠ .waiting := by decide +kernel

/-- A ready record that fits at the origin and not outside the mesh; a pool with nothing. -/
theorem witness_placement :
    let s : State := { frontDev { kidx := 1, ridx := 1 } [] with recs := [(recKey 0 0, recOf .ready false)] }
    (nextItem s).any (fun a => !a.isOp && a.key = recKey 0 0 && fitsAt s a.shape ⟨0, 0⟩ && !fitsAt s a.shape ⟨32, 0⟩) = true
      ∧ (mfind s.recs (recKey 0 0)).any (fun x => x.key = recKey 0 0 && (mfind s.objs (objKey x.pasid x.objNo)).isSome) = true
      ∧ (∀ e ∈ s.recs, e.1 = e.2.key) ∧ mrises s.ops 0 = true
      ∧ nextItem { s with recs := [] } = none ∧ poolHead { s with recs := [] } = none
      ∧ (poolHead s).any (placeable s) = true
      ∧ (let u := { s with recs := [(recKey 0 0, { recOf .ready false with terr := 0 })], headSince := none }
        (poolHead u).any (fun a => !placeable u a) = true ∧ (∀ a ∈ poolOpen u, headBlocks u ≠ some a.id)
          ∧ (poolHead u).any (fun a =>
            let v : State := { u with headSince := some (a.id, 0), time := 2000000 }
            (poolOpen v).any fun b => headBlocks v = some b.id) = true) := by decide +kernel

/-- A chain successor that is ready, behind an operator that keeps its sequencers. -/
theorem witness_chain :
    let x := { recOf .ready false with index := 1, chained := true }
    let s0 := frontDev { kidx := 2, ridx := 2 } []
    let s : State := { s0 with recs := [(recKey 0 1, x)], ops := s0.ops.map fun e => (e.1, { e.2 with state := .reserved }) }
    mfind s.recs (recKey 0 1) = some x ∧ x.slot = 0 ∧ x.index = 1 ∧ (reservedFor s x).any (fun p => p.1 = 0 ∧ p.2.pins = []) = true
      ∧ (mfind s.objs (objKey x.pasid x.objNo)).isSome = true ∧ x.state = .ready ∧ x.chained = true
      ∧ ((mfind s.ops 0).any fun o => (mfind s.objs (objKey x.pasid x.objNo)).any fun ob =>
          o.tiles.all fun e => (placeRegions ob.regions (takenGranules (dropOperator s 0) e.2)).isSome
            && (placeRegions [(0, 4096 * 4096, 0)] (takenGranules (dropOperator s 0) e.2)).isNone) = true
      ∧ ctxField s x.ctx 367 364 = 1 ∧ s.flumes = [] ∧ s.ponds = [] ∧ mfind s.recs (recKey 0 0) = none
      ∧ (∀ e ∈ s.recs, e.1 = e.2.key) ∧ mrises s.ops 0 = true := by decide +kernel

/-- A launch of the placed object, which nothing has translated, by a record of kind 0. -/
theorem witness_launch : let s := frontDev {} []
    let r := recOf .ready false
    (mfind s.objs (objKey 0 1)).any (fun o => blockAt s o (BitVec.ofNat 16 (bits (r.word 0) 15 0)) = some (.jexcy, 0x10000)
      ∧ o.translated = []) = true ∧ r.kind = 0
      ∧ (mfind s.objs (objKey (BitVec.ofNat 20 r.pasid).toNat 1)).any (fun x => x.translated = [] && x.falls = []) = true := by decide +kernel

/-! ### Completion, pre-emption, predicted runs -/

/-- An operator that is done, with a record that ends a chain and one that does not; one that is not done. -/
theorem witness_completion :
    let s0 := place fun t => { t with run := .exited, exitValue := 5 }
    let s : State := { s0 with mem := [], recs := [(recKey 0 0, { recOf (.started 0) false with words := [0, 0, 0, 0, 0, 0, 0, 0] })] }
    let c := { recOf (.started 0) false with words := [0x400000000000000, 0, 0, 0, 0, 0, 0, 0] }
    ((mfind s.ops 0).any fun o => o.pond.isNone && operatorDone s 0 o && o.state = .started && o.pins = []) = true
      ∧ (s.recs.all fun e => e.1 = e.2.key) = true ∧ mrises s.ops 0 = true
      ∧ ctxField s 0 367 364 = 0
      ∧ (s.threads.all fun e => (s.opTile e.2.ot).regions.all fun p => p.2.gran.all fun g => g.2 ≠ .dirty) = true
      ∧ (match (releaseWrites 0 true).run s with
        | (.ok none, s1) => s1.ops = s.ops && s1.recs = s.recs
        | _ => false) = true
      ∧ (recOf (.started 0) false).chain = false ∧ c.chain = true ∧ mfind s.recs (recKey 0 1) = none
      ∧ ((({ s with queues := [(0, { ridx := 1 })] } : State).queue 0).ridx = 0 + 1) ∧ ctxField s 0 367 364 ≠ 4 ∧ ((mfind (place id).ops 0).any fun o => !operatorDone (place id) 0 o) = true := by
  decide +kernel

/-- Two operators on one sequencer: operator 0 runs at priority 0, operator 1 is switched out at priority 5. -/
def rivals (run : Run) : State :=
  let s := place fun t => { t with run := run, blk := {} }
  let o : Operator := { slot := 0, index := 0, ctx := 0, pasid := 0, obj := 1, tiles := [(0, 0)] }
  let t := { (runner s) with op := 1, run := .out }
  { s with mem := [], ops := [(0, { o with stopping := run = .stopped }), (1, { o with index := 1, prio := 5, state := .out })]
           threads := s.threads ++ [(2048, t)] }

/-- A head that a predicted run keeps out, so that the run is needed, and a run that nothing needs. -/
theorem witness_runs_stop :
    let p : Pond := { slot := 0, index := 0, op := 0, words := [], args := [] }
    let s0 := rivals .running
    let s : State := { s0 with
      ops := s0.ops.map fun e => if e.1 = 0 then (e.1, ({ e.2 with pond := some 3 } : Operator)) else e
      ponds := [(3, p)] }
    (poolHead s).any (fun a => !placeable s a && placeable (withoutRuns s) a && runOn s (itemTiles (withoutRuns s) a) p) = true
      ∧ runNeeded s p = true ∧ runNeeded { s with ops := s.ops.take 1 } p = false ∧ mfind s.ponds 3 = some p
      ∧ mrises s.ponds 0 = true ∧ mrises s.ops 0 = true ∧ s.recs = [] ∧ (∀ o ∈ s.ops, o.2.state ≠ .reserved) := by decide +kernel

/-- A head that its victim keeps out, one that nothing keeps out; a victim that runs and one that has stopped; one past
the deadline. -/
theorem witness_preemption : let s := rivals .running
    let u := rivals .stopped
    (poolHead s).any (fun a => !placeable s a && 0 < a.prio && placeable { s with
        ops := s.ops.map fun e => if e.1 = 0 then (e.1, { e.2 with state := .out }) else e } a) = true
      ∧ s.ponds = [] ∧ ((mfind s.ops 0).any fun o => o.state = .started && o.pond.isNone && !o.stopping) = true
      ∧ allStopped s 0 = false ∧ allStopped u 0 = true
      ∧ ((mfind u.ops 0).any fun o => o.state = .started && o.stopping && o.fate.isNone && !o.abandoned) = true
      ∧ mayLeave u 0 = true ∧ HwError.spill 0 ∉ u.hwErrors ∧ (u.threads.any fun e => e.2.op = 0 && e.2.run ≠ .exited) = true
      ∧ mayLeave (u.setTile 0 { u.tile 0 with retiring := true }) 0 = false
      ∧ (let w : State := { u with ops := u.ops.map fun e => (e.1, ({ e.2 with abandoned := true } : Operator)) }
        ((mfind w.ops 0).any fun o => o.state = .started && o.stopping && o.fate.isNone && o.abandoned) = true
          ∧ ((mfind w.ops 1).any fun o => o.state = .out && o.abandoned) = true)
      ∧ (let v := { s with ops := s.ops.drop 1, threads := s.threads.drop 1 }
        mayResume v 1 = true ∧ ownSeqsFree v 1 = true ∧ ((mfind v.ops 1).any fun o => o.state = .out && o.tiles.all fun e =>
          (placeRegions (o.shape v).regs (takenGranules v e.2)).isSome) = true)
      ∧ mayResume s 1 = true ∧ s.basin.prdl.toNat % 2 ^ 32 = 2000
      ∧ 1100 * 2000 ≤ (2200000#64).toNat - max 0 0 ∧ (2199999#64).toNat - max 0 0 < 1100 * 2000 := by decide +kernel

/-- Three entries of a history in arithmetic progression; the third prediction starts the placed object. -/
def hists : List Hist := [⟨0, 0x10001, 0, 0, 0x101, [3]⟩, ⟨0, 0x10001, 0, 0, 0x101, [2]⟩, ⟨0, 0x10001, 0, 0, 0x101, [1]⟩]

/-- A queue whose next record is predicted and fits; the same of an object that must not be predicted. -/
theorem witness_pond_start :
    let s0 := frontDev { hist := hists } []
    let s : State := { s0 with basin := { s0.basin with prctl := 3 } }
    prEnable s = true ∧ s.ponds.length < prRuns s ∧ (s.queue 0).valid = true ∧ (s.queue 0).err = 0 ∧ (s.queue 0).stopped = false
      ∧ (s.queue 0).ridx = (s.queue 0).kidx ∧ ctxField s (s.queue 0).ctx 367 364 = 1 ∧ s.recs = []
      ∧ (predictedRec s 0 (s.queue 0)).any (fun p => !recordWants s (p.1.shape s) ⟨0, 0⟩ && p.2 = [4] && !malformed s p.1
          && (mfind s.objs (objKey p.1.pasid p.1.objNo)).isSome && fitsAt s (p.1.shape s) ⟨0, 0⟩) = true
      ∧ (let u : State := { s with objs := s.objs.map fun e => (e.1, { e.2 with nopredict := true }) }
        (predictedRec u 0 (u.queue 0)).any (fun p => (mfind u.objs (objKey p.1.pasid p.1.objNo)).any fun x => x.nopredict) = true)
      ∧ (mfind s.objs (objKey 0 1)).any (fun x => !x.nopredict) = true
      ∧ prEnable s0 = false ∧ predict hists = some [0x10001, 0, 0x101, 0, 4] := by decide +kernel

/-- A run that has stopped, one that has finished, and one whose record has been read and may be claimed. -/
theorem witness_pond_ends :
    let p : Pond := { slot := 0, index := 0, op := 0, words := [], args := [] }
    let s0 := place fun t => { t with run := .exited }
    let s1 : State := { s0 with mem := [], ops := s0.ops.map fun e => (e.1, ({ e.2 with pond := some 3 } : Operator)), ponds := [(3, p)] }
    let s : State := { s1 with recs := [(recKey 0 0, recOf .ready false)] }
    mfind s.ponds 3 = some p ∧ s1.recs = [] ∧ mrises s.ponds 0 = true ∧ mrises s.ops 0 = true ∧ mfind s.ponds 0 = none
      ∧ ((mfind s.ops p.op).any fun o => operatorDone s p.op o) = true ∧ (s.threads.all fun e =>
        (s.opTile e.2.ot).regions.all fun q => q.2.gran.all fun g => g.2 ≠ .dirty) = true
      ∧ (match (releaseWrites p.op true).run s with
        | (.ok none, s1) => (mfind s1.ponds 3).any fun q => !q.stopping
        | _ => false) = true ∧ p.stopping = false ∧ p.claimable = false
      ∧ (let c := { p with claimable := true, held := true }
        c.stopping = false ∧ c.claimable = true ∧ c.held = true ∧ c.pages = [])
      ∧ ((mfind s.recs (recKey 0 0)).any fun r => earlier s r = []) = true ∧ (∀ e ∈ s.recs, e.1 = e.2.key)
      ∧ (mfind s.recs (recKey p.slot p.index)).any (fun r => r.state = .ready && r.slot = 0 && r.index = 0) = true := by
  decide +kernel

/-! ### The window, the host, the service -/

/-- Pages that a load and a store may use, the last word of a page, and an address of no page. -/
theorem witness_host : let s := frontDev {} []
    (mfind ({ s with hostRes := [(5, 0x300000 / 64)] } : State).hostRes 5 = some (0x300000 / 64) ∧ mfind s.hostRes 5 ≠ some (0x300000 / 64)
        ∧ basinAddr s 0 0x40000 true = some (0x300000, false) ∧ s.svc.cores = 48) ∧
    basinAddr s 0 0x40000 false = some (0x300000, false) ∧ basinAddr s 0 0x4FFF8 true = some (0x30FFF8, false)
      ∧ basinAddr s 0 0x10000 false = some (0x200000, true) ∧ basinAddr s 0 0x10000 true = none
      ∧ basinAddr s (2 ^ 20 - 1) 0x70000 false = none ∧ (s.tiles.all fun e => e.2.uol = []) = true
      ∧ (0x4FFF8#64).toNat % 8 = 0 ∧ (∃ c : Fin 48, c.val < 44) := by
  refine ⟨?_, ?_, ?_, ?_, ?_, ?_, ?_, ?_, 0, ?_⟩ <;> decide +kernel

/-- The part before bring-up and after, with a recorded failure; no context is live. -/
theorem witness_power : let s := State.reset
    s.svc.up = false ∧ s.off = false ∧ s.svc.boot = [] ∧ (match exec (.bringUp [] []) s with | .next u => u.svc.up | _ => false) = true
      ∧ (3, 5) ∈ ({ s.svc with boot := [(3, 5)] } : Service).boot ∧ ((104999#32).toNat < 105000 ∧ 105000 ≤ (105000#32).toNat)
      ∧ (∀ c < 4096, ctxState { s with basin := { s.basin with ctxtb := 0 } } c = 0) := by
  refine ⟨rfl, rfl, rfl, by decide +kernel, by decide, by decide, ?_⟩
  intro c _
  have h : ∀ n a, readBytes [] a n = List.replicate n 0 := by
    intro n
    induction n with
    | zero => intro _; rfl
    | succ n ih => intro a; rw [readBytes, ih]; rfl
  have h0 : ∀ n a, homeBytes State.reset a n = List.replicate n 0 := by
    intro n
    induction n with
    | zero => intro _; rfl
    | succ n ih => intro a; rw [homeBytes, ih]; rfl
  show bits (leOf (homeBytes State.reset _ 64)) 367 364 = 0
  rw [h0]
  decide +kernel

/-- An open connection and a free one; an image of one byte, complete and not; a log with its records. -/
theorem witness_service : let x : Image := { conn := 0, len := 1, bytes := [(0, 5)] }
    let s := State.reset
    let u := { s with svc := { s.svc with conns := [0], image := some x } }
    (0 : Fin 4).val ∈ u.svc.conns ∧ (3 : Fin 4).val ∉ u.svc.conns ∧ s.svc.conns = [] ∧ s.svc.image = none
      ∧ u.svc.image = some x ∧ x.conn = (0 : Fin 4).val ∧ 0 + [(5 : Byte)].length ≤ x.len ∧ x.len ≤ 2 ^ 26
      ∧ x.bytes.length = x.len ∧ (sha256 (x.bytes.map (·.2))).length = 32 ∧ ({ x with bytes := [] } : Image).bytes.length ≠ x.len
      ∧ s.svc.logged = s.svc.log.length
      ∧ (let l : List LogRec := List.replicate 4096 ⟨1, 0, 0, 0, 0⟩
        l.length ≤ 4096 ∧ 2048 + 2048 ≤ l.length)
      ∧ (∀ k < 4, k ∈ [0, 1, 2, 3]) := by decide +kernel

/-! ### Traps, steps, encodings -/

/-- An operator of two sequencers of which one traps, as it runs and once it has exited; a first trap and a second. -/
theorem witness_trap :
    let s0 := place id
    let s : State := { s0 with threads := s0.threads ++ [(1, { (runner s0) with seq := 1, pseq := 1 })] }
    (mfind s.threads 0).isSome = true ∧ ((mfind s.ops 0).any fun o => o.pond.isNone && o.trap.isNone && o.fate.isNone) = true
      ∧ ((mfind s.threads 1).any fun w => w.op = 0 && !w.idle) = true ∧ TrapClass.program.fate ≠ .context
      ∧ TrapClass.illegal.fate ≠ .context
      ∧ (let u : State := { s with threads := s.threads.map fun e => if e.1 = 0 then (e.1, { e.2 with run := .exited }) else e }
        (mfind u.threads 0).any (fun t => t.run = .exited) = true
          ∧ ((mfind u.threads 1).any fun w => w.op = 0 && !w.idle) = true)
      ∧ ((mfind (raiseTrap s 0 (runner s) .program 3).ops 0).any fun o => o.trap.isSome && o.fate.isSome) = true
      ∧ ((mfind (raiseTrap s 1 { (runner s) with seq := 1, pseq := 1 } .illegal 0).ops 0).any fun o => o.fate.isSome
          && o.trap.any fun x => x.time = s.time && (runner s).seqid < x.seqid && decide (({ s with time := 9 } : State).time ≠ x.time)) = true := by
  decide +kernel

/-- A trap whose operator has stopped, in a context whose event ring has room. -/
theorem witness_trap_record :
    let s0 := frontDev {} []
    let s1 : State := { s0 with threads := s0.threads.map fun e => (e.1, { e.2 with run := .stopped })
                                mem := writeBytes s0.mem 0x400000 (leBytes 64 (ctxEntry 1 384 + 0x600000 * 2 ^ 405 + 2 ^ 32 * 2 ^ 473)) }
    let x : TrapNote := { cls := .program, n := 3, at_ := 0, pc := 0x10000, seqid := 0, own := 1, last := 0, time := 0 }
    let s : State := { s1 with ops := s1.ops.map fun e => (e.1, { e.2 with fate := some .held, trap := some x }) }
    ((mfind s.ops 0).any fun o => o.fate = some .held && o.trap = some x && o.ctx < 4096 && o.slot < 8192) = true
      ∧ (s.threads.all fun e => e.2.op ≠ 0 || e.2.idle) = true ∧ mayLeave s 0 = true
      ∧ (∀ f ∈ [Fate.operator, .context],
        let u : State := { s with ops := s.ops.map fun e => (e.1, { e.2 with fate := some f }) }
        ((mfind u.ops 0).any fun o => o.fate = some f && o.trap = some x && !o.isEnding) = true)
      ∧ (let ewr := ctxField s 0 400 369
        let size := 2 ^ (ctxField s 0 404 401 + 4)
        let a := ctxField s 0 443 405 + 64 * (ewr % size)
        (ewr + 2 ^ 32 - ctxField s 0 363 332) % 2 ^ 32 < size ∧ a % 64 = 0 ∧ ctxAddr s 0 % 64 = 0 ∧ a ≠ ctxAddr s 0
          ∧ mfind s.l2 (a / 64) = none ∧ mfind s.l2 (ctxAddr s 0 / 64) = none
          ∧ ∀ x ∈ [a, ctxAddr s 0], x + 64 ≤ ctxField s 0 511 473 ∨ ctxField s 0 511 473 + 384 * 2 ^ 22 ≤ x)
      ∧ Memory.wf s.mem = true := by decide +kernel

/-- The turns of an empty agenda and of one that names the sequencer. -/
theorem turn_default (s : State) (h : s.off = false) (ha : s.agenda = []) : TurnOf s (refillPorts { s with time := s.time + 1 }) s.cur :=
  ⟨h, .inr ⟨ha, rfl, rfl⟩⟩
theorem turn_agenda (s : State) (h : s.off = false) (k : Nat) :
    TurnOf { s with agenda := [⟨5, .thread k⟩] } (refillPorts { s with agenda := [], time := s.time + BitVec.ofNat 64 5 }) k :=
  ⟨h, .inl ⟨5, [], rfl, rfl⟩⟩

/-- A turn of the placed sequencer, of words in the Jexcy form, of a bundle, off its code and at its seal; a gated operation
to issue. -/
theorem witness_step : let s := State.reset.withFetchWord 64 0x1020404000000001
    let t := runner s
    s.off = false ∧ s.agenda = [] ∧ s.cur = 0 ∧ mfind s.threads 0 = some t ∧ t.flow = .normal ∧ t.run = .running ∧ t.shot = false ∧ t.form = .jexcy
      ∧ s.codeHas t t.pc = true ∧ (decodeJexcy (fetch4 s t.launch.pasid.toNat t.pc.toNat)).isOk = true
      ∧ (let w := { t with pc := 0x20000 }
        s.codeHas w w.pc = false)
      ∧ (decodeBundle 0 0 0 0).isOk = true
      ∧ (let u := dev fun t => issues .mWait t
        (runner u).run = .issuing ∧ (runner u).issue ≠ [] ∧ (u.ops.all fun e => !e.2.stopping) = true) := by decide +kernel

/-- A sequencer of a run that is stopping, one past its deadline, one whose page is gone, and one in native code. -/
theorem witness_step_ends : let s := State.reset.withFetchWord 64 0x1020404000000001
    let t := runner s
    let p : Pond := { slot := 0, index := 0, op := 0, words := [], args := [], stopping := true }
    let r : State := { s with ops := s.ops.map fun e => (e.1, ({ e.2 with pond := some 3 } : Operator)), ponds := [(3, p)] }
    let d : State := { s with ops := s.ops.map fun e => (e.1, ({ e.2 with stopping := true } : Operator)), time := 2200000 }
    let g : State := { s with mem := writeBytes s.mem 0x105008 (leBytes 8 0) }
    (r.pondOf t.op).any (fun q => q.2.stopping) = true ∧ pastDeadline d t = true ∧ pastDeadline s t = false
      ∧ g.codeHas t t.pc = true ∧ fetchBad g t.tick = some .missing ∧ fetchBad s t.tick = none
      ∧ (let n : State := { s with objs := s.objs.map fun e => (e.1, { e.2 with natBase := 0x10000, natLen := 32 }) }
        n.codeHas { t with form := .native } t.pc = true ∧ (fetch4 n 0 0x10000).length = 4) := by decide +kernel

/-- Well-formed operations of both forms with operands at their ends, and a seal. -/
theorem witness_wellformed :
    Instr.wf .jexcy (.addi ⟨false, 63, .reg 63, 0xFFFFFFFF⟩) = true ∧ Instr.wf .native (.add ⟨true, 0, .reg 0, .lat 1⟩) = true
      ∧ (encode (.addi ⟨false, 63, .reg 63, 0xFFFFFFFF⟩)).length = 1
      ∧ (let x : Instr := .sealOp { shape := 0xFFFFFFFF, ind := 15, own := 0xFFFF, taken := 0xFFFF, fall := 0xFFFF, sig := 0xFFFFFFFF,
                                    len := 255, vectors := 32, stores := 512, gated := 8, lend := true }
        (encode x).length = 4 ∧ x.wf .jexcy = true) := by decide +kernel

/-- A step from a state whose memory is in its form answers a next state. -/
theorem witness_step_next : let s := State.reset.withFetchWord 64 0x1020404000000001
    Memory.wf s.mem = true ∧ (match step s with | .next _ => true | _ => false) = true := by decide +kernel

/-! ### The sweeper's visits and retirement with an operator -/

/-- A stack whose hand is at the in-use frame of the page at 0x40000, its entry in the frame table `e`, one place of its cold
queue before the ring's end; tile 5 has the page's translation. -/
def sweepDev (e : Nat) : State :=
  let s := frontDev {} []
  { s with
    mem := putWords (writeBytes s.mem (0x600000 + 16 * 0x30) (leBytes 16 e)) 0x105020 [0x30005F]
    basin := { s.basin with frtb := 0x600000 }
    tiles := mput s.tiles 5 { tlb := [⟨0, 4, false, 0x300000, false, true, true, true, 0x105020⟩] }
    sweepers := s.sweepers.set 0 { swctl := BitVec.ofNat 64 (1 + 0x30 * 2 + 2 ^ 24 + 2 * 2 ^ 36), swqbase := 0x700000, swqtail := 4095, swqhead := 4095 } }

/-- R86: a visit to an accessed frame with a leaf, to one whose page is not mapped, and to an idle one. -/
theorem witness_sweeper_visits :
    let seen (u : State) : Bool := frameAt u 0 0x30 = frameAt (sweepDev (0x40000 * 2 ^ 71 + 2)) 0 0x30
    let visits (e : Nat) (p : State → Bool) : Bool :=
      let s := sweepDev e
      sweepsNow s.sweepers[(0 : Fin 8)] && frameHead s 0 0x30 = 0x30 && bit (frameAt s 0 0x30) 1 && !framePinned s 0 0x30
        && !bit (frameAt s 0 0x30) 4 && !bit (frameAt s 0 0x30) 5 && Memory.wf s.mem
        && (match exec (.sweeperVisit 0) s with | .next u => p u | _ => false)
    (visits (0x40000 * 2 ^ 71 + 6) fun u => seen u && homeRead u 0x105020 8 = 0x30004F && (u.tile 5).tlb.isEmpty
        && (u.sweepers[(0 : Fin 8)]).swqtail = 4095) = true
      ∧ (visits (0x90000 * 2 ^ 71 + 6) fun u => homeRead u 0x105020 8 = 0x30005F && !bit (frameAt u 0 0x30) 2) = true
      ∧ (visits (0x40000 * 2 ^ 71 + 2) fun u => bit (frameAt u 0 0x30) 4 && homeRead u 0x73FFC 4 = 0
        && homeRead u (0x700000 + 4 * 4095) 4 = 0x30 && (u.sweepers[(0 : Fin 8)]).swqtail = 0 && (u.tile 5).tlb.length = 1) = true := by
  decide +kernel

/-- A tile that is to retire with the placed operator on it, a restartable one or not, with a block at fault of each of two
tiles, one of them its own where `own`, in a column with a spare or without; or a predicted run. -/
def retireDev (restartable own spare run : Bool) : State :=
  let s0 := place fun t => { t with run := .stopped, blk := {} }
  let s : State := { s0 with
    objs := s0.objs.map fun e => (e.1, { e.2 with restartable := restartable })
    ops := s0.ops.map fun e => (e.1, { e.2 with pond := if run then some 3 else none, rolled := if run then [] else [0x99] })
    ponds := if run then [(3, { slot := 0, index := 0, op := 0, words := [], args := [] })] else []
    recs := if run then [] else [(recKey 0 0, recOf (.started 0) false)]
    speedt := if spare then s0.speedt else (columnOf 0).map fun n => (n, 44) }
  (s.setTile 0 { s.tile 0 with retiring := true, culprits := if own then [⟨0, 0x10000, 0x10000, 1⟩] else [] }).setTile 7
    { s.tile 7 with retiring := true, culprits := [⟨1, 0x20000, 0x10000, 1⟩] }

/-- R328, R329: retirement with an operator: back to its launch with every block at fault noted, ended by the trap, or stopped. -/
theorem witness_retirement_operator :
    let retires (restartable own spare run : Bool) (p : State → Bool) : Bool :=
      let s := retireDev restartable own spare run
      (opsOn s 0).map (·.1) = [0] && (s.threads.all fun e => e.2.idle && !released s e.2) && (run || effectsDone s 0)
        && (s.ops.all fun e => e.2.state ≠ .reserved && e.2.fate.isNone && e.2.trap.isNone) && (spareOf s 0).isSome = spare
        && mrises s.ops 0 && mrises s.ponds 0 && mrises s.recs 0 && (s.recs.all fun e => e.1 = e.2.key)
        && (match exec (.tileRetirement 0) s with | .next u => (u.tile 0).gone && p u | _ => false)
    let ends (u : State) (n : Nat) : Bool := u.ops.all fun e => e.2.state = .ending n
    (retires true true true false fun u => u.ops.isEmpty && u.threads.isEmpty
        && u.recs.all fun e => e.2.state = .ready && [0x10000, 0x20000, 0x99].all fun b => e.2.rolled.contains b) = true
      ∧ (retires true false true false fun u => u.recs.all fun e => !e.2.rolled.contains 0x10000 && e.2.rolled.contains 0x20000) = true
      ∧ retires false true true false (ends · 2) = true ∧ retires true true false false (ends · 3) = true
      ∧ (retires true false true true fun u => u.ponds.all fun e => e.2.stopping) = true := by decide +kernel

/-- The third mismatch of the last sequencer of an operator that a trap ends. -/
theorem witness_third_mismatch_ends :
    let s0 := place fun t => { t with misses := 2, missAt := t.blk.entry }
    let n : TrapNote := { cls := .program, n := 3, at_ := 0, pc := 0, seqid := 0, own := 0, last := 0, time := 0 }
    let s : State := { s0 with ops := s0.ops.map fun e => (e.1, { e.2 with fate := some .operator, trap := some n, stopping := true }) }
    (spareOf s 0).isSome = true ∧ (∀ e ∈ s.threadsOf 0, e.1 = s.cur)
      ∧ (match exec (.sealOp { emptySeal with sig := 5 }) s with
        | .next u => (u.tile 0).retiring && u.ops.all fun e => e.2.state = .ending 3 && e.2.trap.isNone
        | _ => false) = true := by decide +kernel

/-! ### What matrix commands leave -/

/-- A sequencer with records in h1 to h3: of `ty`, 192 wide and 128 high, all of its elements at the start of region 0. -/
def matrixDev (ty : Ty) (f : Thread → Thread) : State :=
  dev fun t => f (hsets 3 (record (tyTo ty) 0 true 192 192 1) (hsets 2 (record (tyTo ty) 0 true 192 192 1) (hsets 1 (record (tyTo ty) 0 true 192 128 1) t)))

/-- What an operation of the array answers, and whether it leaves the tile's regions and accumulators. -/
def opRuns {α : Type} (m : Op α) (s : State) (p : α → Bool) : Bool :=
  match m.run s with
  | (.ok x, s') => p x && s'.opTile 0 = s.opTile 0
  | _ => false

/-- R255, R257: a fill of one cell from a record and of all from a port; a scale from a record. -/
theorem witness_cellwise :
    let s := matrixDev .f32 (hsets 5 (record (tyTo .f32) 0 true 1 1 1))
    let w := dev walkers
    let t := runner s
    (hExt1 t.regs.h[(5 : Fin 32)], hExt0 t.regs.h[(5 : Fin 32)]) = (1, 1)
      ∧ opRuns (elemRead (t.agent 1) t.regs.h[(5 : Fin 32)] 0 0 0) s (· = 0) = true
      ∧ opRuns (readScale (t.agent 1) t.regs .f32 (.handle 5)) s (· = .fin false 0 (-149)) = true
      ∧ opRuns (popPort ((runner w).agent 1) 96 (runner w).regs 0) w (fun x => x.2 = 0) = true := by decide +kernel

/-- R259, R262: stages of each radix, the last place of a transform of 12 in digits, and the reversal of 3 bits. -/
theorem witness_butterfly :
    stageRadices 2 1 0 = [3, 4] ∧ stageRadices 1 0 1 = [5, 2] ∧ lengthOf 2 1 0 = 12 ∧ (ffOf .bf16).isSome = true
      ∧ 11 = 2 * 1 + 3 * 3 ∧ (∀ i < 3, (6 : Nat).testBit i = (3 : Nat).testBit (3 - 1 - i)) ∧ (6 : Nat) < 2 ^ 3 := by decide +kernel

/-- R251: one element of K and one block's scales, all of them finite. -/
theorem witness_scaled_product :
    let s := matrixDev .e4m3 id
    let t := runner s
    mmaCell .e4m3 .e4m3 = some true
      ∧ opRuns (readOperands (t.agent 1) t.regs (.handle 1) (.handle 2) .e4m3 .e4m3 0 1) s (fun x =>
          x.2.1 = List.replicate 128 [0] && x.2.2 = List.replicate 192 [0]) = true
      ∧ opRuns (readScales (t.agent 1) t.regs 1 2 .e4m3 8 1) s (fun x =>
          x.1 = List.replicate 128 [decodeElem .e4m3 0] && x.2 = List.replicate 192 [decodeElem .e4m3 0]) = true
      ∧ (∃ v, IsFin (decodeElem .e4m3 0) v) := by
  refine ⟨by decide, by decide +kernel, by decide +kernel, ⟨(false, 0, _), rfl⟩⟩

/-- R253: a program of one step, over one element of K, of each kind of cell: the step sets the cell to 0. -/
theorem witness_cell_program :
    progOk 0xF0 = true ∧ (0xF0 : W64).toNat / 16 ^ 0 % 16 = 0 ∧ (0xF0 : W64).toNat / 16 ^ 1 % 16 = 15
      ∧ mmaCell .si8 .si8 = some false ∧ mmaCell .bf16 .bf16 = some true ∧ elemInt .si8 0 * elemInt .si8 0 = 0
      ∧ (∃ a : Finite, IsFin (decodeElem .bf16 0) a ∧ val (times false a a) = 0 ∧ (times false a a).1 = false)
      ∧ Rounded ff32 .rne false 0 false (0, 0) := by
  refine ⟨by decide +kernel, by decide, by decide, by decide, by decide, by decide +kernel, ⟨(false, 0, _), rfl, ?_, rfl⟩, ?_⟩
  · simp [val, times]
  · simp [Rounded]

/-- R256: a drain of two cells into a region, and of one to memory whose words are to perform in two steps. -/
theorem witness_drain :
    let s := matrixDev .f32 fun t => hsets 6 (record (tyTo .f32) 0x40000 false 2 2 1) (hsets 5 (record (tyTo .f32) 0 true 2 1 1) t)
    let t := runner s
    let put (h : Fin 32) (n m : Nat) : Bool := (elemPut (s.opTile 0) t.regs.h[h] n m 0 7).isOk
    (put 5 0 0 && put 5 1 0 && put 6 0 0 && put 6 1 1) = true ∧ hScr t.regs.h[(5 : Fin 32)] = true ∧ hScr t.regs.h[(6 : Fin 32)] = false
      ∧ (∀ p ∈ s.ops, p.2.away = false) ∧ s.flumes = [] ∧ Memory.wf (frontCells (regionOf (s.opTile 0) 0)) = true
      ∧ granOf (regionOf (s.opTile 0) 0) 7 ≠ some .empty
      ∧ (let u := atPort { s with drainPicks := [[0x40000 / 8]] } [portReq s 0 (0x300000 / 64) (.place t.key 1) false] []
        let ws : List ByteWrite := (List.range 8).map fun i => ⟨0x40000 + i, 0xFF, 7⟩
        (match (globalWrites (t.agent 1) ws).run u with
          | (.ok (), v) => v.drainPicks = u.drainPicks && (List.range 8).all fun i => byteAt v false (0x300000 + i) = 7
          | _ => false) = true
        ∧ ws.all (fun w => w.at_ / 2 ^ 16 = 4 && tlbFind (u.tile 0).tlb 0 w.at_ = (u.tile 0).tlb.head?) = true
        ∧ (∀ x ∈ u.tiles, x.2.uol = []) ∧ Memory.wf u.mem = true) := by decide +kernel

/-- R246, R266: a product with nothing left of K, run and completed in its sequencer's turn; a drain that has words to write
stays, begun. -/
theorem witness_command_runs :
    let x : MMul := ⟨0, .handle 1, .handle 2, .si8, .si8, false, false, 1⟩
    let h := record (tyTo .f32) 0x40000 false 2 2 1 + BitVec.ofNat 256 (8 * 2 ^ 128)
    let at_ (i : Instr) (done : Nat) : State :=
      let s := dev fun t => { hsets 6 h t with mq := [{ instr := i, regs := (hsets 6 h t).regs, ord := 1, done := done }], acc := 1 }
      let u := s.setTile 0 { s.tile 0 with turn := some 0, turnCount := 15 }
      atPort { u with drainPicks := [[0x40000 / 8]] } [portReq s 0 (0x300000 / 64) (.place (runner s).key 1) false] []
    let runs (s : State) (p : State → Bool) : Bool :=
      (runner s).mq.all (fun c => commandReady s (runner s) c && usesArray c.instr && !stopsInside c) && !turnOver s 0
        && (runner s).waiting = [] && (runner s).key = 0
        && (match exec (.matrixCommandComplete 0) s with | .next u => p u | _ => false)
    (runs (at_ (.mMma x) 1) fun u => (runner u).mq.isEmpty && (u.tile 0).turn = none) = true
      ∧ (runs (at_ (.mDrain 0 6 .f32 .f32 false .rne) 0) fun u => ((runner u).mq.map fun c => (c.started, c.gone)) = [(true, [0x8000])]
        && (u.tile 0).turn = some 0) = true := by decide +kernel

/-- A turn past its 8,192 clocks, held by a sequencer with one command of operands at both ports. -/
def turnDev (i : Instr) (begun : Bool) : State :=
  let s := dev fun t => let t := walkers t; { t with mq := [{ instr := i, regs := t.regs, ord := 1, started := begun }], acc := 1 }
  { (s.setTile 0 { s.tile 0 with turn := some 0 }) with time := 2000000000 }

/-- The turn's state as the claim wants it, its one command meeting `p`. -/
def turnHolds (s : State) (p : MCmd → Bool) : Bool :=
  turnOver s 0 && (s.tile 0).turn = some 0 && (runner s).mq.length = 1 && (runner s).mq.all p

/-- Whether the end of a turn passes it on. -/
def turnPasses (s : State) : Bool := match exec (.arrayTurnEnd 0) s with | .next u => (u.tile 0).turn = none | _ => false

/-- An integer product of two groups of K. -/
def twoGroups : Instr := .mMma ⟨0, .port 0, .port 1, .si8, .si8, false, false, 33⟩

/-- Whether the operands of the next group of `twoGroups` can be read. -/
def groupReads (s : State) (t : Thread) (c : MCmd) : Bool :=
  c.instr = twoGroups && opRuns (readOperands (t.agent c.ord) c.regs (.port 0) (.port 1) .si8 .si8 (c.done * 32)
    (min 33 ((c.done + 1) * 32))) s (fun _ => true)

/-- A product of two groups runs a group where its operands can be read. -/
theorem advance_ok {s : State} {t : Thread} (h : t.mq.all (groupReads s t) = true) :
    ∀ c ∈ t.mq, ∃ c' s1, (advance t c 1).run s = (.ok c', s1) := by
  intro c hc
  have h := List.all_eq_true.1 h c hc
  simp only [groupReads, Bool.and_eq_true, decide_eq_true_eq, opRuns] at h
  obtain ⟨hi, h⟩ := h
  split at h
  · rename_i hr
    unfold advance
    rw [op_run_bind_ok (op_run_get s)]
    simp only [hi, twoGroups]
    rw [op_run_bind_ok (by exact hr)]
    exact ⟨_, _, rfl⟩
  · cases h

/-- R248: an interruptible command that has a group left after the next. -/
theorem witness_turn_ends_inside :
    turnHolds (turnDev twoGroups false) (fun c => !c.started && stopsInside c
        && commandReady (turnDev twoGroups false) (runner (turnDev twoGroups false)) c) = true
      ∧ ∀ c ∈ (runner (turnDev twoGroups false)).mq, ∃ c' s1,
          (advance (runner (turnDev twoGroups false)) c 1).run (turnDev twoGroups false) = (.ok c', s1) :=
  ⟨by decide +kernel, advance_ok (by decide +kernel)⟩

/-- R244, R248: a command that cannot be interrupted, begun or not; a sequencer that waits for its turn. -/
theorem witness_turn_ends :
    let z : Instr := .mZero 0
    turnHolds (turnDev z false) (fun c => !c.started && !stopsInside c) = true ∧ turnPasses (turnDev z false) = true
      ∧ turnHolds (turnDev z true) (·.started) = true ∧ turnPasses (turnDev z true) = false
      ∧ (let s := turnDev z false
        let u := s.setTile 0 { s.tile 0 with turn := none }
        arrayWants u (runner u) = true ∧ (u.tile 0).turn = none) := by decide +kernel

/-! ### More single operations -/

/-- R93: an `at.add` behind an older `at.min` that waits for its line does not join the line of an `at.add` older than both. -/
theorem test_atomic_follows_older :
    let s := dev (issues (.atAdd ⟨.pair 4, 0, false, 9, 2⟩))
    let line := lineOf 0x310000
    let older : Atomic := { kind := .min, wide := false, loc := .glob 0x310000 true, v := 3, col := 2, ord := 0 }
    let s := { s.setTile 0 { s.tile 0 with uol := [(line, ⟨.add, false, 2, [(0, 5)], []⟩)] } with
      threads := s.threads.map fun e => (e.1, { e.2 with waiting := [older] }) }
    (match exec (.atAdd ⟨.pair 4, 0, false, 9, 2⟩) s with
      | .next u => (runner u).waiting.length = 2 && (mfind (u.tile 0).uol line).map (·.words) = some [(0, 5)]
      | _ => false) = true := by decide +kernel

/-- R102: two E2M1 elements cover the byte they share. -/
theorem test_nibbles_cover : coveredBits [⟨5, 0x0F, 1⟩, ⟨5, 0xF0, 0x20⟩, ⟨6, 0x0F, 3⟩] 5 = 0xFF
    ∧ coveredBits [⟨5, 0x0F, 1⟩, ⟨5, 0xF0, 0x20⟩, ⟨6, 0x0F, 3⟩] 6 = 0x0F := by decide

/-- R118: a byte below address 0 lies in page -1. -/
theorem test_page_below_zero : ((-1 : Int) / 65536, (65535 : Int) / 65536) = (-1, 0) := by decide

/-- R291: a `mark` between two loads tells their orders apart. -/
theorem test_order_across_mark :
    accessOrder [.ldP 5 (.pair 4) 0, .mark .tile, .ldP 6 (.pair 6) 0] ≠ accessOrder [.ldP 6 (.pair 6) 0, .mark .tile, .ldP 5 (.pair 4) 0]
      ∧ accessOrder [.ldP 5 (.pair 4) 0, .ldP 6 (.pair 6) 0] = accessOrder [.ldP 6 (.pair 6) 0, .ldP 5 (.pair 4) 0] := by decide +kernel

/-- R396: port 2's lane 6, tile 9 of terrace 1, stack 3. -/
theorem test_boot_units : (bootUnit 5 70, bootUnit 2 3) = ((2, 6), (3, 0)) := by decide

/-- R33, R189: a pair result in the Jexcy form. -/
theorem test_pair_result : let t := runner (dev id)
    t.form = .jexcy ∧ ((putPair t 2 1 0x100000002 7).regs.s[(2 : Fin 64)], (putPair t 2 1 0x100000002 7).regs.s[(3 : Fin 64)]) = (2, 1)
      ∧ (putPair t 2 1 0x100000002 7).blk.sig = t.blk.sig + 14 := by decide +kernel

end Sys2Proof.Tests
end

section
/-! SUPPORT. The bytes of a number, tables, and reads of memory that change no byte (R90, R166, R437). -/

namespace Sys2Proof.Machine
open Sys2Proof.Says

/-! ## Bytes and numbers -/

theorem leOf_lt (bs : List Byte) : leOf bs < 2 ^ (8 * bs.length) := by
  induction bs with
  | nil => simp [leOf]
  | cons b r ih =>
    have hb := b.isLt
    rw [leOf, List.length_cons, Nat.mul_add_one, Nat.pow_add]
    omega

theorem leOf_cons_div (b : Byte) (r : List Byte) : leOf (b :: r) / 256 = leOf r := by
  have hb := b.isLt
  simp only [leOf]
  omega

/-- A number's byte `i` is the byte it was made from (R166). -/
theorem ofNat_leOf_div (bs : List Byte) (i : Nat) (h : i < bs.length) :
    BitVec.ofNat 8 (leOf bs / 256 ^ i) = bs[i] := by
  induction bs generalizing i with
  | nil => simp at h
  | cons b r ih =>
    cases i with
    | zero =>
      apply BitVec.eq_of_toNat_eq
      simpa [leOf, Nat.add_mod] using b.isLt
    | succ i =>
      rw [Nat.pow_succ', ← Nat.div_div_eq_div_mul, leOf_cons_div]
      exact ih i (by simpa using h)

theorem readBytes_eq_map (m : List Host.Cell) (a n : Nat) :
    readBytes m a n = (List.range n).map fun i => readByte m (a + i) := by
  induction n generalizing a with
  | zero => rfl
  | succ n ih => simp [readBytes, ih, List.range_succ_eq_map, Function.comp_def, Nat.add_assoc, Nat.add_comm 1]

theorem homeBytes_eq_map (s : State) (a n : Nat) :
    homeBytes s a n = (List.range n).map fun i => homeByte s (a + i) := by
  induction n generalizing a with
  | zero => rfl
  | succ n ih => simp [homeBytes, ih, List.range_succ_eq_map, Function.comp_def, Nat.add_assoc, Nat.add_comm 1]

/-- The bytes a page of one policy gives from an address on. -/
def bytesAt (s : State) (cached : Bool) (pa n : Nat) : List Byte := (List.range n).map fun i => byteAt s cached (pa + i)

@[simp] theorem length_bytesAt (s : State) (c : Bool) (pa n : Nat) : (bytesAt s c pa n).length = n := by simp [bytesAt]

theorem getElem?_bytesAt (s : State) (c : Bool) (pa n : Nat) {i : Nat} (h : i < n) :
    (bytesAt s c pa n)[i]? = some (byteAt s c (pa + i)) := by simp [bytesAt, h]

theorem bytesAt_add (s : State) (c : Bool) (pa m n : Nat) :
    bytesAt s c pa (m + n) = bytesAt s c pa m ++ bytesAt s c (pa + m) n := by
  simp [bytesAt, List.range_add, Function.comp_def, Nat.add_assoc]

theorem bytesAt_eq (s : State) (c : Bool) (pa n : Nat) :
    bytesAt s c pa n = if c then homeBytes s pa n else readBytes s.mem pa n := by
  cases c <;> simp [bytesAt, byteAt, homeBytes_eq_map, readBytes_eq_map]

/-! ## Tables -/

theorem mrises_le_key {α : Type} (m : Map α) (lo : Nat) (h : mrises m lo = true) : ∀ e ∈ m, lo ≤ e.1 := by
  induction m generalizing lo with
  | nil => simp
  | cons e r ih =>
    obtain ⟨hk, hr⟩ := (mrises_cons e.1 e.2 r lo).mp h
    intro x hx
    rcases List.mem_cons.mp hx with rfl | hx
    · exact hk
    · have := ih _ hr x hx
      omega

theorem nodup_keys {α : Type} (m : Map α) (lo : Nat) (h : mrises m lo = true) : (m.map (·.1)).Nodup := by
  induction m generalizing lo with
  | nil => simp
  | cons e r ih =>
    obtain ⟨_, hr⟩ := (mrises_cons e.1 e.2 r lo).mp h
    refine List.nodup_cons.mpr ⟨fun hm => ?_, ih _ hr⟩
    obtain ⟨x, hx, he⟩ := List.mem_map.mp hm
    exact absurd (mrises_le_key r _ hr x hx) (by simp only [he]; omega)

theorem mem_of_mfind {α : Type} {m : Map α} {k : Nat} {x : α} (h : mfind m k = some x) : (k, x) ∈ m := by
  induction m with
  | nil => cases h
  | cons e r ih =>
    obtain ⟨j, v⟩ := e
    simp only [mfind] at h
    split at h
    · cases h; subst_vars; exact .head _
    · split at h
      · cases h
      · exact .tail _ (ih h)

/-- Entries of other keys gone, a key finds what it found. -/
theorem mfind_filter {α : Type} (m : Map α) (p : Nat × α → Bool) (lo k : Nat) (hm : mrises m lo = true)
    (hp : ∀ v, p (k, v) = true) : mfind (m.filter p) k = mfind m k := by
  induction m generalizing lo with
  | nil => rfl
  | cons e r ih =>
    obtain ⟨j, v⟩ := e
    obtain ⟨_, hr⟩ := (mrises_cons j v r lo).mp hm
    have hf := ih _ hr
    rcases Nat.lt_trichotomy k j with hk | rfl | hk
    · have : mfind r k = none := mfind_below r k _ (by omega) hr
      rw [List.filter_cons]
      split <;> simp [mfind, hf, this, hk, Nat.ne_of_lt hk]
    · simp [hp, mfind]
    · rw [List.filter_cons]
      split <;> simp [mfind, hf, Nat.not_lt_of_gt hk, Nat.ne_of_gt hk]

theorem readByte_filter (m : List Host.Cell) (p : Host.Cell → Bool) (a : Nat) (h : Memory.wf m = true)
    (hp : ∀ v, p (a, v) = true) : readByte (m.filter p) a = readByte m a := by
  simp only [readByte, mget, mfind_filter m p 0 a ((wf_iff m).mp h).1 hp]

theorem readByte_writeBytes_inside (bs : List Byte) (m : List Host.Cell) (a i : Nat) (h : Memory.wf m = true)
    (hi : i < bs.length) : readByte (writeBytes m a bs) (a + i) = bs[i] := by
  have hr := readBytes_writeBytes bs m a h
  rw [readBytes_eq_map] at hr
  have := List.getElem_of_eq hr (i := i) (by simpa using hi)
  simpa using this

@[simp] theorem tile_setTile_same (s : State) (k : Nat) (t : Tile) : (s.setTile k t).tile k = t := by
  simp [State.tile, mget]

theorem tile_setTile_ne (s : State) (k j : Nat) (t : Tile) (h : j ≠ k) : (s.setTile k t).tile j = s.tile j := by
  simp [State.tile, mget, mfind_mput_ne _ _ _ _ h]

@[simp] theorem opTile_setOpTile_same (s : State) (k : Nat) (o : OpTile) : (s.setOpTile k o).opTile k = o := by
  simp [State.opTile, mget]

@[simp] theorem regionOf_setRegion_same (ot : OpTile) (n : Nat) (r : Region) : regionOf (ot.setRegion n r) n = r := by
  simp [regionOf, OpTile.setRegion, mget]

/-! ## Reads of memory that nothing waits to merge into (R90, R437) -/

theorem uol_of_tiles {s : State} (h : ∀ e ∈ s.tiles, e.2.uol = []) (k : Nat) : (s.tile k).uol = [] := by
  simp only [State.tile, mget]
  cases hf : mfind s.tiles k with
  | none => rfl
  | some t => exact h _ (mem_of_mfind hf)

theorem uol_setTile {s : State} {k : Nat} {t : Tile} (h : ∀ e ∈ s.tiles, e.2.uol = []) (ht : t.uol = (s.tile k).uol) :
    ∀ e ∈ (s.setTile k t).tiles, e.2.uol = [] := by
  intro e he
  rcases mem_mput _ _ _ _ he with rfl | he
  · exact ht.trans (uol_of_tiles h k)
  · exact h e he

/-- The L2's copy of a line, or the one it would fetch, gives each byte as the home does. -/
theorem ofNat_l2Line (s : State) (pa : Nat) :
    BitVec.ofNat 8 ((l2Line s (lineOf pa)).data.toNat / 256 ^ (pa % 64)) = homeByte s pa := by
  unfold l2Line homeByte
  cases mfind s.l2 (lineOf pa) with
  | some l => rfl
  | none =>
    have hlt : leOf (readBytes s.mem (64 * lineOf pa) 64) < 2 ^ 512 :=
      (leOf_lt _).trans_eq (congrArg (2 ^ ·) (by simp [readBytes_eq_map]))
    have hm : pa % 64 < 64 := by omega
    simp only [Option.getD_none, BitVec.toNat_ofNat, Nat.mod_eq_of_lt hlt]
    rw [ofNat_leOf_div _ _ (by simpa [readBytes_eq_map] using hm)]
    simp only [readBytes_eq_map, List.getElem_map, List.getElem_range, lineOf]
    rw [Nat.div_add_mod]

/-- A line that enters the L2 with the bytes of its home changes no byte. -/
theorem homeByte_fetched (s : State) (line : Nat) (l : L2Line) (h : l.data = (l2Line s line).data) (b : Nat) :
    homeByte { s with l2 := mput s.l2 line l } b = homeByte s b := by
  by_cases hb : lineOf b = line
  · subst hb
    rw [← ofNat_l2Line s b, ← h]
    simp [homeByte]
  · simp only [homeByte, mfind_mput_ne _ _ _ _ hb]

/-- A line enters the L1 of a tile that does not hold it. -/
def State.intoL1 (s : State) (tile line : Nat) : State :=
  if (s.tile tile).l1.contains line then s else s.setTile tile { s.tile tile with l1 := line :: (s.tile tile).l1 }

theorem intoL1_same (s : State) (tile line : Nat) : s.intoL1 tile line = { s with tiles := (s.intoL1 tile line).tiles } := by
  unfold State.intoL1
  split <;> rfl

theorem intoL1_tile (s : State) (tile line : Nat) :
    ∃ l1, line ∈ l1 ∧ (s.intoL1 tile line).tile tile = { s.tile tile with l1 := l1 } := by
  unfold State.intoL1
  split
  · exact ⟨_, List.contains_iff_mem.mp ‹_›, rfl⟩
  · exact ⟨_, .head _, tile_setTile_same ..⟩

theorem intoL1_tile_ne (s : State) (tile line k : Nat) (h : k ≠ tile) : (s.intoL1 tile line).tile k = s.tile k := by
  unfold State.intoL1
  split
  · rfl
  · exact tile_setTile_ne _ _ _ _ h

theorem intoL1_uol (s : State) (tile line : Nat) (h : ∀ e ∈ s.tiles, e.2.uol = []) :
    ∀ e ∈ (s.intoL1 tile line).tiles, e.2.uol = [] := by
  unfold State.intoL1
  split
  · exact h
  · exact uol_setTile h rfl

/-- A read through a cached mapping brings its line, with the home's bytes, into the L2 and the tile's L1. -/
theorem physRead_cached {s : State} {pa : Nat} (h : ∀ e ∈ s.tiles, mfind e.2.uol (lineOf pa) = none) (tile n : Nat) :
    ∃ l, l.data = (l2Line s (lineOf pa)).data
      ∧ (physRead s tile pa n true).1 = { s with l2 := mput s.l2 (lineOf pa) l }.intoL1 tile (lineOf pa)
      ∧ (physRead s tile pa n true).2 = homeBytes (physRead s tile pa n true).1 pa n := by
  let x := l2Line s (lineOf pa)
  let y : L2Line := if homeTerrace pa = terraceOf tile || x.remote.contains (terraceOf tile) then x
    else { x with remote := terraceOf tile :: x.remote }
  refine ⟨y, by dsimp only [y]; split <;> rfl, ?_⟩
  unfold physRead
  rw [mergeLine_none s _ h]
  exact ⟨rfl, rfl⟩

theorem physRead_uncached {s : State} {pa : Nat} (h : ∀ e ∈ s.tiles, mfind e.2.uol (lineOf pa) = none) (tile n : Nat) :
    physRead s tile pa n false = (s, readBytes s.mem pa n) := by
  unfold physRead
  rw [mergeLine_none s _ h]
  rfl

/-- What reads and the port's bookkeeping may change: copies of lines in the caches, whose bytes stay, and the tiles but
for their translations. -/
structure ReadsOnly (s s' : State) : Prop where
  same : s' = { s with l2 := s'.l2, tiles := s'.tiles }
  home : ∀ b, homeByte s' b = homeByte s b
  tlb : ∀ k, (s'.tile k).tlb = (s.tile k).tlb
  uol : (∀ e ∈ s.tiles, e.2.uol = []) → ∀ e ∈ s'.tiles, e.2.uol = []

namespace ReadsOnly

theorem refl (s : State) : ReadsOnly s s := ⟨rfl, fun _ => rfl, fun _ => rfl, id⟩

theorem trans {a b c : State} (h : ReadsOnly a b) (h' : ReadsOnly b c) : ReadsOnly a c :=
  ⟨by rw [h'.same, h.same], fun x => (h'.home x).trans (h.home x), fun k => (h'.tlb k).trans (h.tlb k),
    fun hu => h'.uol (h.uol hu)⟩

variable {s s' : State} (h : ReadsOnly s s')
include h

theorem mem : s'.mem = s.mem := by rw [h.same]
theorem threads : s'.threads = s.threads := by rw [h.same]
theorem opTiles : s'.opTiles = s.opTiles := by rw [h.same]
theorem hwErrors : s'.hwErrors = s.hwErrors := by rw [h.same]
theorem pondOf (op : Nat) : s'.pondOf op = s.pondOf op := by rw [h.same]; rfl

theorem byteAt (c : Bool) (pa : Nat) : Says.byteAt s' c pa = Says.byteAt s c pa := by
  simp only [Says.byteAt, h.home, h.mem]

theorem bytesAt (c : Bool) (pa n : Nat) : Machine.bytesAt s' c pa n = Machine.bytesAt s c pa n := by
  simp only [Machine.bytesAt, h.byteAt]

theorem homeRead (pa n : Nat) : homeRead s' pa n = homeRead s pa n := by
  simp only [Machine.homeRead, homeBytes_eq_map, h.home]

theorem walkFrom (va l table : Nat) : walkFrom s' va l table = walkFrom s va l table := by
  induction l generalizing table with
  | zero => simp only [walkFrom_zero, h.homeRead]
  | succ l ih => simp only [walkFrom_succ, h.homeRead, ih]

theorem walk (pasid va : Nat) : walk s' pasid va = walk s pasid va := by
  have hb : s'.basin = s.basin := by rw [h.same]
  simp only [Machine.walk, pasidEntry, h.homeRead, h.walkFrom, hb]

end ReadsOnly

theorem physRead_readsOnly {s : State} {pa : Nat} (h : ∀ e ∈ s.tiles, mfind e.2.uol (lineOf pa) = none) (tile n : Nat)
    (c : Bool) : ReadsOnly s (physRead s tile pa n c).1 := by
  cases c with
  | false =>
    rw [physRead_uncached h]
    exact .refl s
  | true =>
    obtain ⟨l, hl, hs, -⟩ := physRead_cached h tile n
    rw [hs]
    refine ⟨by rw [intoL1_same], fun b => ?_, fun k => ?_, fun hu => intoL1_uol _ _ _ hu⟩
    · rw [intoL1_same]
      exact homeByte_fetched s _ l hl b
    · by_cases hk : k = tile
      · subst hk
        obtain ⟨l1, -, ht⟩ := intoL1_tile { s with l2 := mput s.l2 (lineOf pa) l } k (lineOf pa)
        rw [ht]
        rfl
      · rw [intoL1_tile_ne _ _ _ _ hk]
        rfl

/-- A read gives the bytes of the home or, of an uncached page, of the stack. -/
theorem physRead_bytes {s : State} {pa : Nat} (h : ∀ e ∈ s.tiles, mfind e.2.uol (lineOf pa) = none) (tile n : Nat)
    (c : Bool) : (physRead s tile pa n c).2 = bytesAt s c pa n := by
  cases c with
  | false => rw [physRead_uncached h, bytesAt_eq]; rfl
  | true =>
    obtain ⟨l, hl, hs, hb⟩ := physRead_cached h tile n
    rw [hb, bytesAt_eq, homeBytes_eq_map, if_pos rfl, homeBytes_eq_map]
    simp only [(physRead_readsOnly h tile n true).home]

/-- An operator that is no pond run reads as any agent does. -/
theorem opRead_eq_physRead {s : State} {op pa : Nat} (hp : s.pondOf op = none)
    (h : ∀ e ∈ s.tiles, mfind e.2.uol (lineOf pa) = none) (tile n : Nat) (c : Bool) :
    opRead s op tile pa n c = physRead s tile pa n c := by
  have hq := ((physRead_readsOnly h tile n c).pondOf op).trans hp
  simp only [opRead, State.watchRead, pondBytes, hq]

/-- A translation of a 64 KiB page that the TLB has and that may be read. -/
theorem translateOp_hit {s : State} {op tile pasid va : Nat} {e : TlbEntry} (hp : s.pondOf op = none)
    (he : tlbFind (s.tile tile).tlb pasid va = some e) (hl : e.large = false) (hr : e.readable = true) :
    translateOp s op tile pasid va false = (s, some (e.frame + va % 2 ^ 16, e.cached)) := by
  simp [translateOp, hp, translate, translateFor, he, hl, hr]

theorem translateOp_missing {s : State} {op tile pasid va : Nat} (hp : s.pondOf op = none)
    (he : tlbFind (s.tile tile).tlb pasid va = none) (hw : walk s pasid va = .missing) :
    translateOp s op tile pasid va false = (s, none) := by
  simp [translateOp, hp, translate, translateFor, he, hw]

theorem translateOp_malformed {s : State} {op tile pasid va a : Nat} (hp : s.pondOf op = none)
    (he : tlbFind (s.tile tile).tlb pasid va = none) (hw : walk s pasid va = .malformed a) :
    translateOp s op tile pasid va false = (noteMalformed s (terraceOf tile) a, none) := by
  simp [translateOp, hp, translate, translateFor, he, hw]

end Sys2Proof.Machine
end

section
/-! SUPPORT. Line requests at a port, and loads as operations of the monad: their pieces, where each goes, and the
sequencer's own stores over what is there (R204, R269, R270, R273, R391, R437). -/

namespace Sys2Proof.Machine
open Sys2Proof.Says

/-! ## Line requests (R391, R437) -/

theorem putReq_ne_nil (r : PortReq) (l : List PortReq) : putReq r l ≠ [] := by
  cases l with
  | nil => simp [putReq]
  | cons q qs =>
    unfold putReq
    split
    · simp
    · split <;> simp

/-- Where every request of an access has left, or needs not, the port is as it was. -/
theorem wantLines_served {s : State} {tile : Nat} {rs : List PortReq} (h : ∀ q ∈ rs, (s.tile tile).served q = true) :
    wantLines s tile rs = (s, true) := by
  have hf : rs.filter (fun r => !(s.tile tile).served r) = [] := by simpa [List.filter_eq_nil_iff] using h
  simp [wantLines, hf]

/-- Where a request has yet to leave, the access waits, and only its tile's port may change. -/
theorem wantLines_waits {s : State} {tile : Nat} {rs : List PortReq} {q : PortReq} (hq : q ∈ rs)
    (h : (s.tile tile).served q = false) : ∃ t, wantLines s tile rs = (s.setTile tile t, false) := by
  obtain ⟨x, xs, hx⟩ : ∃ x xs, rs.filter (fun r => !(s.tile tile).served r) = x :: xs :=
    List.exists_cons_of_ne_nil (List.ne_nil_of_mem (List.mem_filter.mpr ⟨hq, by simp [h]⟩))
  unfold wantLines
  dsimp only
  rw [hx, List.foldr_cons]
  split
  · rename_i hnil
    exact absurd hnil (putReq_ne_nil _ _)
  · exact ⟨_, rfl⟩

/-- One request that no other of its line stands before enters the port where the tile has room for it (R2). -/
theorem wantLines_single {s : State} {tile : Nat} {r : PortReq} (h : (s.tile tile).served r = false)
    (hq : ∀ q ∈ (s.tile tile).portQ, q.line ≠ r.line) :
    wantLines s tile [r] = (s.setTile tile { s.tile tile with
      portQ := (s.tile tile).portQ ++ if outstandingReqs s tile < 512 then [r] else [] }, false) := by
  have hsame : (s.tile tile).portQ.any r.same = false := by
    rw [List.any_eq_false]
    intro q hm
    simp [PortReq.same, Ne.symm (hq q hm)]
  have hjoin : (s.tile tile).portQ.any r.joins = false := by
    rw [List.any_eq_false]
    intro q hm
    simp [PortReq.joins, Ne.symm (hq q hm)]
  have hroom : 1 ≤ 512 - outstandingReqs s tile ↔ outstandingReqs s tile < 512 := by omega
  simp [wantLines, h, putReq, hsame, hjoin, distinctReqs, Config.outstanding, hroom]

theorem askLines_served {s : State} {tile : Nat} {rs : List PortReq} (h : ∀ q ∈ rs, (s.tile tile).served q = true) :
    (askLines tile rs).run s = (.ok (), s) := by
  unfold askLines
  rw [op_run_bind_ok (op_run_get s), wantLines_served h]
  rfl

theorem dropSent_readsOnly (s : State) (tile : Nat) (p : PortReq → Bool) : ReadsOnly s (s.dropSent tile p) := by
  unfold State.dropSent
  dsimp only
  split
  · refine ⟨rfl, fun _ => rfl, fun k => ?_, fun hu => uol_setTile hu rfl⟩
    by_cases hk : k = tile
    · subst hk
      simp
    · rw [tile_setTile_ne _ _ _ _ hk]
  · exact .refl s

/-! ## The monad of loads -/

/-- Operations that each leave the device as it was, in a row. -/
theorem op_run_mapM {α β γ : Type} {f : β → Op γ} {place : α → β} {g : α → γ} {s : State} (l : List α)
    (h : ∀ x ∈ l, (f (place x)).run s = (.ok (g x), s)) : ((l.map place).mapM f).run s = (.ok (l.map g), s) := by
  induction l with
  | nil => rfl
  | cons x xs ih =>
    rw [List.map_cons, List.mapM_cons, op_run_bind_ok (h x (.head _)), op_run_bind_ok (ih fun y hy => h y (.tail _ hy))]
    rfl

theorem hwStrike_none {s : State} {e : HwError} (h : e ∉ s.hwErrors) : (hwStrike e).run s = (.ok false, s) := by
  unfold hwStrike
  rw [op_run_bind_ok (op_run_get s)]
  simp [h]

theorem mfind_any_away {s : State} (h : ∀ p ∈ s.ops, p.2.away = false) (k : Nat) : (mfind s.ops k).any (·.away) = false := by
  cases hf : mfind s.ops k with
  | none => rfl
  | some o => exact h _ (mem_of_mfind hf)

/-- With no operator switched out, no page is claimed of a victim (R366). -/
theorem claimPage64_none {s : State} (h : ∀ p ∈ s.ops, p.2.away = false) (op on page : Nat) :
    claimPage64 s op on page = s := by
  have hv : victimsOn s op on = [] := by
    rw [victimsOn, List.flatMap_eq_nil_iff]
    intro e he
    simp [h e he]
  simp [claimPage64, hv]

/-- A granule that holds data, with no operator switched out, is there at once (R99, R100). -/
theorem touch_ready {s : State} {t : Thread} {r off : Nat} (ha : ∀ p ∈ s.ops, p.2.away = false)
    (hg : granOf (viewRegion s t r) off ≠ some .empty) : (touch t r off).run s = (.ok (), s) := by
  have hp : pageHeld s t.op t.tile (viewRegion s t r) off = false := by
    rw [pageHeld, List.any_eq_false]
    intro e _
    simp [mfind_any_away ha]
  unfold touch
  rw [op_run_bind_ok (op_run_get s)]
  simp [hp, claimPage64_none ha, hg]

theorem resolve_scr {s : State} {t : Thread} {r off : Nat} (ha : ∀ p ∈ s.ops, p.2.away = false)
    (hg : granOf (viewRegion s t r) off ≠ some .empty) (w : Bool) :
    (resolve t (.scr r off) w).run s = (.ok (.scr r off), s) := by
  show (touch t r off >>= fun _ => pure (Loc.scr r off)).run s = _
  rw [op_run_bind_ok (touch_ready ha hg)]
  rfl

theorem resolve_glob {s s' : State} {t : Thread} {va : Nat} {w : Bool} {pa : Nat} {c : Bool}
    (h : translateOp s t.op t.tile t.launch.pasid.toNat va w = (s', some (pa, c))) :
    (resolve t (.glob va) w).run s = (.ok (.glob pa c), s') := by
  unfold resolve
  rw [op_run_bind_ok (op_run_get s)]
  simp only [h]
  rfl

/-- A load whose pieces are all there: what it reads is the pieces' bytes in order (R204, R273). -/
theorem loadAddr_run {s s' : State} {t : Thread} {a : Addr} {n : Nat} {ps : List (Nat × Nat)} {addr : Nat → Addr}
    {loc : Nat → Loc} {bs : List (List Byte)} (hgo : loadsGo s t = true)
    (hps : addrPieces a n = ps.map fun p => (addr p.1, p.2))
    (hloc : ∀ p ∈ ps, (resolve t (addr p.1) false).run s = (.ok (loc p.1), s))
    (hwait : ∀ p ∈ ps, loadWaits t (loc p.1) p.2 t.ord = none)
    (hdrain : ∀ p ∈ ps, behindDrain s t (loc p.1) t.ord = false)
    (hport : ∀ q ∈ loadReqs s t (.unit t.key) t.ord (ps.map fun p => (loc p.1, p.2)), (s.tile t.tile).served q = true)
    (hread : ((ps.map fun p => (loc p.1, p.2)).mapM fun l => loadLoc t l.1 l.2).run s = (.ok bs, s'))
    (hhw : HwError.load t.key ∉ s'.hwErrors) : (loadAddr t a n).run s = (.ok bs.flatten, s') := by
  unfold loadAddr
  rw [op_run_bind_ok (op_run_get s)]
  simp only [hgo, Bool.not_true, Bool.false_eq_true, if_false]
  rw [hps, op_run_bind_ok (op_run_mapM (g := fun p => (loc p.1, p.2)) ps ?_), op_run_bind_ok (op_run_get s),
    op_run_bind_ok (askLines_served hport), op_run_bind_ok hread, op_run_bind_ok (hwStrike_none hhw)]
  · rfl
  · intro p hp
    rw [op_run_bind_ok (hloc p hp)]
    simp only [hwait p hp]
    rw [op_run_bind_ok (op_run_get s)]
    simp [hdrain p hp]

/-! ## A sequencer's own stores over what a load finds (R204, R270) -/

theorem latestStore_scr (xs : List Store) (r o i : Nat) : latestStore xs (.scr r o) i = latestStore xs (.scr r (o + i)) 0 := by
  have h : ∀ x, storeByte x (.scr r o) i = storeByte x (.scr r (o + i)) 0 := fun x => by
    cases hx : x.loc <;> simp [storeByte, hx]
  simp only [latestStore, h]

theorem latestStore_glob (xs : List Store) (pa i : Nat) (c : Bool) :
    latestStore xs (.glob pa c) i = latestStore xs (.glob (pa + i) c) 0 := by
  have h : ∀ x, storeByte x (.glob pa c) i = storeByte x (.glob (pa + i) c) 0 := fun x => by
    cases hx : x.loc <;> simp [storeByte, hx]
  simp only [latestStore, h]

theorem zipIdx_map_range {α β : Type} (f : α → Nat → β) (F : Nat → α) (n : Nat) :
    (((List.range n).map F).zipIdx.map fun p => f p.1 p.2) = (List.range n).map fun i => f (F i) i := by
  apply List.ext_getElem <;> simp

/-- A load's byte of a region: the sequencer's own latest store to it, else what the front holds. -/
def scrByte (s : State) (t : Thread) (r o : Nat) : Byte :=
  (latestStore (ownStores t) (.scr r o) 0).getD (regionByte (viewRegion s t r) o)

theorem loadLoc_scr (s : State) (t : Thread) (r o n : Nat) :
    (loadLoc t (.scr r o) n).run s = (.ok ((List.range n).map fun i => scrByte s t r (o + i)), s) := by
  have h : (loadLoc t (.scr r o) n).run s = (.ok (((List.range n).map fun i => regionByte (viewRegion s t r) (o + i)).zipIdx.map
      fun p => (latestStore (ownStores t) (.scr r o) p.2).getD p.1), s) := rfl
  rw [h, zipIdx_map_range (fun b i => (latestStore (ownStores t) (.scr r o) i).getD b)]
  simp only [scrByte, latestStore_scr _ _ o]

/-- A load's byte of memory: the sequencer's own latest store to it, else what its page gives. -/
def globByte (s : State) (t : Thread) (c : Bool) (pa : Nat) : Byte :=
  (latestStore (ownStores t) (.glob pa c) 0).getD (byteAt s c pa)

theorem loadLoc_glob {s : State} {t : Thread} {pa n : Nat} {c : Bool} (hp : s.pondOf t.op = none)
    (hu : ∀ e ∈ s.tiles, mfind e.2.uol (lineOf pa) = none) :
    (loadLoc t (.glob pa c) n).run s = (.ok ((List.range n).map fun i => globByte s t c (pa + i)), (physRead s t.tile pa n c).1) := by
  have h : (loadLoc t (.glob pa c) n).run s = (.ok ((opRead s t.op t.tile pa n c).2.zipIdx.map
      fun p => (latestStore (ownStores t) (.glob pa c) p.2).getD p.1), (opRead s t.op t.tile pa n c).1) := rfl
  rw [h, opRead_eq_physRead hp hu, physRead_bytes hu, bytesAt,
    zipIdx_map_range (fun b i => (latestStore (ownStores t) (.glob pa c) i).getD b)]
  simp only [globByte, latestStore_glob _ pa]

/-! ## The pieces of an access (R269) -/

theorem mem_pieces {f a n : Nat} {p : Nat × Nat} (h : p ∈ pieces f a n) : a ≤ p.1 ∧ p.1 < a + n := by
  induction f generalizing a n with
  | zero => cases h
  | succ f ih =>
    unfold pieces at h
    split at h
    · cases h
    · dsimp only at h
      rcases List.mem_cons.mp h with rfl | h
      · exact ⟨le_rfl, by omega⟩
      · have := ih h
        omega

/-- The pieces cover an access, in order and once. -/
theorem pieces_flatten {β : Type} (F : Nat → β) (f a n : Nat) (h : n ≤ f) :
    ((pieces f a n).map fun p => (List.range p.2).map fun i => F (p.1 + i)).flatten = (List.range n).map fun i => F (a + i) := by
  induction f generalizing a n with
  | zero =>
    obtain rfl : n = 0 := by omega
    rfl
  | succ f ih =>
    unfold pieces
    by_cases hn : n = 0
    · subst hn
      rfl
    · rw [if_neg hn]
      dsimp only
      generalize hk : min n (8 - a % 8) = k
      obtain ⟨m, rfl⟩ : ∃ m, n = k + m := ⟨n - k, by omega⟩
      rw [List.map_cons, List.flatten_cons, Nat.add_sub_cancel_left, ih (a + k) m (by omega), List.range_add, List.map_append,
        List.map_map]
      simp only [Function.comp_def, Nat.add_assoc]

/-- An aligned power of two of bytes is one piece. -/
theorem pieces_aligned {a n : Nat} (hn : n ∈ [1, 2, 4, 8]) (ha : a % n = 0) : pieces n a n = [(a, n)] := by
  have hk : min n (8 - a % 8) = n := by
    simp only [List.mem_cons, List.not_mem_nil, or_false] at hn
    rcases hn with rfl | rfl | rfl | rfl <;> omega
  have hpos : n ≠ 0 := by
    rintro rfl
    simp at hn
  obtain ⟨f, rfl⟩ := Nat.exists_eq_succ_of_ne_zero hpos
  rw [Nat.succ_eq_add_one] at hk ⊢
  rw [pieces, if_neg hpos]
  dsimp only
  rw [hk, Nat.sub_self]
  cases f <;> simp [pieces]

theorem addrPieces_scr (r o n : Nat) : addrPieces (.scr r o) n = (pieces n o n).map fun p => (.scr r p.1, p.2) := by
  refine List.map_congr_left fun p hp => ?_
  have h := (mem_pieces hp).1
  simp only [Addr.low] at h
  simp only [Addr.add, Addr.low, Nat.add_sub_cancel' h]

end Sys2Proof.Machine
end

section
/-! PROOFS. The scalar loads and `hld`: what they find and what they give (O13). -/

namespace Sys2Proof.Machine
open Sys2Proof.Says

/-! ## Widening and the reserved bits of a record -/

theorem sgn_eq_toInt (w n : Nat) : sgn w n = (BitVec.ofNat w n).toInt := by
  simp only [sgn, BitVec.toInt_eq_toNat_cond, BitVec.toNat_ofNat]

theorem ofNat_wrapN (w : Nat) (x : Int) : BitVec.ofNat w (wrapN w x) = BitVec.ofInt w x := by
  apply BitVec.eq_of_toNat_eq
  have hpos : (0 : Int) < ((2 ^ w : Nat) : Int) := by exact_mod_cast Nat.two_pow_pos w
  have h0 := Int.emod_nonneg x hpos.ne'
  have h1 := Int.emod_lt_of_pos x hpos
  rw [BitVec.toNat_ofNat, BitVec.toNat_ofInt, wrapN]
  exact Nat.mod_eq_of_lt (by omega)

theorem widenS_eq (w n : Nat) : widenS w n = (BitVec.ofNat w n).signExtend 32 := by
  rw [widenS, ofNat_wrapN, sgn_eq_toInt, BitVec.signExtend]

theorem sext24_eq_toInt (x : BitVec 24) : sext24 x = x.toInt := by
  rw [sext24, sgn_eq_toInt, BitVec.ofNat_toNat, BitVec.setWidth_eq]

theorem sext24W_eq (x : BitVec 24) : sext24W x = x.signExtend 32 := by
  rw [sext24W, ofNat_wrapN, sext24_eq_toInt, BitVec.signExtend]

/-- Clearing a field clears its bits and no others (R8). -/
theorem testBit_setBits_zero (x hi lo i : Nat) (h : lo ≤ hi) :
    (setBits x hi lo 0).testBit i = (!(decide (lo ≤ i) && decide (i ≤ hi)) && x.testBit i) := by
  obtain ⟨k, hk⟩ : ∃ k, hi + 1 = lo + k := ⟨hi + 1 - lo, by omega⟩
  have hx : setBits x hi lo 0 = 2 ^ (lo + k) * (x / 2 ^ (lo + k)) + x % 2 ^ lo := by
    have h1 := Nat.div_add_mod x (2 ^ lo)
    have h2 := Nat.div_add_mod (x / 2 ^ lo) (2 ^ k)
    have h3 : x / 2 ^ (lo + k) = x / 2 ^ lo / 2 ^ k := by rw [Nat.pow_add, Nat.div_div_eq_div_mul]
    have h4 : x = 2 ^ (lo + k) * (x / 2 ^ (lo + k)) + (x / 2 ^ lo % 2 ^ k * 2 ^ lo + x % 2 ^ lo) := by
      calc x = 2 ^ lo * (2 ^ k * (x / 2 ^ lo / 2 ^ k) + x / 2 ^ lo % 2 ^ k) + x % 2 ^ lo := by rw [h2, h1]
        _ = _ := by rw [h3, Nat.pow_add]; ring
    simp only [setBits, bits, hk, Nat.add_sub_cancel_left, Nat.zero_mod, Nat.zero_mul, Nat.add_zero]
    omega
  have hlt : x % 2 ^ lo < 2 ^ (lo + k) :=
    (Nat.mod_lt _ (Nat.two_pow_pos lo)).trans_le (Nat.pow_le_pow_right (by decide) (Nat.le_add_right lo k))
  rw [hx, Nat.testBit_two_pow_mul_add _ hlt, Nat.testBit_mod_two_pow, Nat.testBit_div_two_pow]
  by_cases h1 : i < lo
  · simp [h1, show i < lo + k by omega]
  · by_cases h2 : i ≤ hi
    · simp [h1, h2, show i < lo + k by omega, show lo ≤ i by omega]
    · simp [h2, show ¬ i < lo + k by omega, show lo + k ≤ i by omega]

/-- The reserved fields of a record read as 0 (R7, R109). -/
theorem getLsbD_handleRecord (x i : Nat) (h : i < 256) :
    (handleRecord x).getLsbD i = (!(i = 63 || (200 ≤ i && i < 224)) && x.testBit i) := by
  rw [handleRecord, BitVec.getLsbD_ofNat, testBit_setBits_zero _ _ _ _ (by decide), testBit_setBits_zero _ _ _ _ (by decide)]
  have h1 : decide (i ≤ 223) = decide (i < 224) := by simp [Nat.lt_succ_iff]
  have h2 : (decide (63 ≤ i) && decide (i ≤ 63)) = decide (i = 63) := by
    rw [← Bool.decide_and]
    exact decide_eq_decide.mpr (by omega)
  rw [h1, h2]
  cases decide (i = 63) <;> simp [h]

/-! ## Results of loads (R174, R202 to R204) -/

theorem loadBase_run {s s' : State} {t : Thread} {b : Base} {off : BitVec 24} {n al op : Nat} {a : Addr} {mt : Tag}
    {bs : List Byte} (ha : AddressIs s t b off n al a mt) (hl : Loads s t a n bs s') :
    (loadBase t (opk op 0) b off n al).run s = (.ok (bs, accessTag t op b off mt), s') := by
  rw [AddressIs, ← sext24_eq_toInt] at ha
  unfold loadBase
  rw [op_run_bind_ok (op_run_get s), ha, op_run_bind_ok (op_run_lift_ok _ _), op_run_bind_ok hl, sext24W_eq]
  rfl

theorem loadScalar_leaves {s s' : State} {t : Thread} {x : Ld} {n op : Nat} {a : Addr} {mt : Tag} {bs : List Byte}
    {i : Instr} {f : Nat → W32} (hrun : Running s t) (hi : exec i s = runOp s (loadScalar op n f x))
    (ha : AddressIs s t x.base x.off n n a mt) (hl : Loads s t a n bs s') :
    Leaves s i s' (putDest t 1 (.s x.d (f (leOf bs))) (accessTag t op x.base x.off mt)) := by
  refine hi.trans (runOp_ok hrun ?_)
  unfold loadScalar
  rw [op_run_bind_ok (loadBase_run ha hl)]
  rfl

theorem ldP_leaves {s s' : State} {t : Thread} {d : Fin 32} {b : Base} {off : BitVec 24} {a : Addr} {mt : Tag}
    {bs : List Byte} (hrun : Running s t) (ha : AddressIs s t b off 8 8 a mt) (hl : Loads s t a 8 bs s') :
    Leaves s (.ldP d b off) s' (putPair t 1 d (BitVec.ofNat 64 (leOf bs)) (accessTag t 0x205 b off mt)) := by
  refine (exec_ldP ..).trans (runOp_ok hrun ?_)
  rw [op_run_bind_ok (loadBase_run ha hl)]
  rfl

theorem hld_leaves {s s' : State} {t : Thread} {d : Fin 32} {b : Base} {off : BitVec 24} {a : Addr} {mt : Tag}
    {bs : List Byte} (hrun : Running s t) (ha : AddressIs s t b off 32 32 a mt) (hl : Loads s t a 32 bs s') :
    Leaves s (.hld d b off) s' (putDest t 1 (.h d (handleRecord (leOf bs))) (accessTag t 0x218 b off mt)) := by
  refine (exec_hld ..).trans (runOp_ok hrun ?_)
  rw [op_run_bind_ok (loadBase_run ha hl)]
  rfl

theorem loadResults : Says.LoadResults := by
  intro s s' t x a mt bs hrun
  refine ⟨fun ha hl => ?_, fun ha hl => loadScalar_leaves hrun (exec_ldZb ..) ha hl, fun ha hl => ?_,
    fun ha hl => loadScalar_leaves hrun (exec_ldZh ..) ha hl, fun ha hl => loadScalar_leaves hrun (exec_ldW ..) ha hl,
    fun d b off ha hl => ldP_leaves hrun ha hl,
    fun d b off ha hl => ⟨_, hld_leaves hrun ha hl, fun i hi => getLsbD_handleRecord _ i hi⟩⟩
  · rw [← widenS_eq]
    exact loadScalar_leaves hrun (exec_ldSb ..) ha hl
  · rw [← widenS_eq]
    exact loadScalar_leaves hrun (exec_ldSh ..) ha hl

/-! ## What a load finds -/

/-- A load of a region whose granules are there (R204, R270). -/
theorem loads_scr {s : State} {t : Thread} {r o n : Nat} (hgo : loadsGo s t = true) (hhw : HwError.load t.key ∉ s.hwErrors)
    (ha : ∀ p ∈ s.ops, p.2.away = false) (hg : ∀ j < n, granOf (viewRegion s t r) (o + j) ≠ some .empty)
    (hwait : ∀ p ∈ pieces n o n, loadWaits t (.scr r p.1) p.2 t.ord = none) :
    Loads s t (.scr r o) n ((List.range n).map fun i => scrByte s t r (o + i)) s := by
  rw [← pieces_flatten (scrByte s t r) n o n le_rfl]
  refine loadAddr_run (addr := .scr r) (loc := .scr r) hgo (addrPieces_scr r o n) (fun p hp => ?_) hwait (fun _ _ => rfl) ?_
    (op_run_mapM _ fun p _ => loadLoc_scr s t r p.1 p.2) hhw
  · obtain ⟨j, hj⟩ := Nat.exists_eq_add_of_le (mem_pieces hp).1
    refine resolve_scr ha ?_ false
    rw [hj]
    exact hg j (by have := (mem_pieces hp).2; omega)
  · simp [loadReqs]

/-- The request of a load of one piece of memory (R437). -/
theorem served_loadReqs {s : State} {t : Thread} {pa n : Nat} {c : Bool} (h : Served s t pa c) :
    ∀ q ∈ loadReqs s t (.unit t.key) t.ord [(.glob pa c, n)], (s.tile t.tile).served q = true := by
  intro q hq
  obtain rfl : portReq s t.op (lineOf pa) (.unit t.key) c = q := by
    simp only [loadReqs, List.filterMap_cons, List.filterMap_nil] at hq
    split at hq <;> simp_all
  rcases h with ⟨r, hr, hline, howner, hfetch⟩ | ⟨rfl, hl1⟩
  · have : (s.tile t.tile).sent.any (portReq s t.op (lineOf pa) (.unit t.key) c).same = true :=
      List.any_eq_true.mpr ⟨r, hr, by simp [PortReq.same, portReq, lineOf, hline, howner, hfetch]⟩
    simp [Tile.served, this]
  · simp [Tile.served, portReq, lineOf, hl1]

/-- A load of aligned memory that its TLB translates, after its line request has left (R204, R270, R437). -/
theorem loads_glob {s : State} {t : Thread} {va n : Nat} {e : TlbEntry} (hgo : loadsGo s t = true)
    (hhw : HwError.load t.key ∉ s.hwErrors) (hn : n ∈ [1, 2, 4, 8]) (hva : va % n = 0) (hpond : s.pondOf t.op = none)
    (hlarge : e.large = false) (hmay : e.readable = true)
    (htlb : tlbFind (s.tile t.tile).tlb t.launch.pasid.toNat va = some e) (pa : Nat) (hpa : pa = e.frame + va % 2 ^ 16)
    (hwait : loadWaits t (.glob pa e.cached) n t.ord = none) (hdrain : behindDrain s t (.glob pa e.cached) t.ord = false)
    (hserved : Served s t pa e.cached) (huol : ∀ p ∈ s.tiles, mfind p.2.uol (lineOf pa) = none) :
    Loads s t (.glob va) n ((List.range n).map fun i => globByte s t e.cached (pa + i))
      (physRead s t.tile pa n e.cached).1 := by
  have hps : addrPieces (.glob va) n = [(va, n)].map fun p => (Addr.glob p.1, p.2) := by
    simp [addrPieces, Addr.low, pieces_aligned hn hva, Addr.add]
  have hloc : (resolve t (.glob va) false).run s = (.ok (.glob pa e.cached), s) := by
    rw [hpa]
    exact resolve_glob (translateOp_hit hpond htlb hlarge hmay)
  have hro := physRead_readsOnly huol t.tile n e.cached
  have hread : ((([(va, n)] : List (Nat × Nat)).map fun p => (Loc.glob pa e.cached, p.2)).mapM fun l => loadLoc t l.1 l.2).run s
      = (.ok [(List.range n).map fun i => globByte s t e.cached (pa + i)], (physRead s t.tile pa n e.cached).1) := by
    rw [List.map_singleton, List.mapM_cons, op_run_bind_ok (loadLoc_glob hpond huol)]
    rfl
  have h := loadAddr_run (loc := fun _ => .glob pa e.cached) hgo hps (by simpa using hloc) (by simpa using hwait)
    (by simpa using hdrain) (served_loadReqs hserved) hread (by rwa [hro.hwErrors])
  simpa [Loads] using h

theorem loadFindsOwnStoresFirst : Says.LoadFindsOwnStoresFirst := by
  intro s t n e hgo hhw
  constructor
  · rintro r o ⟨ha, hg⟩ hwait
    refine ⟨_, loads_scr hgo hhw ha hg hwait, by simp, fun i hi => ?_⟩
    simp [hi, scrByte]
  · rintro va hn hva ⟨hpond, -, hlarge, htlb, hread⟩ pa c hwait hdrain hserved huol read
    have hpos : 0 < n := by
      simp only [List.mem_cons, List.not_mem_nil, or_false] at hn
      omega
    refine ⟨_, loads_glob hgo hhw hn hva hpond hlarge hread (htlb 0 hpos) pa rfl hwait hdrain hserved huol, by simp,
      fun i hi => ?_⟩
    have hb : read.2 = bytesAt s c pa n := physRead_bytes huol t.tile n c
    rw [hb, List.getD, getElem?_bytesAt s c pa n hi]
    simp [hi, c, globByte]

/-- Settles O13: a load's result is its bytes widened and its tag folded, whatever bytes it finds; and the bytes it finds
are those of its pieces, read from the front or at the translation, with the sequencer's own stores laid over them. -/
theorem loadsReadTheirBytes : Obligations.LoadsReadTheirBytes := ⟨loadResults, loadFindsOwnStoresFirst⟩

end Sys2Proof.Machine
end

section
/-! PROOFS. The completion of a granule's fill (R69, R100, R106; the first half of O42). -/

namespace Sys2Proof.Machine
open Sys2Proof.Says

/-! ## A granule's bytes (R69, R100) -/

/-- A granule whose page the TLB has is read whole, and reading it changes no byte. -/
theorem granuleBytes_hit {op tile pasid va : Nat} {e : TlbEntry} (hl : e.large = false) (hr : e.readable = true)
    (hva : va % 4096 = 0) (n : Nat) (hn : n ≤ 64) (s : State) (acc : List Byte) (hp : s.pondOf op = none)
    (hu : ∀ e ∈ s.tiles, e.2.uol = []) (ht : ∀ j < 64, tlbFind (s.tile tile).tlb pasid (va + 64 * j) = some e) :
    ∃ s', granuleBytes op tile pasid va n s acc
        = (s', some (acc ++ bytesAt s e.cached (e.frame + va % 2 ^ 16 + 64 * (64 - n)) (64 * n)))
      ∧ ReadsOnly s s' := by
  induction n generalizing s acc with
  | zero => exact ⟨s, by simp [granuleBytes, bytesAt], .refl s⟩
  | succ n ih =>
    have hpa : (va + 64 * (63 - n)) % 2 ^ 16 = va % 2 ^ 16 + 64 * (63 - n) := by omega
    have hline : ∀ pa, ∀ x ∈ s.tiles, mfind x.2.uol (lineOf pa) = none := fun pa x hx => by rw [hu x hx]; rfl
    let pa := e.frame + (va + 64 * (63 - n)) % 2 ^ 16
    have hro := physRead_readsOnly (hline pa) tile 64 e.cached
    obtain ⟨s', hs', hro'⟩ := ih (by omega) (physRead s tile pa 64 e.cached).1 (acc ++ bytesAt s e.cached pa 64)
      ((hro.pondOf op).trans hp) (hro.uol hu) (fun j hj => by rw [hro.tlb]; exact ht j hj)
    refine ⟨s', ?_, hro.trans hro'⟩
    have hstep : granuleBytes op tile pasid va (n + 1) s acc
        = granuleBytes op tile pasid va n (physRead s tile pa 64 e.cached).1 (acc ++ bytesAt s e.cached pa 64) := by
      rw [granuleBytes, translateOp_hit hp (ht (63 - n) (by omega)) hl hr]
      simp only [opRead_eq_physRead hp (hline _), physRead_bytes (hline _), pa]
    rw [hstep, hs', hro.bytesAt, List.append_assoc, Nat.mul_add_one, Nat.add_comm (64 * n), bytesAt_add]
    simp only [pa, hpa, show 64 - (n + 1) = 63 - n by omega, Nat.add_assoc, show 64 * (63 - n) + 64 = 64 * (64 - n) by omega]

/-- A granule whose page does not translate at its first line brings nothing. -/
theorem fillFrom_none {s s' : State} {op tile pasid : Nat} {r : Region} {g : Nat}
    (h : translateOp s op tile pasid (r.gva.toNat + 4096 * g) false = (s', none)) :
    fillFrom s op tile pasid r g = (s', none) := by
  simp [fillFrom, granuleBytes, h]

theorem fillFrom_hit {s : State} {op tile pasid : Nat} {r : Region} {g : Nat} {e : TlbEntry} (hl : e.large = false)
    (hr : e.readable = true) (hva : (r.gva.toNat + 4096 * g) % 4096 = 0) (hp : s.pondOf op = none)
    (hu : ∀ e ∈ s.tiles, e.2.uol = [])
    (ht : ∀ j < 64, tlbFind (s.tile tile).tlb pasid (r.gva.toNat + 4096 * g + 64 * j) = some e) :
    ∃ s', fillFrom s op tile pasid r g = (s', some (fillRegion r g
        (bytesAt s e.cached (e.frame + (r.gva.toNat + 4096 * g) % 2 ^ 16) 4096))) ∧ ReadsOnly s s' := by
  obtain ⟨s', hs', hro⟩ := granuleBytes_hit hl hr hva 64 le_rfl s [] hp hu ht
  exact ⟨s', by simp [fillFrom, hs'], hro⟩

/-! ## A filled region (R99, R100) -/

@[simp] theorem frontCells_setFront (r : Region) (c : List Host.Cell) : frontCells (setFront r c) = c := by
  unfold frontCells setFront
  by_cases h : r.front = true <;> simp [h]

theorem granOf_fillRegion_same (r : Region) (g : Nat) (bs : List Byte) (a : Nat) (h : a / 4096 = g) :
    granOf (fillRegion r g bs) a = some .valid := by
  simp [granOf, fillRegion, h]

theorem granOf_fillRegion_ne (r : Region) (g : Nat) (bs : List Byte) (a : Nat) (h : a / 4096 ≠ g) :
    granOf (fillRegion r g bs) a = granOf r a := by
  have hs : (setFront r (writeBytes ((frontCells r).filter fun e => e.1 / 4096 ≠ g) (4096 * g) bs)).gran = r.gran := by
    unfold setFront
    split <;> rfl
  simp only [granOf, fillRegion, mfind_mput_ne _ _ _ _ h, hs]

theorem frontCells_fillRegion (r : Region) (g : Nat) (bs : List Byte) :
    frontCells (fillRegion r g bs) = writeBytes ((frontCells r).filter fun e => e.1 / 4096 ≠ g) (4096 * g) bs :=
  frontCells_setFront r _

theorem regionByte_fillRegion_inside {r : Region} {g : Nat} {bs : List Byte} (hw : Memory.wf (frontCells r) = true)
    (hb : bs.length = 4096) {j : Nat} (hj : j < 4096) : regionByte (fillRegion r g bs) (4096 * g + j) = bs[j] := by
  rw [regionByte, granOf_fillRegion_same _ _ _ _ (by omega), frontCells_fillRegion]
  exact readByte_writeBytes_inside bs _ _ j (wf_filter _ _ hw) (by omega)

theorem regionByte_fillRegion_outside {r : Region} {g : Nat} {bs : List Byte} (hw : Memory.wf (frontCells r) = true)
    (hb : bs.length = 4096) {a : Nat} (ha : a < 4096 * g ∨ 4096 * (g + 1) ≤ a) :
    regionByte (fillRegion r g bs) a = regionByte r a := by
  have hne : a / 4096 ≠ g := by omega
  rw [regionByte, regionByte, granOf_fillRegion_ne _ _ _ _ hne, frontCells_fillRegion,
    readByte_writeBytes_outside bs _ _ _ (wf_filter _ _ hw) (by omega),
    readByte_filter _ _ _ hw (by simpa using hne)]

/-! ## The completion of a fill (R100) -/

theorem Thread.ot_div {t : Thread} (h : t.ltile < 512) : t.ot / 512 = t.op := by
  unfold Thread.ot opTileKey
  omega

section
variable {s s' : State} {k g : Nat} {r : Fin 64} {t : Thread}

/-- A fill whose requests have left, of a sequencer that waits for it. -/
structure FillDue (s : State) (k g : Nat) (r : Fin 64) (t : Thread) : Prop where
  waiter : fillWaiter s t.ot r g = some (k, t)
  empty : granOf (viewRegion s t r.val) (4096 * g) = some .empty
  ltile : t.ltile < 512
  gone : ∀ q ∈ granuleReqs s t.ot t.launch.pasid.toNat r.val g ((viewRegion s t r.val).gva.toNat + 4096 * g) false,
    (s.tile t.tile).served q = true

/-- The device once the requests of a fill are taken off the port. -/
def afterRequests (s : State) (g : Nat) (r : Fin 64) (t : Thread) : State :=
  s.dropSent t.tile fun q => q.owner = .granule t.ot r.val g

theorem afterRequests_readsOnly (s : State) (g : Nat) (r : Fin 64) (t : Thread) : ReadsOnly s (afterRequests s g r t) :=
  dropSent_readsOnly ..

theorem viewRegion_unkept (h : mfind t.blk.kept r.val = none) (s : State) :
    viewRegion s t r.val = regionOf (s.opTile t.ot) r.val := by
  rw [viewRegion, h]
  rfl

/-- The region that a fill without a kept copy fills is the one its sequencer sees. -/
theorem fillFrom_unkept (h : FillDue s k g r t) (hk : mfind t.blk.kept r.val = none) (pasid : Nat) :
    fillFrom (afterRequests s g r t) (t.ot / 512) t.tile pasid (regionOf ((afterRequests s g r t).opTile t.ot) r.val) g
      = fillFrom (afterRequests s g r t) t.op t.tile pasid (viewRegion s t r.val) g := by
  have ho : (afterRequests s g r t).opTile t.ot = s.opTile t.ot := by
    simp only [State.opTile, (afterRequests_readsOnly s g r t).opTiles]
  rw [Thread.ot_div h.ltile, ho, viewRegion_unkept hk]

/-- A fill that is due goes to the copy its sequencer keeps of the region, where it keeps one. -/
theorem execGranuleFill_kept (h : FillDue s k g r t) (hk : mfind t.blk.kept r.val ≠ none) {u : State} {r' : Region}
    (hf : fillFrom (afterRequests s g r t) t.op t.tile t.launch.pasid.toNat (viewRegion s t r.val) g = (u, some r')) :
    execGranuleFill t.ot r g s
      = .next (u.setThread k { t with blk := { t.blk with kept := mput t.blk.kept r.val r' } }) := by
  unfold afterRequests at hf
  simp [execGranuleFill, h.waiter, h.empty, wantLines_served h.gone, Option.isSome_iff_ne_none.mpr hk, hf, runEvent]

/-- Else it goes to the region itself. -/
theorem execGranuleFill_unkept (h : FillDue s k g r t) (hk : mfind t.blk.kept r.val = none) {u : State} {r' : Region}
    (hf : fillFrom (afterRequests s g r t) t.op t.tile t.launch.pasid.toNat (viewRegion s t r.val) g = (u, some r')) :
    execGranuleFill t.ot r g s = .next (u.setOpTile t.ot ((u.opTile t.ot).setRegion r.val r')) := by
  rw [← fillFrom_unkept h hk] at hf
  unfold afterRequests at hf
  simp [execGranuleFill, h.waiter, h.empty, wantLines_served h.gone, hk, fillGranule, hf, runEvent]

/-- A fill whose page translates: its sequencer sees the region filled, and goes on as it was. -/
theorem execGranuleFill_fills (h : FillDue s k g r t) {u : State} {r' : Region} (hu : mfind u.threads k = some t)
    (hf : fillFrom (afterRequests s g r t) t.op t.tile t.launch.pasid.toNat (viewRegion s t r.val) g = (u, some r')) :
    ∃ w t', execGranuleFill t.ot r g s = .next w ∧ w.mem = u.mem ∧ mfind w.threads k = some t'
      ∧ (mfind t.blk.kept r.val = none → w.threads = u.threads) ∧ t'.regs = t.regs ∧ t'.v = t.v
      ∧ viewRegion w t' r.val = r' := by
  by_cases hk : mfind t.blk.kept r.val = none
  · exact ⟨_, t, execGranuleFill_unkept h hk hf, rfl, hu, fun _ => rfl, rfl, rfl, by simp [viewRegion_unkept hk]⟩
  · exact ⟨_, _, execGranuleFill_kept h hk hf, rfl, mfind_mput_same .., fun h => absurd h hk, rfl, rfl, by simp [viewRegion]⟩

/-- A fill whose page does not translate ends in "translation fatal". -/
theorem execGranuleFill_fatal (h : FillDue s k g r t) {u : State}
    (hf : translateOp (afterRequests s g r t) t.op t.tile t.launch.pasid.toNat
      ((viewRegion s t r.val).gva.toNat + 4096 * g) false = (u, none)) :
    execGranuleFill t.ot r g s = .next (raiseTrap u k t .translation 0) := by
  have hn := fillFrom_none hf
  by_cases hk : mfind t.blk.kept r.val = none
  · rw [← fillFrom_unkept h hk] at hn
    unfold afterRequests at hn
    simp [execGranuleFill, h.waiter, h.empty, wantLines_served h.gone, hk, fillGranule, hn, runEvent]
  · unfold afterRequests at hn
    simp [execGranuleFill, h.waiter, h.empty, wantLines_served h.gone, Option.isSome_iff_ne_none.mpr hk, hn, runEvent]

end

/-- No request is made of a page that has no leaf (R437). -/
theorem granuleReqs_unmapped {s : State} {otk pasid region g va : Nat} {w : Bool}
    (h : ∀ j < 64, ∀ pte l e, walk s pasid (va + 64 * j) ≠ .leaf pte l e) : granuleReqs s otk pasid region g va w = [] := by
  unfold granuleReqs
  rw [List.filterMap_eq_nil_iff]
  intro i hi
  split
  · exact absurd ‹_› (h i (List.mem_range.mp hi) _ _ _)
  · rfl

theorem FillDue.of_unmapped {s : State} {k g : Nat} {r : Fin 64} {t : Thread} (hw : fillWaiter s t.ot r g = some (k, t))
    (hg : granOf (viewRegion s t r.val) (4096 * g) = some .empty) (hl : t.ltile < 512)
    (h : ∀ j < 64, ∀ pte l e, walk s t.launch.pasid.toNat ((viewRegion s t r.val).gva.toNat + 4096 * g + 64 * j)
      ≠ .leaf pte l e) : FillDue s k g r t :=
  ⟨hw, hg, hl, by simp [granuleReqs_unmapped h]⟩

theorem execGranuleFill_no_waiter {s : State} {otk g : Nat} {r : Fin 64} (h : fillWaiter s otk r g = none) :
    execGranuleFill otk r g s = .next s := by
  simp [execGranuleFill, h]

theorem execGranuleFill_filled {s : State} {k g : Nat} {r : Fin 64} {t : Thread} (h : fillWaiter s t.ot r g = some (k, t))
    (hg : granOf (viewRegion s t r.val) (4096 * g) ≠ some .empty) : execGranuleFill t.ot r g s = .next s := by
  simp [execGranuleFill, h, hg]

/-- A fill with a request still at the port waits on. -/
theorem execGranuleFill_waits {s : State} {k g : Nat} {r : Fin 64} {t : Thread} (h : fillWaiter s t.ot r g = some (k, t))
    (hg : granOf (viewRegion s t r.val) (4096 * g) = some .empty) {q : PortReq}
    (hq : q ∈ granuleReqs s t.ot t.launch.pasid.toNat r.val g ((viewRegion s t r.val).gva.toNat + 4096 * g) false)
    (hs : (s.tile t.tile).served q = false) : ∃ x, execGranuleFill t.ot r g s = .next (s.setTile t.tile x) := by
  obtain ⟨x, hx⟩ := wantLines_waits hq hs
  exact ⟨x, by simp [execGranuleFill, h, hg, hx, runEvent]⟩

theorem granuleFills : Says.GranuleFills := by
  intro s k g r t i old pasid va reqs gone
  refine ⟨execGranuleFill_no_waiter, fun hw hk => ⟨execGranuleFill_filled hw, fun hg => ⟨fun hgone => ?_,
    fun hp hlt hva hu => ⟨fun e hgone hl hr _ ht hwf => ?_, fun hm => ?_, fun a hm => ?_⟩⟩⟩⟩
  · obtain ⟨q, hq, hs⟩ : ∃ q ∈ reqs, (s.tile t.tile).served q = false := by simpa [gone] using hgone
    obtain ⟨x, hx⟩ := execGranuleFill_waits hw hg hq hs
    exact ⟨_, hx, rfl, rfl, rfl⟩
  · have hdue : FillDue s k g r t := ⟨hw, hg, hlt, hgone⟩
    have hro := afterRequests_readsOnly s g r t
    obtain ⟨u, hf, hro'⟩ := fillFrom_hit (op := t.op) (r := old) (g := g) hl hr hva ((hro.pondOf t.op).trans hp) (hro.uol hu)
      (fun j hj => by rw [hro.tlb]; exact ht j hj)
    have hall := hro.trans hro'
    obtain ⟨w, t', hx, hmem, hfind, hkept, hregs, hv, hview⟩ :=
      execGranuleFill_fills hdue (by rw [hall.threads]; exact hk) hf
    rw [hro.bytesAt] at hview
    refine ⟨w, t', hx, hmem.trans hall.mem, hfind, fun h => (hkept h).trans hall.threads, hregs, hv, ?_⟩
    dsimp only
    rw [hview]
    refine ⟨granOf_fillRegion_same _ _ _ _ (by omega), fun j hj => ?_, fun a ha => regionByte_fillRegion_outside hwf (by simp) ha⟩
    rw [regionByte_fillRegion_inside hwf (by simp) hj]
    simp [bytesAt, byteAt, va]
  · have hro := afterRequests_readsOnly s g r t
    have hdue := FillDue.of_unmapped hw hg hlt fun j hj pte l e => by rw [(hm j hj).2]; simp
    refine execGranuleFill_fatal hdue (translateOp_missing ((hro.pondOf t.op).trans hp) ?_ ?_)
    · rw [hro.tlb]
      exact (hm 0 (by decide)).1
    · rw [hro.walk]
      exact (hm 0 (by decide)).2
  · have hro := afterRequests_readsOnly s g r t
    have hdue := FillDue.of_unmapped hw hg hlt fun j hj pte l e => by rw [(hm j hj).2]; simp
    refine execGranuleFill_fatal hdue (translateOp_malformed ((hro.pondOf t.op).trans hp) ?_ ?_)
    · rw [hro.tlb]
      exact (hm 0 (by decide)).1
    · rw [hro.walk]
      exact (hm 0 (by decide)).2

end Sys2Proof.Machine
end

section
/-! PROOFS. The network ports with their allotments (R391 to R393, R437), and O42. -/

namespace Sys2Proof.Machine
open Sys2Proof.Says

/-! ## The buckets of a port (R392) -/

@[simp] theorem Tile.group_setGroup_same (t : Tile) (g : Nat) (x : PortGroup) : (t.setGroup g x).group g = x := by
  simp [Tile.group, Tile.setGroup, mget]

theorem Tile.group_setGroup_ne (t : Tile) (g h : Nat) (x : PortGroup) (hn : h ≠ g) :
    (t.setGroup g x).group h = t.group h := by
  simp [Tile.group, Tile.setGroup, mget, mfind_mput_ne _ _ _ _ hn]

/-- A group's bucket and credit after one refill: 1,024 times its share of thousandths of a token, up to its depth. -/
def refilled (s : State) (g : Nat) (x : PortGroup) : PortGroup :=
  let c := x.cred + 1024 * shareOf s g
  ⟨min (depthOf s g : Int) (x.tok + c / 1000), c % 1000⟩

theorem refillGroup_same (s : State) (t : Tile) (g : Nat) : (refillGroup s t g).group g = refilled s g (t.group g) := by
  unfold refillGroup refilled
  dsimp only
  split
  · rename_i h
    rw [min_eq_left h.le]
    exact Tile.group_setGroup_same ..
  · rename_i h
    rw [min_eq_right (not_lt.mp h)]
    exact Tile.group_setGroup_same ..

theorem refillGroup_ne (s : State) (t : Tile) (g h : Nat) (hn : h ≠ g) : (refillGroup s t g).group h = t.group h := by
  unfold refillGroup
  dsimp only
  split
  · exact Tile.group_setGroup_ne _ _ _ _ hn
  · exact Tile.group_setGroup_ne _ _ _ _ hn

theorem refillGroup_portQ (s : State) (t : Tile) (g : Nat) : (refillGroup s t g).portQ = t.portQ := by
  unfold refillGroup
  dsimp only
  split <;> rfl

theorem refillGroups_portQ (s : State) (gs : List Nat) (t : Tile) : (gs.foldl (refillGroup s) t).portQ = t.portQ :=
  foldl_keeps (fun u : Tile => u.portQ = t.portQ) _ (fun u g h => (refillGroup_portQ s u g).trans h) gs t rfl

theorem refillGroups_notMem (s : State) {g : Nat} {gs : List Nat} (hg : g ∉ gs) (t : Tile) :
    (gs.foldl (refillGroup s) t).group g = t.group g := by
  induction gs generalizing t with
  | nil => rfl
  | cons h gs ih =>
    obtain ⟨hne, hgs⟩ := not_or.mp (fun x => hg (List.mem_cons.mpr x))
    rw [List.foldl_cons, ih hgs, refillGroup_ne _ _ _ _ hne]

/-- Each group of a list without repetition is refilled once. -/
theorem refillGroups_mem (s : State) {g : Nat} {gs : List Nat} (hd : gs.Nodup) (hg : g ∈ gs) (t : Tile) :
    (gs.foldl (refillGroup s) t).group g = refilled s g (t.group g) := by
  induction gs generalizing t with
  | nil => cases hg
  | cons h gs ih =>
    obtain ⟨hh, hd⟩ := List.nodup_cons.mp hd
    rw [List.foldl_cons]
    by_cases hgh : g = h
    · subst hgh
      rw [refillGroups_notMem s hh, refillGroup_same]
    · rw [ih hd ((List.mem_cons.mp hg).resolve_left hgh), refillGroup_ne _ _ _ _ hgh]

theorem nodup_sharers {s : State} (h : mrises s.allot 0 = true) : (sharers s).Nodup := (nodup_keys _ 0 h).filter _

/-- A group with a share has an entry of its own. -/
theorem mem_sharers {s : State} {g : Nat} (hg : g < 128) (hs : shareOf s g ≠ 0) : g ∈ sharers s := by
  have hf : mfind s.allot g ≠ none := fun hn => hs (by simp [shareOf, allotOf, mget, hn, bits])
  obtain ⟨x, hx⟩ := Option.ne_none_iff_exists'.mp hf
  simp only [sharers, List.mem_filter, List.mem_map]
  exact ⟨⟨_, mem_of_mfind hx, rfl⟩, by simp [hg, hs]⟩

/-- A refill of a port at which nothing waits: no group takes from the pool. -/
theorem refillPort_idle {s : State} {t : Tile} (h : t.portQ = []) :
    (refillPort s t).portQ = [] ∧ ∀ g, (refillPort s t).group g = ((sharers s).foldl (refillGroup s) t).group g := by
  have hq := (refillGroups_portQ s (sharers s) t).trans h
  have hw : wanting s ((sharers s).foldl (refillGroup s) t) = [] := by simp [wanting, hq]
  unfold refillPort
  simp only [hw, List.foldl_nil]
  exact ⟨hq, fun _ => rfl⟩

/-- The tile of a port at which nothing waits, after one refill. -/
theorem refillBy_idle {s : State} {tile : Nat} (h : (s.tile tile).portQ = []) :
    ∃ t, refillBy s tile 1 = s.setTile tile t ∧ t.refills = (s.tile tile).refills + 1 ∧ t.portQ = []
      ∧ (mrises s.allot 0 = true → ∀ g < 128, shareOf s g ≠ 0 → t.group g = refilled s g ((s.tile tile).group g)) := by
  refine ⟨_, rfl, rfl, ?_⟩
  dsimp only
  split
  · rename_i hs
    exact ⟨h, fun _ g hg hne => absurd (mem_sharers hg hne) (by simp [of_decide_eq_true ((Bool.and_eq_true _ _).mp hs).1])⟩
  · obtain ⟨hq, hgr⟩ := refillPort_idle (s := s) h
    exact ⟨hq, fun hr g hg hne => (hgr g).trans (refillGroups_mem s (nodup_sharers hr) (mem_sharers hg hne) _)⟩

theorem execAllotRefill_early {s : State} {tile : Nat} (h : portClock s tile / 1024 ≤ (s.tile tile).refills) :
    execAllotRefill tile s = .next s := by
  simp [execAllotRefill, refillsDue, Nat.sub_eq_zero_of_le h]

theorem execAllotRefill_due {s : State} {tile : Nat} (h : (s.tile tile).refills < portClock s tile / 1024) :
    execAllotRefill tile s = .next (refillBy s tile 1) := by
  have hd : refillsDue s tile ≠ 0 := by
    unfold refillsDue
    omega
  simp [execAllotRefill, hd, runEvent]

/-! ## The group a port serves next (R393) -/

/-- The order in which a port asks its groups. -/
def serveOrder (last : Nat) : List Nat := (List.range 128).map fun i => (last + 1 + i) % 128

/-- Whether a group has a request that may leave. -/
def mayServe (t : Tile) (g : Nat) : Bool := t.portQ.any (·.group = g) && decide (0 < (t.group g).tok)

theorem nextGroup_eq (t : Tile) : nextGroup t = (serveOrder t.lastGroup).find? (mayServe t) := rfl

/-- The one element that passes a test is the one found. -/
theorem find?_unique {α : Type} {l : List α} {p : α → Bool} {a : α} (ha : a ∈ l) (hp : p a = true)
    (h : ∀ x ∈ l, p x = true → x = a) : l.find? p = some a := by
  obtain ⟨x, hx⟩ := Option.isSome_iff_exists.mp (List.find?_isSome.mpr ⟨a, ha, hp⟩)
  rw [hx, h x (List.mem_of_find?_eq_some hx) (List.find?_some hx)]

theorem mem_serveOrder {g : Nat} (hg : g < 128) (last : Nat) : g ∈ serveOrder last :=
  List.mem_map.mpr ⟨(g + 127 + 127 * last) % 128, List.mem_range.mpr (Nat.mod_lt _ (by decide)), by omega⟩

/-- Of the groups that wait, one that alone may be served is. -/
theorem nextGroup_unique {t : Tile} {g : Nat} (hg : g < 128) (hp : mayServe t g = true)
    (h : ∀ x, mayServe t x = true → x = g) : nextGroup t = some g :=
  find?_unique (mem_serveOrder hg _) hp fun x _ => h x

/-- The group served last comes after every other. -/
theorem nextGroup_other {t : Tile} {g : Nat} (hg : g < 128) (hl : t.lastGroup < 128) (hne : g ≠ t.lastGroup)
    (hp : mayServe t g = true) (h : ∀ x, mayServe t x = true → x = g ∨ x = t.lastGroup) : nextGroup t = some g := by
  have hsplit : serveOrder t.lastGroup
      = ((List.range 127).map fun i => (t.lastGroup + 1 + i) % 128) ++ [(t.lastGroup + 1 + 127) % 128] := by
    rw [serveOrder, List.range_succ, List.map_append]
    rfl
  have hfind : ((List.range 127).map fun i => (t.lastGroup + 1 + i) % 128).find? (mayServe t) = some g := by
    refine find?_unique (List.mem_map.mpr ⟨(g + 127 - t.lastGroup) % 128, List.mem_range.mpr (by omega), by omega⟩) hp ?_
    intro x hx hs
    obtain ⟨i, hi, rfl⟩ := List.mem_map.mp hx
    have := List.mem_range.mp hi
    exact (h _ hs).resolve_right (by omega)
  rw [nextGroup_eq, hsplit, List.find?_append, hfind]
  rfl

theorem nextGroup_none {t : Tile} (h : ∀ r ∈ t.portQ, (t.group r.group).tok ≤ 0) : nextGroup t = none := by
  rw [nextGroup_eq, List.find?_eq_none]
  intro g _ hs
  obtain ⟨hq, ht⟩ := (Bool.and_eq_true _ _).mp hs
  obtain ⟨r, hr, he⟩ := List.any_eq_true.mp hq
  have := h r hr
  rw [of_decide_eq_true he] at this
  exact absurd (of_decide_eq_true ht) (by omega)

theorem mayServe_iff (t : Tile) (g : Nat) : mayServe t g = true ↔ (∃ r ∈ t.portQ, r.group = g) ∧ 0 < (t.group g).tok := by
  simp [mayServe]

/-! ## A request leaves (R391, R393, R437) -/

theorem execPortSend_none {s : State} {tile : Nat} (h : nextGroup (s.tile tile) = none) : execPortSend tile s = .next s := by
  simp [execPortSend, h]

theorem execPortSend_early {s : State} {tile : Nat} (h : portClock s tile < (s.tile tile).sentAt) :
    execPortSend tile s = .next s := by
  unfold execPortSend
  dsimp only
  split
  · rfl
  · split
    · rw [if_pos h]
    · rfl

theorem execPortSend_sends {s : State} {tile g : Nat} {r : PortReq} (hg : nextGroup (s.tile tile) = some g)
    (hr : (s.tile tile).portQ.find? (·.group = g) = some r) (h : (s.tile tile).sentAt ≤ portClock s tile) :
    execPortSend tile s = .next (sendLine s tile r) := by
  simp [execPortSend, hg, hr, Nat.not_lt.mpr h, runEvent]

/-- A tile whose port has sent a request, with those that leave with it, at a clock of its own. -/
def Tile.afterSend (t : Tile) (r : PortReq) (clock : Nat) : Tile :=
  let leaves (q : PortReq) : Bool := q = r || r.joins q
  { t.setGroup r.group { t.group r.group with tok := (t.group r.group).tok - 1 } with
    portQ := t.portQ.filter (!leaves ·), sent := t.sent ++ t.portQ.filter leaves, lastGroup := r.group
    sentAt := clock + 1 }

theorem sendLine_eq (s : State) (tile : Nat) (r : PortReq) :
    sendLine s tile r =
      let u := s.setTile tile ((s.tile tile).afterSend r (portClock s tile))
      if r.fetch then (physRead u tile (64 * r.line) 64 true).1 else u := rfl

theorem sendLine_noFetch {s : State} {tile : Nat} {r : PortReq} (h : r.fetch = false) :
    sendLine s tile r = s.setTile tile ((s.tile tile).afterSend r (portClock s tile)) := by
  simp [sendLine_eq, h]

/-- What any send leaves: the tile after the send but for its L1, and the bytes of memory as they were. -/
theorem sendLine_keeps {s : State} (hu : ∀ e ∈ s.tiles, e.2.uol = []) (tile : Nat) (r : PortReq) :
    (sendLine s tile r).mem = s.mem ∧ (∀ b, homeByte (sendLine s tile r) b = homeByte s b)
      ∧ ∃ l1, (sendLine s tile r).tile tile = { (s.tile tile).afterSend r (portClock s tile) with l1 := l1 }
        ∧ (r.fetch = true → r.line ∈ l1) := by
  cases hf : r.fetch with
  | false =>
    rw [sendLine_noFetch hf]
    exact ⟨rfl, fun _ => rfl, _, tile_setTile_same .., by simp⟩
  | true =>
    let u := s.setTile tile ((s.tile tile).afterSend r (portClock s tile))
    have huu : ∀ e ∈ u.tiles, mfind e.2.uol (lineOf (64 * r.line)) = none := fun e he => by
      have hx : ∀ e ∈ u.tiles, e.2.uol = [] := uol_setTile hu rfl
      rw [hx e he]
      rfl
    have hs : sendLine s tile r = (physRead u tile (64 * r.line) 64 true).1 := by simp [sendLine_eq, hf, u]
    have hro := physRead_readsOnly huu tile 64 true
    rw [hs]
    refine ⟨hro.mem, fun b => hro.home b, ?_⟩
    obtain ⟨l, -, hl, -⟩ := physRead_cached huu tile 64
    obtain ⟨l1, hm, ht⟩ := intoL1_tile { u with l2 := mput u.l2 (lineOf (64 * r.line)) l } tile (lineOf (64 * r.line))
    have hline : lineOf (64 * r.line) = r.line := by simp [lineOf]
    have htile : State.tile { u with l2 := mput u.l2 (lineOf (64 * r.line)) l } tile
        = (s.tile tile).afterSend r (portClock s tile) := tile_setTile_same ..
    exact ⟨l1, by rw [hl, ht, htile], fun _ => hline ▸ hm⟩

theorem Tile.afterSend_group_same (t : Tile) (r : PortReq) (clock : Nat) :
    (t.afterSend r clock).group r.group = { t.group r.group with tok := (t.group r.group).tok - 1 } :=
  Tile.group_setGroup_same ..

theorem Tile.afterSend_group_ne (t : Tile) (r : PortReq) (clock h : Nat) (hn : h ≠ r.group) :
    (t.afterSend r clock).group h = t.group h :=
  Tile.group_setGroup_ne _ _ _ _ hn

theorem Tile.afterSend_single {t : Tile} {r : PortReq} (h : t.portQ = [r]) (clock : Nat) :
    (t.afterSend r clock).portQ = [] ∧ (t.afterSend r clock).sent = t.sent ++ [r] := by
  simp [Tile.afterSend, h]

/-- A request that is no fetch leaves alone. -/
theorem Tile.afterSend_noFetch {t : Tile} {r : PortReq} (hf : r.fetch = false) (clock : Nat) :
    (t.afterSend r clock).portQ = t.portQ.filter (fun q => !decide (q = r))
      ∧ (t.afterSend r clock).sent = t.sent ++ t.portQ.filter (fun q => decide (q = r)) := by
  simp [Tile.afterSend, PortReq.joins, hf]

/-! ## What a port sends -/

/-- One request at the port. -/
theorem portSend_single {s : State} {tile : Nat} {r : PortReq} (hq : (s.tile tile).portQ = [r]) (hg : r.group < 128) :
    ((((s.tile tile).group r.group).tok ≤ 0 ∨ portClock s tile < (s.tile tile).sentAt) → execPortSend tile s = .next s)
    ∧ (0 < ((s.tile tile).group r.group).tok → (s.tile tile).sentAt ≤ portClock s tile →
      execPortSend tile s = .next (sendLine s tile r)) := by
  refine ⟨fun h => ?_, fun ht hc => ?_⟩
  · rcases h with h | h
    · exact execPortSend_none (nextGroup_none (by simpa [hq] using h))
    · exact execPortSend_early h
  · refine execPortSend_sends (nextGroup_unique hg ((mayServe_iff ..).mpr ⟨⟨r, by simp [hq], rfl⟩, ht⟩) fun x hx => ?_)
      (by simp [hq]) hc
    obtain ⟨⟨q, hm, rfl⟩, -⟩ := (mayServe_iff ..).mp hx
    simp only [hq, List.mem_singleton] at hm
    rw [hm]

/-- A request that is no fetch, the first of the group to be served. -/
theorem portSend_noFetch {s : State} {tile g : Nat} {r : PortReq} (hg : nextGroup (s.tile tile) = some g)
    (hr : (s.tile tile).portQ.find? (·.group = g) = some r) (hf : r.fetch = false)
    (hc : (s.tile tile).sentAt ≤ portClock s tile) :
    ∃ u, execPortSend tile s = .next u ∧ u.mem = s.mem ∧ u.tile tile = (s.tile tile).afterSend r (portClock s tile) := by
  refine ⟨_, execPortSend_sends hg hr hc, ?_⟩
  rw [sendLine_noFetch hf]
  exact ⟨rfl, tile_setTile_same ..⟩

theorem portsAndAllotments : Says.PortsAndAllotments := by
  intro s tile t clock sends
  refine ⟨fun r hs hq => ?_, execAllotRefill_early, fun hd hq hr => ?_, fun r hq hg => ?_,
    fun q r hq hqf hrf hne hqg hrg hqt hrt hc => ⟨fun hsame => ?_, fun hlast hother => ?_⟩⟩
  · rw [wantLines_single hs hq]
    refine ⟨rfl, fun h => ?_, fun h => ?_⟩
    · simp [h, t]
    · simp [Nat.not_lt.mpr h, t]
  · obtain ⟨x, hx, hrefills, hportQ, hgroup⟩ := refillBy_idle hq
    refine ⟨_, (execAllotRefill_due hd).trans (congrArg _ hx), rfl, rfl, ?_⟩
    rw [tile_setTile_same]
    exact ⟨hrefills, hportQ, hgroup hr⟩
  · obtain ⟨hstay, hsend⟩ := portSend_single hq hg
    refine ⟨hstay, fun ht hc hu => ?_⟩
    obtain ⟨hmem, hhome, l1, htile, hl1⟩ := sendLine_keeps hu tile r
    refine ⟨_, hsend ht hc, hmem, ?_⟩
    have hgr : ∀ h, (State.tile (sendLine s tile r) tile).group h = (t.afterSend r clock).group h := fun h => by
      rw [htile]
      rfl
    obtain ⟨hleft, hsent⟩ := Tile.afterSend_single hq clock
    refine ⟨?_, ?_, ?_, fun h hn => ?_, ?_, fun hf => ?_, fun hf => ⟨?_, hhome⟩⟩
    · rw [htile]
      exact hleft
    · rw [htile]
      rfl
    · rw [hgr, Tile.afterSend_group_same]
    · rw [hgr, Tile.afterSend_group_ne _ _ _ _ hn]
    · rw [htile]
      exact hsent
    · rw [sendLine_noFetch hf]
      rfl
    · rw [htile]
      exact hl1 hf
  · have hnext : nextGroup t = some q.group := by
      refine nextGroup_unique hqg ((mayServe_iff ..).mpr ⟨⟨q, by simp [hq], rfl⟩, hqt⟩) fun x hx => ?_
      obtain ⟨⟨y, hy, rfl⟩, -⟩ := (mayServe_iff ..).mp hx
      rcases (by simpa [hq] using hy : y = q ∨ y = r) with rfl | rfl
      · rfl
      · exact hsame.symm
    have hfind : t.portQ.find? (·.group = q.group) = some q := by simp [hq]
    obtain ⟨u, hu, hmem, htile⟩ := portSend_noFetch hnext hfind hqf hc
    obtain ⟨hleft, hsent⟩ := Tile.afterSend_noFetch (t := t) hqf clock
    refine ⟨u, hu, hmem, ?_, ?_⟩
    · rw [htile]
      exact hleft.trans (by simp [hq, hne.symm])
    · rw [htile]
      exact hsent.trans (by simp [hq, hne.symm])
  · have hnext : nextGroup t = some r.group := by
      refine nextGroup_other hrg (hlast ▸ hqg) (hlast ▸ hother) ((mayServe_iff ..).mpr ⟨⟨r, by simp [hq], rfl⟩, hrt⟩)
        fun x hx => ?_
      obtain ⟨⟨y, hy, rfl⟩, -⟩ := (mayServe_iff ..).mp hx
      rcases (by simpa [hq] using hy : y = q ∨ y = r) with rfl | rfl
      · exact .inr hlast
      · exact .inl rfl
    have hfind : t.portQ.find? (·.group = r.group) = some r := by simp [hq, Ne.symm hother]
    obtain ⟨u, hu, hmem, htile⟩ := portSend_noFetch hnext hfind hrf hc
    obtain ⟨hleft, hsent⟩ := Tile.afterSend_noFetch (t := t) hrf clock
    refine ⟨u, hu, hmem, ?_, ?_, ?_⟩
    · rw [htile]
      exact hleft.trans (by simp [hq, hne])
    · rw [htile]
      exact hsent.trans (by simp [hq, hne])
    · rw [htile]
      rfl

/-- Settles O42: a fill that is due reads its granule line by line, and no read changes a byte of memory; a port's refill
and send are given by the one group each of them acts on. -/
theorem fillsAndPorts : Obligations.FillsAndPorts := ⟨granuleFills, portsAndAllotments⟩

end Sys2Proof.Machine
end

section
/-! SUPPORT. Every operand field of the encoder fits its place, and its decoder reads it back (R19 to R32). -/

namespace Sys2Proof

/-! ## Operand fields (R19 to R25, R28, R32) -/

@[simp] theorem finOf_val {n : Nat} (x : Fin n) : finOf n x.val = some x := by simp [finOf]

@[simp] theorem sOf_val (x : Fin 64) : sOf x.val = some x := finOf_val x

/-! A bound that a field's value meets meets every wider one: so stated, the bounds serve as rewriting rules. -/

theorem finVal_lt {n m : Nat} (x : Fin n) (h : n ≤ m) : x.val < m := x.isLt.trans_le h

theorem bvToNat_lt {n m : Nat} (x : BitVec n) (h : 2 ^ n ≤ m) : x.toNat < m := x.isLt.trans_le h

theorem ofBool_lt {m : Nat} (b : Bool) (h : 2 ≤ m) : ofBool b < m := by
  cases b with
  | false => exact Nat.zero_lt_of_lt h
  | true => exact h

@[simp] theorem ofBool_eq_one (b : Bool) : (ofBool b = 1) = (b = true) := by cases b <;> decide

theorem pairTo_lt {m : Nat} (p : Fin 32) (h : 64 ≤ m) : pairTo p < m := by
  unfold pairTo
  omega

@[simp] theorem pairOf_pairTo (p : Fin 32) : pairOf (pairTo p) = some p := by simp [pairOf, pairTo]

theorem dstTo_lt {m : Nat} (d : Option (Fin 64)) (h : 64 ≤ m) : dstTo d < m := by
  cases d with
  | none => exact Nat.lt_of_lt_of_le (by decide) h
  | some d => exact finVal_lt d h

@[simp] theorem dstOf_dstTo (d : Option (Fin 64)) : dstOf (ofBool d.isNone) (dstTo d) = some d := by
  cases d with
  | none => rfl
  | some d => simp [dstOf, dstTo, ofBool]

theorem sSrcTo_lt {m : Nat} (a : SSrc) (h : 130 ≤ m) : sSrcTo a < m := by
  cases a <;> simp only [sSrcTo] <;> omega

@[simp] theorem sSrcOf_sSrcTo (a : SSrc) : sSrcOf (sSrcTo a) = some a := by
  cases a with
  | reg n => simp [sSrcOf, sSrcTo, show n.val < 128 by omega]
  | lat b => simp [sSrcOf, sSrcTo]

theorem vSrcTo_lt {m : Nat} (a : VSrc) (h : 136 ≤ m) : vSrcTo a < m := by
  cases a <;> simp only [vSrcTo] <;> omega

@[simp] theorem vSrcOf_vSrcTo (a : VSrc) : vSrcOf (vSrcTo a) = some a := by
  cases a with
  | reg n => simp [vSrcOf, vSrcTo]
  | port w => simp [vSrcOf, vSrcTo, show 96 + w.val < 128 by omega]
  | lat b => simp [vSrcOf, vSrcTo, show ¬ 130 + b.val < 96 by omega, show ¬ 130 + b.val < 128 by omega]

theorem vDstTo_lt {m : Nat} (d : VDst) (h : 102 ≤ m) : vDstTo d < m := by
  cases d <;> simp only [vDstTo] <;> omega

@[simp] theorem vDstOf_vDstTo (d : VDst) : vDstOf (vDstTo d) = some d := by
  cases d with
  | reg n => simp [vDstOf, vDstTo]
  | port w => simp [vDstOf, vDstTo, show ¬ 100 + w.val < 96 by omega]

theorem baseTo_lt {m : Nat} (b : Base) (h : 96 ≤ m) : baseTo b < m := by
  cases b <;> simp only [baseTo] <;> omega

@[simp] theorem baseOf_baseTo (b : Base) : baseOf (baseTo b) = some b := by
  cases b with
  | pair p => simpa [baseOf, baseTo, show 2 * p.val < 64 by omega, pairTo] using pairOf_pairTo p
  | handle h => simp [baseOf, baseTo]

theorem mSrcTo_lt {m : Nat} (a : MSrc) (h : 100 ≤ m) : mSrcTo a < m := by
  cases a <;> simp only [mSrcTo] <;> omega

@[simp] theorem mSrcOf_mSrcTo (a : MSrc) : mSrcOf (mSrcTo a) = some a := by
  cases a with
  | handle h => simp [mSrcOf, mSrcTo, show h.val < 96 by omega]
  | port w => simp [mSrcOf, mSrcTo]

theorem tyTo_lt {m : Nat} (t : Ty) (h : 16 ≤ m) : tyTo t < m :=
  Nat.lt_of_lt_of_le (m := 16) (by cases t <;> decide) h
@[simp] theorem tyOf_tyTo (t : Ty) : tyOf (tyTo t) = some t := by cases t <;> rfl

theorem rndTo_lt {m : Nat} (r : Rnd) (h : 8 ≤ m) : rndTo r < m :=
  Nat.lt_of_lt_of_le (m := 8) (by cases r <;> decide) h
@[simp] theorem rndOf_rndTo (r : Rnd) : rndOf (rndTo r) = some r := by cases r <;> rfl

theorem ccTo_lt {m : Nat} (c : Cc) (h : 6 ≤ m) : ccTo c < m :=
  Nat.lt_of_lt_of_le (m := 6) (by cases c <;> decide) h
@[simp] theorem ccOf_ccTo (c : Cc) : ccOf (ccTo c) = some c := by cases c <;> rfl

theorem scopeTo_lt {m : Nat} (s : Scope) (h : 6 ≤ m) : scopeTo s < m :=
  Nat.lt_of_lt_of_le (m := 6) (by cases s <;> decide) h
@[simp] theorem scopeOf_scopeTo (s : Scope) : scopeOf (scopeTo s) = some s := by cases s <;> rfl

/-! ## Formats (R27 to R32): where the fields fit, a word gives them back -/

/-- A number's digit above `m`, and what is left above it. -/
theorem next_digit {w x q m n : Nat} (hw : w / m = x % n + n * q) (hx : x < n) (k : Nat) (hk : m * n = k) :
    w / m % n = x ∧ w / k = q := by
  have hn : 0 < n := by omega
  rw [← hk, ← Nat.div_div_eq_div_mul, hw, Nat.add_mul_mod_self_left, Nat.add_mul_div_left _ _ hn, Nat.mod_mod,
    Nat.mod_eq_of_lt hx, Nat.div_eq_of_lt hx, Nat.zero_add]
  exact ⟨rfl, rfl⟩

/-- Each field of format T fits its place (R27). -/
structure FT.Fits (f : FT) : Prop where
  key : f.key < 4096
  nw : f.nw < 2
  dst : f.dst < 128
  a : f.a < 256
  b : f.b < 256
  c : f.c < 256
  ty : f.ty < 16
  msk : f.msk < 16
  sat : f.sat < 2
  rnd : f.rnd < 8
  mod : f.mod < 256

theorem FT.of_word {f : FT} (h : f.Fits) : FT.of f.word = f ∧ wordKey f.word = f.key := by
  obtain ⟨hmod, rmod⟩ := next_digit (w := f.word) (Nat.div_one _) h.mod (2 ^ 8) rfl
  obtain ⟨hrnd, rrnd⟩ := next_digit rmod h.rnd (2 ^ 11) rfl
  obtain ⟨hsat, rsat⟩ := next_digit rrnd h.sat (2 ^ 12) rfl
  obtain ⟨hmsk, rmsk⟩ := next_digit rsat h.msk (2 ^ 16) rfl
  obtain ⟨hty, rty⟩ := next_digit rmsk h.ty (2 ^ 20) rfl
  obtain ⟨hc, rc⟩ := next_digit rty h.c (2 ^ 28) rfl
  obtain ⟨hb, rb⟩ := next_digit rc h.b (2 ^ 36) rfl
  obtain ⟨ha, ra⟩ := next_digit rb h.a (2 ^ 44) rfl
  obtain ⟨hdst, rdst⟩ := next_digit ra h.dst (2 ^ 51) rfl
  obtain ⟨hnw, rnw⟩ := next_digit rdst h.nw (2 ^ 52) rfl
  rw [Nat.mod_eq_of_lt h.key] at rnw
  rw [Nat.div_one] at hmod
  refine ⟨?_, rnw⟩
  simp only [FT.of, hmod, hrnd, hsat, hmsk, hty, hc, hb, ha, hdst, hnw, rnw, Nat.mod_eq_of_lt h.key]

/-- Each field of format I fits its place (R28). -/
structure FI.Fits (f : FI) : Prop where
  key : f.key < 4096
  nw : f.nw < 2
  dst : f.dst < 128
  a : f.a < 256
  size : f.size < 2
  col : f.col < 8
  b : f.b < 256
  imm : f.imm < 16777216

theorem FI.of_word {f : FI} (h : f.Fits) : FI.of f.word = f ∧ wordKey f.word = f.key := by
  obtain ⟨himm, rimm⟩ := next_digit (w := f.word) (Nat.div_one _) h.imm (2 ^ 24) rfl
  obtain ⟨hb, rb⟩ := next_digit rimm h.b (2 ^ 32) rfl
  obtain ⟨hcol, rcol⟩ := next_digit rb h.col (2 ^ 35) rfl
  obtain ⟨hsize, rsize⟩ := next_digit rcol h.size (2 ^ 36) rfl
  obtain ⟨ha, ra⟩ := next_digit rsize h.a (2 ^ 44) rfl
  obtain ⟨hdst, rdst⟩ := next_digit ra h.dst (2 ^ 51) rfl
  obtain ⟨hnw, rnw⟩ := next_digit rdst h.nw (2 ^ 52) rfl
  rw [Nat.mod_eq_of_lt h.key] at rnw
  rw [Nat.div_one] at himm
  refine ⟨?_, rnw⟩
  simp only [FI.of, himm, hb, hcol, hsize, ha, hdst, hnw, rnw, Nat.mod_eq_of_lt h.key]

/-- Each field of format K fits its place (R29). -/
structure FK.Fits (f : FK) : Prop where
  key : f.key < 4096
  nw : f.nw < 2
  dst : f.dst < 128
  a : f.a < 256
  sel : f.sel < 16
  imm : f.imm < 4294967296

theorem FK.of_word {f : FK} (h : f.Fits) : FK.of f.word = f ∧ wordKey f.word = f.key := by
  obtain ⟨himm, rimm⟩ := next_digit (w := f.word) (Nat.div_one _) h.imm (2 ^ 32) rfl
  obtain ⟨hsel, rsel⟩ := next_digit rimm h.sel (2 ^ 36) rfl
  obtain ⟨ha, ra⟩ := next_digit rsel h.a (2 ^ 44) rfl
  obtain ⟨hdst, rdst⟩ := next_digit ra h.dst (2 ^ 51) rfl
  obtain ⟨hnw, rnw⟩ := next_digit rdst h.nw (2 ^ 52) rfl
  rw [Nat.mod_eq_of_lt h.key] at rnw
  rw [Nat.div_one] at himm
  refine ⟨?_, rnw⟩
  simp only [FK.of, himm, hsel, ha, hdst, hnw, rnw, Nat.mod_eq_of_lt h.key]

/-- Each field of format B fits its place (R30). -/
structure FB.Fits (f : FB) : Prop where
  key : f.key < 4096
  tsel : f.tsel < 4
  csel : f.csel < 4
  inv : f.inv < 2
  res2 : f.res2 < 8
  a : f.a < 256
  res1 : f.res1 < 16
  imm : f.imm < 4294967296

theorem FB.of_word {f : FB} (h : f.Fits) : FB.of f.word = f ∧ wordKey f.word = f.key := by
  obtain ⟨himm, rimm⟩ := next_digit (w := f.word) (Nat.div_one _) h.imm (2 ^ 32) rfl
  obtain ⟨hres1, rres1⟩ := next_digit rimm h.res1 (2 ^ 36) rfl
  obtain ⟨ha, ra⟩ := next_digit rres1 h.a (2 ^ 44) rfl
  obtain ⟨hres2, rres2⟩ := next_digit ra h.res2 (2 ^ 47) rfl
  obtain ⟨hinv, rinv⟩ := next_digit rres2 h.inv (2 ^ 48) rfl
  obtain ⟨hcsel, rcsel⟩ := next_digit rinv h.csel (2 ^ 50) rfl
  obtain ⟨htsel, rtsel⟩ := next_digit rcsel h.tsel (2 ^ 52) rfl
  rw [Nat.mod_eq_of_lt h.key] at rtsel
  rw [Nat.div_one] at himm
  refine ⟨?_, rtsel⟩
  simp only [FB.of, himm, hres1, ha, hres2, hinv, hcsel, htsel, rtsel, Nat.mod_eq_of_lt h.key]

/-- Each field of format D fits its place (R31). -/
structure FD.Fits (f : FD) : Prop where
  key : f.key < 4096
  nw : f.nw < 2
  dst : f.dst < 128
  a : f.a < 256
  b : f.b < 256
  c : f.c < 256
  d : f.d < 256
  eng : f.eng < 16
  stamp : f.stamp < 2
  mod : f.mod < 128

theorem FD.of_word {f : FD} (h : f.Fits) : FD.of f.word = f ∧ wordKey f.word = f.key := by
  obtain ⟨hmod, rmod⟩ := next_digit (w := f.word) (Nat.div_one _) h.mod (2 ^ 7) rfl
  obtain ⟨hstamp, rstamp⟩ := next_digit rmod h.stamp (2 ^ 8) rfl
  obtain ⟨heng, reng⟩ := next_digit rstamp h.eng (2 ^ 12) rfl
  obtain ⟨hd, rd⟩ := next_digit reng h.d (2 ^ 20) rfl
  obtain ⟨hc, rc⟩ := next_digit rd h.c (2 ^ 28) rfl
  obtain ⟨hb, rb⟩ := next_digit rc h.b (2 ^ 36) rfl
  obtain ⟨ha, ra⟩ := next_digit rb h.a (2 ^ 44) rfl
  obtain ⟨hdst, rdst⟩ := next_digit ra h.dst (2 ^ 51) rfl
  obtain ⟨hnw, rnw⟩ := next_digit rdst h.nw (2 ^ 52) rfl
  rw [Nat.mod_eq_of_lt h.key] at rnw
  rw [Nat.div_one] at hmod
  refine ⟨?_, rnw⟩
  simp only [FD.of, hmod, hstamp, heng, hd, hc, hb, ha, hdst, hnw, rnw, Nat.mod_eq_of_lt h.key]

/-- Each field of format M fits its place (R32). -/
structure FM.Fits (f : FM) : Prop where
  key : f.key < 4096
  accD : f.accD < 4
  accS : f.accS < 4
  a : f.a < 256
  b : f.b < 256
  tyA : f.tyA < 16
  tyB : f.tyB < 16
  sc : f.sc < 16
  bsz : f.bsz < 4
  sat : f.sat < 2
  acc : f.acc < 2
  mod : f.mod < 65536

theorem FM.of_word {f : FM} (h : f.Fits) : FM.of f.word = f ∧ wordKey f.word = f.key := by
  obtain ⟨hmod, rmod⟩ := next_digit (w := f.word) (Nat.div_one _) h.mod (2 ^ 16) rfl
  obtain ⟨hacc, racc⟩ := next_digit rmod h.acc (2 ^ 17) rfl
  obtain ⟨hsat, rsat⟩ := next_digit racc h.sat (2 ^ 18) rfl
  obtain ⟨hbsz, rbsz⟩ := next_digit rsat h.bsz (2 ^ 20) rfl
  obtain ⟨hsc, rsc⟩ := next_digit rbsz h.sc (2 ^ 24) rfl
  obtain ⟨htyB, rtyB⟩ := next_digit rsc h.tyB (2 ^ 28) rfl
  obtain ⟨htyA, rtyA⟩ := next_digit rtyB h.tyA (2 ^ 32) rfl
  obtain ⟨hb, rb⟩ := next_digit rtyA h.b (2 ^ 40) rfl
  obtain ⟨ha, ra⟩ := next_digit rb h.a (2 ^ 48) rfl
  obtain ⟨haccS, raccS⟩ := next_digit ra h.accS (2 ^ 50) rfl
  obtain ⟨haccD, raccD⟩ := next_digit raccS h.accD (2 ^ 52) rfl
  rw [Nat.mod_eq_of_lt h.key] at raccD
  rw [Nat.div_one] at hmod
  refine ⟨?_, raccD⟩
  simp only [FM.of, hmod, hacc, hsat, hbsz, hsc, htyB, htyA, hb, ha, haccS, haccD, raccD, Nat.mod_eq_of_lt h.key]

end Sys2Proof
end

section
/-! SUPPORT. The opcode map read from an encoded word: its class and opcode name the decoder, and its fields fit (R18, R50 to
R56). -/

namespace Sys2Proof

/-! ## The opcode map (R50 to R55) -/

/-- Class and opcode of an operation's fields. -/
def Enc.key : Enc → Nat
  | .T f => f.key
  | .I f => f.key
  | .K f => f.key
  | .B f => f.key
  | .D f => f.key
  | .M f => f.key

/-- Each field fits its place. -/
def Enc.Fits : Enc → Prop
  | .T f => f.Fits
  | .I f => f.Fits
  | .K f => f.Fits
  | .B f => f.Fits
  | .D f => f.Fits
  | .M f => f.Fits

theorem Enc.wordKey_word {e : Enc} (h : e.Fits) : wordKey e.word = e.key := by
  cases e with
  | T f => exact (FT.of_word h).2
  | I f => exact (FI.of_word h).2
  | K f => exact (FK.of_word h).2
  | B f => exact (FB.of_word h).2
  | D f => exact (FD.of_word h).2
  | M f => exact (FM.of_word h).2

theorem wordKey_div (w : Nat) : wordKey w / 256 = w / 2 ^ 60 := Nat.div_div_eq_div_mul ..

/-- From class 3 on, the class alone gives the format. -/
theorem decodeRaw_of_class {w : Nat} (h : 3 ≤ w / 2 ^ 60) :
    decodeRaw w = if w / 2 ^ 60 = 3 then decD3 (FD.of w) else if w / 2 ^ 60 = 4 then decT4 (FT.of w)
      else if w / 2 ^ 60 = 5 then decM5 (FM.of w) else none := by
  have hk : 0x300 ≤ wordKey w := by
    rw [← wordKey_div] at h
    omega
  unfold decodeRaw
  split
  case h_105 => rfl
  all_goals omega

theorem decodeRaw_T0 {f : FT} {i : Instr} (hf : f.Fits) (h : decT0 f = some i) : decodeRaw f.word = some i := by
  obtain ⟨hw, hk⟩ := FT.of_word hf
  rw [← h]
  unfold decT0 at h
  split at h <;> (rename_i hl; try cases h) <;> simp only [decodeRaw, hw, hk, hl]

theorem decodeRaw_T1 {f : FT} {i : Instr} (hf : f.Fits) (h : decT1 f = some i) : decodeRaw f.word = some i := by
  obtain ⟨hw, hk⟩ := FT.of_word hf
  rw [← h]
  unfold decT1 at h
  split at h <;> (rename_i hl; try cases h) <;> simp only [decodeRaw, hw, hk, hl]

theorem decodeRaw_T2 {f : FT} {i : Instr} (hf : f.Fits) (h : decT2 f = some i) : decodeRaw f.word = some i := by
  obtain ⟨hw, hk⟩ := FT.of_word hf
  rw [← h]
  unfold decT2 at h
  split at h <;> (rename_i hl; try cases h) <;> simp only [decodeRaw, hw, hk, hl]

theorem decodeRaw_I2 {f : FI} {i : Instr} (hf : f.Fits) (h : decI2 f = some i) : decodeRaw f.word = some i := by
  obtain ⟨hw, hk⟩ := FI.of_word hf
  rw [← h]
  unfold decI2 at h
  split at h <;> (rename_i hl; try cases h) <;> simp only [decodeRaw, hw, hk, hl]

theorem decodeRaw_K0 {f : FK} {i : Instr} (hf : f.Fits) (h : decK0 f = some i) : decodeRaw f.word = some i := by
  obtain ⟨hw, hk⟩ := FK.of_word hf
  rw [← h]
  unfold decK0 at h
  split at h <;> (rename_i hl; try cases h) <;> simp only [decodeRaw, hw, hk, hl]

theorem decodeRaw_K1 {f : FK} {i : Instr} (hf : f.Fits) (h : decK1 f = some i) : decodeRaw f.word = some i := by
  obtain ⟨hw, hk⟩ := FK.of_word hf
  rw [← h]
  unfold decK1 at h
  split at h <;> (rename_i hl; try cases h) <;> simp only [decodeRaw, hw, hk, hl]

theorem decodeRaw_K2 {f : FK} {i : Instr} (hf : f.Fits) (h : decK2 f = some i) : decodeRaw f.word = some i := by
  obtain ⟨hw, hk⟩ := FK.of_word hf
  rw [← h]
  unfold decK2 at h
  split at h <;> (rename_i hl; try cases h) <;> simp only [decodeRaw, hw, hk, hl]

theorem decodeRaw_B0 {f : FB} {i : Instr} (hf : f.Fits) (h : decB0 f = some i) : decodeRaw f.word = some i := by
  obtain ⟨hw, hk⟩ := FB.of_word hf
  rw [← h]
  unfold decB0 at h
  split at h <;> (rename_i hl; try cases h) <;> simp only [decodeRaw, hw, hk, hl]

theorem decodeRaw_T4 {f : FT} (hf : f.Fits) (hc : f.key / 256 = 4) : decodeRaw f.word = decT4 f := by
  obtain ⟨hw, hk⟩ := FT.of_word hf
  rw [← hk, wordKey_div] at hc
  rw [decodeRaw_of_class (by omega), if_neg (by omega), if_pos hc, hw]

theorem decodeRaw_D3 {f : FD} (hf : f.Fits) (hc : f.key / 256 = 3) : decodeRaw f.word = decD3 f := by
  obtain ⟨hw, hk⟩ := FD.of_word hf
  rw [← hk, wordKey_div] at hc
  rw [decodeRaw_of_class (by omega), if_pos hc, hw]

theorem decodeRaw_M5 {f : FM} (hf : f.Fits) (hc : f.key / 256 = 5) : decodeRaw f.word = decM5 f := by
  obtain ⟨hw, hk⟩ := FM.of_word hf
  rw [← hk, wordKey_div] at hc
  rw [decodeRaw_of_class (by omega), if_neg (by omega), if_neg (by omega), if_pos hc, hw]

/-! ## Every operation's fields (R50 to R55) -/

theorem placed_div {x n : Nat} (y : Nat) (hx : x < n) : (x + n * y) / n = y := by
  rw [Nat.add_mul_div_left _ _ (by omega), Nat.div_eq_of_lt hx, Nat.zero_add]

@[simp] theorem ofBool_mod_two (b : Bool) : ofBool b % 2 = ofBool b := Nat.mod_eq_of_lt (ofBool_lt b le_rfl)

@[simp] theorem ofBool_placed_div (b : Bool) (y : Nat) : (ofBool b + 2 * y) / 2 = y := placed_div y (ofBool_lt b le_rfl)

theorem ofNat_eq_of_mod {k m : Nat} {x : BitVec k} (h : m % 2 ^ k = x.toNat) : BitVec.ofNat k m = x :=
  BitVec.eq_of_toNat_eq ((BitVec.toNat_ofNat ..).trans h)

theorem decide_eq_ofBool {m : Nat} {b : Bool} (h : m = ofBool b) : decide (m = 1) = b := by simp [h]

/-! Two values in one field: the lower in its low digit, the upper above it. -/

theorem placed_lt {x y n k m : Nat} (hx : x < n) (hy : y < k) (hm : n * k ≤ m) : x + n * y < m := by
  have : n * (y + 1) ≤ n * k := Nat.mul_le_mul_left n hy
  rw [Nat.mul_add_one] at this
  omega

/-- Each field of an operation fits its place in the word. -/
theorem encFields_fits {i : Instr} {e : Enc} (h : encFields i = some e) : e.Fits := by
  cases i <;> cases h <;> constructor <;> simp only [s3To, atTo, flTo, v1To, v2To, v3To, vRedTo, mmulTo, finVal_lt, bvToNat_lt,
    ofBool_lt, pairTo_lt, dstTo_lt, sSrcTo_lt, vSrcTo_lt, vDstTo_lt, baseTo_lt, mSrcTo_lt, tyTo_lt, rndTo_lt, ccTo_lt, scopeTo_lt,
    Nat.reduceLT, Nat.reduceLeDiff, Nat.reducePow]
  case atCas.refl.mod w col => exact placed_lt (finVal_lt col le_rfl) (ofBool_lt w le_rfl) (by decide)
  case vCvt.refl.mod ty p => exact placed_lt (tyTo_lt ty le_rfl) (finVal_lt p le_rfl) (by decide)
  case vScl.refl.mod ty c => exact placed_lt (tyTo_lt ty le_rfl) (tyTo_lt c le_rfl) (by decide)
  case vRedAdd.refl.mod x => exact placed_lt (ofBool_lt x.seg le_rfl) (ofBool_lt x.excl le_rfl) (by decide)
  case vRedMax.refl.mod x => exact placed_lt (ofBool_lt x.seg le_rfl) (ofBool_lt x.excl le_rfl) (by decide)
  case vRedMin.refl.mod x => exact placed_lt (ofBool_lt x.seg le_rfl) (ofBool_lt x.excl le_rfl) (by decide)
  case vScan.refl.mod x => exact placed_lt (ofBool_lt x.seg le_rfl) (ofBool_lt x.excl le_rfl) (by decide)
  case vUnpack.refl.mod h i => exact placed_lt (ofBool_lt h le_rfl) (ofBool_lt i le_rfl) (by decide)
  case mBfly.refl.mod a b c s e v =>
    have := ofBool_lt v le_rfl
    omega
  case mBrev.refl.mod a b c v =>
    have := ofBool_lt v le_rfl
    omega
  case mTwid.refl.mod a b c v h =>
    have := ofBool_lt v le_rfl
    have := ofBool_lt h le_rfl
    omega

end Sys2Proof
end

section
/-! PROOFS. The decoder reads back what the encoder writes (O57). -/

namespace Sys2Proof

/-! ## Each decoder reads the fields of its class back -/

theorem encFields_T_class {i : Instr} {f : FT} (h : encFields i = some (.T f)) :
    f.key / 256 = 0 ∨ f.key / 256 = 1 ∨ f.key / 256 = 2 ∨ f.key / 256 = 4 := by
  cases i <;> cases h <;> simp only [s3To, v1To, v2To, v3To, vRedTo, Nat.reduceDiv, Nat.reduceEqDiff, or_true, true_or]

theorem encFields_K_class {i : Instr} {f : FK} (h : encFields i = some (.K f)) :
    f.key / 256 = 0 ∨ f.key / 256 = 1 ∨ f.key / 256 = 2 := by
  cases i <;> cases h <;> simp only [Nat.reduceDiv, Nat.reduceEqDiff, or_true, true_or]

theorem encFields_D_class {i : Instr} {f : FD} (h : encFields i = some (.D f)) : f.key / 256 = 3 := by
  cases i <;> cases h <;> simp only [flTo, Nat.reduceDiv]

theorem encFields_M_class {i : Instr} {f : FM} (h : encFields i = some (.M f)) : f.key / 256 = 5 := by
  cases i <;> cases h <;> simp only [mmulTo, Nat.reduceDiv]

theorem decT0_encFields {i : Instr} {f : FT} (h : encFields i = some (.T f)) (hc : f.key / 256 = 0) : decT0 f = some i := by
  cases i <;> cases h <;> simp only [s3To, v1To, v2To, v3To, vRedTo, Nat.reduceDiv, Nat.reduceEqDiff] at hc
  all_goals simp only [decT0]
  all_goals simp

theorem decT1_encFields {i : Instr} {f : FT} (h : encFields i = some (.T f)) (hc : f.key / 256 = 1) : decT1 f = some i := by
  cases i <;> cases h <;> simp only [s3To, v1To, v2To, v3To, vRedTo, Nat.reduceDiv, Nat.reduceEqDiff] at hc
  all_goals simp only [decT1, s3To]
  all_goals simp [s3Of]

theorem decT2_encFields {i : Instr} {f : FT} (h : encFields i = some (.T f)) (hc : f.key / 256 = 2) : decT2 f = some i := by
  cases i <;> cases h <;> simp only [s3To, v1To, v2To, v3To, vRedTo, Nat.reduceDiv, Nat.reduceEqDiff] at hc
  all_goals simp only [decT2]
  all_goals simp [placed_div, Nat.mod_eq_of_lt]

theorem decT4_encFields {i : Instr} {f : FT} (h : encFields i = some (.T f)) (hc : f.key / 256 = 4) : decT4 f = some i := by
  cases i <;> cases h <;> simp only [s3To, v1To, v2To, v3To, vRedTo, Nat.reduceDiv, Nat.reduceEqDiff] at hc
  all_goals simp only [decT4, v1To, v2To, v3To, vRedTo]
  all_goals simp [v1Of, v2Of, v3Of, vRedOf, placed_div, tyTo_lt, Nat.mod_eq_of_lt]

theorem decI2_encFields {i : Instr} {f : FI} (h : encFields i = some (.I f)) : decI2 f = some i := by
  cases i <;> cases h
  all_goals simp only [decI2, atTo]
  all_goals simp [atOf]

theorem decK0_encFields {i : Instr} {f : FK} (h : encFields i = some (.K f)) (hc : f.key / 256 = 0) : decK0 f = some i := by
  cases i <;> cases h <;> simp only [Nat.reduceDiv, Nat.reduceEqDiff] at hc
  all_goals simp only [decK0]
  all_goals simp

theorem decK1_encFields {i : Instr} {f : FK} (h : encFields i = some (.K f)) (hc : f.key / 256 = 1) : decK1 f = some i := by
  cases i <;> cases h <;> simp only [Nat.reduceDiv, Nat.reduceEqDiff] at hc
  all_goals simp only [decK1]
  all_goals simp

theorem decK2_encFields {i : Instr} {f : FK} (h : encFields i = some (.K f)) (hc : f.key / 256 = 2) : decK2 f = some i := by
  cases i <;> cases h <;> simp only [Nat.reduceDiv, Nat.reduceEqDiff] at hc
  all_goals simp only [decK2]
  all_goals simp

theorem decB0_encFields {i : Instr} {f : FB} (h : encFields i = some (.B f)) : decB0 f = some i := by
  cases i <;> cases h
  all_goals simp only [decB0]
  all_goals simp

theorem decD3_encFields {i : Instr} {f : FD} (h : encFields i = some (.D f)) : decD3 f = some i := by
  cases i <;> cases h
  all_goals simp only [decD3, flTo]
  all_goals simp [flOf]

theorem decM5_encFields {i : Instr} {f : FM} (h : encFields i = some (.M f)) : decM5 f = some i := by
  cases i <;> cases h
  all_goals simp only [decM5, mmulTo]
  all_goals simp [mmulOf]
  case mBfly.refl a b c s e v =>
    have hv := ofBool_lt v le_rfl
    refine ⟨ofNat_eq_of_mod ?_, ofNat_eq_of_mod ?_, ofNat_eq_of_mod ?_, ofNat_eq_of_mod ?_,
      ofNat_eq_of_mod ?_, decide_eq_ofBool ?_⟩ <;> omega
  case mBrev.refl a b c v =>
    have hv := ofBool_lt v le_rfl
    refine ⟨ofNat_eq_of_mod ?_, ofNat_eq_of_mod ?_, ofNat_eq_of_mod ?_, decide_eq_ofBool ?_⟩ <;> omega
  case mTwid.refl a b c v h =>
    have hv := ofBool_lt v le_rfl
    have hh := ofBool_lt h le_rfl
    refine ⟨ofNat_eq_of_mod ?_, ofNat_eq_of_mod ?_, ofNat_eq_of_mod ?_, decide_eq_ofBool ?_,
      decide_eq_ofBool ?_⟩ <;> omega

/-- The opcode map reads every operation back from its encoding. -/
theorem decodeRaw_encFields {i : Instr} {e : Enc} (h : encFields i = some e) : decodeRaw e.word = some i := by
  have hf := encFields_fits h
  cases e with
  | T f =>
    rcases encFields_T_class h with hc | hc | hc | hc
    · exact decodeRaw_T0 hf (decT0_encFields h hc)
    · exact decodeRaw_T1 hf (decT1_encFields h hc)
    · exact decodeRaw_T2 hf (decT2_encFields h hc)
    · exact (decodeRaw_T4 hf hc).trans (decT4_encFields h hc)
  | I f => exact decodeRaw_I2 hf (decI2_encFields h)
  | K f =>
    rcases encFields_K_class h with hc | hc | hc
    · exact decodeRaw_K0 hf (decK0_encFields h hc)
    · exact decodeRaw_K1 hf (decK1_encFields h hc)
    · exact decodeRaw_K2 hf (decK2_encFields h hc)
  | B f => exact decodeRaw_B0 hf (decB0_encFields h)
  | D f => exact (decodeRaw_D3 hf (encFields_D_class h)).trans (decD3_encFields h)
  | M f => exact (decodeRaw_M5 hf (encFields_M_class h)).trans (decM5_encFields h)

/-- No operation has class and opcode 0, and none is of class 6 or more (R18, R56). -/
theorem encFields_key {i : Instr} {e : Enc} (h : encFields i = some e) : 0 < e.key ∧ e.key < 0x600 := by
  cases i <;> cases h <;> simp only [Enc.key, s3To, atTo, flTo, v1To, v2To, v3To, vRedTo, mmulTo, Nat.reduceLT, and_self]

/-! ## Words (R44) -/

theorem encode_eq_singleton {i : Instr} {w : W64} (h : encode i = [w]) :
    (i = .nop ∧ w = 0) ∨ ∃ e, encFields i = some e ∧ w = BitVec.ofNat 64 e.word := by
  unfold encode at h
  split at h
  · exact .inl ⟨rfl, (List.cons.inj h).1.symm⟩
  · simp [sealWords] at h
  · cases he : encFields i with
    | none => simp [he] at h
    | some e => exact .inr ⟨e, rfl, by simpa [he] using h.symm⟩

theorem decodeWord_encode {f : Form} {i : Instr} {w : W64} (hwf : i.wf f = true) (h : encode i = [w]) :
    decodeWord f w = .ok i := by
  rcases encode_eq_singleton h with ⟨rfl, rfl⟩ | ⟨e, he, rfl⟩
  · rfl
  · obtain ⟨hpos, hclass⟩ := encFields_key he
    have hk := Enc.wordKey_word (encFields_fits he)
    have hw : (BitVec.ofNat 64 e.word).toNat = e.word := by
      rw [BitVec.toNat_ofNat]
      unfold wordKey at hk
      omega
    simp only [Instr.wf, Bool.and_eq_true, Bool.or_eq_true, decide_eq_true_eq, Bool.not_eq_true'] at hwf
    obtain ⟨hacc, hform⟩ := hwf
    have hdiv := wordKey_div e.word
    rw [decodeWord, hw, if_neg (by unfold wordKey at hk; omega), if_neg (by omega), if_neg (by omega), decodeRaw_encFields he]
    dsimp only
    rw [if_neg (by simp [h]), if_neg (by simp [hacc]), if_neg]
    rcases hform with rfl | hform <;> simp [*]

/-- The four words of a seal hold every field of it (R39 to R42). -/
theorem sealFields_sealWords (x : SealData) {c a v m : W64} (h : sealWords x = [c, a, v, m]) :
    (⟨BitVec.ofNat 32 (v.toNat / 2 ^ 32 % 2 ^ 28 + 2 ^ 28 * (c.toNat / 2 ^ 48 % 16)), Fin.ofNat 16 (a.toNat / 2 ^ 56),
      BitVec.ofNat 16 (a.toNat / 2 ^ 32), BitVec.ofNat 16 (a.toNat / 2 ^ 16), BitVec.ofNat 16 a.toNat,
      BitVec.ofNat 32 v.toNat, BitVec.ofNat 8 (m.toNat / 2 ^ 44), BitVec.ofNat 6 (m.toNat / 2 ^ 38),
      BitVec.ofNat 10 (m.toNat / 2 ^ 28), BitVec.ofNat 4 (m.toNat / 2 ^ 24), m.toNat / 2 ^ 23 % 2 = 1⟩ : SealData) = x := by
  obtain ⟨shape, ind, own, taken, fall, sig, len, vectors, stores, gated, lend⟩ := x
  have hl := ofBool_lt lend le_rfl
  simp only [sealWords, List.cons.injEq, and_true] at h
  obtain ⟨rfl, rfl, rfl, rfl⟩ := h
  simp only [SealData.mk.injEq, ← BitVec.toNat_inj, ← Fin.val_inj, BitVec.toNat_ofNat, Fin.val_ofNat]
  refine ⟨?_, ?_, ?_, ?_, ?_, ?_, ?_, ?_, ?_, ?_, decide_eq_ofBool ?_⟩
  all_goals omega

theorem sealOf_encode {f : Form} {i : Instr} {c a v m : W64} (hwf : i.wf f = true) (h : encode i = [c, a, v, m]) :
    sealOf c a v m = .ok i := by
  unfold encode at h
  split at h
  · cases h
  · rename_i x
    obtain ⟨hacc, -⟩ := (Bool.and_eq_true ..).mp hwf
    unfold sealOf
    dsimp only
    rw [sealFields_sealWords x h, if_neg (by simp [h]), if_neg (by simp [hacc])]
  · cases he : encFields i <;> simp [he] at h

/-- Settles O57: each decoder reads the fields of its class back from the word they were put in, and a word's class and
opcode name that decoder. -/
theorem decodeOfEncode : Obligations.DecodeOfEncode :=
  fun _ _ hwf => ⟨fun _ h => decodeWord_encode hwf h, fun _ _ _ _ h => sealOf_encode hwf h⟩

end Sys2Proof
end

section
/-! SUPPORT. Where register results go in each code form, and register operations that complete or trap (R33, R35, R45, R319). -/

namespace Sys2Proof.Machine
open Sys2Proof.Says

/-! ## Results, by code form -/

theorem putLatch_jexcy {t : Thread} (h : t.form = .jexcy) (lat : Nat) (group : Fin 2) (v : VReg) (g : Tag) :
    putLatch t lat group v g = t := by simp [putLatch, h]

theorem putLatch_native {t : Thread} (h : t.form = .native) (lat : Nat) (group : Fin 2) (v : VReg) (g : Tag) :
    putLatch t lat group v g
      = { t with blk := { t.blk with latchDue := t.blk.latchDue ++ [⟨t.blk.unit + lat, group, v, g⟩] } } := by
  simp [putLatch, h]

@[simp] theorem addSig_form (t : Thread) (g : Tag) : (addSig t g).form = t.form := rfl

theorem putDest_jexcy {t : Thread} (h : t.form = .jexcy) (reg : Nat) (d : Dest) (g : Tag) :
    putDest t reg d g = applyDest (addSig t (newTag d g)) d g := by simp [putDest, h]

theorem putDest_native {t : Thread} (h : t.form = .native) (reg : Nat) (d : Dest) (g : Tag) :
    putDest t reg d g = { t with blk := { t.blk with
      sig := t.blk.sig + newTag d g
      writes := t.blk.writes ++ [⟨t.blk.unit + reg, d, g⟩] } } := by simp [putDest, h, addSig]

theorem applyDest_s_zero (t : Thread) (v : W32) (g : Tag) : applyDest t (.s 0 v) g = t := rfl

theorem applyDest_s_ne {d : Fin 64} (h : d ≠ 0) (t : Thread) (v : W32) (g : Tag) :
    applyDest t (.s d v) g = { t with regs := { t.regs with s := t.regs.s.set d v, sTag := t.regs.sTag.set d g } } := by
  simp [applyDest, h]

@[simp] theorem newTag_s (d : Fin 64) (v : W32) (g : Tag) : newTag (.s d v) g = if d = 0 then 0 else g := rfl

theorem putDest_jexcy_s {t : Thread} (h : t.form = .jexcy) (reg : Nat) (d : Fin 64) (v : W32) (g : Tag) :
    putDest t reg (.s d v) g = { t with
      regs := { t.regs with
        s := if d = 0 then t.regs.s else t.regs.s.set d v
        sTag := if d = 0 then t.regs.sTag else t.regs.sTag.set d g }
      blk := { t.blk with sig := t.blk.sig + if d = 0 then 0 else g } } := by
  rw [putDest_jexcy h, newTag_s]
  by_cases hd : d = 0
  · subst hd
    simp only [if_true, applyDest_s_zero, addSig]
  · simp only [applyDest_s_ne hd, if_neg hd, addSig]

/-! ## Operations on the sequencer alone -/

theorem mput_mfind {α : Type} {m : Map α} {n : Nat} {x : α} (h : mfind m n = some x) : mput m n x = m := by
  induction m with
  | nil => cases h
  | cons e r ih =>
    obtain ⟨k, v⟩ := e
    simp only [mfind] at h
    by_cases hk : n = k
    · rw [if_pos hk] at h
      cases h
      simp [mput, hk]
    · rw [if_neg hk] at h
      by_cases hl : n < k
      · rw [if_pos hl] at h
        cases h
      · rw [if_neg hl] at h
        simp [mput, hk, hl, ih h]

/-- The tag of a result is the one the statements write out. -/
theorem fold_opk (op ty : Nat) (a b c : Tag) : fold (opk op ty) a b c = mix (mix (mix (key op ty) a) b) c := rfl

theorem makes_of_ok {s : State} {t t' : Thread} {i : Instr} {f : Thread → Except Stop Thread} (ht : Running s t)
    (hi : exec i s = runPure s f) (hf : f t = .ok t') : Makes s i t' := hi.trans (runPure_ok ht hf)

theorem traps_of_error {s : State} {t : Thread} {i : Instr} {f : Thread → Except Stop Thread} {c : TrapClass}
    (ht : Running s t) (hi : exec i s = runPure s f) (hf : f t = .error (.trap c 0)) : Traps s t i c :=
  hi.trans (runPure_error ht hf)

end Sys2Proof.Machine
end

section
/-! PROOFS. Scalar and pair results (O4), targets and transfers (O7), the format and system registers (O10). -/

namespace Sys2Proof.Machine
open Sys2Proof.Says

/-! ## Where a scalar or pair result goes (R167, R188) -/

theorem singleResult : Says.SingleResult := by
  intro t lat reg nw d v g sig
  refine ⟨fun h => ?_, fun h => ?_⟩
  · rw [putS, putLatch_jexcy h]
    cases nw with
    | true => simp [sig, addSig]
    | false =>
      simp only [Bool.false_eq_true, if_false, Bool.false_or, putDest_jexcy_s h, decide_eq_true_eq, true_and, sig]
      split <;> rfl
  · rw [putS, putLatch_native h]
    cases nw with
    | true => simp [sig, addSig]
    | false =>
      rw [putDest_native (by exact h)]
      simp [sig]

theorem pairHi_ne_zero (d : Fin 32) : pairHi d ≠ 0 := fun h => absurd (congrArg Fin.val h) (by simp [pairHi])

theorem pairLo_eq_zero (d : Fin 32) : pairLo d = 0 ↔ d = 0 := by
  simp only [pairLo, Fin.ext_iff, Fin.val_zero]
  omega

theorem pairResult : Says.PairResult := by
  intro t reg d v g lo hi x y sig
  have hlo : (if pairLo d = 0 then (0 : Tag) else g) = if d = 0 then 0 else g := if_congr (pairLo_eq_zero d) rfl rfl
  refine ⟨fun h => ?_, fun h => ?_⟩
  · rw [putPair, putDest_jexcy_s h, putDest_jexcy_s (by exact h)]
    simp only [if_neg (pairHi_ne_zero d), hlo, sig, if_congr (pairLo_eq_zero d) rfl rfl]
    rfl
  · rw [putPair, putDest_native h, putDest_native (by exact h)]
    simp only [newTag_s, if_neg (pairHi_ne_zero d), hlo, sig, List.append_assoc]
    rfl

/-- Settles O4: a scalar or pair result reaches its registers, its latches and the signature, and nothing else. -/
theorem singleResultIsWritten : Obligations.SingleResultIsWritten := ⟨singleResult, pairResult⟩

/-! ## Targets and transfers (R30, R296, R302) -/

theorem unitAt_eq (t : Thread) (off : W32) : unitAt t off = BitVec.ofInt 64 (t.pc.toNat + off.toInt * unitBytes t.form) :=
  ofNat_wrapN ..

theorem prep_makes {s : State} {t : Thread} (ht : Running s t) (n : Fin 4) (off : W32) :
    Makes s (.prep n off) (putDest t 2 (.t n (BitVec.ofInt 64 (t.pc.toNat + off.toInt * unitBytes t.form)))
      (mix (mix (mix (key 0x002 0) 0) off) 0)) := by
  rw [← unitAt_eq, ← fold_opk]
  exact makes_of_ok ht (exec_prep ..) rfl

theorem prepr_makes {s : State} {t : Thread} (ht : Running s t) (n : Fin 4) {a : Fin 32}
    (h63 : (pairVal t.regs a).toNat < 2 ^ 63) (hal : (pairVal t.regs a).toNat % unitBytes t.form = 0)
    (hcode : s.codeHas t (pairVal t.regs a) = true) :
    Makes s (.prepr n a) (putDest t 2 (.t n (pairVal t.regs a))
      (mix (mix (mix (key 0x003 0) (pairTag t.regs a)) 0) 0)) := by
  have hbit : bit (pairVal t.regs a).toNat 63 = false := by
    rw [bit, Nat.div_eq_of_lt h63]
    rfl
  refine makes_of_ok ht (exec_prepr ..) ?_
  dsimp only
  rw [hbit, hal, hcode]
  rfl

theorem takeTo_ok {s : State} {t : Thread} {n : Fin 4} (h : s.codeHas t t.regs.t[n] = true) (f : W64 → Transfer) :
    takeTo s t n f = .ok (setTransfer t (f t.regs.t[n])) := by
  unfold takeTo
  rw [if_pos h]

section
variable {s : State} {t : Thread} (ht : Running s t) (hp : transferPlace s t = true)
include ht hp

theorem br_falls (n c : Fin 4) {inv : Bool} (hc : t.regs.c[c] = inv) : Makes s (.br n c inv) t := by
  refine makes_of_ok ht (exec_br ..) ?_
  simp [hp, hc]

theorem br_taken {n : Fin 4} (c : Fin 4) {inv : Bool} (hc : t.regs.c[c] = !inv) (hcode : s.codeHas t t.regs.t[n] = true) :
    Makes s (.br n c inv) (setTransfer t (.jump t.regs.t[n])) := by
  refine makes_of_ok ht (exec_br ..) ?_
  have hne : (t.regs.c[c] != inv) = true := by simp [hc]
  rw [if_neg (by simp [hp]), if_pos hne, takeTo_ok hcode]

theorem jmp_taken {n : Fin 4} (hcode : s.codeHas t t.regs.t[n] = true) :
    Makes s (.jmp n) (setTransfer t (.jump t.regs.t[n])) := by
  refine makes_of_ok ht (exec_jmp ..) ?_
  rw [if_neg (by simp [hp]), takeTo_ok hcode]

theorem call_taken {n : Fin 4} (hd : t.regs.calls.length < 16) (hcode : s.codeHas t t.regs.t[n] = true) :
    Makes s (.call n) (setTransfer t (.call t.regs.t[n])) := by
  refine makes_of_ok ht (exec_call ..) ?_
  rw [if_neg (by simp [hp]), if_neg (by omega), takeTo_ok hcode]

theorem ret_taken {a : W64} {rest : List W64} (hcalls : t.regs.calls = a :: rest)
    (hloops : ∀ e ∈ t.regs.loops.head?, e.depth ≠ t.regs.calls.length) (hcode : s.codeHas t a = true) :
    Makes s .ret (setTransfer t .ret) := by
  have hopen : (t.regs.loops.head?.any fun e => e.depth = t.regs.calls.length) = false := by
    cases he : t.regs.loops.head? with
    | none => rfl
    | some e => simp [hloops e he]
  refine makes_of_ok ht (exec_ret ..) ?_
  rw [hopen]
  simp [hp, hcalls, hcode]

theorem jtab_taken {a : Fin 64} {off : W32} {x : W64} (hx : jtabTarget s t t.regs.s[a].toNat off = .ok x)
    (hhw : HwError.table t.key ∉ s.hwErrors) : Makes s (.jtab a off) (setTransfer t (.jump x)) := by
  refine (exec_jtab ..).trans (runOp_ok ht ?_)
  rw [if_neg (by simp [hp]), hx]
  show (liftM (Except.ok x : Except Stop W64) >>= _ : Op Thread).run s = _
  rw [op_run_bind_ok (op_run_lift_ok ..), op_run_bind_ok (hwStrike_none hhw)]
  rfl

end

/-- Settles O7: `prep` and `prepr` write a target register; at its place a taken transfer is recorded for the seal. -/
theorem transferResults : Obligations.TransferResults := by
  intro s t ht unit records
  have hu : unit = unitBytes t.form := by
    cases hform : t.form <;> simp only [unit, unitBytes, hform]
  rw [hu]
  exact ⟨prep_makes ht, fun n a => prepr_makes ht n, fun hp => ⟨fun n c _ => br_falls ht hp n c, fun n c _ => br_taken ht hp c,
    fun n => jmp_taken ht hp, fun n => call_taken ht hp, fun a rest => ret_taken ht hp, fun a off x => jtab_taken ht hp⟩⟩

/-! ## The format register (R170, R171) -/

theorem putFmt_ok {t : Thread} {v : W32} (h : v.toNat ≤ 4) :
    putFmt t v = .ok { t with blk := { t.blk with fmtDue := t.blk.fmtDue ++ [(fmtFrom t, v)] } } := if_neg (Nat.not_lt.mpr h)

theorem putFmt_illegal {t : Thread} {v : W32} (h : 4 < v.toNat) : putFmt t v = illegal := if_pos h

theorem fmt_makes {s : State} {t t' : Thread} {a : SSrc} {v : W32} {g : Tag} (ht : Running s t) (ha : readS t a = .ok (v, g))
    (hf : putFmt t v = .ok t') : Makes s (.fmt a) t' := by
  refine makes_of_ok ht (exec_fmt ..) ?_
  rw [ha]
  exact hf

theorem fmt_traps {s : State} {t : Thread} {a : SSrc} {v : W32} {g : Tag} (ht : Running s t) (ha : readS t a = .ok (v, g))
    (hf : putFmt t v = illegal) : Traps s t (.fmt a) .illegal := by
  refine traps_of_error ht (exec_fmt ..) ?_
  rw [ha]
  exact hf

/-! ## The system registers (R207 to R212) -/

theorem nop_makes {s : State} {t : Thread} (ht : Running s t) : Makes s .nop t := by
  have hsame : mput s.threads s.cur t = s.threads := mput_mfind ht
  simp [Makes, execNop, State.setThread, hsame]

theorem sysr_makes {s : State} {t : Thread} (ht : Running s t) {n : BitVec 12} (hn : (sysWritable n).isSome = true) (h8 : n ≠ 8)
    (d : Fin 64) : Makes s (.sysr d n) (putDest t 1 (.s d (sysValue s t n.toNat))
      (mix (mix (mix (key 0x02C 0) 0) (n.setWidth 32)) 0)) := by
  refine makes_of_ok ht (exec_sysr ..) ?_
  dsimp only
  rw [if_neg (by simp [Option.isNone_eq_false_iff.mpr hn]), if_neg h8]
  rfl

/-- A read of DTIMEL captures the high half of the time (R210). -/
theorem sysr_dtimel_makes {s : State} {t : Thread} (ht : Running s t) (d : Fin 64) :
    Makes s (.sysr d 0x008) (putDest { t with regs := { t.regs with dtimeh := s.time.extractLsb' 32 32 } } 1
      (.s d (s.time.setWidth 32)) (mix (mix (mix (key 0x02C 0) 0) 8) 0)) := makes_of_ok ht (exec_sysr ..) rfl

theorem sysw_makes {s : State} {t : Thread} {n : BitVec 12} {a : SSrc} {x : W32} {ta : Tag} (ht : Running s t)
    (ha : readS t a = .ok (x, ta)) (hn : sysWritable n = some true) (hf : n = 0x020 → t.launch.test = true) :
    Makes s (.sysw n a) { t with blk := { t.blk with pend := t.blk.pend ++ [.sysw n x] } } := by
  refine makes_of_ok ht (exec_sysw ..) ?_
  rw [ha]
  refine if_neg ?_
  simpa [hn] using hf

theorem sysw_traps {s : State} {t : Thread} {n : BitVec 12} {a : SSrc} {x : W32} {ta : Tag} (ht : Running s t)
    (ha : readS t a = .ok (x, ta)) (hn : sysWritable n ≠ some true ∨ n = 0x020 ∧ t.launch.test = false) :
    Traps s t (.sysw n a) .illegal := by
  refine traps_of_error ht (exec_sysw ..) ?_
  rw [ha]
  refine if_pos ?_
  simpa using hn

theorem systemRegisterResults : Says.SystemRegisterResults := by
  intro s t ht fmtAt setsFmt reads
  have hat : fmtAt = fmtFrom t := by
    cases hform : t.form <;> simp only [fmtAt, fmtFrom, hform]
  have hset : ∀ v : W32, v.toNat ≤ 4 →
      putFmt t v = .ok { t with blk := { t.blk with fmtDue := t.blk.fmtDue ++ [(fmtAt, v)] } } := fun v h => hat ▸ putFmt_ok h
  exact ⟨nop_makes ht, fun v h => makes_of_ok ht (exec_fmti ..) (hset v h), fun a v g ha h => fmt_makes ht ha (hset v h),
    fun v h => traps_of_error ht (exec_fmti ..) (putFmt_illegal h), fun a v g ha h => fmt_traps ht ha (putFmt_illegal h),
    sysr_makes ht rfl (by decide), sysr_makes ht rfl (by decide), sysr_makes ht rfl (by decide), sysr_makes ht rfl (by decide),
    sysr_dtimel_makes ht, sysr_makes ht rfl (by decide), sysr_makes ht rfl (by decide), sysr_makes ht rfl (by decide),
    sysr_makes ht rfl (by decide), sysr_makes ht rfl (by decide), sysr_makes ht rfl (by decide), sysr_makes ht rfl (by decide),
    sysr_makes ht rfl (by decide), sysr_makes ht rfl (by decide), sysr_makes ht rfl (by decide),
    fun a x ta ha => ⟨sysw_makes ht ha rfl fun h => absurd h (by decide), fun htest => sysw_makes ht ha rfl fun _ => htest⟩⟩

theorem sysWritable_unlisted {n : BitVec 12}
    (h : n.toNat ∉ [0, 1, 2, 3, 8, 9, 0x10, 0x11, 0x12, 0x13, 0x14, 0x15, 0x16, 0x17, 0x20]) : sysWritable n = none := by
  unfold sysWritable
  split <;> simp_all

/-- STATUS and FINJ alone may be written (R208). -/
theorem eq_of_sysWritable {n : BitVec 12} (h : sysWritable n = some true) : n = 0 ∨ n = 0x020 := by
  unfold sysWritable at h
  split at h
  · exact .inl (BitVec.eq_of_toNat_eq ‹_›)
  · exact .inr (BitVec.eq_of_toNat_eq ‹_›)
  all_goals cases h

theorem systemRegisterTraps : Says.SystemRegisterTraps := by
  refine fun s t n ht => ⟨fun hn d => traps_of_error ht (exec_sysr ..) ?_, fun a x ta ha =>
    ⟨fun h0 h20 => sysw_traps ht ha (.inl fun hw => (eq_of_sysWritable hw).elim h0 h20),
      fun htest => sysw_traps ht ha (.inr ⟨rfl, htest⟩)⟩⟩
  dsimp only
  rw [sysWritable_unlisted hn]
  rfl

/-- Settles O10: `nop`, the format register and the system registers, each with what it traps on. -/
theorem systemRegisters : Obligations.SystemRegisters := ⟨systemRegisterResults, systemRegisterTraps⟩

end Sys2Proof.Machine
end

section
/-! PROOFS. Gated operations and atomics at their places in a block (O17). -/

namespace Sys2Proof.Machine
open Sys2Proof.Says

/-! ## Fields of a number -/

theorem bit_toNat {w : Nat} (x : BitVec w) (i : Nat) : bit x.toNat i = x.getLsbD i := by
  rw [bit, BitVec.getLsbD, Nat.testBit_eq_decide_div_mod_eq]

theorem bits_toNat {w : Nat} (x : BitVec w) (hi lo : Nat) : bits x.toNat hi lo = (x.extractLsb' lo (hi + 1 - lo)).toNat := by
  rw [bits, BitVec.extractLsb'_toNat, Nat.shiftRight_eq_div_pow]

/-! ## Capture (R42, R49, R310) -/

theorem chargeGated_within {s : State} {t : Thread} {x : SealData} (hd : declared s t = some x)
    (hn : gatedCount t + 1 ≤ x.gated.toNat) : (chargeGated t).run s = (.ok (), s) := by
  unfold chargeGated
  rw [op_run_bind_ok (op_run_get s)]
  simp only [hd]
  rw [if_neg (by omega)]
  rfl

theorem chargeGated_beyond {s : State} {t : Thread} {x : SealData} (hd : declared s t = some x)
    (hn : x.gated.toNat < gatedCount t + 1) : (chargeGated t).run s = (.error (.trap .illegal 0), s) := by
  unfold chargeGated
  rw [op_run_bind_ok (op_run_get s)]
  simp only [hd]
  rw [if_pos hn]
  rfl

theorem chargeGated_run {s : State} {t : Thread} (h : MayGate s t) : (chargeGated t).run s = (.ok (), s) := by
  obtain ⟨-, x, hd, hn⟩ := h
  exact chargeGated_within hd hn

theorem capture_run {s : State} {t : Thread} (h : MayGate s t) (i : Instr) :
    (capture i t).run s = (.ok (captured t i), s) := by
  unfold capture
  rw [op_run_bind_ok (chargeGated_run h)]
  rfl

theorem capture_beyond {s : State} {t : Thread} {x : SealData} (hd : declared s t = some x)
    (hn : x.gated.toNat < gatedCount t + 1) (i : Instr) : (capture i t).run s = (.error (.trap .illegal 0), s) := by
  unfold capture
  rw [op_run_bind_error (chargeGated_beyond hd hn)]

section
variable {s : State} {t : Thread} {i : Instr} {cap : Thread → Op Thread} {iss : Gated → Thread → Op Thread} (ht : Running s t)
  (hr : t.run = .running) (hi : exec i s = runGated i cap iss s)
include ht hr hi

theorem gated_makes {t' : Thread} (hc : (cap t).run s = (.ok t', s)) : Makes s i t' :=
  hi.trans (runGated_capture ht (by simp [hr]) hc)

theorem gated_traps {c : TrapClass} (hc : (cap t).run s = (.error (.trap c 0), s)) : Traps s t i c := by
  refine hi.trans (runOp_error (e := .trap c 0) ht ?_)
  rw [if_neg (by simp [hr])]
  exact hc

end

/-- An operation whose place only captures it. -/
theorem captures {s : State} {t : Thread} {i : Instr} {iss : Gated → Thread → Op Thread} (ht : Running s t)
    (hi : t.run = .running → exec i s = runGated i (capture i) iss s) :
    (MayGate s t → Makes s i (captured t i))
    ∧ ∀ x, t.run = .running → declared s t = some x → x.gated.toNat < gatedCount t + 1 → Traps s t i .illegal :=
  ⟨fun hm => gated_makes ht hm.1 (hi hm.1) (capture_run hm i),
    fun _ hr hd hn => gated_traps ht hr (hi hr) (capture_beyond hd hn i)⟩

theorem execBar_running {s : State} {t : Thread} (ht : Running s t) (hr : t.run = .running) (p : Fin 32) :
    execBar p s = runGated (.bar p) (capture (.bar p)) (fun _ t => pure t) s := by
  rw [Running] at ht
  unfold execBar
  simp only [ht, hr]

theorem execProbe_running {s : State} {t : Thread} (ht : Running s t) (hr : t.run = .running) (d : Option (Fin 64)) (p : Fin 32)
    (b : Fin 64) (k : BitVec 2) :
    execProbe d p b k s = runGated (.probe d p b k) (capture (.probe d p b k)) (fun _ t => pure t) s := by
  rw [Running] at ht
  unfold execProbe
  simp only [ht, hr]

theorem gatedOperationsAreCaptured : Says.GatedOperationsAreCaptured := by
  intro s t i ht hi
  rcases hi with ⟨c, rfl⟩ | ⟨a, rfl⟩ | rfl | ⟨d, p, rfl⟩ | ⟨p, rfl⟩ | ⟨d, p, b, k, rfl⟩ | ⟨p, b, rfl⟩
  · exact captures ht fun _ => exec_trap ..
  · exact captures ht fun _ => exec_exit ..
  · exact captures ht fun _ => exec_yield ..
  · exact captures ht fun _ => exec_take ..
  · exact captures ht fun hr => execBar_running ht hr p
  · exact captures ht fun hr => execProbe_running ht hr d p b k
  · exact captures ht fun _ => exec_release ..

/-! ## `wait.a` (R311) -/

theorem waitAddr_scr {ot : OpTile} {r : Regs} {p : Fin 32} (h63 : (pairVal r p).getLsbD 63 = true)
    (hzero : (pairVal r p).extractLsb' 28 35 = 0) (hal : (pairVal r p).toNat % 8 = 0)
    (hsize : ((pairVal r p).extractLsb' 0 22).toNat + 8 ≤ (regionOf ot ((pairVal r p).extractLsb' 22 6).toNat).size.toNat * 4096) :
    waitAddr ot r p = .ok (.scr ((pairVal r p).extractLsb' 22 6).toNat ((pairVal r p).extractLsb' 0 22).toNat) := by
  have hne : (regionOf ot ((pairVal r p).extractLsb' 22 6).toNat).size ≠ 0 := by
    intro h0
    rw [h0] at hsize
    simp at hsize
  have hb63 : bit (pairVal r p).toNat 63 = true := (bit_toNat ..).trans h63
  have hb28 : bits (pairVal r p).toNat 62 28 = 0 := by
    rw [bits_toNat]
    exact congrArg BitVec.toNat hzero
  have hb22 : bits (pairVal r p).toNat 27 22 = ((pairVal r p).extractLsb' 22 6).toNat := bits_toNat ..
  have hb0 : bits (pairVal r p).toNat 21 0 = ((pairVal r p).extractLsb' 0 22).toNat := bits_toNat ..
  unfold waitAddr valueAddr scrAddr
  simp only [hb63, hal, hb28, hb22, hb0]
  rw [if_neg (by simp), if_pos trivial, if_neg (by simp), if_neg]
  · rfl
  · simp only [hne, decide_false, Bool.false_or, Bool.or_eq_true, decide_eq_true_eq]
    omega

theorem waitAddr_illegal {ot : OpTile} {r : Regs} {p : Fin 32}
    (h : (pairVal r p).getLsbD 63 = false ∨ (pairVal r p).toNat % 8 ≠ 0) : waitAddr ot r p = illegal := by
  unfold waitAddr
  refine if_pos ?_
  rw [bit_toNat]
  simpa using h

theorem waitsAreCaptured : Says.WaitsAreCaptured := by
  intro s t d p b cc ht hr a size
  refine ⟨fun h63 hzero hal hsize hm => ?_, fun h => ?_⟩
  · refine gated_makes ht hr (exec_waitA ..) ?_
    rw [op_run_bind_ok (op_run_get s), waitAddr_scr h63 hzero hal hsize, op_run_bind_ok (op_run_lift_ok ..)]
    exact capture_run hm _
  · refine gated_traps ht hr (exec_waitA ..) ?_
    rw [op_run_bind_ok (op_run_get s), waitAddr_illegal h]
    exact op_run_bind_error (op_run_lift_error ..)

/-! ## Atomics (R95, R279) -/

theorem atCapture_glob {s : State} {t : Thread} {f : AtForm} {va : Nat} {mt : Tag} (hm : MayGate s t)
    (ha : baseAddr (viewOf s t) t.regs f.base f.off (atBytes f) (atBytes f) = .ok (.glob va, mt)) (i : Instr) :
    (atCapture i f t).run s = (.ok (captured t i), s) := by
  unfold atCapture
  rw [op_run_bind_ok (op_run_get s), ha, op_run_bind_ok (op_run_lift_ok ..)]
  exact capture_run hm i

theorem atCapture_scr {s : State} {t : Thread} {f : AtForm} {r o : Nat} {mt : Tag} (hm : MayGate s t)
    (ha : baseAddr (viewOf s t) t.regs f.base f.off (atBytes f) (atBytes f) = .ok (.scr r o, mt))
    (haway : ∀ p ∈ s.ops, p.2.away = false) (hg : granOf (viewRegion s t r) o ≠ some .empty) (i : Instr) :
    (atCapture i f t).run s = (.ok { t with
      blk := { t.blk with stores := t.blk.stores ++ [.atom (atBuild f t.regs (.scr r o) t.ord)] }
      ord := t.ord + 1 }, s) := by
  unfold atCapture
  rw [op_run_bind_ok (op_run_get s), ha, op_run_bind_ok (op_run_lift_ok ..)]
  dsimp only
  rw [op_run_bind_ok (chargeGated_run hm), op_run_bind_ok (touch_ready haway hg)]
  rfl

/-- An atomic that stands for `a` is captured, or joins its block's stores. -/
theorem atomic_enters {s : State} {t : Thread} {i : Instr} {f : AtForm} {b : Base} {off : BitVec 24} {mt : Tag} {a : Atomic}
    (ht : Running s t) (hm : MayGate s t) (hi : exec i s = runAtomic i f s) (hb : f.base = b) (hoff : f.off = off.toInt)
    (hf : ∀ r o, atBuild f t.regs (.scr r o) t.ord = { a with loc := .scr r o, ord := t.ord }) :
    (∀ va, AddressIs s t b off (atBytes f) (atBytes f) (.glob va) mt → Makes s i (captured t i))
    ∧ ∀ r o, AddressIs s t b off (atBytes f) (atBytes f) (.scr r o) mt →
        (∀ e, Reaches s t (.scr r o) (atBytes f) true e) →
        Makes s i { t with
          blk := { t.blk with stores := t.blk.stores ++ [.atom { a with loc := .scr r o, ord := t.ord }] }
          ord := t.ord + 1 } := by
  subst hb
  refine ⟨fun va ha => ?_, fun r o ha hr => ?_⟩
  · rw [AddressIs, ← hoff] at ha
    exact gated_makes ht hm.1 hi (atCapture_glob hm ha i)
  · rw [AddressIs, ← hoff] at ha
    obtain ⟨haway, hg⟩ := hr ⟨0, 0, false, 0, false, false, false, false, 0⟩
    have hpos : 0 < atBytes f := by
      unfold atBytes
      split <;> decide
    rw [← hf]
    exact gated_makes ht hm.1 hi (atCapture_scr hm ha haway (hg 0 hpos) i)

theorem atomicsAreCaptured : Says.AtomicsAreCaptured := by
  intro s t x mt ht hm enters n atom
  refine ⟨fun p hp => ?_, fun d => ?_, fun d c => ?_, fun d => ?_⟩
  · simp only [commutative, List.mem_cons, List.not_mem_nil, or_false] at hp
    rcases hp with rfl | rfl | rfl | rfl | rfl | rfl
    · exact atomic_enters ht hm (exec_atAdd ..) rfl (sext24_eq_toInt _) fun _ _ => rfl
    · exact atomic_enters ht hm (exec_atMin ..) rfl (sext24_eq_toInt _) fun _ _ => rfl
    · exact atomic_enters ht hm (exec_atMax ..) rfl (sext24_eq_toInt _) fun _ _ => rfl
    · exact atomic_enters ht hm (exec_atAnd ..) rfl (sext24_eq_toInt _) fun _ _ => rfl
    · exact atomic_enters ht hm (exec_atOr ..) rfl (sext24_eq_toInt _) fun _ _ => rfl
    · exact atomic_enters ht hm (exec_atXor ..) rfl (sext24_eq_toInt _) fun _ _ => rfl
  · exact atomic_enters ht hm (exec_atXchg ..) rfl (sext24_eq_toInt _) fun _ _ => rfl
  · exact atomic_enters ht hm (exec_atCas ..) rfl rfl fun _ _ => rfl
  · exact atomic_enters ht hm (exec_atFadd ..) rfl (sext24_eq_toInt _) fun _ _ => rfl

/-- Settles O17: each gated operation is captured at its place, `wait.a` where its address is one of a region; an atomic of a
region joins the block's stores. -/
theorem gatedAndAtomicsAreCaptured : Obligations.GatedAndAtomicsAreCaptured :=
  ⟨gatedOperationsAreCaptured, waitsAreCaptured, atomicsAreCaptured⟩

end Sys2Proof.Machine
end

section
/-! PROOFS. The words the spec writes out (O58). -/

namespace Sys2Proof

/-- Settles O58: each word is the encoding of the operation the spec says it is, so the decoder reads that operation. -/
theorem specWordsDecode : Obligations.SpecWordsDecode :=
  ⟨decodeWord_encode rfl rfl, decodeWord_encode rfl rfl, decodeWord_encode rfl rfl, decodeWord_encode rfl rfl,
    decodeWord_encode rfl rfl, decodeWord_encode rfl rfl, decodeWord_encode rfl rfl, decodeWord_encode rfl rfl,
    decodeWord_encode rfl rfl, decodeWord_encode rfl rfl, decodeWord_encode rfl rfl, decodeWord_encode rfl rfl,
    decodeWord_encode rfl rfl, decodeWord_encode rfl rfl, decodeWord_encode rfl rfl, decodeWord_encode rfl rfl,
    decodeWord_encode rfl rfl, decodeWord_encode rfl rfl, decodeWord_encode rfl rfl, decodeWord_encode rfl rfl,
    decodeWord_encode rfl rfl, decodeWord_encode rfl rfl, decodeWord_encode rfl rfl, decodeWord_encode rfl rfl,
    decodeWord_encode rfl rfl, decodeWord_encode rfl rfl, decodeWord_encode rfl rfl, sealOf_encode (f := .jexcy) rfl rfl⟩

end Sys2Proof
end

section
/-! PROOFS. What a step does in a sequencer's turn, and with an event (O56). -/

namespace Sys2Proof.Machine
open Sys2Proof.Says

/-! ## The ports catch up: time has passed, and nothing but the tiles' allotments changes (R392) -/

theorem refillPorts_same (s : State) : refillPorts s = { s with tiles := (refillPorts s).tiles } := by
  refine foldl_keeps (fun u : State => u = { s with tiles := u.tiles }) catchUp (fun u k h => ?_) _ s rfl
  unfold catchUp
  split
  · exact h
  · rw [h]
    rfl

theorem refillGroup_retiring (s : State) (t : Tile) (g : Nat) : (refillGroup s t g).retiring = t.retiring := by
  unfold refillGroup
  dsimp only
  split <;> rfl

theorem refillPort_retiring (s : State) (t : Tile) : (refillPort s t).retiring = t.retiring := by
  have hgroups : ((sharers s).foldl (refillGroup s) t).retiring = t.retiring :=
    foldl_keeps (fun u : Tile => u.retiring = t.retiring) _ (fun u g h => (refillGroup_retiring s u g).trans h) _ t rfl
  unfold refillPort
  dsimp only
  apply foldl_keeps (fun p : Tile × Int => p.1.retiring = t.retiring)
  · intro p g h
    exact h
  · exact hgroups

theorem refillTimes_retiring (s : State) (n : Nat) (t : Tile) : (refillTimes s n t).retiring = t.retiring := by
  induction n generalizing t with
  | zero => rfl
  | succ n ih => exact (ih _).trans (refillPort_retiring s t)

theorem refillBy_retiring (s : State) (tile n k : Nat) : ((refillBy s tile n).tile k).retiring = (s.tile k).retiring := by
  by_cases hk : k = tile
  · subst hk
    unfold refillBy
    dsimp only
    rw [tile_setTile_same]
    dsimp only
    split
    · rfl
    · exact refillTimes_retiring ..
  · rw [refillBy, tile_setTile_ne _ _ _ _ hk]

theorem refillPorts_retiring (s : State) (k : Nat) : ((refillPorts s).tile k).retiring = (s.tile k).retiring := by
  refine foldl_keeps (fun u : State => (u.tile k).retiring = (s.tile k).retiring) catchUp (fun u j h => ?_) _ s rfl
  unfold catchUp
  split
  · exact h
  · exact (refillBy_retiring ..).trans h

/-! ## The results that fall due change registers alone (R36) -/

/-- The fields of a sequencer that say what it runs and where. -/
structure SamePlace (t u : Thread) : Prop where
  form : u.form = t.form
  pc : u.pc = t.pc
  launch : u.launch = t.launch
  shot : u.shot = t.shot

theorem applyDest_samePlace {t u : Thread} (h : SamePlace t u) (d : Dest) (g : Tag) : SamePlace t (applyDest u d g) := by
  cases d with
  | s n x =>
    unfold applyDest
    dsimp only
    split <;> exact ⟨h.form, h.pc, h.launch, h.shot⟩
  | h | q | c | t | v => exact ⟨h.form, h.pc, h.launch, h.shot⟩

theorem pushLatch_samePlace {t u : Thread} (h : SamePlace t u) (g : Fin 2) (x : VReg) (tag : Tag) :
    SamePlace t (pushLatch u g x tag) := by
  unfold pushLatch
  dsimp only
  split <;> exact ⟨h.form, h.pc, h.launch, h.shot⟩

theorem tick_samePlace (t : Thread) : SamePlace t t.tick := by
  unfold Thread.tick
  dsimp only
  apply foldl_keeps (SamePlace t)
  · intro u w h
    exact ⟨h.form, h.pc, h.launch, h.shot⟩
  apply foldl_keeps (SamePlace t)
  · intro u w h
    exact pushLatch_samePlace h ..
  apply foldl_keeps (SamePlace t)
  · intro u w h
    exact applyDest_samePlace h ..
  exact ⟨rfl, rfl, rfl, rfl⟩

/-! ## Turns -/

theorem step_eq_closes (s : State) : step s = closes s (oneTurn s) := rfl

theorem runStopping_iff {s : State} {t : Thread} : runStopping s t = true ↔ ∃ p, s.pondOf t.op = some p ∧ p.2.stopping = true := by
  unfold runStopping
  cases s.pondOf t.op <;> simp

/-- The machine at a sequencer's turn is the one before it, its agenda and time moved on and its ports refilled. -/
structure TurnStart (s s0 : State) : Prop where
  threads : s0.threads = s.threads
  ops : s0.ops = s.ops
  cur : s0.cur = s.cur
  retiring : ∀ k, (s0.tile k).retiring = (s.tile k).retiring

theorem turnStart_refillPorts {s u : State} (hth : u.threads = s.threads) (hop : u.ops = s.ops) (hcur : u.cur = s.cur)
    (hti : u.tiles = s.tiles) : TurnStart s (refillPorts u) := by
  have h := refillPorts_same u
  refine ⟨?_, ?_, ?_, fun k => ?_⟩
  · rw [h, hth]
  · rw [h, hop]
  · rw [h, hcur]
  · rw [refillPorts_retiring]
    simp only [State.tile, hti]

theorem turnStart_of {s s0 : State} {k : Nat} (h : TurnOf s s0 k) : TurnStart s s0 := by
  obtain ⟨-, ⟨n, rest, -, rfl⟩ | ⟨-, -, rfl⟩⟩ := h
  · exact turnStart_refillPorts rfl rfl rfl rfl
  · exact turnStart_refillPorts rfl rfl rfl rfl

theorem refillPorts_off (s : State) : (refillPorts s).off = s.off := by
  rw [refillPorts_same]

theorem oneTurn_empty {s : State} (ha : s.agenda = []) :
    oneTurn s = if s.off then .next s else defaultTurn (refillPorts { s with time := s.time + 1 }) := by
  unfold oneTurn
  split
  · rfl
  · next heq => exact nomatch heq.symm.trans ha

theorem oneTurn_named {s : State} {k n : Nat} {rest : List Turn} (ha : s.agenda = ⟨n, .thread k⟩ :: rest) (hoff : s.off = false) :
    oneTurn s = threadTurn (refillPorts { s with agenda := rest, time := s.time + BitVec.ofNat 64 n }) k := by
  unfold oneTurn
  split
  · next heq => exact nomatch heq.symm.trans ha
  · next heq =>
    cases heq.symm.trans ha
    exact if_neg (by simp [refillPorts_off, hoff])

theorem oneTurn_bringUp {s : State} {fs : BootFailures} {us : List (BitVec 6)} {n : Nat} {rest : List Turn}
    (ha : s.agenda = ⟨n, .event (.bringUp fs us)⟩ :: rest) :
    oneTurn s = exec (.bringUp fs us) (refillPorts { s with agenda := rest, time := s.time + BitVec.ofNat 64 n }) := by
  unfold oneTurn
  split
  · next heq => exact nomatch heq.symm.trans ha
  · next heq =>
    cases heq.symm.trans ha
    rfl

/-- Any other event than a bring-up takes place with power only. -/
theorem oneTurn_event {s : State} {i : Instr} {n : Nat} {rest : List Turn} (ha : s.agenda = ⟨n, .event i⟩ :: rest)
    (hi : ∀ fs us, i ≠ .bringUp fs us) :
    let u := refillPorts { s with agenda := rest, time := s.time + BitVec.ofNat 64 n }
    oneTurn s = if u.off then .next u else exec i u := by
  unfold oneTurn
  split
  · next heq => exact nomatch heq.symm.trans ha
  · next heq =>
    cases heq.symm.trans ha
    dsimp only
    split
    · next heq' => exact absurd (Who.event.inj heq') (hi _ _)
    · next heq' => rw [Who.event.inj heq']
    · next heq' => exact nomatch heq'

theorem oneTurn_stopping_named {s s0 : State} {k : Nat} {t : Thread} (h : TurnOf s s0 k) (ht : mfind s0.threads k = some t)
    (hstop : runStopping s0 t = true) (ha : s.agenda ≠ []) : oneTurn s = .next s0 := by
  obtain ⟨hoff, ⟨n, rest, hag, rfl⟩ | ⟨hag, -⟩⟩ := h
  · simp only [oneTurn_named hag hoff, threadTurn, ht, hstop, if_true]
  · exact absurd hag ha

theorem oneTurn_default {s s0 : State} {k : Nat} (h : TurnOf s s0 k) (ha : s.agenda = []) : oneTurn s = defaultTurn s0 := by
  obtain ⟨hoff, ⟨n, rest, hag, -⟩ | ⟨-, -, rfl⟩⟩ := h
  · exact nomatch hag.symm.trans ha
  · rw [oneTurn_empty ha, if_neg (by simp [hoff])]

theorem turnOf_cur {s s0 : State} {k : Nat} (h : TurnOf s s0 k) (ha : s.agenda = []) : s0.cur = k := by
  have hcur := (turnStart_of h).cur
  obtain ⟨-, ⟨n, rest, hag, -⟩ | ⟨-, hk, -⟩⟩ := h
  · exact nomatch hag.symm.trans ha
  · rw [hcur, hk]

theorem defaultTurn_stopping {s : State} {t : Thread} (ht : mfind s.threads s.cur = some t) (hstop : runStopping s t = true) :
    defaultTurn s = .next (rotate ((firstEvent s).getD s)) := by
  simp only [defaultTurn, ht, hstop, Option.any_some, Bool.not_true, Bool.and_false, Bool.false_eq_true, if_false]

theorem defaultTurn_ready {s : State} {t : Thread} (ht : mfind s.threads s.cur = some t) (hstop : runStopping s t = false)
    (hready : t.ready = true) : defaultTurn s = threadTurn s s.cur := by
  simp only [defaultTurn, ht, hstop, hready, Option.any_some, Bool.not_false, Bool.and_true, if_true]

theorem oneTurn_thread {s s0 : State} {k : Nat} {t : Thread} (h : TurnOf s s0 k) (ht : mfind s0.threads k = some t)
    (hstop : runStopping s0 t = false) (hready : t.ready = true) : oneTurn s = threadTurn s0 k := by
  by_cases ha : s.agenda = []
  · have hk := turnOf_cur h ha
    subst hk
    rw [oneTurn_default h ha, defaultTurn_ready ht hstop hready]
  · obtain ⟨hoff, ⟨n, rest, hag, rfl⟩ | ⟨hag, -⟩⟩ := h
    · exact oneTurn_named hag hoff
    · exact absurd hag ha

theorem threadTurn_running {s : State} {k : Nat} {t : Thread} (ht : mfind s.threads k = some t) (hstop : runStopping s t = false)
    (hrun : t.run = .running) :
    threadTurn s k = if pastDeadline s t then .next (raiseTrap s k t .deadline 0) else runUnit s k t := by
  simp only [threadTurn, ht, hstop, hrun, Bool.false_eq_true, if_false]

theorem threadTurn_issuing {s : State} {k : Nat} {t : Thread} (ht : mfind s.threads k = some t) (hstop : runStopping s t = false)
    (hrun : t.run = .issuing) : threadTurn s k = issueTurn s k t := by
  simp only [threadTurn, ht, hstop, hrun, Bool.false_eq_true, if_false]

/-! ## A unit -/

theorem withFlow_same {t : Thread} {f : Flow} (h : t.flow = f) : { t with flow := f } = t := by
  rw [← h]

theorem runUnit_outside {s : State} {k : Nat} {t : Thread} (hn : t.flow = .normal)
    (hc : ({ s with cur := k } : State).codeHas t t.pc = false) :
    runUnit s k t = .next (raiseTrap { s with cur := k } k t.tick .illegal 0) := by
  simp only [runUnit, withFlow_same hn, hc, Bool.not_false, if_true]

theorem runUnit_unmapped {s : State} {k : Nat} {t : Thread} (hn : t.flow = .normal)
    (hc : ({ s with cur := k } : State).codeHas t t.pc = true) (hb : fetchBad { s with cur := k } t.tick = some .missing) :
    runUnit s k t = .next (raiseTrap { s with cur := k } k t.tick .translation 0) := by
  simp only [runUnit, withFlow_same hn, hc, hb, Bool.not_true, Bool.false_eq_true, if_false, Option.isSome_some, if_true,
    Option.getD_some, fetchTrap]

/-- A unit that is fetched and decodes runs with the results that fall due in their registers; no shot is armed. -/
theorem runUnit_runs {s : State} {k : Nat} {t : Thread} {is : List Instr} (hn : t.flow = .normal)
    (hc : ({ s with cur := k } : State).codeHas t t.pc = true) (hb : fetchBad { s with cur := k } t.tick = none)
    (hshot : t.shot = false) (hf : fetchUnit { s with cur := k } t.tick t.tick.pc.toNat = .ok is) :
    runUnit s k t = match runSlots is ((claimUnit { s with cur := k } t.tick is).setThread k t.tick) with
      | .next u => .next (afterUnit k t is u)
      | r => r := by
  have hplain : t.tick.shot = false := (tick_samePlace t).shot.trans hshot
  have hinj : injectUnit { s with cur := k } t.tick is = (is, false) := by
    simp only [injectUnit, hplain, Bool.not_false, Bool.true_or, if_true]
  have hsame : { t.tick with shot := t.tick.shot && !false } = t.tick := by simp
  simp only [runUnit, withFlow_same hn, hc, hb, hf, hinj, hsame, Bool.not_true, Bool.false_eq_true, if_false, Option.isSome_none]
  cases runSlots is ((claimUnit { s with cur := k } t.tick is).setThread k t.tick) with
  | next u =>
    dsimp only [afterUnit]
    cases mfind u.threads k with
    | none => rfl
    | some w => cases hw : w.flow <;> simp only [hw]
  | fault | refused => rfl

theorem fetchUnit_jexcy {s : State} {t : Thread} {i : Instr} (hf : t.form = .jexcy)
    (h : decodeJexcy (fetch4 s t.launch.pasid.toNat t.pc.toNat) = .ok i) :
    fetchUnit s t.tick t.tick.pc.toNat = .ok [i] := by
  obtain ⟨hform, hpc, hlaunch, -⟩ := tick_samePlace t
  simp only [fetchUnit, hform, hf, hpc, hlaunch, h, Except.map]

theorem fetchUnit_native {s : State} {t : Thread} {c a v m : W64} {is : List Instr} (hf : t.form = .native)
    (hw : fetch4 s t.launch.pasid.toNat t.pc.toNat = [c, a, v, m]) (h : decodeBundle c a v m = .ok is) :
    fetchUnit s t.tick t.tick.pc.toNat = .ok is := by
  obtain ⟨hform, hpc, hlaunch, -⟩ := tick_samePlace t
  simp only [fetchUnit, hform, hf, hpc, hlaunch, hw, h]

theorem runSlots_one (i : Instr) (s : State) : runSlots [i] s = exec i s := by
  unfold runSlots
  cases exec i s with
  | next u =>
    dsimp only
    cases mfind u.threads u.cur with
    | none => rfl
    | some t => simp only [runSlots, ite_self]
  | fault | refused => rfl

theorem runUnit_jexcy {s : State} {k : Nat} {t : Thread} {i : Instr} (hn : t.flow = .normal)
    (hc : ({ s with cur := k } : State).codeHas t t.pc = true) (hb : fetchBad { s with cur := k } t.tick = none)
    (hshot : t.shot = false) (hf : t.form = .jexcy)
    (hdec : decodeJexcy (fetch4 { s with cur := k } t.launch.pasid.toNat t.pc.toNat) = .ok i) :
    runUnit s k t = match exec i ((claimUnit { s with cur := k } t.tick [i]).setThread k t.tick) with
      | .next u => .next (afterUnit k t [i] u)
      | r => r := by
  rw [runUnit_runs hn hc hb hshot (fetchUnit_jexcy hf hdec), runSlots_one]

/-! ## A gated operation at the seal -/

theorem issueTurn_issues {s : State} {k : Nat} {t : Thread} {g : Gated} {rest : List Gated} (hn : t.flow = .normal)
    (hi : t.issue = g :: rest)
    (hgo : ((mfind s.ops t.op).any (·.stopping) && !(s.tile t.tile).retiring) = false) :
    let w : Thread := { t with waited := false, waitEnd := if t.waited then s.time.toNat else t.waitEnd }
    issueTurn s k t = match exec g.instr { s.setThread k w with cur := k } with
      | .next u => .next (afterIssue k u)
      | r => r := by
  intro w
  have htile (x : Thread) : (s.setThread k x).tile t.tile = s.tile t.tile := rfl
  unfold issueTurn
  dsimp only
  split
  · next g' rest' hi' =>
    cases hi'.symm.trans hi
    rw [State.setThread_ops, ← hn]
    change (match exec g.instr { s.setThread k w with cur := k } with | .next _ => _ | r => r) = _
    cases exec g.instr { s.setThread k w with cur := k } with
    | next u =>
      simp only [afterIssue]
      cases mfind u.threads k with
      | none => rfl
      | some x =>
        cases hx : x.flow with
        | stalled n =>
          simp only [hx]
          rw [if_neg (by rw [← htile w] at hgo; exact Bool.eq_false_iff.mp hgo)]
        | normal | redirected => simp only [hx]
    | fault | refused => rfl
  · next hi' => exact nomatch hi'.symm.trans hi

theorem stepRunsDecoded : Says.StepRunsDecoded := by
  intro s s0 k t hturn ht hn sk s1 ws stops
  have hstart := turnStart_of hturn
  have ht0 : mfind s0.threads k = some t := by rw [hstart.threads, ht]
  have hgoes (h : ¬ stops) : runStopping s0 t = false := Bool.eq_false_iff.mpr fun hr => h (runStopping_iff.mp hr)
  have hready (h : t.run = .running ∨ t.run = .issuing) : t.ready = true := by
    rcases h with h | h <;> simp [Thread.ready, Thread.live, hn, h]
  rw [step_eq_closes]
  refine ⟨fun h ha => ?_, fun h ha => ?_, fun h hrun => ?_, fun g rest h hrun hi hgo => ?_⟩
  · rw [oneTurn_stopping_named hturn ht0 (runStopping_iff.mpr h) ha]
  · rw [oneTurn_default hturn ha, defaultTurn_stopping (by rw [turnOf_cur hturn ha, ht0]) (runStopping_iff.mpr h)]
  · rw [oneTurn_thread hturn ht0 (hgoes h) (hready (.inl hrun)), threadTurn_running ht0 (hgoes h) hrun]
    refine ⟨fun hd => by simp only [hd, if_true], fun hd => ?_⟩
    simp only [hd, Bool.false_eq_true, if_false]
    refine ⟨fun hc => ?_, fun hc hb => ?_, fun hc hb hshot => ⟨fun i hf hdec => ?_, fun c a v m is hf hw hdec => ?_⟩⟩
    · rw [runUnit_outside hn hc]
    · rw [runUnit_unmapped hn hc hb]
    · exact congrArg (closes s) (runUnit_jexcy hn hc hb hshot hf hdec)
    · exact congrArg (closes s) (runUnit_runs hn hc hb hshot (fetchUnit_native hf hw hdec))
  · have hstays : ((mfind s0.ops t.op).any (·.stopping) && !(s0.tile t.tile).retiring) = false := by
      rw [hstart.ops, hstart.retiring]
      cases ho : mfind s.ops t.op with
      | none => rfl
      | some o => rcases hgo o ho with h | h <;> simp [h]
    rw [oneTurn_thread hturn ht0 (hgoes h) (hready (.inr hrun)), threadTurn_issuing ht0 (hgoes h) hrun]
    exact congrArg (closes s) (issueTurn_issues hn hi hstays)

theorem stepRunsEvents : Says.StepRunsEvents := by
  refine fun s => ⟨fun n i rest hag => ⟨fun h => ?_, fun h hi => ?_, fun fs us hi => ?_⟩, fun hag h => ?_⟩
  · by_cases hi : ∃ fs us, i = .bringUp fs us
    · obtain ⟨fs, us, rfl⟩ := hi
      rw [step_eq_closes, oneTurn_bringUp hag]
    · push Not at hi
      rw [step_eq_closes, oneTurn_event hag hi, if_neg (by simp [refillPorts_off, h])]
  · rw [step_eq_closes, oneTurn_event hag hi, if_pos (by rw [refillPorts_off, h])]
  · subst hi
    rw [step_eq_closes, oneTurn_bringUp hag]
  · rw [step_eq_closes, oneTurn_empty hag, if_pos h]

/-- Settles O56: the turn is the named sequencer's, or the running one's; a unit that is fetched and decodes is run by
`runSlots`, and an event by `exec`. -/
theorem stepRunsItsTurn : Obligations.StepRunsItsTurn :=
  ⟨stepRunsDecoded, stepRunsEvents⟩

end Sys2Proof.Machine
end

section
/-! PROOFS. Where a vector result goes: a register and its latches, or a write port (O29). -/

namespace Sys2Proof.Machine
open Sys2Proof.Says

/-! ## The bytes of a number -/

theorem leBytes_eq_map (n x : Nat) : leBytes n x = (List.range n).map fun j => BitVec.ofNat 8 (x / 256 ^ j) := by
  induction n generalizing x with
  | zero => rfl
  | succ n ih =>
    rw [List.range_succ_eq_map, List.map_cons, List.map_map, leBytes, ih, pow_zero, Nat.div_one]
    refine congrArg _ (List.map_congr_left fun j _ => ?_)
    rw [Function.comp_apply, Nat.div_div_eq_div_mul, Nat.pow_succ']

theorem bytesFrom_eq_map {w : Nat} (x : BitVec w) (k n : Nat) :
    bytesFrom x.toNat k n = (List.range n).map fun j => x.extractLsb' (8 * (k + j)) 8 := by
  rw [bytesFrom, leBytes_eq_map]
  refine List.map_congr_left fun j _ => ?_
  rw [BitVec.extractLsb', Nat.shiftRight_eq_div_pow, Nat.div_div_eq_div_mul, ← pow_add, pow_mul]
  rfl

/-! ## The declared limits (R42): they depend on the place of the sequencer alone -/

theorem sealWordAt_congr {s : State} {t u : Thread} (hl : u.launch = t.launch) (hf : u.form = t.form) (n a : Nat) :
    sealWordAt s u n a = sealWordAt s t n a := by
  induction n generalizing a with
  | zero => rfl
  | succ n ih => rw [sealWordAt, sealWordAt, hl, hf, ih]

theorem declared_congr {s : State} {t u : Thread} (hl : u.launch = t.launch) (hf : u.form = t.form) (hp : u.pc = t.pc) :
    declared s u = declared s t := by
  have hg (a : Nat) : sealGroup s u a = sealGroup s t a := by simp only [sealGroup, fetchUnit, hl, hf]
  simp only [declared, sealWordAt_congr hl hf, hp, hg]

theorem nameV_run {s : State} {t u : Thread} {r : Fin 96} (h : MayName s t r) (hl : u.launch = t.launch) (hf : u.form = t.form)
    (hp : u.pc = t.pc) (hv : u.blk.vNamed = t.blk.vNamed) :
    (nameV u r).run s = (.ok { u with blk := { u.blk with
      vNamed := if t.blk.vNamed.contains r then t.blk.vNamed else r :: t.blk.vNamed } }, s) := by
  unfold nameV
  rw [hv]
  by_cases hc : t.blk.vNamed.contains r = true
  · simp only [hc, if_true]
    rw [← hv]
    rfl
  · obtain hm | ⟨x, hd, hx⟩ := h
    · exact absurd (List.contains_iff_mem.mpr hm) hc
    · rw [if_neg hc, if_neg hc, op_run_bind_ok (op_run_get s)]
      simp only [declared_congr hl hf hp, hd]
      rw [if_neg (by omega)]
      rfl

theorem vectorResultIsWritten : Says.VectorResultIsWritten := by
  intro s t lat reg nw r x g k e n act hm hlat m named
  have hlat0 : lat ≠ 0 := by omega
  refine ⟨fun hf => ?_, fun hf hnw => ?_⟩
  · unfold putV
    cases nw with
    | true => simp [putLatch_native hf, addSig, named]
    | false =>
      simp only [Bool.false_eq_true, if_false, hlat0, putLatch_native hf]
      have hname := nameV_run (u := putLatch t lat 1 ((t.v[r] &&& ~~~m) ||| x) g) hm (by simp [putLatch_native hf])
        (by simp [putLatch_native hf]) (by simp [putLatch_native hf]) (by simp [putLatch_native hf])
      rw [putLatch_native hf] at hname
      rw [op_run_bind_ok hname, putDest_native (by exact hf)]
      simp [named, newTag, m]
  · subst hnw
    unfold putV
    simp only [Bool.false_eq_true, if_false, hlat0, putLatch_jexcy hf]
    rw [op_run_bind_ok (nameV_run hm rfl rfl rfl rfl), putDest_jexcy (by exact hf)]
    exact ⟨_, rfl, rfl, rfl, rfl, rfl⟩

theorem chargeStores_run {s : State} {t : Thread} {z : SealData} {n : Nat} (hd : declared s t = some z)
    (hn : (t.blk.storeBytes + n + 31) / 32 ≤ z.stores.toNat) :
    (chargeStores t n).run s = (.ok { t with blk := { t.blk with storeBytes := t.blk.storeBytes + n } }, s) := by
  unfold chargeStores
  rw [op_run_bind_ok (op_run_get s)]
  simp only [hd]
  rw [if_neg (by simp only [ceilDiv]; omega)]
  rfl

section
variable {s : State} {t : Thread} {lat reg : Nat} {nw : Bool} {p : Fin 2} {x : VReg} {g k : Tag} {e n : Nat} {act : Nat → Bool}

/-- The place of a write port's walker. -/
def portPlace (p : Fin 2) : Fin 6 := ⟨4 + p.val, by omega⟩

theorem putV_port_error {c : Stop} (hu : useWalker t.regs (portPlace p) = .error c) :
    (putV t lat reg nw (.port p) x g k e n act).run s = (.error c, s) := by
  simp only [putV]
  exact op_run_bind_error (congrArg (fun r => (liftM r : Op Walker).run s) hu)

theorem putV_port_stores {w : Walker} {z : SealData} {ad : Addr} {s' : State} {t' : Thread}
    (hu : useWalker t.regs (portPlace p) = .ok w) (ha : walkerAddr (viewOf s t) w = .ok ad)
    (hd : declared s t = some z) (hn : (t.blk.storeBytes + 1024 + 31) / 32 ≤ z.stores.toNat)
    (hp : (portStores { t with blk := { t.blk with storeBytes := t.blk.storeBytes + 1024 } } ad x e act n).run s
      = (.ok t', s')) :
    (putV t lat reg nw (.port p) x g k e n act).run s
      = (.ok (setWalker (storeSig t' k g w.lineage 0) (portPlace p) (walkerAdvance w)), s') := by
  have hwalker : (liftM (useWalker t.regs (portPlace p)) : Op Walker).run s = (.ok w, s) := by rw [hu, op_run_lift_ok]
  have haddr : (liftM (walkerAddr (viewOf s t) w) : Op Addr).run s = (.ok ad, s) := by rw [ha, op_run_lift_ok]
  simp only [putV]
  refine (op_run_bind_ok hwalker).trans ?_
  rw [op_run_bind_ok (op_run_get s), op_run_bind_ok haddr, op_run_bind_ok (chargeStores_run hd hn), op_run_bind_ok hp]
  rfl

end

theorem setWalker_blk (t : Thread) (b : Block) (p : Fin 2) (w : Walker) :
    setWalker { t with blk := b } (portPlace p) w
      = { t with blk := b, regs := { t.regs with w := t.regs.w.set (4 + p.val) w } } := rfl

theorem vectorPortIsWritten : Says.VectorPortIsWritten := by
  intro s s' t t' lat reg nw p x g k e n act z ad w put
  have hw : t.regs.w[portPlace p] = w := rfl
  refine ⟨fun hc => putV_port_error ?_, fun hc hb => putV_port_error ?_, fun hc hb ha hd hn hs => ?_⟩
  · simp [useWalker, hw, hc, illegal]
  · simp [useWalker, hw, hc, hb]
  · have hu : useWalker t.regs (portPlace p) = .ok w := by simp [useWalker, hw, hc, hb]
    refine (putV_port_stores hu ha hd hn ?_ (s' := s') (t' := t')).trans ?_
    · rw [portStores]
      simp only [bytesFrom_eq_map]
      exact hs
    · rw [storeSig, addSig, setWalker_blk, fold]

/-- Settles O29: `putV` for a register names it within the declared limit and sends the result; for a write port it
charges the block's stores and buffers the active lanes. -/
theorem vectorResultsAreWritten : Obligations.VectorResultsAreWritten :=
  ⟨vectorResultIsWritten, vectorPortIsWritten⟩

end Sys2Proof.Machine
end

section
/-! PROOFS. Matrix commands at their places: the captured registers and the walkers of the read ports (O39). -/

namespace Sys2Proof.Machine
open Sys2Proof.Says

/-! ## Walkers -/

theorem useWalker_ok {r : Regs} {k : Fin 6} (hc : r.w[k].configured = true) (hb : r.w[k].busy = false) :
    useWalker r k = .ok r.w[k] := by
  simp only [useWalker, hc, hb, Bool.not_true, Bool.false_eq_true, if_false]

theorem useWalker_unconfigured {r : Regs} {k : Fin 6} (hc : r.w[k].configured = false) :
    useWalker r k = .error (.trap .illegal 0) := by
  simp only [useWalker, hc, Bool.not_false, if_true, illegal]

theorem portWalker_inj {p q : Fin 4} (h : portWalker p = portWalker q) : p = q := by
  simpa [portWalker, Fin.ext_iff] using h

theorem capturePort_run {s : State} {t : Thread} {p : Fin 4 × Nat} (hc : t.regs.w[portWalker p.1].configured = true)
    (hb : t.regs.w[portWalker p.1].busy = false) :
    (capturePort t p).run s = (.ok (setWalker t (portWalker p.1) (walkerSteps p.2 t.regs.w[portWalker p.1])), s) := by
  simp only [capturePort, useWalker_ok hc hb]
  rfl

theorem capturePort_unconfigured {s : State} {t : Thread} {p : Fin 4 × Nat}
    (hc : t.regs.w[portWalker p.1].configured = false) : (capturePort t p).run s = (.error (.trap .illegal 0), s) := by
  simp only [capturePort, useWalker_unconfigured hc]
  rfl

/-- The sequencer `u` is `t` with its walkers past the pops through `ports`. -/
structure Popped (t : Thread) (ports : List (Fin 4 × Nat)) (u : Thread) : Prop where
  rest : u = { t with regs := { t.regs with w := u.regs.w } }
  named : ∀ p ∈ ports, u.regs.w[portWalker p.1] = walkerSteps p.2 t.regs.w[portWalker p.1]
  others : ∀ k, (∀ p ∈ ports, portWalker p.1 ≠ k) → u.regs.w[k] = t.regs.w[k]

theorem setWalker_same (t : Thread) (k : Fin 6) (w : Walker) : (setWalker t k w).regs.w[k] = w := by
  simp [setWalker]

theorem setWalker_ne (t : Thread) {k j : Fin 6} (h : k ≠ j) (w : Walker) : (setWalker t k w).regs.w[j] = t.regs.w[j] := by
  have h' : k.val ≠ j.val := fun e => h (Fin.ext e)
  simp [setWalker, Vector.getElem_set_ne, h']

theorem capturePorts_run {s : State} {ports : List (Fin 4 × Nat)} (hd : (ports.map (·.1)).Nodup) (t : Thread)
    (hok : ∀ p ∈ ports, t.regs.w[portWalker p.1].configured = true ∧ t.regs.w[portWalker p.1].busy = false) :
    ∃ u, (ports.foldlM capturePort t).run s = (.ok u, s) ∧ Popped t ports u := by
  induction ports generalizing t with
  | nil => exact ⟨t, rfl, rfl, by simp, fun _ _ => rfl⟩
  | cons p ps ih =>
    obtain ⟨hp, hps⟩ := List.nodup_cons.mp hd
    have hne (q : Fin 4 × Nat) (hq : q ∈ ps) : portWalker p.1 ≠ portWalker q.1 := fun e =>
      hp (List.mem_map.mpr ⟨q, hq, (portWalker_inj e).symm⟩)
    let v := setWalker t (portWalker p.1) (walkerSteps p.2 t.regs.w[portWalker p.1])
    obtain ⟨u, hu, hrest, hnamed, hothers⟩ := ih hps v fun q hq => by
      rw [setWalker_ne t (hne q hq)]
      exact hok q (.tail _ hq)
    refine ⟨u, ?_, hrest, fun q hq => ?_, fun k hk => ?_⟩
    · rw [List.foldlM_cons, op_run_bind_ok (capturePort_run (hok p (.head _)).1 (hok p (.head _)).2)]
      exact hu
    · rcases List.mem_cons.mp hq with rfl | hq
      · rw [hothers _ fun r hr => (hne r hr).symm, setWalker_same]
      · rw [hnamed q hq, setWalker_ne t (hne q hq)]
    · rw [hothers k fun q hq => hk q (.tail _ hq), setWalker_ne t (hk p (.head _))]

/-! ## Capture (R242) -/

theorem operandLineages_nil (ot : OpTile) (r : Regs) : operandLineages ot r [] = r := by
  simp [operandLineages]

section
variable {s : State} {t : Thread} {i : Instr} {iss : Gated → Thread → Op Thread} (ht : Running s t) (hm : MayGate s t)
  (hi : exec i s = runGated i (matrixCapture i) iss s)
include ht hm hi

theorem matrix_captured (hp : matrixPorts i = []) : Makes s i (captured t i) := by
  refine gated_makes ht hm.1 hi ?_
  unfold matrixCapture
  rw [op_run_bind_ok (chargeGated_run hm), hp]
  dsimp only
  rw [op_run_bind_ok (op_run_get s)]
  simp only [operandLineages_nil]
  rfl

theorem matrix_pops (hd : ((matrixPorts i).map (·.1)).Nodup)
    (hok : ∀ p ∈ matrixPorts i, t.regs.w[portWalker p.1].configured = true ∧ t.regs.w[portWalker p.1].busy = false) :
    ∃ u t', Makes s i t' ∧ Popped t (matrixPorts i) u ∧ t'.ord = t.ord + 1 ∧ t'.v = t.v ∧ t'.regs = u.regs
      ∧ t'.blk.gated.length = t.blk.gated.length + 1 := by
  obtain ⟨u, hu, hpop⟩ := capturePorts_run (s := s) hd t hok
  have hrest := hpop.rest
  let g : Gated :=
    { instr := i, regs := operandLineages (viewOf s t) t.regs (matrixPorts i), bundle := t.pc, ord := t.ord }
  refine ⟨u, { u with blk := { u.blk with gated := u.blk.gated ++ [g] }, ord := t.ord + 1 }, ?_, hpop, rfl, ?_, rfl, ?_⟩
  · refine gated_makes ht hm.1 hi ?_
    unfold matrixCapture
    rw [op_run_bind_ok (chargeGated_run hm), op_run_bind_ok (op_run_get s), op_run_bind_ok hu]
    rw [hrest]
    rfl
  · rw [hrest]
  · rw [hrest]
    simp

theorem matrix_unconfigured {p : Fin 4 × Nat} {ps : List (Fin 4 × Nat)} (hp : matrixPorts i = p :: ps)
    (hc : t.regs.w[portWalker p.1].configured = false) : Traps s t i .illegal := by
  refine gated_traps ht hm.1 hi ?_
  unfold matrixCapture
  rw [op_run_bind_ok (chargeGated_run hm), op_run_bind_ok (op_run_get s), hp, List.foldlM_cons]
  exact op_run_bind_error (op_run_bind_error (capturePort_unconfigured hc))

end

/-! ## The ports of a product (R255) -/

theorem operandPorts_nodup (a b : MSrc) (n : Nat) : ((operandPorts a b n).map (·.1)).Nodup := by
  unfold operandPorts
  split
  · split <;> simp_all
  all_goals simp

/-- The pops of a product through a port. -/
def operandPops (a b : MSrc) (n : Nat) (p : Fin 4) : Nat := (if a = .port p then 2 * n else 0) + if b = .port p then 3 * n else 0

theorem mem_operandPorts {a b : MSrc} {n : Nat} {p : Fin 4 × Nat} (h : p ∈ operandPorts a b n) :
    (a = .port p.1 ∨ b = .port p.1) ∧ p.2 = operandPops a b n p.1 := by
  cases a with
  | handle x =>
    cases b with
    | handle y => simp [operandPorts] at h
    | port q =>
      obtain rfl : p = (q, 3 * n) := by simpa [operandPorts] using h
      simp [operandPops]
  | port q =>
    cases b with
    | handle y =>
      obtain rfl : p = (q, 2 * n) := by simpa [operandPorts] using h
      simp [operandPops]
    | port r =>
      by_cases hqr : q = r
      · subst hqr
        obtain rfl : p = (q, 5 * n) := by simpa [operandPorts] using h
        simp only [operandPops, true_or, if_true, true_and]
        omega
      · have hrq : r ≠ q := Ne.symm hqr
        obtain rfl | rfl : p = (q, 2 * n) ∨ p = (r, 3 * n) := by simpa [operandPorts, hqr] using h
        · simp [operandPops, hrq]
        · simp [operandPops, hqr]

theorem operandPorts_named {a b : MSrc} {p : Fin 4} (n : Nat) (h : a = .port p ∨ b = .port p) :
    ∃ x, (p, x) ∈ operandPorts a b n := by
  rcases h with rfl | rfl
  · cases b with
    | handle => exact ⟨_, .head _⟩
    | port q =>
      simp only [operandPorts]
      split
      · exact ⟨_, .head _⟩
      · exact ⟨_, .head _⟩
  · cases a with
    | handle => exact ⟨_, .head _⟩
    | port q =>
      simp only [operandPorts]
      split
      · next hq =>
        subst hq
        exact ⟨_, .head _⟩
      · exact ⟨_, .tail _ (.head _)⟩

/-- A product's capture moves each walker past its pops, and leaves the others. -/
theorem operandPorts_popped {a b : MSrc} {n : Nat} {t u : Thread} (h : Popped t (operandPorts a b n) u) (p : Fin 4) :
    u.regs.w[portWalker p] = walkerSteps (operandPops a b n p) t.regs.w[portWalker p] := by
  by_cases hp : a = .port p ∨ b = .port p
  · obtain ⟨x, hx⟩ := operandPorts_named n hp
    rw [h.named _ hx, (mem_operandPorts hx).2]
  · have hnone : operandPops a b n p = 0 := by
      rw [not_or] at hp
      simp [operandPops, hp.1, hp.2]
    rw [hnone, h.others]
    · rfl
    · intro q hq e
      obtain rfl := portWalker_inj e
      exact hp (mem_operandPorts hq).1

/-! ## The captures -/

/-- A product's capture: `k` elements of K. -/
theorem product_captured {s : State} {t : Thread} {i : Instr} {iss : Gated → Thread → Op Thread} {x : MMul} {k : Nat}
    (ht : Running s t) (hm : MayGate s t) (hi : exec i s = runGated i (matrixCapture i) iss s)
    (hp : matrixPorts i = operandPorts x.a x.b (ceilDiv k (stepSize x.tyA x.tyB))) :
    (∀ p : Fin 4, x.a = .port p → t.regs.w[p.val].configured = false → Traps s t i .illegal)
    ∧ ((∀ p : Fin 4, x.a = .port p ∨ x.b = .port p →
        t.regs.w[p.val].configured = true ∧ t.regs.w[p.val].busy = false) →
      ∃ t', Makes s i t' ∧ t'.ord = t.ord + 1 ∧ t'.v = t.v ∧ t'.regs.s = t.regs.s
        ∧ t'.blk.gated.length = t.blk.gated.length + 1
        ∧ ∀ p : Fin 4, t'.regs.w[p.val]
          = walkerSteps (operandPops x.a x.b (ceilDiv k (stepSize x.tyA x.tyB)) p) t.regs.w[p.val]) := by
  refine ⟨fun p ha hc => ?_, fun hok => ?_⟩
  · obtain ⟨n, ps, hps⟩ : ∃ n ps, matrixPorts i = (p, n) :: ps := by
      rw [hp, ha]
      cases x.b with
      | handle => exact ⟨_, _, rfl⟩
      | port q =>
        simp only [operandPorts]
        split
        · exact ⟨_, _, rfl⟩
        · exact ⟨_, _, rfl⟩
    exact matrix_unconfigured ht hm hi hps hc
  · obtain ⟨u, t', hmakes, hpop, hord, hv, hregs, hlen⟩ := matrix_pops ht hm hi (by rw [hp]; exact operandPorts_nodup ..)
      (fun p h => hok p.1 (mem_operandPorts (hp ▸ h)).1)
    refine ⟨t', hmakes, hord, hv, ?_, hlen, fun p => ?_⟩
    · rw [hregs, hpop.rest]
    · rw [hregs]
      exact operandPorts_popped (hp ▸ hpop) p

/-- The capture of a command with one port. -/
theorem port_captured {s : State} {t : Thread} {i : Instr} {iss : Gated → Thread → Op Thread} {p : Fin 4} {n : Nat}
    (ht : Running s t) (hm : MayGate s t) (hi : exec i s = runGated i (matrixCapture i) iss s)
    (hp : matrixPorts i = [(p, n)]) :
    (t.regs.w[p.val].configured = false → Traps s t i .illegal)
    ∧ (t.regs.w[p.val].configured = true → t.regs.w[p.val].busy = false →
      ∃ t', Makes s i t' ∧ t'.ord = t.ord + 1 ∧ t'.v = t.v ∧ t'.regs.s = t.regs.s
        ∧ t'.regs.w[p.val] = walkerSteps n t.regs.w[p.val]
        ∧ (∀ k : Fin 6, k.val ≠ p.val → t'.regs.w[k] = t.regs.w[k])
        ∧ t'.blk.gated.length = t.blk.gated.length + 1) := by
  refine ⟨fun hc => matrix_unconfigured ht hm hi hp hc, fun hc hb => ?_⟩
  obtain ⟨u, t', hmakes, hpop, hord, hv, hregs, hlen⟩ := matrix_pops ht hm hi (by rw [hp]; simp) (by
    rw [hp]
    intro q hq
    obtain rfl := List.mem_singleton.mp hq
    exact ⟨hc, hb⟩)
  rw [hp] at hpop
  refine ⟨t', hmakes, hord, hv, ?_, ?_, fun k hk => ?_, hlen⟩
  · rw [hregs, hpop.rest]
  · rw [hregs]
    exact hpop.named _ (.head _)
  · rw [hregs]
    refine hpop.others k fun q hq e => ?_
    obtain rfl := List.mem_singleton.mp hq
    exact hk (congrArg Fin.val e.symm)

theorem matrixCommandsAreCaptured : Says.MatrixCommandsAreCaptured := by
  intro s t i ht hm
  refine ⟨fun hi => ?_, fun c p ty hi => ?_, fun x hi => ?_⟩
  · rcases hi with ⟨m, rfl⟩ | ⟨m, rfl⟩ | ⟨a, rfl⟩ | rfl | ⟨a, k, rfl⟩ | ⟨c, h, d, x, z, r, rfl⟩ | ⟨c, h, ty, rfl⟩ | ⟨c, d, ty, z, rfl⟩
      | ⟨c, h, ty, rfl⟩ | ⟨c, a, b, k, st, e, v, rfl⟩ | ⟨c, d, a, b, k, v, rfl⟩ | ⟨c, d, a, b, k, v, w, rfl⟩ | ⟨c, d, v, rfl⟩
      | ⟨c, a, b, x, y, z, w, v, k, rfl⟩ | ⟨x, ⟨a, b, ha, hb⟩, rfl | rfl⟩
    · exact matrix_captured ht hm (exec_mLease ..) rfl
    · exact matrix_captured ht hm (exec_mFree ..) rfl
    · exact matrix_captured ht hm (exec_mZero ..) rfl
    · exact matrix_captured ht hm (exec_mWait ..) rfl
    · exact matrix_captured ht hm (exec_mProg ..) rfl
    · exact matrix_captured ht hm (exec_mDrain ..) rfl
    · exact matrix_captured ht hm (exec_mFill ..) rfl
    · exact matrix_captured ht hm (exec_mAdd ..) rfl
    · exact matrix_captured ht hm (exec_mScale ..) rfl
    · exact matrix_captured ht hm (exec_mBfly ..) rfl
    · exact matrix_captured ht hm (exec_mBrev ..) rfl
    · exact matrix_captured ht hm (exec_mTwid ..) rfl
    · exact matrix_captured ht hm (exec_mTmul ..) rfl
    · exact matrix_captured ht hm (exec_mMmas ..) rfl
    · exact matrix_captured ht hm (exec_mMma ..) (by simp only [matrixPorts, ha, hb, operandPorts])
    · exact matrix_captured ht hm (exec_mCellp ..) (by simp only [matrixPorts, ha, hb, operandPorts])
  · rcases hi with rfl | rfl
    · rw [if_pos rfl]
      exact port_captured ht hm (exec_mFill ..) rfl
    · rw [if_neg (by simp)]
      exact port_captured ht hm (exec_mScale ..) rfl
  · rcases hi with rfl | rfl
    · rw [if_pos rfl]
      exact product_captured ht hm (exec_mMma ..) rfl
    · rw [if_neg (by simp)]
      exact product_captured ht hm (exec_mCellp ..) rfl

end Sys2Proof.Machine
end

section
/-! PROOFS. Matrix commands at their seal: they join the queue of their sequencer (O39). -/

namespace Sys2Proof.Machine
open Sys2Proof.Says

/-! ## A gated operation that issues -/

section
variable {s s' : State} {t : Thread} {i : Instr} {g : Gated} {rest : List Gated} {cap : Thread → Op Thread}
  {iss : Gated → Thread → Op Thread} (h : Issues s t i g rest) (hi : exec i s = runGated i cap iss s)
include h hi

theorem issue_ok {t' : Thread} (hc : (iss g { t with issue := rest }).run s = (.ok t', s')) : Issued s i s' t' := by
  obtain ⟨ht, hr, hq, hg, hp⟩ := h
  exact hi.trans (runGated_issue ht hr hq hg (.inl (by simp [hp])) hc)

theorem issue_error {e : Stop} (hc : (iss g { t with issue := rest }).run s = (.error e, s')) :
    exec i s = .next (stopAt s' s.cur t e) := by
  obtain ⟨ht, hr, hq, hg, hp⟩ := h
  refine hi.trans (runOp_error ht ?_)
  rw [if_pos hr]
  simp only [hq, hg, if_true]
  rw [op_run_bind_ok (op_run_get s)]
  simp only [hp, Option.isSome_none, Bool.false_and, Bool.false_eq_true, if_false]
  exact op_run_bind_error hc

theorem issue_traps {c : TrapClass} (hc : (iss g { t with issue := rest }).run s = (.error (.trap c 0), s)) : Traps s t i c :=
  issue_error h hi hc

theorem issue_waits (hc : (iss g { t with issue := rest }).run s = (.error (.wait .other), s)) :
    Makes s i { t with flow := .stalled .other } := issue_error h hi hc

end

/-! ## The queue of matrix commands (R243, R246) -/

theorem accBit_eq : accBit = accMask := by
  funext a
  revert a
  decide

section
variable {s : State} {t : Thread} {g : Gated} {accs : BitVec 4} {ok : Regs → Bool}

theorem matrixIssue_full (hq : 16 ≤ t.mq.length) : (matrixIssue accs ok g t).run s = (.error (.wait .other), s) := by
  unfold matrixIssue
  rw [op_run_bind_ok (op_run_get s), if_pos hq]
  rfl

theorem matrixIssue_illegal (hq : t.mq.length < 16) (ha : accs &&& ~~~(t.acc ||| requested s t) ≠ 0) :
    (matrixIssue accs ok g t).run s = (.error (.trap .illegal 0), s) := by
  unfold matrixIssue
  rw [op_run_bind_ok (op_run_get s), if_neg (by omega)]
  simp only [ha, ne_eq, not_false_eq_true, decide_true, Bool.true_or, if_true]
  rfl

theorem matrixIssue_ok (hq : t.mq.length < 16) (ha : accs &&& ~~~(t.acc ||| requested s t) = 0) (hok : ok g.regs = true) :
    (matrixIssue accs ok g t).run s = (.ok { t with mq := t.mq ++ [Says.queued g.instr t g] }, s) := by
  unfold matrixIssue
  rw [op_run_bind_ok (op_run_get s), if_neg (by omega)]
  simp only [ha, hok, ne_eq, not_true_eq_false, decide_false, Bool.not_true, Bool.or_false, Bool.false_eq_true, if_false]
  rfl

/-- A command that names no accumulator is never illegal. -/
theorem matrixIssue_zero (hq : t.mq.length < 16) (hok : ok g.regs = true) :
    (matrixIssue 0 ok g t).run s = (.ok { t with mq := t.mq ++ [Says.queued g.instr t g] }, s) :=
  matrixIssue_ok hq (by simp) hok

end

theorem queues_runMatrix {s : State} {t : Thread} {g : Gated} {rest : List Gated} {i : Instr} {accs : BitVec 4}
    {ok : Regs → Bool} {P : Prop} (hi : exec i s = runMatrix i accs ok s) (hok : P → ok g.regs = true) :
    Queues s t g rest i accs P := by
  intro h
  have hg : g.instr = i := h.2.2.2.1
  refine ⟨fun hq ha hP => ?_, fun hq ha => ?_, fun hq => ?_⟩
  · have hrun := matrixIssue_ok (t := { t with issue := rest }) hq ha (hok hP)
    rw [hg] at hrun
    exact issue_ok h hi hrun
  · exact issue_traps h hi (matrixIssue_illegal (t := { t with issue := rest }) hq ha)
  · exact issue_waits h hi (matrixIssue_full (t := { t with issue := rest }) hq)

theorem handleIs_of_tensorOf {r : Regs} {h : Fin 32} {ty : Ty} (ht : tensorOf r h ty) : handleIs r.h[h] ty = true := by
  obtain ⟨hm, he, hf⟩ := ht
  simp only [handleIs, hm, he, hf, Bool.not_false, Bool.and_self, decide_true]

theorem srcIs_of_operandOk {r : Regs} {a : MSrc} {ty : Ty} (h : operandOk r a ty) : srcIs r a ty = true := by
  cases a with
  | handle k => exact handleIs_of_tensorOf h
  | port p => rfl

/-! ## `m.lease` (R243): with no operator switched out it claims nothing of a victim (R249, R366) -/

theorem newcomer_none {s : State} (h : ∀ p ∈ s.ops, p.2.away = false) (op : Nat) (v : Thread) : newcomer s op v = false := by
  simp [newcomer, away, mfind_any_away h]

theorem endVictimTurn_none {s : State} (h : ∀ p ∈ s.ops, p.2.away = false) (t : Thread) : endVictimTurn s t = s := by
  unfold endVictimTurn
  split
  · rw [newcomer_none h]
    rfl
  · rfl

theorem claimAccs_none {s : State} (h : ∀ p ∈ s.ops, p.2.away = false) (op on : Nat) (mask : BitVec 4) :
    claimAccs s op on mask = s := by
  have hn (v : Nat × Operator × Nat) : ((s.threadsOf v.1).any fun e => e.2.tile = on && newcomer s op e.2) = false := by
    simp [newcomer_none h]
  simp [claimAccs, hn]

theorem lease_issues {s : State} {t : Thread} {g : Gated} {rest : List Gated} {m : BitVec 4}
    (h : Issues s t (.mLease m) g rest) :
    (16 ≤ t.mq.length → Makes s (.mLease m) { t with flow := .stalled .other })
    ∧ (t.mq.length < 16 → t.acc ≠ 0 ∨ requested s t ≠ 0 → Traps s t (.mLease m) .illegal)
    ∧ (t.mq.length < 16 → t.acc = 0 → requested s t = 0 → (∀ p ∈ s.ops, p.2.away = false) →
      Issued s (.mLease m) ((startIdle s t.tile).setTile t.tile
          { s.tile t.tile with leaseQ := (s.tile t.tile).leaseQ ++ [⟨t.key, m⟩] })
        { t with issue := rest, mq := t.mq ++ [Says.queued (.mLease m) t g] }) := by
  have hg : g.instr = .mLease m := h.2.2.2.1
  have hreq : requested (startIdle s t.tile) { t with issue := rest } = requested s t := rfl
  refine ⟨fun hq => issue_waits h (exec_mLease ..) ?_, fun hq ha => issue_traps h (exec_mLease ..) ?_,
    fun hq hacc hreq0 haway => issue_ok h (exec_mLease ..) ?_⟩
  · rw [op_run_bind_ok (op_run_get s)]
    exact op_run_bind_error (matrixIssue_full (t := { t with issue := rest }) hq)
  · rw [op_run_bind_ok (op_run_get s), op_run_bind_ok (matrixIssue_zero (t := { t with issue := rest }) hq rfl), hreq]
    dsimp only
    rw [if_pos (by simpa using ha)]
    rfl
  · rw [op_run_bind_ok (op_run_get s), op_run_bind_ok (matrixIssue_zero (t := { t with issue := rest }) hq rfl), hreq, hg]
    dsimp only
    rw [if_neg (by simp [hacc, hreq0]), endVictimTurn_none (by exact haway), claimAccs_none (by exact haway)]
    rfl

/-! ## `m.wait` and `m.cellp` (R246, R254) -/

theorem wait_issues {s : State} {t : Thread} {g : Gated} {rest : List Gated} (h : Issues s t .mWait g rest) :
    (16 ≤ t.mq.length → Makes s .mWait { t with flow := .stalled .other })
    ∧ (t.mq.length < 16 →
      Issued s .mWait s { t with issue := rest, mq := t.mq ++ [Says.queued .mWait t g], mwait := some g.ord }) := by
  have hg : g.instr = .mWait := h.2.2.2.1
  refine ⟨fun hq => issue_waits h (exec_mWait ..) (op_run_bind_error (matrixIssue_full (t := { t with issue := rest }) hq)),
    fun hq => issue_ok h (exec_mWait ..) ?_⟩
  rw [op_run_bind_ok (matrixIssue_zero (t := { t with issue := rest }) hq rfl), hg]
  rfl

theorem map_ite_none {α : Type} {p : α → Prop} [DecidablePred p] {f : α → α} {l : List α} (h : ∀ x ∈ l, ¬ p x) :
    l.map (fun x => if p x then f x else x) = l := by
  calc l.map (fun x => if p x then f x else x) = l.map id := List.map_congr_left fun x hx => if_neg (h x hx)
    _ = l := List.map_id l

theorem cellp_issues {s : State} {t : Thread} {g : Gated} {rest : List Gated} {x : MMul} (h : Issues s t (.mCellp x) g rest)
    (hq : t.mq.length < 16) (hord : ∀ c ∈ t.mq, c.ord ≠ g.ord) (ha : accMask x.acc &&& ~~~(t.acc ||| requested s t) = 0)
    (hxa : operandOk g.regs x.a x.tyA) (hxb : operandOk g.regs x.b x.tyB) :
    Issued s (.mCellp x) s { t with
      issue := rest
      mq := t.mq ++ [{ Says.queued (.mCellp x) t g with prog := t.progs.toList.getD (x.modi.toNat / 2 ^ 14) 0 }] } := by
  have hg : g.instr = .mCellp x := h.2.2.2.1
  have hok : (srcIs g.regs x.a x.tyA && srcIs g.regs x.b x.tyB) = true := by
    rw [srcIs_of_operandOk hxa, srcIs_of_operandOk hxb, Bool.and_self]
  refine issue_ok h (exec_mCellp ..) ?_
  have hrun := matrixIssue_ok (s := s) (g := g) (t := { t with issue := rest })
    (ok := fun r => srcIs r x.a x.tyA && srcIs r x.b x.tyB) hq ha hok
  rw [accBit_eq, op_run_bind_ok hrun, hg]
  dsimp only
  rw [List.map_append, map_ite_none hord, List.map_singleton]
  rw [if_pos (show (Says.queued (.mCellp x) { t with issue := rest } g).ord = g.ord from rfl)]
  rfl

end Sys2Proof.Machine
end

section
/-! PROOFS. `m.prog` reads its program at its seal, behind its sequencer's older writes (R246, R253; O39). -/

namespace Sys2Proof.Machine
open Sys2Proof.Says

/-! ## A record's first element (R110, R111) -/

theorem wrapIdx_zero (e : Nat) : wrapIdx 0 e = 0 := by simp [wrapIdx]

theorem elemPlace_first {h : HRec} (hl : hLayout h = 0) (hf : hFormat h = 0) : elemPlace h 0 0 0 = (0, false) := by
  have hh : hHalf h = 2 := by simp [hHalf, hf, formatHalf]
  simp [elemPlace, wrapIdx_zero, elemOffHalf, hl, hh]

theorem handleAddr_scr {ot : OpTile} {h : HRec} (hs : hScr h = true) (hz : hField h 56 28 = 0)
    (hne : (regionOf ot (hRegion h)).size ≠ 0) (hn : hOffset h + 8 ≤ (regionOf ot (hRegion h)).size.toNat * 4096) :
    handleAddr ot h 0 8 = .ok (.scr (hRegion h) (hOffset h)) := by
  have hlow : ¬ (hOffset h : Int) < 0 := by omega
  have hhigh : ¬ ((regionOf ot (hRegion h)).size.toNat * 4096 : Int) < hOffset h + (8 : Nat) := by omega
  simp only [handleAddr, hs, hz, scrAddr, add_zero, hne, hlow, hhigh, ne_eq, not_true_eq_false, decide_false, Bool.or_self,
    Bool.false_eq_true, if_true, if_false, Int.toNat_natCast]

theorem handleAddr_glob {ot : OpTile} {h : HRec} (hs : hScr h = false) (hn : hBase h + 8 ≤ 2 ^ 57) :
    handleAddr ot h 0 8 = .ok (.glob (hBase h)) := by
  have hlow : ¬ (hBase h : Int) < 0 := by omega
  have hhigh : ¬ (2 ^ 57 : Int) < hBase h + (8 : Nat) := by omega
  simp only [handleAddr, hs, Bool.false_eq_true, if_false, add_zero, hlow, hhigh, decide_false, Bool.or_self, Int.toNat_natCast]

/-! ## An agent's read of eight aligned bytes -/

theorem granulesOf_aligned {off : Nat} (h : off % 8 = 0) : granulesOf off 8 = [off / 4096] := by
  have h1 : (off + 8 - 1) / 4096 + 1 - off / 4096 = 1 := by omega
  rw [granulesOf, if_neg (by decide), h1]
  rfl

theorem ensureFilled_one {s : State} {g : Agent} {r k : Nat} (ha : ∀ p ∈ s.ops, p.2.away = false)
    (hg : granOf (regionOf (s.opTile g.ot) r) (4096 * k) ≠ some .empty) : (ensureFilled g r [k]).run s = (.ok (), s) := by
  have hp : pageHeld s (g.ot / 512) g.tile (regionOf (s.opTile g.ot) r) (4096 * k) = false := by
    rw [pageHeld, List.any_eq_false]
    intro e _
    simp [mfind_any_away ha]
  unfold ensureFilled
  simp only [List.forIn_cons, List.forIn_nil, op_run_bind, op_run_get, hp, Bool.false_eq_true, if_false, claimPage64_none ha,
    op_run_set, hg, op_run_pure]

theorem agentRead_scr {s : State} {g : Agent} {r off : Nat} (ha : ∀ p ∈ s.ops, p.2.away = false) (h8 : off % 8 = 0)
    (hg : granOf (regionOf (s.opTile g.ot) r) off ≠ some .empty) :
    (agentRead g (.scr r off) 8).run s = (.ok ((List.range 8).map fun j => regionByte (regionOf (s.opTile g.ot) r) (off + j)), s) := by
  have hg' : granOf (regionOf (s.opTile g.ot) r) (4096 * (off / 4096)) ≠ some .empty := by
    have hk : 4096 * (off / 4096) / 4096 = off / 4096 := by omega
    rw [granOf, hk]
    exact hg
  unfold agentRead
  dsimp only
  rw [granulesOf_aligned h8, op_run_bind_ok (ensureFilled_one ha hg'), op_run_bind_ok (op_run_get s)]
  rfl

/-- A merge of update-only data leaves the operators, and makes none a pond run (R94, R352). -/
structure SameRuns (s u : State) : Prop where
  ops : u.ops = s.ops
  ponds : ∀ i, mfind s.ponds i = none → mfind u.ponds i = none

namespace SameRuns

theorem refl (s : State) : SameRuns s s := ⟨rfl, fun _ => id⟩

theorem trans {a b c : State} (h : SameRuns a b) (h' : SameRuns b c) : SameRuns a c :=
  ⟨h'.ops.trans h.ops, fun i hi => h'.ponds i (h.ponds i hi)⟩

/-- What precedes and what follows may change anything but operators and ponds. -/
theorem between {a b c d : State} (h : SameRuns b c) (hao : b.ops = a.ops) (hap : b.ponds = a.ponds) (hco : d.ops = c.ops)
    (hcp : d.ponds = c.ponds) : SameRuns a d :=
  ⟨hco.trans (h.ops.trans hao), fun i hi => hcp ▸ h.ponds i (hap ▸ hi)⟩

theorem pondOf {s u : State} (h : SameRuns s u) {op : Nat} (hp : s.pondOf op = none) : u.pondOf op = none := by
  unfold State.pondOf at hp ⊢
  rw [h.ops]
  split
  · next i hi =>
    rw [hi] at hp
    rw [h.ponds i.val (by simpa using hp)]
    rfl
  · rfl

end SameRuns

theorem mfind_map_none {α : Type} {m : Map α} {f : α → α} {p : α → Bool} {i : Nat} (h : mfind m i = none) :
    mfind (m.map fun e => if p e.2 then (e.1, f e.2) else e) i = none := by
  induction m with
  | nil => rfl
  | cons e r ih =>
    obtain ⟨k, v⟩ := e
    have hkey : (if p v then (k, f v) else (k, v)) = (k, if p v then f v else v) := by split <;> rfl
    rw [List.map_cons, hkey]
    simp only [mfind] at h ⊢
    split at h
    · cases h
    · next hne =>
      rw [if_neg hne]
      split
      · rfl
      · next hlt => exact ih (by rwa [if_neg hlt] at h)

theorem noteWrite_sameRuns (s : State) (line : Nat) : SameRuns s (s.noteWrite line) :=
  ⟨rfl, fun _ h => mfind_map_none (p := fun q : Pond => q.watch.contains line) (f := fun q : Pond => { q with stopping := true }) h⟩

theorem homeWriteByte_sameRuns (s : State) (pa : Nat) (b : Byte) : SameRuns s (homeWriteByte s pa b) := by
  unfold homeWriteByte
  split
  · exact ⟨rfl, fun _ => id⟩
  · exact ⟨rfl, fun _ => id⟩

theorem homeWriteBytes_sameRuns (bs : List Byte) (s : State) (pa : Nat) : SameRuns s (homeWriteBytes s pa bs) := by
  induction bs generalizing s pa with
  | nil => exact .refl s
  | cons b r ih => exact ((homeWriteByte_sameRuns s pa b).trans (noteWrite_sameRuns _ _)).trans (ih _ _)

theorem mergeWords_sameRuns (ws : Map W64) (s : State) (line : Nat) (u : Uol) : SameRuns s (mergeWords s line u ws) := by
  induction ws generalizing s with
  | nil => exact .refl s
  | cons e r ih =>
    rw [mergeWords]
    let s1 : State := { s with l2 := mput s.l2 line (l2Line s line) }
    have hfetch : SameRuns s s1 := ⟨rfl, fun _ => id⟩
    exact (hfetch.trans (homeWriteBytes_sameRuns _ s1 _)).trans (ih _)

theorem mergeTileLine_sameRuns (s : State) (tile line : Nat) : SameRuns s (mergeTileLine s tile line) := by
  unfold mergeTileLine
  split
  · exact .refl s
  · next u _ =>
    dsimp only
    exact (mergeWords_sameRuns u.words _ line u).between (by rw [State.setTile_ops]) (by rw [State.setTile_ponds]) rfl rfl

theorem mergeLine_sameRuns (s : State) (line : Nat) : SameRuns s (mergeLine s line) := by
  unfold mergeLine
  apply foldl_keeps (SameRuns s)
  · intro u e h
    exact h.trans (mergeTileLine_sameRuns u e.1 line)
  · exact .refl s

theorem physRead_sameRuns (s : State) (tile pa n : Nat) (c : Bool) : SameRuns s (physRead s tile pa n c).1 := by
  refine (mergeLine_sameRuns s (lineOf pa)).trans ?_
  unfold physRead
  cases c with
  | false => exact .refl _
  | true =>
    dsimp only
    rw [if_pos rfl]
    generalize (if homeTerrace pa = terraceOf tile || _ then l2Line (mergeLine s (lineOf pa)) (lineOf pa) else _) = l
    dsimp only
    split
    · exact ⟨rfl, fun _ => id⟩
    · exact ⟨rfl, fun _ => id⟩

/-- A read by an operator that is no pond run, whatever update-only data the line has. -/
theorem opRead_eq_physRead_of_none {s : State} {op : Nat} (hp : s.pondOf op = none) (tile pa n : Nat) (c : Bool) :
    opRead s op tile pa n c = physRead s tile pa n c := by
  have hq := (physRead_sameRuns s tile pa n c).pondOf hp
  simp only [opRead, State.watchRead, pondBytes, hq]

theorem addrPieces_glob_aligned {va : Nat} (h8 : va % 8 = 0) : addrPieces (.glob va) 8 = [(.glob va, 8)] := by
  simp [addrPieces, Addr.low, pieces_aligned (show 8 ∈ [1, 2, 4, 8] by decide) h8, Addr.add]

theorem agentRead_glob {s : State} {g : Agent} {va : Nat} {e : TlbEntry} (hp : s.pondOf (g.ot / 512) = none)
    (hport : g.port < 416) (h8 : va % 8 = 0) (hl : e.large = false) (hr : e.readable = true)
    (ht : tlbFind (s.tile g.tile).tlb g.pasid va = some e)
    (hserved : (s.tile g.port).served (portReq s (g.ot / 512) (lineOf (e.frame + va % 2 ^ 16)) g.owner e.cached) = true) :
    let read := physRead s g.tile (e.frame + va % 2 ^ 16) 8 e.cached
    (agentRead g (.glob va) 8).run s = (.ok read.2, read.1) := by
  intro read
  let pa := e.frame + va % 2 ^ 16
  have hwords : (agentWords g [(va, 8)] false).run s = (.ok [(pa, e.cached, 8)], s) := by
    simp only [agentWords, List.mapM_cons, List.mapM_nil, op_run_bind, op_run_get, translateOp_hit hp ht hl hr, op_run_set,
      op_run_pure, pa]
  have hreqs : agentReqs s g [(pa, e.cached, 8)] false = [portReq s (g.ot / 512) (lineOf pa) g.owner e.cached] := by
    simp [agentReqs, Config.tiles, hport]
  have hread : opRead s (g.ot / 512) g.tile pa 8 e.cached = read := opRead_eq_physRead_of_none hp ..
  unfold agentRead
  simp only [addrPieces_glob_aligned h8, List.map_singleton, Addr.low]
  rw [op_run_bind_ok hwords, op_run_bind_ok (op_run_get s), hreqs, op_run_bind_ok (askLines_served (List.forall_mem_singleton.mpr hserved))]
  simp only [List.mapM_cons, List.mapM_nil, op_run_bind, op_run_get, Config.tiles, hport, if_true, hread, op_run_set, op_run_pure,
    List.flatten_cons, List.flatten_nil, List.append_nil]

/-! ## `m.prog` -/

theorem awaitBarriers_met {s : State} {t : Thread} {g : Gated} {rest : List Gated} (h : BarriersMet s t rest g) :
    (awaitBarriers g { t with issue := rest }).run s = (.ok (), s) := by
  have hb : (t.barriers.any fun b => b.ord < g.ord && !barrierMet s { t with issue := rest } b) = false := by
    rw [List.any_eq_false]
    intro b hm
    by_cases ho : b.ord < g.ord
    · simp [h b hm ho]
    · simp [ho]
  unfold awaitBarriers
  rw [op_run_bind_ok (op_run_get s)]
  simp only [hb, Bool.false_eq_true, if_false]
  rfl

section
variable {s : State} {t : Thread} {g : Gated} {rest : List Gated} {a : Fin 32} {k : Fin 4}
  (h : Issues s t (.mProg a k) g rest) (hb : BarriersMet s t rest g)
include h hb

theorem prog_waits (hd : olderDone t g.ord = false) : Makes s (.mProg a k) { t with flow := .stalled .queues } := by
  refine issue_error (s' := s) (e := .wait .queues) h (exec_mProg ..) ?_
  rw [op_run_bind_ok (awaitBarriers_met hb)]
  have hd' : olderDone { t with issue := rest } g.ord = false := hd
  simp only [hd', Bool.not_false, Bool.true_or, if_true]
  rfl

theorem prog_reads {ad : Addr} {bs : List Byte} {s1 : State} (hd : olderDone t g.ord = true) (hq : t.mq = [])
    (hten : tensorOf g.regs a .none) (hlay : hLayout g.regs.h[a] = 0)
    (had : handleAddr (s.opTile t.ot) g.regs.h[a] 0 8 = .ok ad) (hread : (agentRead (t.agent g.ord) ad 8).run s = (.ok bs, s1)) :
    let w := BitVec.ofNat 64 (leOf bs)
    (progOk w = true → Issued s (.mProg a k) (s1.dropOwner (.place t.key g.ord))
      { t with issue := rest, mq := [Says.queued (.mProg a k) t g], progs := t.progs.set k w })
    ∧ (progOk w = false →
      exec (.mProg a k) s = .next (raiseTrap (s1.dropOwner (.place t.key g.ord)) s.cur t .illegal 0)) := by
  intro w
  obtain ⟨hmal, hemp, hfmt⟩ := hten
  have hg : g.instr = .mProg a k := h.2.2.2.1
  have hd' : olderDone { t with issue := rest } g.ord = true := hd
  have hlen : ({ t with issue := rest } : Thread).mq.length < 16 := by simp [hq]
  obtain ⟨u, hu⟩ : ∃ u : Thread, u = { t with issue := rest, mq := t.mq ++ [Says.queued (.mProg a k) t g] } := ⟨_, rfl⟩
  have hjoins : (matrixIssue 0 (fun _ => true) g { t with issue := rest }).run s = (.ok u, s) := by
    rw [hu, ← hg]
    exact matrixIssue_zero hlen rfl
  have hot : u.ot = t.ot := by rw [hu]; rfl
  have hkey : u.key = t.key := by rw [hu]; rfl
  have hagent : u.agent g.ord = t.agent g.ord := by rw [hu]; rfl
  obtain ⟨iss, hi, hiss⟩ : ∃ iss, exec (.mProg a k) s = runGated (.mProg a k) (matrixCapture (.mProg a k)) iss s
      ∧ (iss g { t with issue := rest }).run s = (if progOk w
        then .ok { t with issue := rest, mq := [Says.queued (.mProg a k) t g], progs := t.progs.set k w }
        else .error (.trap .illegal 0), s1.dropOwner (.place t.key g.ord)) := by
    refine ⟨_, exec_mProg .., ?_⟩
    rw [op_run_bind_ok (awaitBarriers_met hb), if_neg (by rw [hd']; simp [hq]), op_run_bind_ok hjoins]
    dsimp only
    rw [if_neg (by simp only [hmal, hemp, hfmt]; decide), elemPlace_first hlay hfmt]
    dsimp only
    rw [op_run_bind_ok (op_run_get s), hot, hagent, hkey, had, op_run_bind_ok (op_run_lift_ok ad s), op_run_bind_ok hread,
      op_run_bind_ok (op_run_modify _ _)]
    cases progOk w with
    | true =>
      rw [hu, hq]
      rfl
    | false => rfl
  refine ⟨fun hok => ?_, fun hok => ?_⟩
  · rw [if_pos hok] at hiss
    exact issue_ok h hi hiss
  · rw [if_neg (by simp [hok])] at hiss
    exact issue_error h hi hiss

end

/-- A fetch of a line is served when the L1 holds it, any request when it has left the port. -/
theorem served_of {t : Tile} {r : PortReq}
    (h : (∃ q ∈ t.sent, q.line = r.line ∧ q.owner = r.owner ∧ q.fetch = r.fetch) ∨ r.fetch = true ∧ r.line ∈ t.l1) :
    t.served r = true := by
  unfold Tile.served
  rcases h with ⟨q, hq, hl, ho, hf⟩ | ⟨hf, hl⟩
  · rw [Bool.or_eq_true]
    exact .inr (List.any_eq_true.mpr ⟨q, hq, by simp [PortReq.same, hl, ho, hf]⟩)
  · simp [hf, hl]

theorem prog_issues {s : State} {t : Thread} {g : Gated} {rest : List Gated} {a : Fin 32} {k : Fin 4}
    (h : Issues s t (.mProg a k) g rest) (hb : BarriersMet s t rest g) (hd : olderDone t g.ord = true) (hq : t.mq = [])
    (hten : tensorOf g.regs a .none) (hlay : hLayout g.regs.h[a] = 0) :
    let r := g.regs
    let reads (s1 : State) (w : W64) : Prop :=
      (progOk w = true → Issued s (.mProg a k) (s1.dropOwner (.place t.key g.ord))
        { t with issue := rest, mq := [Says.queued (.mProg a k) t g], progs := t.progs.set k w })
      ∧ (progOk w = false →
        exec (.mProg a k) s = .next (raiseTrap (s1.dropOwner (.place t.key g.ord)) s.cur t .illegal 0))
    (hScr r.h[a] = true → hField r.h[a] 56 28 = 0 → (∀ p ∈ s.ops, p.2.away = false) →
      let reg := regionOf (s.opTile t.ot) (hRegion r.h[a])
      let off := hOffset r.h[a]
      reg.size ≠ 0 → off % 8 = 0 → off + 8 ≤ reg.size.toNat * 4096 → granOf reg off ≠ some .empty →
      reads s (BitVec.ofNat 64 (leOf ((List.range 8).map fun j => regionByte reg (off + j)))))
    ∧ (hScr r.h[a] = false → ∀ e : TlbEntry, s.pondOf t.op = none → t.tile < 416 → t.ltile < 512 →
      let va := hBase r.h[a]
      let pa := e.frame + va % 2 ^ 16
      va % 8 = 0 → va + 8 ≤ 2 ^ 57 → e.large = false →
      tlbFind (s.tile t.tile).tlb t.launch.pasid.toNat va = some e → e.readable = true →
      ((∃ q ∈ (s.tile t.tile).sent, q.line = pa / 64 ∧ q.owner = .place t.key g.ord ∧ q.fetch = e.cached)
        ∨ e.cached = true ∧ pa / 64 ∈ (s.tile t.tile).l1) →
      let read := physRead s t.tile pa 8 e.cached
      reads read.1 (BitVec.ofNat 64 (leOf read.2))) := by
  intro r reads
  refine ⟨?_, ?_⟩
  · intro hs hz haway reg off hne h8 hn hgran
    exact prog_reads h hb hd hq hten hlay (handleAddr_scr hs hz hne hn) (agentRead_scr haway h8 hgran)
  · intro hs e hp htile hltile va pa h8 hn hl ht hr hsent
    have hop : t.ot / 512 = t.op := by
      rw [Thread.ot, opTileKey]
      omega
    refine prog_reads h hb hd hq hten hlay (handleAddr_glob hs hn) (agentRead_glob (g := t.agent g.ord) ?_ htile h8 hl hr ht ?_)
    · exact hop ▸ hp
    · exact served_of hsent

theorem matrixCommandsIssue : Says.MatrixCommandsIssue := by
  intro s t g rest
  dsimp only
  have hsrc {r : Regs} {a b : MSrc} {x y : Ty} (h : operandOk r a x ∧ operandOk r b y) :
      (srcIs r a x && srcIs r b y) = true := by
    rw [srcIs_of_operandOk h.1, srcIs_of_operandOk h.2, Bool.and_self]
  rw [← accBit_eq]
  refine ⟨fun m => ?_, fun a => ?_, fun x => ?_, fun c a b x y z w v k => ?_, fun c h d x z m => ?_, fun c a ty => ?_,
    fun c a ty => ?_, fun c d ty z => ?_, fun c a b k st e v => ?_, fun c d a b k v => ?_, fun c d a b k v w => ?_,
    fun c d v => ?_, wait_issues, fun m => lease_issues, fun x h hq ho ha hxa hxb => ?_, fun a k h hb => ?_⟩
  · exact queues_runMatrix (exec_mFree ..) fun _ => rfl
  · exact queues_runMatrix (exec_mZero ..) fun _ => rfl
  · exact queues_runMatrix (exec_mMma ..) hsrc
  · refine queues_runMatrix (exec_mMmas ..) fun ⟨ha, hb, hsa, hsb, hga, hgb⟩ => ?_
    have hsa' : handleIs g.regs.h[nextH a] z = true := handleIs_of_tensorOf hsa
    have hsb' : handleIs g.regs.h[nextH b] z = true := handleIs_of_tensorOf hsb
    simp only [handleIs_of_tensorOf ha, handleIs_of_tensorOf hb, hsa', hsb', hga, hgb, decide_true, Bool.and_self]
  · refine queues_runMatrix (exec_mDrain ..) fun ⟨hh, hhalf⟩ => ?_
    rw [handleIs_of_tensorOf hh, Bool.true_and]
    simpa only [Bool.or_eq_true, decide_eq_true_eq, or_assoc] using hhalf
  · exact queues_runMatrix (exec_mFill ..) srcIs_of_operandOk
  · exact queues_runMatrix (exec_mScale ..) srcIs_of_operandOk
  · exact queues_runMatrix (exec_mAdd ..) fun _ => rfl
  · exact queues_runMatrix (exec_mBfly ..) fun _ => rfl
  · exact queues_runMatrix (exec_mBrev ..) fun _ => rfl
  · exact queues_runMatrix (exec_mTwid ..) fun _ => rfl
  · exact queues_runMatrix (exec_mTmul ..) fun _ => rfl
  · rw [accBit_eq] at ha
    exact cellp_issues h hq ho ha hxa hxb
  · exact ⟨prog_waits h hb, prog_issues h hb⟩

/-- Settles O39: each command charges the declared limit and is captured with its walkers advanced; at its seal
`matrixIssue` puts it in the queue, and `m.prog` reads its word as an agent of its tile. -/
theorem matrixCommandsAreIssued : Obligations.MatrixCommandsAreIssued :=
  ⟨matrixCommandsAreCaptured, matrixCommandsIssue⟩

end Sys2Proof.Machine
end

section
/-! PROOFS. Taking a trap while other sequencers of its operator still run (O55). -/

namespace Sys2Proof.Machine
open Sys2Proof.Says

theorem dropLoads_same (s : State) (t : Thread) : s.dropLoads t = { s with tiles := (s.dropLoads t).tiles } := by
  unfold State.dropLoads
  dsimp only
  split <;> rfl

/-- The sequencer as a trap of a class leaves it. -/
def stoppedBy (s : State) (t : Thread) (c : TrapClass) : Thread :=
  if t.run = .exited then t
  else { (if c = .program then t else t.restore (firstUnit s t)) with run := .stopped, flow := .redirected, issue := [] }

theorem stoppedBy_exited {s : State} {t : Thread} {c : TrapClass} (h : t.run = .exited) : stoppedBy s t c = t := if_pos h

theorem stoppedBy_program {s : State} {t : Thread} (h : t.run ≠ .exited) :
    stoppedBy s t .program = { t with run := .stopped, flow := .redirected, issue := [] } := by
  rw [stoppedBy, if_neg h, if_pos rfl]

theorem stoppedBy_restored {s : State} {t : Thread} {c : TrapClass} (h : t.run ≠ .exited) (hc : c ≠ .program) :
    stoppedBy s t c = { t.restore (firstUnit s t) with run := .stopped, flow := .redirected, issue := [] } := by
  rw [stoppedBy, if_neg h, if_neg hc]

/-- The starting values of a block (R49, R325). -/
theorem restore_values (t : Thread) (first : W64) :
    let u := t.restore first
    u.pc = first ∧ u.regs.s = t.blk.start.s ∧ u.regs.h = t.blk.start.h ∧ u.regs.q = t.blk.start.q ∧ u.regs.c = t.blk.start.c
      ∧ u.regs.loops = t.blk.start.loops ∧ u.regs.calls = t.blk.start.calls ∧ u.regs.w = t.blk.start.w ∧ u.blk.stores = []
      ∧ u.blk.gated = [] := by
  simp only [Thread.restore, and_self]

theorem stoppedBy_queues (s : State) (t : Thread) (c : TrapClass) : (stoppedBy s t c).queues = t.queues := by
  unfold stoppedBy
  split
  · rfl
  · split <;> rfl

theorem stoppedBy_status (s : State) (t : Thread) (c : TrapClass) : (stoppedBy s t c).status = t.status := by
  unfold stoppedBy
  split
  · rfl
  · split <;> rfl

theorem stoppedBy_stops {s : State} {t : Thread} {c : TrapClass} (h : t.run ≠ .exited) :
    (stoppedBy s t c).run = .stopped ∧ (stoppedBy s t c).issue = [] := by
  rw [stoppedBy, if_neg h]
  exact ⟨rfl, rfl⟩

/-- What a trap at a sequencer's own bundle or seal notes (R372). -/
def noteOf (s : State) (t : Thread) (c : TrapClass) (n : W32) : TrapNote :=
  let issuing := t.run = .issuing
  { cls := c
    n := n
    at_ := match t.issue with
      | g :: _ => if issuing then g.bundle else t.pc
      | [] => if c = .label then t.blk.entry else t.pc
    pc := (stoppedBy s t c).pc
    seqid := t.seqid
    own := if issuing then t.lastLabel else blockLabel s t t.pc.toNat
    last := t.lastLabel
    time := s.time }

/-- The fate of an operator after one more trap (R371). -/
def worse (c : TrapClass) : Option Fate → Fate
  | some g => if g.rank < c.fate.rank then c.fate else g
  | none => c.fate

/-- The operator after a trap at the time `now`, before it is asked to stop: of the traps of one instant it keeps that of
the lowest SEQID (R371). -/
def noted (now : W64) (c : TrapClass) (note : TrapNote) (o : Operator) : Operator :=
  match o.trap with
  | none => { o with trap := some note, fate := some (worse c o.fate) }
  | some x => { o with
      further := o.further + 1
      fate := some (worse c o.fate)
      trap := some (if x.time = now && note.seqid < x.seqid then note else x) }

/-- The operator as it is asked to stop. -/
def asked (now : W64) (o : Operator) : Operator := if o.stopping then o else { o with stopping := true, stopAt := now.toNat }

theorem asked_stopping (now : W64) (o : Operator) : (asked now o).stopping = true := by
  unfold asked
  split
  · assumption
  · rfl

theorem asked_same (now : W64) (o : Operator) : (asked now o).state = o.state ∧ (asked now o).fate = o.fate
    ∧ (asked now o).trap = o.trap ∧ (asked now o).further = o.further := by
  unfold asked
  split <;> exact ⟨rfl, rfl, rfl, rfl⟩

theorem noted_state (now : W64) (c : TrapClass) (note : TrapNote) (o : Operator) : (noted now c note o).state = o.state := by
  unfold noted
  split <;> rfl

theorem noted_first {o : Operator} (h : o.trap = none) (now : W64) (c : TrapClass) (note : TrapNote) :
    noted now c note o = { o with trap := some note, fate := some (worse c o.fate) } := by
  simp only [noted, h]

theorem noted_further {o : Operator} {x : TrapNote} (h : o.trap = some x) (now : W64) (c : TrapClass) (note : TrapNote) :
    noted now c note o = { o with
      further := o.further + 1
      fate := some (worse c o.fate)
      trap := some (if x.time = now && note.seqid < x.seqid then note else x) } := by
  simp only [noted, h]

theorem settleTrap_running {s : State} {op : Nat} {e : Nat × Thread} (he : e ∈ s.threads) (hop : e.2.op = op)
    (hrun : e.2.idle = false) : settleTrap s op = s := by
  have hall : ((s.threadsOf op).all fun e => e.2.idle) = false :=
    List.all_eq_false.mpr ⟨e, List.mem_filter.mpr ⟨he, by simp [hop]⟩, by simp [hrun]⟩
  unfold settleTrap
  split
  · rfl
  · dsimp only
    split
    · rw [hall]
      rfl
    · rfl

/-- A trap that ends no context, of an operator that still runs: the sequencer stops and the operator notes it. -/
theorem raiseTrap_running {s : State} {k : Nat} {t : Thread} {o : Operator} {c : TrapClass} (n : W32)
    (ho : mfind s.ops t.op = some o) (hp : o.pond = none) (hc : c.fate ≠ .context)
    (hrun : ∃ j w, j ≠ k ∧ mfind s.threads j = some w ∧ w.op = t.op ∧ w.idle = false) :
    raiseTrap s k t c n = ((s.dropLoads t).setThread k (stoppedBy s t c)).setOp t.op
      (asked s.time (noted s.time c (noteOf s t c n) o)) := by
  obtain ⟨j, w, hj, hw, hop, hidle⟩ := hrun
  have hops : (s.dropLoads t).ops = s.ops := by rw [dropLoads_same]
  have htime : (s.dropLoads t).time = s.time := by rw [dropLoads_same]
  have hthreads : (s.dropLoads t).threads = s.threads := by rw [dropLoads_same]
  have hmem (x : Thread) (y : Operator) : (j, w) ∈ (((s.dropLoads t).setThread k x).setOp t.op y).threads := by
    refine mem_of_mfind ?_
    rw [State.setOp_threads, State.setThread_threads, hthreads, mfind_mput_ne _ _ _ _ hj, hw]
  unfold raiseTrap raiseTrapFor
  dsimp only
  rw [State.setThread_ops, hops, ho]
  dsimp only
  split
  · next i hi => exact nomatch hi.symm.trans hp
  · rw [if_neg hc, settleTrap_running (hmem _ _) hop hidle, State.setThread_time, htime]
    rfl

theorem trapEntry : Says.TrapEntry := by
  intro s k t o c n hk ho hp hc hrun u
  have hu : u = ((s.dropLoads t).setThread k (stoppedBy s t c)).setOp t.op
      (asked s.time (noted s.time c (noteOf s t c n) o)) := raiseTrap_running n ho hp hc hrun
  obtain ⟨hstate, hfate, htrap, hfurther⟩ := asked_same s.time (noted s.time c (noteOf s t c n) o)
  refine ⟨stoppedBy s t c, asked s.time (noted s.time c (noteOf s t c n) o), ?_, ?_, ?_, ?_, stoppedBy_exited, stoppedBy_stops,
    stoppedBy_queues s t c, stoppedBy_status s t c, ?_, ?_, asked_stopping .., hstate.trans (noted_state ..), ?_, ?_⟩
  · rw [hu, State.setOp_threads, State.setThread_threads, mfind_mput_same]
  · rw [hu, State.setOp_ops, mfind_mput_same]
  · rw [hu, dropLoads_same]
    rfl
  · rw [hu, dropLoads_same]
    rfl
  · rintro hx rfl
    rw [stoppedBy_program hx]
    exact ⟨rfl, rfl, rfl⟩
  · intro hx hcls
    rw [stoppedBy_restored hx hcls]
    exact restore_values t (firstUnit s t)
  · intro hnone hf
    rw [hfate, htrap, noted_first hnone, hf]
    exact ⟨rfl, _, rfl, rfl, rfl, rfl, rfl, rfl, rfl⟩
  · intro x f hx hf
    rw [hfate, htrap, hfurther, noted_further hx, hf]
    refine ⟨rfl, rfl, fun h => ?_, fun htm hlt => ⟨noteOf s t c n, ?_, rfl, rfl, rfl⟩⟩
    · dsimp only
      rw [if_neg]
      simp only [Bool.and_eq_true, decide_eq_true_eq, not_and]
      rintro htm hlt
      rcases h with h | h
      · exact h htm
      · exact absurd hlt (BitVec.not_lt.mpr h)
    · dsimp only
      rw [if_pos]
      simp only [htm, decide_true, Bool.true_and, decide_eq_true_eq]
      exact hlt

end Sys2Proof.Machine
end

section
/-! PROOFS. The end of a trap: its record in the event ring, and the operator's fate (O55). -/

namespace Sys2Proof.Machine
open Sys2Proof.Says

/-! ## Numbers and their bytes -/

theorem leOf_leBytes (n x : Nat) : leOf (leBytes n x) = x % 256 ^ n := by
  induction n generalizing x with
  | zero => simp [leBytes, leOf, Nat.mod_one]
  | succ n ih =>
    rw [leBytes, leOf, ih, BitVec.toNat_ofNat, show 256 ^ (n + 1) = 256 * 256 ^ n from Nat.pow_succ', Nat.mod_mul (a := 256) (b := 256 ^ n)]

theorem leBytes_length (n x : Nat) : (leBytes n x).length = n := by simp [leBytes_eq_map]

/-! ## A line that the L2 holds no copy of (R90) -/

/-- Memory is in its canonical form, and the L2 holds no copy of the line. -/
def InStack (s : State) (line : Nat) : Prop := mfind s.l2 line = none ∧ Memory.wf s.mem = true

/-- The bytes of the line stand, and so do the context tables' place and the operators. -/
structure KeepsLine (line : Nat) (s u : State) : Prop where
  stack : InStack u line
  bytes : ∀ pa, lineOf pa = line → homeByte u pa = homeByte s pa
  basin : u.basin = s.basin
  ops : u.ops = s.ops

namespace KeepsLine

theorem refl {line : Nat} {s : State} (h : InStack s line) : KeepsLine line s s := ⟨h, fun _ _ => rfl, rfl, rfl⟩

theorem trans {line : Nat} {a b c : State} (h : KeepsLine line a b) (h' : KeepsLine line b c) : KeepsLine line a c :=
  ⟨h'.stack, fun pa hp => (h'.bytes pa hp).trans (h.bytes pa hp), h'.basin.trans h.basin, h'.ops.trans h.ops⟩

/-- A line's number is as it was. -/
theorem homeRead {line : Nat} {s u : State} (h : KeepsLine line s u) : homeRead u (64 * line) 64 = homeRead s (64 * line) 64 := by
  have hb : ∀ i ∈ List.range 64, homeByte u (64 * line + i) = homeByte s (64 * line + i) := fun i hi => by
    refine h.bytes _ ?_
    have := List.mem_range.mp hi
    rw [lineOf]
    omega
  simp only [Machine.homeRead, homeBytes_eq_map, List.map_congr_left hb]

end KeepsLine

theorem homeByte_inStack {s : State} {pa : Nat} (h : mfind s.l2 (lineOf pa) = none) : homeByte s pa = readByte s.mem pa := by
  simp [homeByte, h]

theorem homeWriteByte_keepsLine {s : State} {line pa : Nat} (h : InStack s line) (hne : lineOf pa ≠ line) (b : Byte) :
    KeepsLine line s ((homeWriteByte s pa b).noteWrite (lineOf pa)) := by
  obtain ⟨hl, hw⟩ := h
  unfold homeWriteByte
  split
  · refine ⟨⟨(mfind_mput_ne _ _ _ _ hne.symm).trans hl, hw⟩, fun p hp => ?_, rfl, rfl⟩
    have hu (x : L2Line) : mfind (mput s.l2 (lineOf pa) x) (lineOf p) = none :=
      (mfind_mput_ne _ _ _ x (hp ▸ hne.symm)).trans (hp ▸ hl)
    exact (homeByte_inStack (hu _)).trans (homeByte_inStack (hp ▸ hl)).symm
  · refine ⟨⟨hl, wf_writeByte s.mem pa b hw⟩, fun p hp => ?_, rfl, rfl⟩
    have hpa : p ≠ pa := by
      rintro rfl
      exact hne hp
    exact (homeByte_inStack (hp ▸ hl)).trans
      ((readByte_writeByte_ne s.mem pa p b hpa hw).trans (homeByte_inStack (hp ▸ hl)).symm)

theorem homeWriteBytes_keepsLine (bs : List Byte) {s : State} {line pa : Nat} (h : InStack s line)
    (hne : ∀ i < bs.length, lineOf (pa + i) ≠ line) : KeepsLine line s (homeWriteBytes s pa bs) := by
  induction bs generalizing s pa with
  | nil => exact .refl h
  | cons b r ih =>
    have h1 := homeWriteByte_keepsLine h (hne 0 (by simp)) b
    refine h1.trans (ih h1.stack fun i hi => ?_)
    rw [Nat.add_assoc, Nat.add_comm 1]
    exact hne (i + 1) (by simpa using hi)

/-- A write to a line that only the stack holds goes to the stack. -/
theorem homeWriteBytes_inStack (bs : List Byte) {s : State} {line pa : Nat} (h : InStack s line)
    (hin : ∀ i < bs.length, lineOf (pa + i) = line) :
    (homeWriteBytes s pa bs).mem = writeBytes s.mem pa bs ∧ (homeWriteBytes s pa bs).l2 = s.l2
      ∧ (homeWriteBytes s pa bs).basin = s.basin ∧ (homeWriteBytes s pa bs).ops = s.ops := by
  induction bs generalizing s pa with
  | nil => exact ⟨rfl, rfl, rfl, rfl⟩
  | cons b r ih =>
    have hpa : mfind s.l2 (lineOf pa) = none := (hin 0 (by simp)) ▸ h.1
    rw [homeWriteBytes, homeWriteByte_uncached s pa b hpa]
    exact ih (s := ({ s with mem := writeByte s.mem pa b } : State).noteWrite (lineOf pa)) ⟨h.1, wf_writeByte s.mem pa b h.2⟩
      fun i hi => by
        rw [Nat.add_assoc, Nat.add_comm 1]
        exact hin (i + 1) (by simpa using hi)

theorem lineOf_within {line i : Nat} (h : i < 64) : lineOf (64 * line + i) = line := by
  rw [lineOf]
  omega

/-- A whole line written reads back (R90). -/
theorem homeWrite_line {s : State} {line : Nat} (h : InStack s line) (v : Nat) :
    let u := homeWrite s (64 * line) 64 v
    InStack u line ∧ homeRead u (64 * line) 64 = v % 2 ^ 512 ∧ u.basin = s.basin ∧ u.ops = s.ops := by
  intro u
  obtain ⟨hm, hl, hb, ho⟩ := homeWriteBytes_inStack (leBytes 64 v) h fun i hi => lineOf_within (by rwa [leBytes_length] at hi)
  have hwf : Memory.wf u.mem = true := by
    rw [show u.mem = _ from hm]
    exact wf_writeBytes _ _ _ h.2
  have hu : mfind u.l2 line = none := (congrArg (mfind · line) hl).trans h.1
  have hbytes : homeBytes u (64 * line) 64 = leBytes 64 v := by
    have hrange : ∀ i ∈ List.range 64, homeByte u (64 * line + i) = readByte u.mem (64 * line + i) := fun i hi =>
      homeByte_inStack (by rw [lineOf_within (List.mem_range.mp hi), hu])
    rw [homeBytes_eq_map, List.map_congr_left hrange, ← readBytes_eq_map, show u.mem = _ from hm]
    have hread := readBytes_writeBytes (leBytes 64 v) s.mem (64 * line) h.2
    rwa [leBytes_length] at hread
  exact ⟨⟨hu, hwf⟩, by rw [homeRead, hbytes, leOf_leBytes, show (256 : Nat) = 2 ^ 8 from rfl, ← pow_mul], hb, ho⟩

theorem noteHole_same (s : State) (a : Nat) : s.noteHole a = { s with hole := (s.noteHole a).hole } := by
  unfold State.noteHole
  split <;> rfl

theorem noteHole_inStack {s : State} {line : Nat} (h : InStack s line) (a : Nat) : InStack (s.noteHole a) line := by
  rw [noteHole_same]
  exact h

theorem homeByte_noteHole (s : State) (a pa : Nat) : homeByte (s.noteHole a) pa = homeByte s pa := by
  rw [noteHole_same]
  rfl

/-- A device write of one line leaves the others. -/
theorem lineWrite_keepsLine {s : State} {line m : Nat} (h : InStack s line) (hne : m ≠ line) (a v : Nat) :
    KeepsLine line s (homeWrite (s.noteHole a) (64 * m) 64 v) := by
  have hn : KeepsLine line s (s.noteHole a) :=
    ⟨noteHole_inStack h a, fun pa _ => homeByte_noteHole s a pa, by rw [noteHole_same], by rw [noteHole_same]⟩
  refine hn.trans (homeWriteBytes_keepsLine _ hn.stack fun i hi => ?_)
  rw [lineOf_within (by rwa [leBytes_length] at hi)]
  exact hne

theorem lineWrite_line {s : State} {line : Nat} (h : InStack s line) (a v : Nat) :
    let u := homeWrite (s.noteHole a) (64 * line) 64 v
    InStack u line ∧ homeRead u (64 * line) 64 = v % 2 ^ 512 ∧ u.basin = s.basin ∧ u.ops = s.ops := by
  obtain ⟨hs, hr, hb, ho⟩ := homeWrite_line (noteHole_inStack h a) v
  exact ⟨hs, hr, hb.trans (by rw [noteHole_same]), ho.trans (by rw [noteHole_same])⟩

/-! ## The context's entry and the event ring (R373) -/

/-- The entry of a context is the line `line`. -/
def EntryAt (s : State) (ctx line : Nat) : Prop := ctxAddr s ctx = 64 * line

theorem EntryAt.of_basin {s u : State} {ctx line : Nat} (h : EntryAt s ctx line) (hb : u.basin = s.basin) : EntryAt u ctx line := by
  rw [EntryAt, ctxAddr, hb]
  exact h

theorem ctxField_eq {s : State} {ctx line : Nat} (h : EntryAt s ctx line) (hi lo : Nat) :
    ctxField s ctx hi lo = bits (homeRead s (64 * line) 64) hi lo := by
  rw [ctxField, h]

theorem ctxField_keepsLine {s u : State} {ctx line : Nat} (he : EntryAt s ctx line) (h : KeepsLine line s u) (hi lo : Nat) :
    ctxField u ctx hi lo = ctxField s ctx hi lo := by
  rw [ctxField_eq he, ctxField_eq (he.of_basin h.basin), h.homeRead]

/-- The record and the entry after the record of a trap is written where the ring has room. -/
structure Recorded (s u : State) (o : Operator) (f : Fate) (x : TrapNote) (at_ entry : Nat) : Prop where
  record : InStack u at_ ∧ homeRead u (64 * at_) 64 = trapRecord o f x % 2 ^ 512
  context : InStack u entry
    ∧ homeRead u (64 * entry) 64 = setBits (homeRead s (64 * entry) 64) 400 369 (ctxField s o.ctx 400 369 + 1) % 2 ^ 512
  basin : u.basin = s.basin
  ops : u.ops = s.ops

theorem writeTrapRecord_room {s : State} {o : Operator} {at_ entry : Nat} (f : Fate) (x : TrapNote)
    (hroom : (ctxField s o.ctx 400 369 + 2 ^ 32 - ctxField s o.ctx 363 332) % 2 ^ 32 < 2 ^ (ctxField s o.ctx 404 401 + 4))
    (hat : ctxField s o.ctx 443 405 + 64 * (ctxField s o.ctx 400 369 % 2 ^ (ctxField s o.ctx 404 401 + 4)) = 64 * at_)
    (he : EntryAt s o.ctx entry) (hne : at_ ≠ entry) (hsa : InStack s at_) (hse : InStack s entry) :
    Recorded s (writeTrapRecord s o f x) o f x at_ entry := by
  have hu : writeTrapRecord s o f x
      = setCtxField (homeWrite (s.noteHole (64 * at_)) (64 * at_) 64 (trapRecord o f x)) o.ctx 400 369
        (ctxField s o.ctx 400 369 + 1) := by
    unfold writeTrapRecord
    dsimp only
    rw [if_neg (by omega), hat]
  obtain ⟨hsa1, hra, hb1, ho1⟩ := lineWrite_line hsa (64 * at_) (trapRecord o f x)
  have hk1 := lineWrite_keepsLine hse hne (64 * at_) (trapRecord o f x)
  rw [hu]
  generalize homeWrite (s.noteHole (64 * at_)) (64 * at_) 64 (trapRecord o f x) = s1 at hsa1 hra hb1 ho1 hk1
  have he1 := he.of_basin hb1
  rw [setCtxField, he1, hk1.homeRead]
  have hk2 := lineWrite_keepsLine hsa1 hne.symm (64 * entry)
    (setBits (homeRead s (64 * entry) 64) 400 369 (ctxField s o.ctx 400 369 + 1))
  obtain ⟨hse2, hre, hb2, ho2⟩ := lineWrite_line hk1.stack (64 * entry)
    (setBits (homeRead s (64 * entry) 64) 400 369 (ctxField s o.ctx 400 369 + 1))
  exact ⟨⟨hk2.stack, hk2.homeRead.trans hra⟩, ⟨hse2, hre⟩, hb2.trans hb1, ho2.trans ho1⟩

/-! ## The fields of the record and of the entry (R372, R373) -/

theorem trapClass_code_lt (c : TrapClass) : c.code < 2 ^ 8 := by cases c <;> decide

theorem fate_rank_lt (f : Fate) : f.rank < 2 ^ 8 := by cases f <;> decide

theorem trapRecord_fields {o : Operator} (f : Fate) (x : TrapNote) (hctx : o.ctx < 4096) (hslot : o.slot < 8192) :
    let w (hi lo : Nat) := bits (trapRecord o f x % 2 ^ 512) hi lo
    w 7 0 = x.cls.code ∧ w 15 8 = f.rank ∧ w 31 16 = o.ctx ∧ w 63 32 = x.n.toNat ∧ w 95 64 = o.slot ∧ w 127 96 = o.index.toNat
      ∧ w 191 128 = x.at_.toNat ∧ w 255 192 = x.pc.toNat ∧ w 287 256 = x.seqid.toNat ∧ w 303 288 = x.own.toNat
      ∧ w 319 304 = x.last.toNat ∧ w 383 320 = x.time.toNat ∧ w 399 384 = min o.further 65535 := by
  have hc := trapClass_code_lt x.cls
  have hf := fate_rank_lt f
  have hn := x.n.isLt
  have hi := o.index.isLt
  have ha := x.at_.isLt
  have hp := x.pc.isLt
  have hq := x.seqid.isLt
  have ho := x.own.isLt
  have hl := x.last.isLt
  have ht := x.time.isLt
  have hm : min o.further 65535 < 2 ^ 16 := by omega
  simp only [trapRecord, bits]
  generalize min o.further 65535 = further at hm ⊢
  refine ⟨?_, ?_, ?_, ?_, ?_, ?_, ?_, ?_, ?_, ?_, ?_, ?_, ?_⟩ <;> omega

theorem entry_index (e v : Nat) (h : e < 2 ^ 512) : bits (setBits e 400 369 v % 2 ^ 512) 400 369 = v % 2 ^ 32 := by
  simp only [setBits, bits]
  omega

theorem entry_spill (e v : Nat) (h : e < 2 ^ 512) : bits (setBits e 400 369 v % 2 ^ 512) 511 473 = bits e 511 473 := by
  simp only [setBits, bits]
  omega

theorem homeRead_lt (s : State) (a n : Nat) : homeRead s a n < 2 ^ (8 * n) := by
  have h := leOf_lt (homeBytes s a n)
  rwa [homeBytes_eq_map, List.length_map, List.length_range, ← homeBytes_eq_map] at h

theorem homeRead_line_lt (s : State) (a : Nat) : homeRead s a 64 < 2 ^ 512 := by
  have h := homeRead_lt s a 64
  rwa [show 8 * 64 = 512 from rfl] at h

end Sys2Proof.Machine
end

section
/-! PROOFS. The end of a trap: a held operator's spill leaves its record, and its fate is carried out (O55). -/

namespace Sys2Proof.Machine
open Sys2Proof.Says

/-! ## The spill area (R367) -/

/-- The line lies outside the spill area that begins at `base`. -/
def OutsideSpill (base line : Nat) : Prop := 64 * line + 64 ≤ base ∨ base + 384 * 2 ^ 22 ≤ 64 * line

/-- Every image of the operator is one of its context's 384. -/
def ImagesFit (o : Operator) : Prop := ∀ l, o.images.getD l 0 < 384

theorem freeImages_fit (s : State) (o : Operator) : ImagesFit { o with images := freeImages s o } := by
  intro l
  rw [List.getD_eq_getElem?_getD]
  cases h : (freeImages s o)[l]? with
  | none => simp
  | some i =>
    have hi := List.mem_of_getElem? h
    have hr := (List.mem_filter.mp (List.mem_of_mem_take hi)).1
    simpa using List.mem_range.mp hr

theorem KeepsLine.later {line n : Nat} {s u : State} (h : KeepsLine line s u) : KeepsLine line s { u with freshTick := n } :=
  ⟨h.stack, h.bytes, h.basin, h.ops⟩

/-- A write inside an image leaves the lines outside the spill area. -/
theorem imageWrite_keepsLine {s : State} {line base i off pa : Nat} {bs : List Byte} (h : InStack s line)
    (hout : OutsideSpill base line) (hi : i < 384) (hpa : pa = base + 2 ^ 22 * i + off) (hoff : off + bs.length ≤ 2 ^ 22) :
    KeepsLine line s (homeWriteBytes s pa bs) := by
  refine homeWriteBytes_keepsLine bs h fun j hj => ?_
  rw [lineOf]
  unfold OutsideSpill at hout
  omega

theorem seqPlace_lt (q : Fin 4) : seqPlace q.val + 0x21000 ≤ 2 ^ 22 := by
  rw [seqPlace]
  omega

theorem spillSeq_keepsLine {s : State} {o : Operator} {t : Thread} {line : Nat} (h : InStack s line)
    (hout : OutsideSpill (ctxField s o.ctx 511 473) line) (hfit : ImagesFit o) : KeepsLine line s (spillSeq o s t) := by
  have hq := seqPlace_lt t.seq
  have hi := hfit t.ltile
  unfold spillSeq imageAt tileImage
  dsimp only
  apply KeepsLine.later
  refine List.foldlRecOn (motive := KeepsLine line s) _ _ (List.foldlRecOn (motive := KeepsLine line s) _ _ (.refl h) ?_) ?_
  · intro u hu n _
    split
    · refine hu.trans (imageWrite_keepsLine (off := seqPlace t.seq.val + 0x18000 + 1024 * n.val) hu.stack hout hi ?_ ?_)
      · omega
      · rw [leBytes_length]
        omega
    · exact hu
  · intro u hu i hm
    have hlt := List.mem_range.mp hm
    refine hu.trans (imageWrite_keepsLine (off := seqPlace t.seq.val + 0x20000 + 8 * i) hu.stack hout hi ?_ ?_)
    · omega
    · rw [leBytes_length]
      omega

theorem strikeSpill_keepsLine {s : State} {line : Nat} (h : InStack s line) (op : Nat) : KeepsLine line s (s.strikeSpill op) := by
  unfold State.strikeSpill
  split
  · exact ⟨h, fun _ _ => rfl, rfl, rfl⟩
  · exact .refl h

/-- The bytes of the lines outside the spill area stand, whatever the operators. -/
theorem spillAll_keepsLine {o : Operator} {entry line : Nat} (ts : List Thread) {s : State} (h : InStack s line)
    (he : InStack s entry) (hent : EntryAt s o.ctx entry) (hout : OutsideSpill (ctxField s o.ctx 511 473) line)
    (houtE : OutsideSpill (ctxField s o.ctx 511 473) entry) (hfit : ImagesFit o) :
    KeepsLine line s (ts.foldl (spillSeq o) s) := by
  induction ts generalizing s with
  | nil => exact .refl h
  | cons t r ih =>
    rw [List.foldl_cons]
    have hk := spillSeq_keepsLine (t := t) h hout hfit
    have hkE := spillSeq_keepsLine (t := t) he houtE hfit
    have hbase := ctxField_keepsLine hent hkE 511 473
    generalize spillSeq o s t = u at hk hkE hbase ⊢
    rw [← hbase] at hout houtE
    exact hk.trans (ih hk.stack hkE.stack (hent.of_basin hk.basin) hout houtE)

/-- What a spill at once leaves of the operator and of a line outside its area. -/
structure Spilled (s u : State) (op line : Nat) (o : Operator) : Prop where
  number : homeRead u (64 * line) 64 = homeRead s (64 * line) 64
  basin : u.basin = s.basin
  op : ∃ is, mfind u.ops op = some { o with images := is }

theorem spillNow_spilled {s : State} {op line entry : Nat} {o : Operator} (ho : mfind s.ops op = some o) (h : InStack s line)
    (he : InStack s entry) (hent : EntryAt s o.ctx entry) (hout : OutsideSpill (ctxField s o.ctx 511 473) line)
    (houtE : OutsideSpill (ctxField s o.ctx 511 473) entry) : Spilled s (spillNow s op) op line o := by
  have hk1 := strikeSpill_keepsLine h op
  have hk1E := strikeSpill_keepsLine he op
  have hbase := ctxField_keepsLine hent hk1E 511 473
  unfold spillNow
  rw [ho]
  dsimp only
  generalize s.strikeSpill op = s1 at hk1 hk1E hbase ⊢
  rw [← hbase] at hout houtE
  have hk2 := spillAll_keepsLine (o := { o with images := freeImages s o }) (s := s1.setOp op { o with images := freeImages s o })
    ((s.threadsOf op).map (·.2)) hk1.stack hk1E.stack (hent.of_basin hk1.basin) hout houtE (freeImages_fit s o)
  exact ⟨hk2.homeRead.trans hk1.homeRead, hk2.basin.trans hk1.basin, _, by rw [hk2.ops, State.setOp_ops, mfind_mput_same]⟩

/-! ## The fate (R370, R371) -/

/-- The operator once its trap is settled. -/
def settled (o : Operator) : Operator := { o with fate := none, trap := none, stopping := false, further := 0 }

/-- A settled trap's fate, carried out. -/
def carryOut (s : State) (op : Nat) (o : Operator) : Fate → State
  | .held =>
    let u := s.setOp op { settled o with state := .held }
    if o.abandoned then u else spillNow u op
  | .operator => match o.state with
    | .ending _ => s.setOp op (settled o)
    | _ => s.setOp op { settled o with state := .ending o.trapStatus }
  | .context => s.setOp op (settled o)

theorem settleTrap_settles {s : State} {op : Nat} {o : Operator} {f : Fate} {x : TrapNote} (ho : mfind s.ops op = some o)
    (hf : o.fate = some f) (hx : o.trap = some x) (hidle : ∀ e ∈ s.threads, e.2.op = op → e.2.idle = true)
    (hleave : f = .held → mayLeave s op = true) : settleTrap s op = carryOut (writeTrapRecord s o f x) op o f := by
  have hall : ((s.threadsOf op).all fun e => e.2.idle) = true := by
    rw [List.all_eq_true]
    intro e he
    obtain ⟨hm, hop⟩ := List.mem_filter.mp he
    exact hidle e hm (of_decide_eq_true hop)
  have hgo : (((s.threadsOf op).all fun e => e.2.idle) && (decide (f ≠ .held) || mayLeave s op)) = true := by
    rw [hall, Bool.true_and, Bool.or_eq_true, decide_eq_true_eq]
    exact (Classical.em (f = .held)).elim (fun h => .inr (hleave h)) .inl
  unfold settleTrap
  rw [ho]
  dsimp only
  split
  · next f' x' hf' hx' =>
    cases hf'.symm.trans hf
    cases hx'.symm.trans hx
    rw [if_pos hgo]
    rfl
  · next hno => exact absurd hx (hno f x hf)

theorem carryOut_number {s : State} {op line entry : Nat} {o : Operator} {f : Fate} (h : InStack s line) (he : InStack s entry)
    (hent : EntryAt s o.ctx entry)
    (hout : f = .held → OutsideSpill (ctxField s o.ctx 511 473) line ∧ OutsideSpill (ctxField s o.ctx 511 473) entry) :
    homeRead (carryOut s op o f) (64 * line) 64 = homeRead s (64 * line) 64 ∧ (carryOut s op o f).basin = s.basin := by
  cases f with
  | held =>
    obtain ⟨hline, hentry⟩ := hout rfl
    unfold carryOut
    dsimp only
    split
    · exact ⟨rfl, rfl⟩
    · have hs := spillNow_spilled (s := s.setOp op { settled o with state := .held }) (op := op)
        (mfind_mput_same ..) h he hent hline hentry
      exact ⟨hs.number, hs.basin⟩
  | operator =>
    unfold carryOut
    dsimp only
    split <;> exact ⟨rfl, rfl⟩
  | context => exact ⟨rfl, rfl⟩

theorem carryOut_op {s : State} {op entry : Nat} {o : Operator} {f : Fate} (he : InStack s entry)
    (hent : EntryAt s o.ctx entry) (hout : f = .held → OutsideSpill (ctxField s o.ctx 511 473) entry) :
    ∃ o', mfind (carryOut s op o f).ops op = some o' ∧ o'.fate = none ∧ o'.trap = none ∧ o'.stopping = false ∧ o'.further = 0
      ∧ (f = .held → o'.state = .held)
      ∧ (f = .operator → (∀ n, o.state ≠ .ending n) → o'.state = .ending o.trapStatus)
      ∧ (f = .context → o'.state = o.state) := by
  cases f with
  | held =>
    unfold carryOut
    dsimp only
    split
    · exact ⟨_, mfind_mput_same .., rfl, rfl, rfl, rfl, fun _ => rfl, nofun, nofun⟩
    · obtain ⟨is, hs⟩ := (spillNow_spilled (s := s.setOp op { settled o with state := .held }) (op := op)
        (mfind_mput_same ..) he he hent (hout rfl) (hout rfl)).op
      exact ⟨_, hs, rfl, rfl, rfl, rfl, fun _ => rfl, nofun, nofun⟩
  | operator =>
    unfold carryOut
    dsimp only
    split
    · next n hn => exact ⟨_, mfind_mput_same .., rfl, rfl, rfl, rfl, nofun, fun _ h => absurd hn (h n), nofun⟩
    · exact ⟨_, mfind_mput_same .., rfl, rfl, rfl, rfl, nofun, fun _ _ => rfl, nofun⟩
  | context => exact ⟨_, mfind_mput_same .., rfl, rfl, rfl, rfl, nofun, nofun, fun _ => rfl⟩

theorem trapRecords : Says.TrapRecords := by
  intro s op o f x ho hf hx hidle hctx hslot entry ewr size a u hroom ha64 he64 hne hwf hl2a hl2e hleave hspill w
  obtain ⟨la, hla⟩ : ∃ la, a = 64 * la := ⟨a / 64, by omega⟩
  obtain ⟨le, hle⟩ : ∃ le, entry = 64 * le := ⟨entry / 64, by omega⟩
  have hline : la ≠ le := by
    rintro rfl
    exact hne (hla.trans hle.symm)
  have hsa : InStack s la := ⟨by rwa [hla, Nat.mul_div_cancel_left _ (by decide)] at hl2a, hwf⟩
  have hse : InStack s le := ⟨by rwa [hle, Nat.mul_div_cancel_left _ (by decide)] at hl2e, hwf⟩
  have hrec := writeTrapRecord_room f x hroom hla hle hline hsa hse
  have hu : u = carryOut (writeTrapRecord s o f x) op o f := settleTrap_settles ho hf hx hidle hleave
  generalize writeTrapRecord s o f x = s1 at hrec hu
  have hent : EntryAt s o.ctx le := hle
  have hent1 := hent.of_basin hrec.basin
  have hlt : homeRead s (64 * le) 64 < 2 ^ 512 := homeRead_line_lt ..
  have hbase : ctxField s1 o.ctx 511 473 = ctxField s o.ctx 511 473 := by
    rw [ctxField_eq hent1, ctxField_eq hent, hrec.context.2, entry_spill _ _ hlt]
  have hout : f = .held → OutsideSpill (ctxField s1 o.ctx 511 473) la ∧ OutsideSpill (ctxField s1 o.ctx 511 473) le := by
    intro hh
    have houtA := hspill hh a (.head _)
    have houtE := hspill hh entry (.tail _ (.head _))
    rw [hla] at houtA
    rw [hle] at houtE
    rw [hbase]
    exact ⟨houtA, houtE⟩
  obtain ⟨hnum, hbas⟩ := carryOut_number (op := op) hrec.record.1 hrec.context.1 hent1 hout
  obtain ⟨hnumE, -⟩ := carryOut_number (op := op) hrec.context.1 hrec.context.1 hent1 fun hh => ⟨(hout hh).2, (hout hh).2⟩
  have hop := carryOut_op (op := op) hrec.context.1 hent1 fun hh => (hout hh).2
  rw [← hu] at hnum hbas hnumE hop
  have hread : homeRead u a 64 = trapRecord o f x % 2 ^ 512 := by rw [hla, hnum, hrec.record.2]
  obtain ⟨w1, w2, w3, w4, w5, w6, w7, w8, w9, w10, w11, w12, w13⟩ := trapRecord_fields f x hctx hslot
  have hindex : ctxField u o.ctx 400 369 = (ewr + 1) % 2 ^ 32 := by
    rw [ctxField_eq (hent1.of_basin hbas), hnumE, hrec.context.2, entry_index _ _ hlt]
  simp only [w, hread]
  exact ⟨w1, w2, w3, w4, w5, w6, w7, w8, w9, w10, w11, w12, w13, hindex, hop⟩

/-- Settles O55: a trap of an operator that still runs stops the sequencer and is noted; the last to stop has the record
written, whose line no later write reaches, and the fate carried out. -/
theorem trapsAreTaken : Obligations.TrapsAreTaken :=
  ⟨trapEntry, trapRecords⟩

end Sys2Proof.Machine
end

section
/-! PROOFS. The loader's answers and the translator's blocks (O45). -/

namespace Sys2Proof.Machine
open Sys2Proof.Says

/-! ## What a write to memory may change -/

/-- What writes at the home may change: memory, the caches, and what watches them. -/
structure MemoryOnly (s u : State) : Prop where
  same : u = { s with
    mem := u.mem, l2 := u.l2, hostRes := u.hostRes, ponds := u.ponds, tiles := u.tiles, queues := u.queues, hole := u.hole }

namespace MemoryOnly

theorem refl (s : State) : MemoryOnly s s := ⟨rfl⟩

theorem trans {a b c : State} (h : MemoryOnly a b) (h' : MemoryOnly b c) : MemoryOnly a c := ⟨by rw [h'.same, h.same]⟩

theorem foldl {β : Type} {f : State → β → State} (hf : ∀ u x, MemoryOnly u (f u x)) (xs : List β) (s : State) :
    MemoryOnly s (xs.foldl f s) :=
  foldl_keeps (MemoryOnly s) f (fun u x h => h.trans (hf u x)) xs s (refl s)

variable {s u : State} (h : MemoryOnly s u)
include h

theorem loaderOut : u.loaderOut = s.loaderOut := by rw [h.same]
theorem objs : u.objs = s.objs := by rw [h.same]
theorem threads : u.threads = s.threads := by rw [h.same]
theorem ops : u.ops = s.ops := by rw [h.same]

end MemoryOnly

theorem homeWriteByte_memoryOnly (s : State) (pa : Nat) (b : Byte) : MemoryOnly s (homeWriteByte s pa b) := by
  unfold homeWriteByte
  split
  · exact ⟨rfl⟩
  · exact ⟨rfl⟩

theorem noteWrite_memoryOnly (s : State) (line : Nat) : MemoryOnly s (s.noteWrite line) := ⟨rfl⟩

theorem noteWord_memoryOnly (s : State) (line : Nat) : MemoryOnly s (s.noteWord line) := ⟨rfl⟩

theorem noteHole_memoryOnly (s : State) (a : Nat) : MemoryOnly s (s.noteHole a) := by
  rw [noteHole_same]
  exact ⟨rfl⟩

theorem homeWriteBytes_memoryOnly (bs : List Byte) (s : State) (pa : Nat) : MemoryOnly s (homeWriteBytes s pa bs) := by
  induction bs generalizing s pa with
  | nil => exact .refl s
  | cons b r ih => exact ((homeWriteByte_memoryOnly s pa b).trans (noteWrite_memoryOnly _ _)).trans (ih _ _)

theorem homeWrite_memoryOnly (s : State) (pa n v : Nat) : MemoryOnly s (homeWrite s pa n v) := homeWriteBytes_memoryOnly ..

theorem setFramePins_memoryOnly (s : State) (pa n : Nat) : MemoryOnly s (setFramePins s pa n) :=
  (noteHole_memoryOnly s _).trans (homeWrite_memoryOnly ..)

theorem mergeWords_memoryOnly (ws : Map W64) (s : State) (line : Nat) (u : Uol) : MemoryOnly s (mergeWords s line u ws) := by
  induction ws generalizing s with
  | nil => exact .refl s
  | cons e r ih =>
    rw [mergeWords]
    let s1 : State := { s with l2 := mput s.l2 line (l2Line s line) }
    have hfetch : MemoryOnly s s1 := ⟨rfl⟩
    exact (hfetch.trans (homeWrite_memoryOnly s1 ..)).trans (ih _)

theorem mergeTileLine_memoryOnly (s : State) (tile line : Nat) : MemoryOnly s (mergeTileLine s tile line) := by
  unfold mergeTileLine
  split
  · exact .refl s
  · next u _ =>
    dsimp only
    refine MemoryOnly.trans ?_ (noteWord_memoryOnly _ line)
    refine MemoryOnly.trans ?_ (mergeWords_memoryOnly u.words _ line u)
    exact ⟨rfl⟩

theorem mergeLine_memoryOnly (s : State) (line : Nat) : MemoryOnly s (mergeLine s line) :=
  .foldl (f := fun (s : State) (e : Nat × Tile) => mergeTileLine s e.1 line) (fun u e => mergeTileLine_memoryOnly u e.1 line) _ s

theorem basinPut_memoryOnly (s : State) (pa : Nat) (data : List Byte) (c : Bool) : MemoryOnly s (basinPut s pa data c) := by
  unfold basinPut
  dsimp only
  refine (mergeLine_memoryOnly s (lineOf pa)).trans ?_
  split
  · refine MemoryOnly.trans ?_ (noteWord_memoryOnly _ _)
    refine MemoryOnly.trans ?_ (homeWriteBytes_memoryOnly ..)
    exact ⟨rfl⟩
  · exact ⟨rfl⟩

theorem loaderPut_memoryOnly (s : State) (pasid va : Nat) (data : List Byte) : MemoryOnly s (loaderPut s pasid va data) := by
  unfold loaderPut
  refine .foldl (fun u q => ?_) _ s
  split
  · exact basinPut_memoryOnly ..
  · exact .refl u

theorem pinAll_memoryOnly (s : State) (fs : List Nat) : MemoryOnly s (pinAll s fs) :=
  .foldl (f := fun s f => setFramePins s (framePa f) (framePins s (framePa f) + 1)) (fun _ _ => setFramePins_memoryOnly ..) fs s

/-! ## The loader (R377, R378) -/

/-- The loader's answer, of a status word, to a request `i`. -/
def Answers (s : State) (i : Instr) (code count : Nat) (P : State → Prop) : Prop :=
  ∃ u, exec i s = .next u ∧ u.loaderOut = BitVec.ofNat 32 (code * 2 ^ 24 + min count (2 ^ 24 - 1)) :: s.loaderOut ∧ P u

theorem answers_of {s u : State} {i : Instr} {code count : Nat} {P : State → Prop} (hi : exec i s = .next (loaderSays u code count))
    (hl : u.loaderOut = s.loaderOut) (hP : P (loaderSays u code count)) : Answers s i code count P :=
  ⟨_, hi, by rw [loaderSays, hl]; rfl, hP⟩

/-- Nothing but the answer changes. -/
theorem answers_same {s : State} {i : Instr} {code count : Nat} (hi : exec i s = .next (loaderSays s code count)) :
    Answers s i code count fun u => u.objs = s.objs ∧ u.mem = s.mem ∧ u.threads = s.threads :=
  answers_of hi rfl ⟨rfl, rfl, rfl⟩

theorem removeObject_loaderOut (s : State) (o : CodeObj) : (removeObject s o).loaderOut = s.loaderOut :=
  (MemoryOnly.foldl (f := fun s f => setFramePins s (framePa f) (framePins s (framePa f) - 1))
    (fun _ _ => setFramePins_memoryOnly ..) o.pages s).loaderOut

theorem removeObject_objs (s : State) (o : CodeObj) : (removeObject s o).objs = mdel s.objs (objKey o.pasid o.number) :=
  congrArg (mdel · _) (MemoryOnly.foldl (f := fun s f => setFramePins s (framePa f) (framePins s (framePa f) - 1))
    (fun _ _ => setFramePins_memoryOnly ..) o.pages s).objs

theorem removes {s : State} {pasid n : Nat} {x : CodeObj} {i : Instr} (hp : x.pasid = pasid) (hn : x.number = n)
    (hm : mrises s.objs 0 = true) (hi : exec i s = .next (loaderSays (removeObject s x) 0 0)) :
    Answers s i 0 0 fun u => mfind u.objs (objKey pasid n) = none := by
  refine answers_of hi (removeObject_loaderOut s x) ?_
  have hobjs : (loaderSays (removeObject s x) 0 0).objs = mdel s.objs (objKey pasid n) := by
    rw [← hp, ← hn]
    exact removeObject_objs s x
  rw [hobjs]
  exact mfind_mdel_same _ _ _ hm

section
variable {s : State} {pasid n : Nat}

theorem unloads_none (h : mfind s.objs (objKey pasid n) = none) :
    let same (u : State) : Prop := u.objs = s.objs ∧ u.mem = s.mem ∧ u.threads = s.threads
    Answers s (.codeObjectUnload pasid n) 5 0 same ∧ Answers s (.codeObjectQuery pasid n) 5 0 same
      ∧ exec (.codeObjectRemoval pasid n) s = .next s := by
  refine ⟨answers_same ?_, answers_same ?_, ?_⟩
  · rw [exec_codeObjectUnload, execCodeObjectUnload, h]
    rfl
  · rw [exec_codeObjectQuery, execCodeObjectQuery, h]
    rfl
  · rw [exec_codeObjectRemoval, execCodeObjectRemoval, h]

variable {x : CodeObj} (h : mfind s.objs (objKey pasid n) = some x)
include h

theorem queries : Answers s (.codeObjectQuery pasid n) (if x.pending then 1 else 0) (refCount s x) fun u =>
    u.objs = s.objs ∧ u.mem = s.mem ∧ u.threads = s.threads := by
  refine answers_same ?_
  rw [exec_codeObjectQuery, execCodeObjectQuery, h]
  rfl

theorem unload_waits (hr : refCount s x ≠ 0) : Answers s (.codeObjectUnload pasid n) 1 (refCount s x) (fun u =>
      mfind u.objs (objKey pasid n) = some { x with pending := true } ∧ u.mem = s.mem)
    ∧ exec (.codeObjectRemoval pasid n) s = .next s := by
  refine ⟨answers_of (u := { s with objs := mput s.objs (objKey pasid n) { x with pending := true } }) ?_ rfl
    ⟨mfind_mput_same .., rfl⟩, ?_⟩
  · rw [exec_codeObjectUnload, execCodeObjectUnload, h]
    dsimp only
    rw [if_neg (by simp [hr])]
    rfl
  · rw [exec_codeObjectRemoval, execCodeObjectRemoval, h]
    dsimp only
    rw [if_neg (by simp [hr])]

theorem unload_removes (hr : refCount s x = 0) (hpend : x.pending = false) :
    exec (.codeObjectUnload pasid n) s = .next (loaderSays (removeObject s x) 0 0) := by
  rw [exec_codeObjectUnload, execCodeObjectUnload, h]
  dsimp only
  rw [if_pos (by simp [hr, hpend])]
  rfl

theorem removal_removes (hr : refCount s x = 0) (hpend : x.pending = true) :
    exec (.codeObjectRemoval pasid n) s = .next (loaderSays (removeObject s x) 0 0) := by
  rw [exec_codeObjectRemoval, execCodeObjectRemoval, h]
  dsimp only
  rw [if_pos (by simp [hr, hpend])]
  rfl

end

/-! ## Loads (R47, R48, R377) -/

/-- A request that the service may carry out: the number is free and in range. -/
structure MayLoad (s : State) (img : ObjImage) (number : Nat) : Prop where
  room : (s.objs.filter fun e => e.2.pasid = img.pasid).length ≠ 65535
  low : 1 ≤ number
  high : number ≤ 65535
  pasid : img.pasid < 2 ^ 20
  free : mfind s.objs (objKey img.pasid number) = none

/-- The native code of an image for this part. -/
def partNative (img : ObjImage) : Option (List W64) := if img.stepping = Config.stepping then img.native else none

theorem load_form {img : ObjImage} (hform : partNative img ≠ none ∨ img.jexcy ≠ none) :
    ¬ ((partNative img).isNone && img.jexcy.isNone) = true := by
  simp only [Bool.and_eq_true, Option.isNone_iff_eq_none]
  tauto

theorem load_sound {img : ObjImage} (hok : objectOk img (partNative img) = true) : ¬ (!objectOk img (partNative img)) = true := by
  simp [hok]

section
variable {s : State} {img : ObjImage} {number : Nat} (h : MayLoad s img number)
include h

theorem load_number : ¬ (number = 0 || 65535 < number || 2 ^ 20 ≤ img.pasid || (mfind s.objs (objKey img.pasid number)).isSome)
    = true := by
  obtain ⟨-, hlow, hhigh, hpasid, hfree⟩ := h
  simp only [hfree, Option.isSome_none, Bool.or_false, Bool.or_eq_true, decide_eq_true_eq]
  omega

theorem load_formless (hn : partNative img = none) (hj : img.jexcy = none) :
    exec (.codeObjectLoad img number) s = .next (loaderSays s (if img.native = none then 3 else 2) 0) := by
  have hcode : (if img.native.isSome then 2 else 3) = if img.native = none then 3 else 2 := by cases img.native <;> rfl
  have hnone : ((partNative img).isNone && img.jexcy.isNone) = true := by rw [hn, hj]; rfl
  rw [exec_codeObjectLoad, execCodeObjectLoad, ← partNative, if_neg h.room, if_neg (load_number h), if_pos hnone, hcode]
  rfl

variable (hform : partNative img ≠ none ∨ img.jexcy ≠ none)
include hform

theorem load_unsound (hok : objectOk img (partNative img) = false) :
    exec (.codeObjectLoad img number) s = .next (loaderSays s 3 0) := by
  have hbad : (!objectOk img (partNative img)) = true := by rw [hok]; rfl
  rw [exec_codeObjectLoad, execCodeObjectLoad, ← partNative, if_neg h.room, if_neg (load_number h), if_neg (load_form hform),
    if_pos hbad]
  rfl

variable (hok : objectOk img (partNative img) = true)
include hok

theorem load_unmapped (hf : objectFrames s (objectOf img number (partNative img)) = none) :
    exec (.codeObjectLoad img number) s = .next (loaderSays s 4 0) := by
  rw [exec_codeObjectLoad, execCodeObjectLoad, ← partNative, if_neg h.room, if_neg (load_number h), if_neg (load_form hform),
    if_neg (load_sound hok)]
  dsimp only
  rw [hf]
  rfl

theorem load_adds {fs : List Nat} (hf : objectFrames s (objectOf img number (partNative img)) = some fs)
    (hpins : ∀ f ∈ fs, framePins s (framePa f) ≠ 65535)
    (hfits : ∀ n ∈ (let o := objectOf img number (partNative img)
      [o.jexLen, o.natLen, o.constLen, o.dataLen]), n ≤ Config.areaSpan) :
    Answers s (.codeObjectLoad img number) 0 0 fun u =>
      mfind u.objs (objKey img.pasid number) = some { objectOf img number (partNative img) with pages := fs } := by
  have hgo : ¬ ((fs.any fun f => framePins s (framePa f) = 65535)
      || (let o := objectOf img number (partNative img)
        [o.jexLen, o.natLen, o.constLen, o.dataLen]).any (Config.areaSpan < ·)) = true := by
    simp only [Bool.or_eq_true, List.any_eq_true, decide_eq_true_eq, not_or, not_exists, not_and, Nat.not_lt]
    exact ⟨hpins, hfits⟩
  let o := objectOf img number (partNative img)
  let u1 := loaderPut (pinAll s fs) o.pasid o.jexBase (wordBytes (img.jexcy.getD []))
  let u2 := loaderPut u1 o.pasid o.natBase (wordBytes ((partNative img).getD []))
  let u3 := loaderPut u2 o.pasid o.constBase (relocated o img.bases false img.consts)
  let u4 := loaderPut u3 o.pasid o.dataBase (relocated o img.bases true img.data)
  have hu : MemoryOnly s u4 :=
    ((((pinAll_memoryOnly s fs).trans (loaderPut_memoryOnly ..)).trans (loaderPut_memoryOnly ..)).trans
      (loaderPut_memoryOnly ..)).trans (loaderPut_memoryOnly ..)
  refine answers_of (u := { u4 with objs := mput u4.objs (objKey img.pasid number) { o with pages := fs } }) ?_ hu.loaderOut
    (mfind_mput_same ..)
  rw [exec_codeObjectLoad, execCodeObjectLoad, ← partNative, if_neg h.room, if_neg (load_number h), if_neg (load_form hform),
    if_neg (load_sound hok)]
  dsimp only
  rw [hf]
  dsimp only
  rw [if_neg hgo]
  rfl

end

theorem codeObjects : Says.CodeObjects := by
  intro s img number
  dsimp only
  refine ⟨fun hroom hlow hhigh hpasid hfree => ?_, fun pasid n => ⟨unloads_none, fun x hx => ⟨queries hx, unload_waits hx, ?_⟩⟩⟩
  · have hload : MayLoad s img number := ⟨hroom, hlow, hhigh, hpasid, hfree⟩
    refine ⟨fun hn hj => ?_, fun hform hbad => ?_, fun hform hok => ⟨fun hf => ?_, fun fs hf hpins hfits => ?_⟩⟩
    · exact answers_same (load_formless hload hn hj)
    · exact answers_same (load_unsound hload hform hbad)
    · exact answers_same (load_unmapped hload hform hok hf)
    · refine load_adds hload hform hok hf hpins ?_
      obtain ⟨h1, h2, h3, h4⟩ := hfits
      simp only [List.forall_mem_cons, List.not_mem_nil, false_implies, implies_true, and_true]
      exact ⟨h1, h2, h3, h4⟩
  · intro hr hp hn hm
    exact ⟨fun hpend => removes hp hn hm (unload_removes hx hr hpend), fun hpend => removes hp hn hm (removal_removes hx hr hpend)⟩

/-! ## Translation (R46, R379) -/

/-- The object with a block added at the end of its native section, for the Jexcy block `b`. -/
def withBlock (o : CodeObj) (b : CodeBlock) (ws : List W64) : CodeObj := { o with
  natLen := o.natLen + 8 * ws.length + 32
  translated := (o.jexBase + b.at_, o.natBase + o.natLen) :: o.translated
  falls := (o.jexBase + b.at_ + 8 * b.units.length + 32, o.natBase + o.natLen + 8 * ws.length) :: o.falls }

/-- The device once the block's words stand at the end of the native section, on its newly pinned pages, and the entries of
the object's tables name it. -/
def blockAdded (s : State) (pasid n : Nat) (o : CodeObj) (bs : List CodeBlock) (b : CodeBlock) (ws : List W64)
    (new : List Nat) : State :=
  let s := loaderPut (pinAll s new) pasid (o.natBase + o.natLen) (wordBytes ws)
  let s := (tablesOf bs).foldl (patchTable o (b.at_ / 8) (o.natLen / 32)) s
  { s with objs := mput s.objs (objKey pasid n) { withBlock o b ws with pages := o.pages ++ new } }

section
variable {s : State} {pasid n : Nat} {label : BitVec 16} {ws : List W64} {o : CodeObj} {bs : List CodeBlock} {b : CodeBlock}
  (ho : mfind s.objs (objKey pasid n) = some o)
  (hbs : blocksOf .jexcy (sectionWords s pasid o.jexBase o.jexLen) = some bs)
  (hb : bs.find? (fun b => b.data.own = label) = some b)
include ho hbs hb

theorem translation_refused
    (hno : ((o.translated.any fun p => p.1 = o.jexBase + b.at_)
      || !standsFor (withBlock o b ws) (o.natBase + o.natLen) b ws) = true) :
    exec (.blockTranslation pasid n label ws) s = .next s := by
  rw [exec_blockTranslation]
  unfold execBlockTranslation
  split
  · rfl
  · next o' ho' =>
    cases ho'.symm.trans ho
    rw [hbs, Option.getD_some]
    extract_lets
    split
    · rfl
    · next b' hb' =>
      cases hb'.symm.trans hb
      exact if_pos hno

/-- A block that is taken: its pages are pinned, it is written at the end of the section, and the tables name it. -/
theorem translation_taken {old fs : List Nat}
    (hgo : ¬ ((o.translated.any fun p => p.1 = o.jexBase + b.at_)
      || !standsFor (withBlock o b ws) (o.natBase + o.natLen) b ws) = true)
    (hold : areaFrames s pasid o.natBase o.natLen false = some old)
    (hfs : areaFrames s pasid o.natBase (withBlock o b ws).natLen false = some fs) :
    exec (.blockTranslation pasid n label ws) s = .next (blockAdded s pasid n o bs b ws (fs.drop old.length)) := by
  rw [exec_blockTranslation]
  unfold execBlockTranslation
  split
  · next hnone => exact nomatch hnone.symm.trans ho
  · next o' ho' =>
    cases ho'.symm.trans ho
    rw [hbs, Option.getD_some]
    extract_lets
    split
    · next hnone => exact nomatch hnone.symm.trans hb
    · next b' hb' =>
      cases hb'.symm.trans hb
      refine (if_neg hgo).trans ?_
      split
      · next old' fs' hold' hfs' =>
        cases hold'.symm.trans hold
        cases hfs'.symm.trans hfs
        rfl
      · next hno => exact absurd hfs (hno old fs hold)

end

theorem translatedBlocks : Says.TranslatedBlocks := by
  intro s pasid n label ws o bs b ho hbs hb i first at_ o1
  refine ⟨fun hno => translation_refused ho hbs hb ?_, fun hnew hstands ⟨old, hold⟩ ⟨fs, hfs⟩ => ?_⟩
  · rw [Bool.or_eq_true, Bool.not_eq_true', List.any_eq_true]
    exact hno.imp (fun ⟨p, hp, hf⟩ => ⟨p, hp, decide_eq_true hf⟩) id
  · have hany : (o.translated.any fun p => p.1 = o.jexBase + b.at_) = false := by
      rw [List.any_eq_false]
      intro p hp
      simpa using hnew p hp
    have hgo : ¬ ((o.translated.any fun p => p.1 = o.jexBase + b.at_)
        || !standsFor (withBlock o b ws) (o.natBase + o.natLen) b ws) = true := by
      rw [hany, Bool.false_or, Bool.not_eq_true', Bool.not_eq_false]
      exact hstands
    exact ⟨_, _, translation_taken (s := s) (n := n) ho hbs hb hgo hold hfs, mfind_mput_same ..⟩

/-- Settles O45: each answer is read off the loader's checks in their order; pinning and writing an object's pages change
no object and no answer. -/
theorem codeObjectsAndTranslation : Obligations.CodeObjectsAndTranslation :=
  ⟨codeObjects, translatedBlocks⟩

end Sys2Proof.Machine
end

section
/-! PROOFS. The refusals of a flume command (R118; O25). -/

namespace Sys2Proof.Machine
open Sys2Proof.Says

/-! ## Commands that write without a source: `fl.fill` and `fl.publish` -/

section
variable {c : FlumeCmd} (hi : ∃ x, c.instr = .flFill x ∨ c.instr = .flPublish x)
include hi

theorem usesSrc_sourceless : usesSrc c = false := by
  obtain ⟨x, h | h⟩ := hi <;> simp only [usesSrc, h]

theorem badFormat_sourceless : badFormat c = hMalformed c.hD := by
  have hp : permCode c = 0 := by obtain ⟨x, h | h⟩ := hi <;> simp only [permCode, h]
  have hr : rotates c = false := by obtain ⟨x, h | h⟩ := hi <;> simp only [rotates, h]
  simp [badFormat, usesSrc_sourceless hi, hp, hr]

theorem badShape_sourceless : badShape c = false := by
  obtain ⟨x, h | h⟩ := hi <;> simp only [badShape, h]

theorem badOverlap_sourceless (s : State) : badOverlap s c = false := by
  simp [badOverlap, usesSrc_sourceless hi]

/-- Of its own shape nothing refuses such a command: what decides is where it writes. -/
theorem refusal_sourceless (s : State) (he : badEngine c = false) (hm : hMalformed c.hD = false) :
    refusal s c = if badSize c then some 5 else if badLeafSize s c then some 6 else if badAddress s c then some 7
      else if badHeld s { c with dests := (destsOf s c).getD [] } then some 8 else none := by
  simp only [refusal, he, badFormat_sourceless hi, hm, badShape_sourceless hi, badOverlap_sourceless hi, Bool.false_eq_true,
    if_false]

end

/-! ## The first conditions (codes 1 and 2) -/

theorem badEngine_of_ne {c : FlumeCmd} (h : c.x.eng ≠ 0) : badEngine c = false := by
  simp [badEngine, h]

theorem refusal_engine {s : State} {c : FlumeCmd} (h0 : c.x.eng = 0)
    (hi : ∃ x, c.instr = .flScatter x ∨ c.instr = .flMcast x) : refusal s c = some 1 := by
  have he : badEngine c = true := by obtain ⟨x, h | h⟩ := hi <;> simp [badEngine, h0, h]
  rw [refusal, if_pos he]

theorem refusal_malformed {s : State} {c : FlumeCmd} (h0 : c.x.eng ≠ 0) (hm : hMalformed c.hD = true) : refusal s c = some 2 := by
  have hf : badFormat c = true := by simp [badFormat, hm]
  rw [refusal, badEngine_of_ne h0, if_neg (by decide), if_pos hf]

/-! ## A global destination (codes 5 and 6) -/

section
variable {s : State} {c : FlumeCmd} (hi : ∃ x, c.instr = .flFill x ∨ c.instr = .flPublish x) (h0 : c.x.eng ≠ 0)
  (hm : hMalformed c.hD = false) (hs : hScr c.hD = false)
include hi h0 hm hs

theorem refusal_pages (hn : 4096 < (pageNumbers (runsOf c.hD)).length) : refusal s c = some 5 := by
  have hb : badSize c = true := by simp [badSize, globalDest, hs, hn]
  rw [refusal_sourceless hi s (badEngine_of_ne h0) hm, if_pos hb]

theorem refusal_large (hn : (pageNumbers (runsOf c.hD)).length ≤ 4096)
    (hp : ∃ p ∈ pagesOf (runsOf c.hD), ∃ pte e, walk s (pasidOf s c) (p * 65536) = .leaf pte true e) : refusal s c = some 6 := by
  have hb : badSize c = false := by simp [badSize, globalDest, hs, hn]
  have hl : badLeafSize s c = true := by
    obtain ⟨p, hmem, pte, e, hw⟩ := hp
    rw [badLeafSize, globalDest, hs, Bool.not_false, Bool.true_and, List.any_eq_true]
    exact ⟨p, hmem, by rw [hw]⟩
  rw [refusal_sourceless hi s (badEngine_of_ne h0) hm, hb, if_neg (by decide), if_pos hl]

end

/-! ## A fill of a region of its own tile (code 7) -/

section
variable {s : State} {c : FlumeCmd} {x : Fl} (hi : c.instr = .flFill x) (hs : hScr c.hD = true)
  (hroute : c.par 1 % 2 ^ 16 = 0xFFFF)
include hi hs hroute

omit hs in
theorem routeD_ownFill : routeD c = 0xFFFF := by
  simp only [routeD, hi, inPlace, Bool.false_eq_true, if_false, hroute]

theorem badEngine_ownFill : badEngine c = false := by
  simp [badEngine, hi, hs, routeD_ownFill hi hroute, usesSrc_sourceless ⟨x, .inl hi⟩]

theorem destsOf_ownFill : destsOf s c =
    some [.scr (opTileKey (keyOp c.thread) (keyLtile c.thread)) (physTile s c (keyLtile c.thread)) (hRegion c.hD)] := by
  simp [destsOf, hi, isMcast, hs, routeD_ownFill hi hroute, routeTile, spaceAt]

/-- Only its bounds and its arrival word can refuse it. -/
theorem badAddress_ownFill (hold : c.hold = false) :
    let d : FlDest := .scr (opTileKey (keyOp c.thread) (keyLtile c.thread)) (physTile s c (keyLtile c.thread)) (hRegion c.hD)
    badAddress s c = (!inBounds s d c.hD || !arrivalOk s c d) := by
  have hu := usesSrc_sourceless (c := c) ⟨x, .inl hi⟩
  simp [badAddress, destsOf_ownFill hi hs hroute, hi, isMcast, indexCount, hu, hold]

theorem refusal_ownFill (hm : hMalformed c.hD = false) (hold : c.hold = false) :
    refusal s c = if badAddress s c then some 7 else none := by
  have hg : globalDest c = false := by simp [globalDest, hs]
  rw [refusal_sourceless ⟨x, .inl hi⟩ s (badEngine_ownFill hi hs hroute) hm]
  simp [badSize, badLeafSize, hg, badHeld, hold]

end

theorem flumeRefusals : Says.FlumeRefusals := by
  intro s c
  refine ⟨refusal_engine, refusal_malformed, fun x hi h0 hm hs => ⟨refusal_pages ⟨x, hi⟩ h0 hm hs, refusal_large ⟨x, hi⟩ h0 hm hs⟩,
    fun x hi hm hs hroute hold => ?_⟩
  intro size
  rw [refusal_ownFill hi hs hroute hm hold, badAddress_ownFill hi hs hroute hold]
  refine ⟨fun hz => ?_, fun hz hbits harr hruns => ?_⟩
  · simp only [size] at hz
    simp [inBounds, hz]
  · simp only [size] at hz hruns
    have hin : ∀ t : Nat, inBounds s (.scr (opTileKey (keyOp c.thread) (keyLtile c.thread)) t (hRegion c.hD)) c.hD = true := by
      intro t
      simp only [inBounds, Bool.and_eq_true, decide_eq_true_eq, List.all_eq_true]
      refine ⟨⟨hz, hbits⟩, fun r hr => ?_⟩
      obtain ⟨hlow, hhigh⟩ := hruns r hr
      rw [Nat.mul_comm]
      exact ⟨hlow, hhigh⟩
    simp [hin, arrivalOk, harr]

end Sys2Proof.Machine
end

section
/-! PROOFS. Flume operations are captured, and issue with a ticket (R49, R115 to R117, R131, R137; O25). -/

namespace Sys2Proof.Machine
open Sys2Proof.Says

/-! ## What every flume command shares -/

theorem exec_flumeInstr {x : Fl} {i : Instr} (hi : i ∈ flumeInstrs x) (s : State) :
    exec i s = runGated i (capture i) (flIssue x) s := by
  simp only [flumeInstrs, List.mem_cons, List.not_mem_nil, or_false] at hi
  rcases hi with rfl | rfl | rfl | rfl | rfl | rfl | rfl | rfl | rfl | rfl
  · exact exec_flCopy ..
  · exact exec_flXpose ..
  · exact exec_flPerm ..
  · exact exec_flGather ..
  · exact exec_flScatter ..
  · exact exec_flFill ..
  · exact exec_flMcast ..
  · exact exec_flPatch ..
  · exact exec_flRope ..
  · exact exec_flPublish ..

theorem flResult_eq (t : Thread) (x : Fl) (v : Nat) : flResult t x v = withResult t x v := by
  unfold flResult withResult giveResult
  split
  · rfl
  · rfl

theorem flResult_ticketed (t : Thread) (x : Fl) :
    flResult { setTicket t t.ticket .queued with ticket := nextTicket t.ticket } x t.ticket = ticketed t x := by
  rw [flResult_eq]
  rfl

/-! ## The bytes of an index list (R131) -/

theorem lt_of_mem_granulesOf {off n k : Nat} (hk : k ∈ granulesOf off n) : ∃ j < n, (off + j) / 4096 = k := by
  unfold granulesOf at hk
  split at hk
  · cases hk
  · next hn =>
    obtain ⟨i, hi, rfl⟩ := List.mem_map.mp hk
    rw [List.mem_range] at hi
    by_cases h0 : i = 0
    · exact ⟨0, by omega, by omega⟩
    · exact ⟨4096 * (off / 4096 + i) - off, by omega, by omega⟩

/-- A loop whose every turn changes nothing. -/
theorem op_run_forIn_yield {α β : Type} {s : State} {f : α → β → Op (ForInStep β)} {b : β} (l : List α)
    (h : ∀ a ∈ l, (f a b).run s = (.ok (.yield b), s)) : (forIn l b f).run s = (.ok b, s) := by
  induction l with
  | nil => rfl
  | cons a l ih =>
    rw [List.forIn_cons, op_run_bind_ok (h a List.mem_cons_self)]
    exact ih fun a' ha => h a' (List.mem_cons_of_mem a ha)

theorem ensureFilled_filled {s : State} {g : Agent} {r : Nat} (ha : ∀ p ∈ s.ops, p.2.away = false) (ks : List Nat)
    (hg : ∀ k ∈ ks, granOf (regionOf (s.opTile g.ot) r) (4096 * k) ≠ some .empty) :
    (ensureFilled g r ks).run s = (.ok (), s) := by
  have hp : ∀ k, pageHeld s (g.ot / 512) g.tile (regionOf (s.opTile g.ot) r) (4096 * k) = false := by
    intro k
    rw [pageHeld, List.any_eq_false]
    intro e _
    simp [mfind_any_away ha]
  unfold ensureFilled
  refine op_run_bind_ok (op_run_forIn_yield ks fun k hk => ?_)
  simp only [op_run_bind, op_run_get, hp, Bool.false_eq_true, if_false, claimPage64_none ha, op_run_set, hg k hk, op_run_pure]

theorem agentRead_filled {s : State} {g : Agent} {r off n : Nat} (ha : ∀ p ∈ s.ops, p.2.away = false)
    (hg : ∀ j < n, granOf (regionOf (s.opTile g.ot) r) (off + j) ≠ some .empty) :
    (agentRead g (.scr r off) n).run s =
      (.ok ((List.range n).map fun j => regionByte (regionOf (s.opTile g.ot) r) (off + j)), s) := by
  have hg' : ∀ k ∈ granulesOf off n, granOf (regionOf (s.opTile g.ot) r) (4096 * k) ≠ some .empty := by
    intro k hk
    obtain ⟨j, hj, rfl⟩ := lt_of_mem_granulesOf hk
    have hsame : 4096 * ((off + j) / 4096) / 4096 = (off + j) / 4096 := by omega
    rw [granOf, hsame]
    exact hg j hj
  unfold agentRead
  dsimp only
  rw [op_run_bind_ok (ensureFilled_filled ha _ hg'), op_run_bind_ok (op_run_get s)]
  rfl

/-- With no command held, a command reads what its agent reads (R125). -/
theorem flBytes_run {s : State} {c : FlumeCmd} {d : FlDest} {a : Addr} {n : Nat} {bs : List Byte} (hf : s.flumes = [])
    (hr : (agentRead (flAgent s c d) a n).run s = (.ok bs, s)) : (flBytes c d a n).run s = (.ok bs, s) := by
  have hb : ∀ (a : Nat) (b : Byte), heldByte s c.thread (pasidOf s c) d a b = b := by
    intro a b
    simp [heldByte, heldOf, hf]
  unfold flBytes
  rw [op_run_bind_ok (op_run_get s), op_run_bind_ok hr, op_run_bind_ok (op_run_get s)]
  simp [hb]

theorem drop_take_range_map {α : Type} (f : Nat → α) {k i : Nat} (hi : i < k) :
    (((List.range (4 * k)).map f).drop (4 * i)).take 4 = (List.range 4).map fun j => f (4 * i + j) := by
  rw [← List.map_drop, ← List.map_take]
  apply List.ext_getElem
  · simp; omega
  · intro j h1 h2
    simp

section
variable {s : State} {t : Thread} {g : Gated} {c : FlumeCmd}

theorem readIndex_none (h : indexCount c = none ∨ indexCount c = some 0) : (readIndex g t c).run s = (.ok [], s) := by
  unfold readIndex
  rcases h with h | h
  · rw [h]
    rfl
  · rw [h]
    rfl

theorem readIndex_scr {k r o : Nat} (hk : indexCount c = some k) (h1 : 1 ≤ k)
    (had : valueAddr (s.opTile t.ot) c.par64 (4 * k) = .ok (.scr r o)) (hb : (awaitBarriers g t).run s = (.ok (), s))
    (hd : olderDone t g.ord = true) (hf : s.flumes = []) (ha : ∀ p ∈ s.ops, p.2.away = false)
    (hg : ∀ j < 4 * k, granOf (regionOf (s.opTile t.ot) r) (o + j) ≠ some .empty) :
    (readIndex g t c).run s = (.ok ((List.range k).map fun e =>
      leOf ((List.range 4).map fun j => regionByte (regionOf (s.opTile t.ot) r) (o + 4 * e + j))), s) := by
  have hwait : ∀ n p l, readWaits s t.key n p l = false := by
    intro n p l
    simp [readWaits, hf]
  have hread := flBytes_run (c := c) (d := .scr t.ot t.tile r) hf
    (agentRead_filled (g := flAgent s c (.scr t.ot t.tile r)) (r := r) (off := o) (n := 4 * k) ha hg)
  unfold readIndex
  rw [hk]
  split
  · next h => cases h
  · next h =>
    cases h
    cases h1
  · next n _ h =>
    cases h
    rw [op_run_bind_ok hb, op_run_bind_ok (op_run_get s), had, op_run_bind_ok (op_run_lift_ok ..)]
    simp only [hd, hwait, Bool.not_true, Bool.or_self, Bool.false_eq_true, if_false]
    rw [op_run_bind_ok hread, op_run_pure]
    have hix : ∀ e ∈ List.range k, leOf ((((List.range (4 * k)).map fun j => regionByte (regionOf (s.opTile t.ot) r) (o + j)).drop
        (4 * e)).take 4) = leOf ((List.range 4).map fun j => regionByte (regionOf (s.opTile t.ot) r) (o + 4 * e + j)) := by
      intro e he
      rw [drop_take_range_map _ (List.mem_range.mp he)]
      simp only [Nat.add_assoc]
    exact congrArg (fun l => (Except.ok l, s)) (List.map_congr_left hix)

end

/-! ## Issue (R116, R117) -/

section
variable {s : State} {t : Thread} {x : Fl} {g : Gated}

theorem flIssue_full (ho : 16 ≤ (s.flumes.filter fun e => e.2.thread = t.key).length) :
    (flIssue x g t).run s = (.error (.wait .other), s) := by
  unfold flIssue
  rw [op_run_bind_ok (op_run_get s), if_pos ho]
  rfl

variable (ho : (s.flumes.filter fun e => e.2.thread = t.key).length < 16)
include ho

theorem flIssue_refused {code : Nat} (hr : refusal s (flumeCmd s t x g) = some code) :
    (flIssue x g t).run s = (.ok (withResult t x (2 ^ 31 + code)), s) := by
  rw [flumeCmd] at hr
  unfold flIssue
  rw [op_run_bind_ok (op_run_get s), if_neg (by omega)]
  simp only [hr, flResult_eq]
  rfl

theorem flIssue_accepted {ds : List FlDest} {ix : List Nat} (hr : refusal s (flumeCmd s t x g) = none)
    (hd : destsOf s (flumeCmd s t x g) = some ds) (hx : (readIndex g t (flumeCmd s t x g)).run s = (.ok ix, s)) :
    (flIssue x g t).run s = (.ok (ticketed t x), accepts s t g { flumeCmd s t x g with index := ix, dests := ds, left := ds }) := by
  rw [flumeCmd] at hr hd hx
  unfold flIssue
  rw [op_run_bind_ok (op_run_get s), if_neg (by omega)]
  simp only [hr]
  rw [op_run_bind_ok hx, hd, flResult_ticketed]
  rfl

end

theorem flume_issues {s : State} {t : Thread} {x : Fl} {g : Gated} {rest : List Gated} {i : Instr} (hi : i ∈ flumeInstrs x)
    (h : Issues s t i g rest) :
    let t0 := { t with issue := rest }
    let c := flumeCmd s t x g
    let opened := (s.flumes.filter fun e => e.2.thread = t.key).length
    (16 ≤ opened → Makes s i { t with flow := .stalled .other })
    ∧ (opened < 16 → ∀ code, refusal s c = some code → Issued s i s (withResult t0 x (2 ^ 31 + code)))
    ∧ (opened < 16 → refusal s c = none → ∀ ds, destsOf s c = some ds →
      (indexCount c = none ∨ indexCount c = some 0 →
        Issued s i (accepts s t g { c with dests := ds, left := ds }) (ticketed t0 x))
      ∧ ∀ k r o, indexCount c = some k → 1 ≤ k → valueAddr (s.opTile t.ot) c.par64 (4 * k) = .ok (.scr r o) →
        BarriersMet s t rest g → olderDone t g.ord = true → s.flumes = [] → (∀ p ∈ s.ops, p.2.away = false) →
        let reg := regionOf (s.opTile t.ot) r
        (∀ j < 4 * k, granOf reg (o + j) ≠ some .empty) →
        Issued s i (accepts s t g { c with
            dests := ds, left := ds
            index := (List.range k).map fun e => leOf ((List.range 4).map fun j => regionByte reg (o + 4 * e + j)) })
          (ticketed t0 x)) := by
  intro t0 c opened
  have hex := exec_flumeInstr hi s
  refine ⟨fun ho => issue_waits h hex (flIssue_full (t := t0) ho),
    fun ho code hr => issue_ok h hex (flIssue_refused (t := t0) ho hr),
    fun ho hr ds hd => ⟨fun hc => issue_ok h hex (flIssue_accepted (t := t0) ho hr hd (readIndex_none hc)), ?_⟩⟩
  intro k r o hk h1 had hb hdone hf ha reg hg
  exact issue_ok h hex (flIssue_accepted (t := t0) ho hr hd
    (readIndex_scr (t := t0) hk h1 had (awaitBarriers_met hb) hdone hf ha hg))

/-! ## `fl.poll` (R137) -/

theorem ticketCode_known {t : Thread} {n : Nat} {st : TicketState} (hm : (n, st) ∈ t.tickets)
    (hu : ∀ e ∈ t.tickets, e.1 = n → e.2 = st) : ticketCode t n = st.code := by
  unfold ticketCode
  cases hf : t.tickets.find? fun e => e.1 = n with
  | none => exact absurd (List.find?_eq_none.mp hf _ hm) (by simp)
  | some e =>
    have hst := hu e (List.mem_of_find?_eq_some hf) (by simpa using List.find?_some hf)
    simp [hst]

theorem ticketCode_unknown {t : Thread} {n : Nat} (hno : ∀ e ∈ t.tickets, e.1 ≠ n) : ticketCode t n = 0 := by
  have hf : (t.tickets.find? fun e => e.1 = n) = none := List.find?_eq_none.mpr fun e he => by simpa using hno e he
  rw [ticketCode, hf]
  rfl

theorem poll_issues {s : State} {t : Thread} {x : Fl} {g : Gated} {rest : List Gated} (h : Issues s t (.flPoll x) g rest) :
    Issued s (.flPoll x) s (withResult { t with issue := rest } x (ticketCode t (g.regs.s[x.par]).toNat)) := by
  refine issue_ok h (exec_flPoll ..) ?_
  rw [flResult_eq]
  rfl

end Sys2Proof.Machine
end

section
/-! PROOFS. `fl.cancel` takes an open command away (R138; O25). -/

namespace Sys2Proof.Machine
open Sys2Proof.Says

/-! ## One key of a map -/

theorem filter_key_none {α : Type} {m : Map α} {k lo : Nat} (hm : mrises m lo = true) (hk : k < lo) :
    m.filter (fun e => e.1 = k) = [] := by
  rw [List.filter_eq_nil_iff]
  intro e he
  have := mrises_le_key m lo hm e he
  simp
  omega

theorem filter_key_of_mfind {α : Type} {m : Map α} {k : Nat} {x : α} {lo : Nat} (hm : mrises m lo = true)
    (h : mfind m k = some x) : m.filter (fun e => e.1 = k) = [(k, x)] := by
  induction m generalizing lo with
  | nil => cases h
  | cons e r ih =>
    obtain ⟨j, v⟩ := e
    obtain ⟨-, hr⟩ := (mrises_cons j v r lo).mp hm
    simp only [mfind] at h
    split at h
    · next hj =>
      subst hj
      cases h
      rw [List.filter_cons_of_pos (by simp), filter_key_none hr (by omega)]
    · next hj =>
      split at h
      · cases h
      · rw [List.filter_cons_of_neg (by simpa using Ne.symm hj)]
        exact ih hr h

theorem eq_of_mem_of_mfind {α : Type} {m : Map α} {k : Nat} {x : α} {e : Nat × α} (hm : mrises m 0 = true)
    (h : mfind m k = some x) (he : e ∈ m) (hk : e.1 = k) : e = (k, x) := by
  have hf : e ∈ m.filter (fun e => e.1 = k) := List.mem_filter.mpr ⟨he, by simpa using hk⟩
  rw [filter_key_of_mfind hm h] at hf
  exact List.mem_singleton.mp hf

theorem mfind_filter_key {α : Type} (m : Map α) (k : Nat) : mfind (m.filter fun e => !decide (e.1 = k)) k = none := by
  induction m with
  | nil => rfl
  | cons e r ih =>
    obtain ⟨j, v⟩ := e
    by_cases hj : j = k
    · rw [List.filter_cons_of_neg (by simp [hj])]
      exact ih
    · rw [List.filter_cons_of_pos (by simp [hj])]
      simp [mfind, ih, Ne.symm hj]

/-! ## What a cancel leaves -/

/-- `u` differs from `s` by its terraces alone: frames returned to the pool. -/
def PoolOnly (s u : State) : Prop := u = { s with terraces := u.terraces }

theorem returnAll_poolOnly (s : State) (fs : List (Nat × Nat)) :
    PoolOnly s (fs.foldl (fun s f => returnFrames s f.1 [f.2]) s) := by
  apply foldl_keeps (PoolOnly s)
  · intro u f h
    rw [PoolOnly] at h ⊢
    rw [h]
    rfl
  · rfl

theorem markTicket_run {s : State} {t : Thread} {c : FlumeCmd} {x : TicketState} (ht : mfind s.threads c.thread = some t) :
    markTicket s c x = s.setThread c.thread { t with tickets := t.tickets.map fun e => if e.1 = c.ticket then (e.1, x) else e } := by
  rw [markTicket, ht]

/-- The sequencer with ticket `n` cancelled. -/
def ticketCancelled (t : Thread) (n : Nat) : Thread :=
  { t with tickets := t.tickets.map fun e => if e.1 = n then (e.1, .cancelled) else e }

/-- The device without command `m`, whose sequencer is `t`. -/
def withoutFlume (s : State) (m k : Nat) (t : Thread) : State :=
  { s with flumes := s.flumes.filter fun e => !decide (e.1 = m), threads := mput s.threads k t }

/-- A cancel of one command marks its ticket and returns its frames. -/
theorem cancelFlumes_one {s : State} {t : Thread} {m : Nat} {c : FlumeCmd} (hm : mrises s.flumes 0 = true)
    (hc : mfind s.flumes m = some c) (ht : mfind s.threads c.thread = some t) :
    PoolOnly (withoutFlume s m c.thread (ticketCancelled t c.ticket)) (cancelFlumes s fun k _ => decide (k = m)) := by
  unfold cancelFlumes
  dsimp only
  rw [filter_key_of_mfind hm hc, List.foldl_cons, List.foldl_nil, markTicket_run (by exact ht)]
  exact returnAll_poolOnly _ _

theorem swapForm_tickets (s : State) (t : Thread) : (swapForm s t).tickets = t.tickets := by
  unfold swapForm
  split
  · rfl
  · extract_lets enter may
    have he : ∀ f a, (enter f a).tickets = t.tickets := by
      intro f a
      simp only [enter]
      split <;> rfl
    split
    · rfl
    · split <;> split <;> simp only [he]

theorem startNext_tickets (s : State) (t : Thread) : (startNext s t).tickets = t.tickets := by
  unfold startNext
  extract_lets r t1 u v
  have hu : u.tickets = t.tickets := by
    simp only [u]
    split
    · rw [swapForm_tickets]
    · rfl
  exact hu

theorem finishIssue_tickets (s : State) (t : Thread) : (finishIssue s t).tickets = t.tickets := by
  unfold finishIssue
  split
  · exact startNext_tickets s t
  · rfl

/-! ## `fl.cancel` -/

section
variable {s : State} {t : Thread} {x : Fl} {g : Gated} {rest : List Gated} (h : Issues s t (.flCancel x) g rest)
include h

/-- A ticket that names no open command gives its state. -/
theorem cancel_closed (hv : ticketCode t (g.regs.s[x.par]).toNat ∉ [1, 2, 3]) :
    Issued s (.flCancel x) s (withResult { t with issue := rest } x (ticketCode t (g.regs.s[x.par]).toNat)) := by
  refine issue_ok h (exec_flCancel ..) ?_
  rw [op_run_bind_ok (op_run_get s)]
  dsimp only
  split
  · rw [flResult_eq]
    rfl
  · next m c hf =>
    have hp := List.find?_some hf
    simp only [Bool.and_eq_true, Bool.or_eq_true, decide_eq_true_eq, or_assoc] at hp
    exact absurd hp.2 (by simpa [ticketCode] using hv)

/-- A ticket that names an open command of no held destination takes that command away alone. -/
theorem cancel_open {m : Nat} {c : FlumeCmd} {st : TicketState} (hst : st = .queued ∨ st = .writing)
    (hticket : ((g.regs.s[x.par]).toNat, st) ∈ t.tickets)
    (huniq : ∀ e ∈ t.tickets, e.1 = (g.regs.s[x.par]).toNat → e.2 = st) (hc : mfind s.flumes m = some c)
    (hthread : c.thread = t.key)
    (hct : c.ticket = (g.regs.s[x.par]).toNat) (hcs : c.state = st)
    (honly : ∀ e ∈ s.flumes, e.2.thread = t.key → e.2.ticket = (g.regs.s[x.par]).toNat → e.1 = m)
    (hm : mrises s.flumes 0 = true) :
    let t0 := { t with issue := rest }
    let t1 := ticketCancelled t0 (g.regs.s[x.par]).toNat
    ∃ s', PoolOnly (withoutFlume (s.setThread t.key t0) m t.key t1) s'
      ∧ Issued s (.flCancel x) s' (withResult t1 x (ticketCode t0 (g.regs.s[x.par]).toNat)) := by
  intro t0 t1
  let s' := cancelFlumes (s.setThread t0.key t0) fun k _ => decide (k = m)
  have hcode : ticketCode t0 (g.regs.s[x.par]).toNat = 1 ∨ ticketCode t0 (g.regs.s[x.par]).toNat = 2 := by
    rw [ticketCode_known (t := t0) hticket huniq]
    exact hst.imp (fun h => by rw [h]; rfl) (fun h => by rw [h]; rfl)
  have hone : (fun k (_ : FlumeCmd) => cancelled s m c k) = fun k _ => decide (k = m) := by
    funext k _
    have hheld : c.state ≠ .held := by
      rw [hcs]
      rcases hst with rfl | rfl <;> decide
    simp [cancelled, hheld]
  have hpool : PoolOnly (withoutFlume (s.setThread t.key t0) m t.key t1) s' := by
    have h1 := cancelFlumes_one (s := s.setThread t0.key t0) (t := t0) hm hc (by rw [hthread]; exact mfind_mput_same ..)
    rw [hthread, hct] at h1
    exact h1
  have hfind : mfind s'.threads t.key = some t1 := by
    rw [hpool]
    exact mfind_mput_same ..
  refine ⟨s', hpool, issue_ok h (exec_flCancel ..) ?_⟩
  rw [op_run_bind_ok (op_run_get s)]
  dsimp only
  split
  · next hf =>
    have hp := List.find?_eq_none.mp hf (m, c) (mem_of_mfind hc)
    exact absurd hp (by
      simp only [hct, Bool.and_eq_true, Bool.or_eq_true, decide_eq_true_eq, not_not]
      exact ⟨⟨hthread, trivial⟩, .inl hcode⟩)
  · next m' c' hf =>
    have hp := List.find?_some hf
    simp only [Bool.and_eq_true, decide_eq_true_eq] at hp
    obtain ⟨⟨hth, htk⟩, -⟩ := hp
    have hmem := List.mem_of_find?_eq_some hf
    cases eq_of_mem_of_mfind hm hc hmem (honly _ hmem hth htk)
    rw [hone, op_run_bind_ok (op_run_set ..), flResult_eq]
    have hget : (mfind s'.threads t0.key).getD t0 = t1 := by
      rw [show t0.key = t.key from rfl, hfind]
      rfl
    exact congrArg (fun u => (Except.ok (withResult u x _), s')) hget

end

theorem flumeIssues : Says.FlumeIssues := by
  intro s t x g rest t0 n code
  have hcode : ∀ st : TicketState, code st = st.code := by
    intro st
    cases st <;> rfl
  refine ⟨fun ht hm => ⟨fun i hi => ?_, ?_, ?_⟩, fun i hi h => flume_issues hi h, fun h => ⟨fun st hmem hu => ?_, fun hno => ?_⟩,
    fun h => ⟨fun hno => ?_, fun st hst hmem hu => ?_, fun m c st hst hmem hu hc hth htk hcs _ honly hm => ?_⟩⟩
  · exact (captures ht fun _ => exec_flumeInstr hi s).1 hm
  · exact (captures ht fun _ => exec_flPoll ..).1 hm
  · exact (captures ht fun _ => exec_flCancel ..).1 hm
  · have hp := poll_issues h
    rw [ticketCode_known hmem hu] at hp
    rw [hcode]
    exact hp
  · have hp := poll_issues h
    rw [ticketCode_unknown hno] at hp
    exact hp
  · have hv := ticketCode_unknown hno
    have hp := cancel_closed h (by rw [hv]; decide)
    rw [hv] at hp
    exact hp
  · have hv := ticketCode_known hmem hu
    have hp := cancel_closed h (by rw [hv]; rcases hst with rfl | rfl <;> decide)
    rw [hv] at hp
    rw [hcode]
    exact hp
  · obtain ⟨s', hpool, hissued⟩ := cancel_open h hst hmem hu hc hth htk hcs honly hm
    have hfl : s'.flumes = s.flumes.filter fun e => !decide (e.1 = m) := by
      rw [hpool]
      rfl
    refine ⟨_, _, hissued, by rw [hpool]; rfl, by rw [hpool]; rfl, by rw [hpool]; rfl, ?_, fun k hk => ?_, mfind_mput_same .., ?_⟩
    · exact (congrArg (mfind · m) hfl).trans (mfind_filter_key ..)
    · exact (congrArg (mfind · k) hfl).trans (mfind_filter s.flumes _ 0 k hm (by simp [hk]))
    · rw [finishIssue_tickets]
      exact List.mem_map.mpr ⟨(n, st), hmem, if_pos rfl⟩

/-- Settles O25: an issue is the queue's length, the refusal, the index list and the ticket in this order; a cancel of an open
command takes that command's entry away alone. -/
theorem flumeOperationsIssue : Obligations.FlumeOperationsIssue :=
  ⟨flumeIssues, flumeRefusals⟩

end Sys2Proof.Machine
end

section
/-! SUPPORT. Memory keeps its canonical form: the rules of the monad's operations, and the accesses of a sequencer to
scratchpad and global memory (log entry 1; O60). -/

namespace Sys2Proof.Machine

/-! ## Further rules of the monad -/

theorem keepsMem_set {s' : State} (h : s'.memOk) : KeepsMem (set s' : Op PUnit) := fun _ _ => h

/-- The state is read; what follows may write back any state made from it. -/
theorem keepsMem_read {β : Type} {f : State → Op β} (hf : ∀ s : State, s.memOk → KeepsMem (f s)) :
    KeepsMem (get >>= f) := keepsMem_get_bind fun s h => hf s h s h

/-- A check that ends the operation where it fails. -/
theorem keepsMem_guard {α β : Type} {p : Prop} [Decidable p] {e : Stop} {g : α → Op β} {m : Op β} (h : KeepsMem m) :
    KeepsMem (if p then throw e >>= g else m) := by
  split
  · exact fun s hs => hs
  · exact h

theorem keepsMem_lift_bind {α β : Type} {x : Except Stop α} {f : α → Op β} (hf : ∀ a, KeepsMem (f a)) :
    KeepsMem (liftM x >>= f) := keepsMem_bind (keepsMem_lift x) hf

theorem keepsMem_mapM {α β : Type} {f : α → Op β} (hf : ∀ a, KeepsMem (f a)) (xs : List α) : KeepsMem (xs.mapM f) := by
  induction xs with
  | nil => exact keepsMem_pure []
  | cons x r ih =>
    rw [List.mapM_cons]
    exact keepsMem_bind (hf x) fun _ => keepsMem_bind ih fun _ => keepsMem_pure _

theorem keepsMem_forM {α : Type} {f : α → Op PUnit} (hf : ∀ a, KeepsMem (f a)) (xs : List α) : KeepsMem (xs.forM f) := by
  induction xs with
  | nil => exact keepsMem_pure _
  | cons x r ih => exact keepsMem_bind (hf x) fun _ => ih

theorem keepsMem_forIn {α β : Type} {f : α → β → Op (ForInStep β)} (hf : ∀ a b, KeepsMem (f a b)) (xs : List α) (b : β) :
    KeepsMem (forIn xs b f) := by
  induction xs generalizing b with
  | nil => exact keepsMem_pure b
  | cons x r ih =>
    rw [List.forIn_cons]
    refine keepsMem_bind (hf x b) fun y => ?_
    cases y with
    | done b => exact keepsMem_pure b
    | yield b => exact ih b

end Sys2Proof.Machine
end

section
namespace Sys2Proof.Machine

/-! ## Spills and claims of a victim's state (R103, R366) -/

@[simp] theorem mapViews_mem (s : State) (otk : Nat) (f : Block → Block) : (mapViews s otk f).mem = s.mem := rfl
@[simp] theorem keepView_mem (s : State) (otk n : Nat) : (keepView s otk n).mem = s.mem := rfl
@[simp] theorem tagView_mem (s : State) (otk n : Nat) (g : Tag) : (tagView s otk n g).mem = s.mem := rfl

theorem spillPage_memOk (s : State) (op : Nat) (o : Operator) (ltile page : Nat) (h : s.memOk) :
    (spillPage s op o ltile page).memOk := by
  unfold spillPage
  dsimp only
  split
  · exact h
  · exact memOk_of_mem (foldl_keeps State.memOk _ (fun s g hs => homeWriteBytes_memOk _ s _ hs) _ _ (strikeSpill_memOk s op h)) rfl

theorem spillAccs_memOk (s : State) (op : Nat) (o : Operator) (ltile : Nat) (mask : BitVec 4) (h : s.memOk) :
    (spillAccs s op o ltile mask).memOk := by
  unfold spillAccs
  dsimp only
  split
  · exact h
  · refine memOk_of_mem (foldl_keeps State.memOk _ (fun s a hs => ?_) _ _ (strikeSpill_memOk s op h)) rfl
    split
    · exact homeWriteBytes_memOk _ s _ hs
    · exact hs

theorem spillBanks_memOk (s : State) (k : Nat) (t : Thread) (banks : List Nat) (h : s.memOk) :
    (spillBanks s k t banks).memOk := by
  unfold spillBanks
  dsimp only
  split
  · exact h
  · exact memOk_of_mem (foldl_keeps State.memOk _ (fun s b hs => homeWriteBytes_memOk _ s _ hs) _ _
      (strikeSpill_memOk s t.op h)) rfl

theorem spillRest_memOk (s : State) (op : Nat) (o : Operator) (h : s.memOk) : (spillRest s op o).memOk := by
  refine foldl_keeps State.memOk _ (fun s e hs => spillBanks_memOk s _ _ _ hs) _ _ ?_
  refine foldl_keeps State.memOk _ (fun s l hs => spillAccs_memOk _ op o l.1 _ ?_) _ s h
  exact foldl_keeps State.memOk _ (fun s p hs => spillPage_memOk s op o l.1 p hs) _ s hs

theorem claimPage64_memOk (s : State) (op on page : Nat) (h : s.memOk) : (claimPage64 s op on page).memOk :=
  foldl_keeps State.memOk _ (fun s _ hs => spillPage_memOk s _ _ _ page hs) _ s h

theorem claimAccs_memOk (s : State) (op on : Nat) (mask : BitVec 4) (h : s.memOk) : (claimAccs s op on mask).memOk :=
  foldl_keeps State.memOk _ (fun s _ hs => spillAccs_memOk s _ _ _ mask hs) _ s h

theorem claimBanks_memOk (s : State) (t : Thread) (banks : List Nat) (h : s.memOk) : (claimBanks s t banks).memOk :=
  foldl_keeps State.memOk _ (fun s _ hs => spillBanks_memOk s _ _ banks hs) _ s h

/-! ## Reads of an operator's agent -/

@[simp] theorem watchRead_mem (s : State) (op line : Nat) : (s.watchRead op line).mem = s.mem := by
  unfold State.watchRead
  split
  · rfl
  · split <;> rfl

theorem opRead_memOk (s : State) (op tile pa n : Nat) (c : Bool) (h : s.memOk) : (opRead s op tile pa n c).1.memOk :=
  memOk_of_mem (physRead_memOk s tile pa n c h) (watchRead_mem ..)

theorem basinBytes_memOk (s : State) (pa n : Nat) (c : Bool) (h : s.memOk) : (basinBytes s pa n c).1.memOk :=
  mergeLine_memOk s _ h

theorem keepsMem_askLines (tile : Nat) (rs : List PortReq) : KeepsMem (askLines tile rs) :=
  keepsMem_read fun s h => keepsMem_bind (keepsMem_set (memOk_of_mem h (wantLines_mem s tile rs))) fun _ =>
    keepsMem_ite (keepsMem_throw _) (keepsMem_pure _)

theorem keepsMem_hwStrike (e : HwError) : KeepsMem (hwStrike e) :=
  keepsMem_read fun _ h => keepsMem_ite (keepsMem_bind (keepsMem_set (memOk_of_mem h rfl)) fun _ => keepsMem_pure _)
    (keepsMem_pure _)

/-! ## Accesses of a sequencer (R72, R99 to R101, R203 to R205) -/

theorem keepsMem_touch (t : Thread) (region off : Nat) : KeepsMem (touch t region off) := by
  unfold touch
  refine keepsMem_read fun s h => keepsMem_guard ?_
  have hc := claimPage64_memOk s t.op t.tile (granuleAt (viewRegion s t region) off / 16) h
  refine keepsMem_bind (keepsMem_set hc) fun _ => keepsMem_ite ?_ (keepsMem_pure _)
  refine keepsMem_bind (keepsMem_set (translateOp_memOk _ _ _ _ _ _ hc)) fun _ => ?_
  split <;> exact keepsMem_throw _

theorem keepsMem_resolve (t : Thread) (a : Addr) (w : Bool) : KeepsMem (resolve t a w) := by
  cases a with
  | scr r o => exact keepsMem_bind (keepsMem_touch t r o) fun _ => keepsMem_pure _
  | glob va =>
    refine keepsMem_read fun s h => ?_
    refine keepsMem_bind (keepsMem_set (translateOp_memOk s t.op t.tile t.launch.pasid.toNat va w h)) fun _ => ?_
    split
    · exact keepsMem_throw _
    · exact keepsMem_pure _

theorem keepsMem_resolveRmw (t : Thread) (a : Addr) : KeepsMem (resolveRmw t a) :=
  keepsMem_bind (keepsMem_resolve t a false) fun _ => keepsMem_resolve t a true

theorem keepsMem_loadLoc (t : Thread) (l : Loc) (n : Nat) : KeepsMem (loadLoc t l n) := by
  refine keepsMem_bind ?_ fun _ => keepsMem_pure _
  cases l with
  | glob pa c =>
    exact keepsMem_read fun s h => keepsMem_bind (keepsMem_set (opRead_memOk s t.op t.tile pa n c h)) fun _ => keepsMem_pure _
  | scr r o => exact keepsMem_bind keepsMem_get fun _ => keepsMem_pure _

theorem keepsMem_loadAddr (t : Thread) (a : Addr) (n : Nat) : KeepsMem (loadAddr t a n) := by
  unfold loadAddr
  refine keepsMem_bind keepsMem_get fun s => keepsMem_guard ?_
  refine keepsMem_bind (keepsMem_mapM (fun p => ?_) _) fun ls => ?_
  · refine keepsMem_bind (keepsMem_resolve t p.1 false) fun l => ?_
    split
    · exact keepsMem_throw _
    · exact keepsMem_bind keepsMem_get fun _ => keepsMem_ite (keepsMem_throw _) (keepsMem_pure _)
  · refine keepsMem_bind keepsMem_get fun _ => keepsMem_bind (keepsMem_askLines _ _) fun _ => ?_
    refine keepsMem_bind (keepsMem_mapM (fun l => ?_) _) fun _ => ?_
    · exact keepsMem_loadLoc t l.1 l.2
    · exact keepsMem_bind (keepsMem_hwStrike _) fun _ => keepsMem_guard (keepsMem_pure _)

theorem keepsMem_chargeStores (t : Thread) (n : Nat) : KeepsMem (chargeStores t n) := by
  refine keepsMem_bind keepsMem_get fun s => ?_
  dsimp only
  split
  · exact keepsMem_guard (keepsMem_pure _)
  · exact keepsMem_bind (keepsMem_throw _) fun _ => keepsMem_pure _

theorem keepsMem_storeItems (t : Thread) (a : Addr) (data : List Byte) (col : Fin 8) : KeepsMem (storeItems t a data col) := by
  refine keepsMem_mapM (fun p => ?_) _
  exact keepsMem_bind (keepsMem_resolve t p.1 true) fun _ => keepsMem_pure _

theorem keepsMem_bufferStore (t : Thread) (a : Addr) (data : List Byte) (col : Fin 8) : KeepsMem (bufferStore t a data col) :=
  keepsMem_bind (keepsMem_storeItems t a data col) fun _ => keepsMem_pure _

/-! ## Vector sources and results (R215, R217) -/

theorem keepsMem_readV (t : Thread) (x : VSrc) : KeepsMem (readV t x) := by
  cases x with
  | reg n => exact keepsMem_pure _
  | lat b =>
    unfold readV
    dsimp only
    split
    · exact keepsMem_pure _
    · exact keepsMem_throw _
  | port p =>
    refine keepsMem_lift_bind fun w => keepsMem_bind keepsMem_get fun s => keepsMem_lift_bind fun a => ?_
    exact keepsMem_bind (keepsMem_loadAddr t a 1024) fun _ => keepsMem_pure _

theorem keepsMem_nameV (t : Thread) (n : Fin 96) : KeepsMem (nameV t n) := by
  refine keepsMem_ite (keepsMem_pure _) (keepsMem_bind keepsMem_get fun s => ?_)
  dsimp only
  split
  · exact keepsMem_guard (keepsMem_pure _)
  · exact keepsMem_bind (keepsMem_throw _) fun _ => keepsMem_pure _

theorem keepsMem_portStores (t : Thread) (a : Addr) (x : VReg) (e : Nat) (act : Nat → Bool) (n : Nat) :
    KeepsMem (portStores t a x e act n) :=
  keepsMem_foldlM _ (fun t _ => keepsMem_bufferStore t _ _ _) _ t

theorem keepsMem_putV (t : Thread) (lat reg : Nat) (nw : Bool) (d : VDst) (x : VReg) (g key : Tag) (e n : Nat)
    (act : Nat → Bool) : KeepsMem (putV t lat reg nw d x g key e n act) := by
  cases d with
  | reg r =>
    exact keepsMem_ite (keepsMem_pure _) (keepsMem_bind (keepsMem_nameV _ r) fun _ => keepsMem_pure _)
  | port p =>
    refine keepsMem_lift_bind fun w => keepsMem_bind keepsMem_get fun s => keepsMem_lift_bind fun a => ?_
    refine keepsMem_bind (keepsMem_chargeStores t 1024) fun t => ?_
    exact keepsMem_bind (keepsMem_portStores t a x e act n) fun _ => keepsMem_pure _

end Sys2Proof.Machine
end

section
/-! SUPPORT. Memory keeps its canonical form: the seal, the accesses, landing slots, fills and atomics (files 06, 12;
log entry 1; O60). -/

namespace Sys2Proof.Machine

/-! ## What a passing seal does (R105, R106, R324) -/

theorem keepsMem_storeBack (t : Thread) (r : Region) (off n ord : Nat) : KeepsMem (storeBack t r off n ord) := by
  unfold storeBack
  refine keepsMem_read fun s h => ?_
  refine keepsMem_bind (keepsMem_set (translateOp_memOk s t.op t.tile t.launch.pasid.toNat _ true h)) fun _ => ?_
  split
  · exact keepsMem_throw _
  · exact keepsMem_pure _

theorem keepsMem_writeBackRegion (t : Thread) (n ord : Nat) : KeepsMem (writeBackRegion t n ord) := by
  refine keepsMem_bind keepsMem_get fun s => keepsMem_ite ?_ (keepsMem_pure _)
  refine keepsMem_bind (keepsMem_foldlM _ (fun t e => ?_) _ _) fun t => ?_
  · exact keepsMem_foldlM _ (fun t i => keepsMem_storeBack t _ _ _ _) _ t
  · exact keepsMem_bind (keepsMem_modify _ fun _ h => h) fun _ => keepsMem_pure _

theorem keepsMem_remapRegion (t : Thread) (n : Nat) (f : Region → Region) : KeepsMem (remapRegion t n f) :=
  keepsMem_modify _ fun _ h => h

theorem keepsMem_applyPend (t : Thread) (p : Pend) : KeepsMem (applyPend t p) := by
  cases p with
  | sysw n v => exact keepsMem_ite (keepsMem_pure _) (keepsMem_pure _)
  | stamp n v => exact keepsMem_bind (keepsMem_modify _ fun _ h => h) fun _ => keepsMem_pure _
  | rmap n gva o =>
    exact keepsMem_bind (keepsMem_writeBackRegion t _ o) fun t => keepsMem_bind (keepsMem_remapRegion t _ _) fun _ => keepsMem_pure _
  | runmap n o =>
    exact keepsMem_bind (keepsMem_writeBackRegion t _ o) fun t => keepsMem_bind (keepsMem_remapRegion t _ _) fun _ => keepsMem_pure _
  | rflush pas o b => exact keepsMem_pure _
  | barrier m sc mk o => exact keepsMem_pure _
  | lpset v => exact keepsMem_pure _

theorem keepsMem_storeKept (ot : OpTile) (t : Thread) (x : SItem) : KeepsMem (storeKept ot t x) := by
  unfold storeKept
  dsimp only
  split
  all_goals
    split
    · split
      · exact keepsMem_ite (keepsMem_storeBack t _ _ _ _) (keepsMem_pure t)
      · exact keepsMem_pure t
    · exact keepsMem_pure t

theorem keepsMem_applyItems (xs : List SItem) (t : Thread) : KeepsMem (applyItems xs t) := by
  refine keepsMem_read fun s h => ?_
  exact keepsMem_bind (keepsMem_set (memOk_of_mem h rfl)) fun _ => keepsMem_foldlM _ (fun t x => keepsMem_storeKept _ t x) _ _

theorem keepsMem_sealPasses (t : Thread) (x : SealData) (sealAt : Nat) : KeepsMem (sealPasses t x sealAt) := by
  refine keepsMem_bind keepsMem_get fun s => keepsMem_lift_bind fun r => keepsMem_guard ?_
  refine keepsMem_bind (keepsMem_applyItems _ _) fun t => keepsMem_bind (keepsMem_foldlM _ (fun t p => ?_) _ _) fun t => ?_
  · exact keepsMem_applyPend t p
  · exact keepsMem_bind keepsMem_get fun s => keepsMem_bind keepsMem_get fun s => keepsMem_pure _

theorem sealFails_memOk (s : State) (k : Nat) (t : Thread) (own : BitVec 16) (h : s.memOk) : (sealFails s k t own).memOk := by
  have hd : ∀ t, (s.dropLoads t).memOk := fun t => dropLoads_memOk s t h
  unfold sealFails
  extract_lets n tl name t t'
  split
  · split
    · exact raiseTrap_memOk s k t _ _ h
    · split
      · exact raiseTrap_memOk _ k t _ _ (memOk_of_mem h rfl)
      · exact settleTrap_memOk _ _ (memOk_of_mem (hd t) rfl)
  · split
    · exact settleTrap_memOk _ _ (memOk_of_mem (hd t) rfl)
    · exact memOk_of_mem (hd t) rfl

/-- An operation of the monad run in a sequencer's turn. -/
theorem next_memOk {s : State} (h : s.memOk) : Next State.memOk (.next s) := h

theorem runStop_memOk {s : State} {k : Nat} {t : Thread} {m : Op Thread} (hm : KeepsMem m) (h : s.memOk) :
    Next State.memOk (match m.run s with
      | (.ok t', s') => .next (s'.setThread k t')
      | (.error e, s') => .next (stopAt s' k t e)) := by
  have hr := hm s h
  generalize m.run s = r at hr ⊢
  obtain ⟨_ | t', s'⟩ := r
  · exact stopAt_memOk s' k t _ hr
  · exact hr

theorem execSealOp_memOk (x : SealData) (s : State) (h : s.memOk) : Next State.memOk (execSealOp x s) := by
  unfold execSealOp
  split
  · exact h
  · extract_lets unit t1 b t first
    clear_value t first
    split
    · exact next_memOk (stopAt_memOk s _ _ _ h)
    · split
      · exact next_memOk (stopAt_memOk s _ _ _ h)
      · split
        · exact next_memOk (stopAt_memOk s _ _ _ h)
        · split
          · exact next_memOk (stopAt_memOk s _ t _ h)
          · split
            · exact next_memOk (sealFails_memOk s _ t _ h)
            · split
              · exact next_memOk (rerunBlock_memOk _ _ t (memOk_of_mem h rfl))
              · exact runStop_memOk (keepsMem_sealPasses t x _) h

/-! ## Loads, stores and landing slots (file 06) -/

theorem keepsMem_loadBase (t : Thread) (key : Tag) (b : Base) (off : BitVec 24) (n al : Nat) :
    KeepsMem (loadBase t key b off n al) :=
  keepsMem_bind keepsMem_get fun _ => keepsMem_lift_bind fun a => keepsMem_bind (keepsMem_loadAddr t a.1 n) fun _ =>
    keepsMem_pure _

theorem keepsMem_loadScalar (key n : Nat) (f : Nat → W32) (x : Ld) (t : Thread) : KeepsMem (loadScalar key n f x t) :=
  keepsMem_bind (keepsMem_loadBase t _ _ _ n n) fun _ => keepsMem_pure _

theorem keepsMem_storeBase (t : Thread) (key : Tag) (b : Base) (off : BitVec 24) (data : List Byte) (al : Nat) (g : Tag)
    (col : Fin 8) : KeepsMem (storeBase t key b off data al g col) := by
  refine keepsMem_bind keepsMem_get fun s => keepsMem_lift_bind fun a => ?_
  refine keepsMem_bind (keepsMem_chargeStores t _) fun t => ?_
  exact keepsMem_bind (keepsMem_bufferStore t a.1 data col) fun _ => keepsMem_pure _

theorem keepsMem_storeScalar (key n : Nat) (x : St) (t : Thread) : KeepsMem (storeScalar key n x t) :=
  keepsMem_lift_bind fun _ => keepsMem_storeBase t _ _ _ _ _ _ _

theorem keepsMem_slotPieces (t : Thread) (pos : Nat) (a : Addr) (n : Nat) : KeepsMem (slotPieces t pos a n) := by
  refine keepsMem_mapM (fun p => ?_) _
  exact keepsMem_bind (keepsMem_resolve t p.1 false) fun _ => keepsMem_pure _

theorem keepsMem_takeSlot (t : Thread) (n : Fin 32) (ps : List Piece) (lin : Tag) : KeepsMem (takeSlot t n ps lin) := by
  refine keepsMem_read fun s h => ?_
  dsimp only
  split
  · exact keepsMem_bind (keepsMem_set (memOk_of_mem h (wantLines_mem s _ _))) fun _ => keepsMem_pure _
  · exact keepsMem_pure _

theorem execLdP_memOk (d : Fin 32) (b : Base) (off : BitVec 24) (s : State) (h : s.memOk) :
    Next State.memOk (execLdP d b off s) :=
  runOp_memOk s _ (fun t => keepsMem_bind (keepsMem_loadBase t _ _ _ _ _) fun _ => keepsMem_pure _) h

theorem execLdV_memOk (slot : Fin 32) (b : Base) (off : BitVec 24) (s : State) (h : s.memOk) :
    Next State.memOk (execLdV slot b off s) := by
  refine runOp_memOk s _ (fun t => ?_) h
  refine keepsMem_lift_bind fun _ => keepsMem_bind keepsMem_get fun s => keepsMem_lift_bind fun a => ?_
  exact keepsMem_bind (keepsMem_slotPieces t 0 a.1 1024) fun _ => keepsMem_takeSlot t slot _ _

theorem execLdVg_memOk (slot : Fin 32) (base : Base) (b : VSrc) (ty : Ty) (msk : Fin 16) (s : State) (h : s.memOk) :
    Next State.memOk (execLdVg slot base b ty msk s) := by
  refine runOp_memOk s _ (fun t => ?_) h
  refine keepsMem_lift_bind fun _ => keepsMem_guard (keepsMem_bind (keepsMem_readV t b) fun v => ?_)
  refine keepsMem_bind keepsMem_get fun s => keepsMem_bind (keepsMem_mapM (fun i => ?_) _) fun _ => keepsMem_takeSlot _ slot _ _
  exact keepsMem_lift_bind fun a => keepsMem_slotPieces _ _ a 4

theorem landBytes_memOk (s : State) (t : Thread) (x : Slot) (h : s.memOk) : (landBytes s t x).1.memOk := by
  refine foldl_keeps (fun p : State × Nat => p.1.memOk) _ (fun p q hp => ?_) _ _ h
  dsimp only
  split
  · exact opRead_memOk p.1 _ _ _ _ _ hp
  · exact hp

theorem execLandingSlotLanded_memOk (k : Nat) (slot : Fin 32) (s : State) (h : s.memOk) :
    Next State.memOk (execLandingSlotLanded k slot s) := by
  unfold execLandingSlotLanded
  dsimp only
  split
  · exact h
  · rename_i t _
    split
    · have hw : (wantLines s t.tile (slotReqs s t t.regs.slots[slot])).1.memOk := memOk_of_mem h (wantLines_mem ..)
      split
      · rename_i he
        rwa [he] at hw
      · rename_i s1 he
        rw [he] at hw
        have hd : ∀ p, (s1.dropSent t.tile p).memOk := fun p => memOk_of_mem hw (dropSent_mem ..)
        split
        · split
          · exact raiseTrapFor_memOk _ _ _ _ _ _ (memOk_of_mem (hd _) rfl)
          · show State.memOk (if _ then _ else _)
            split
            · exact rerunBlock_memOk _ _ _ (memOk_of_mem (hd _) rfl)
            · exact memOk_of_mem (hd _) rfl
        · exact settleTrap_memOk _ _ (memOk_of_mem (landBytes_memOk _ t _ (hd _)) rfl)
    · exact h

theorem execCommit_memOk (d : VDst) (slot : Fin 32) (s : State) (h : s.memOk) : Next State.memOk (execCommit d slot s) := by
  refine runOp_memOk s _ (fun t => ?_) h
  dsimp only
  split
  · exact keepsMem_throw _
  · exact keepsMem_throw _
  · have hp := keepsMem_bind (keepsMem_putV t 0 1 false d t.regs.slots[slot].data
      (fold (opk 0x214 0) t.regs.slots[slot].lin 0 0) (opk 0x214 0) 4 256 fun _ => true) fun u : Thread =>
        keepsMem_pure { u with blk := { u.blk with committed := slot :: u.blk.committed } }
    refine keepsMem_bind (keepsMem_hwStrike _) fun b => keepsMem_ite ?_ hp
    exact keepsMem_ite (keepsMem_bind (keepsMem_throw _) fun _ => hp) (keepsMem_bind (keepsMem_throw _) fun _ => hp)

theorem execStV_memOk (b : Base) (off : BitVec 24) (v : VSrc) (col : Fin 8) (s : State) (h : s.memOk) :
    Next State.memOk (execStV b off v col s) :=
  runOp_memOk s _ (fun t => keepsMem_bind (keepsMem_readV t v) fun _ => keepsMem_storeBase _ _ _ _ _ _ _ _) h

theorem execStVs_memOk (base : Base) (b c : VSrc) (ty : Ty) (msk : Fin 16) (col : Fin 8) (s : State) (h : s.memOk) :
    Next State.memOk (execStVs base b c ty msk col s) := by
  refine runOp_memOk s _ (fun t => keepsMem_guard ?_) h
  refine keepsMem_bind (keepsMem_readV t b) fun v => keepsMem_bind (keepsMem_readV _ c) fun x => ?_
  refine keepsMem_bind keepsMem_get fun s => keepsMem_bind (keepsMem_chargeStores _ 1024) fun t => ?_
  refine keepsMem_bind (keepsMem_mapM (fun i => ?_) _) fun _ => keepsMem_pure _
  exact keepsMem_lift_bind fun a => keepsMem_storeItems t a _ col

theorem execHld_memOk (d : Fin 32) (b : Base) (off : BitVec 24) (s : State) (h : s.memOk) :
    Next State.memOk (execHld d b off s) :=
  runOp_memOk s _ (fun t => keepsMem_bind (keepsMem_loadBase t _ _ _ _ _) fun _ => keepsMem_pure _) h

theorem execRflush_memOk (p : Fin 32) (b : SSrc) (s : State) (h : s.memOk) : Next State.memOk (execRflush p b s) := by
  refine runOp_memOk s _ (fun t => keepsMem_lift_bind fun len => keepsMem_guard (keepsMem_guard ?_)) h
  refine keepsMem_bind (keepsMem_mapM (fun r => ?_) _) fun _ => keepsMem_pure _
  refine keepsMem_read fun s h => keepsMem_bind (keepsMem_set (translate_memOk s t.tile _ r.1 false h)) fun _ => ?_
  split
  · exact keepsMem_throw _
  · exact keepsMem_pure _

theorem execJtab_memOk (a : Fin 64) (off : W32) (s : State) (h : s.memOk) : Next State.memOk (execJtab a off s) :=
  runOp_memOk s _ (fun _ => keepsMem_guard (keepsMem_lift_bind fun _ => keepsMem_bind (keepsMem_hwStrike _) fun _ =>
    keepsMem_guard (keepsMem_pure _))) h

/-! ## Fills (R100) -/

theorem granuleBytes_memOk (op tile pasid va n : Nat) (s : State) (acc : List Byte) (h : s.memOk) :
    (granuleBytes op tile pasid va n s acc).1.memOk := by
  induction n generalizing s acc with
  | zero => exact h
  | succ n ih =>
    have ht := translateOp_memOk s op tile pasid (va + 64 * (63 - n)) false h
    unfold granuleBytes
    split
    · rename_i he
      rwa [he] at ht
    · rename_i he
      rw [he] at ht
      exact ih _ _ (opRead_memOk _ op tile _ 64 _ ht)

theorem fillFrom_memOk (s : State) (op tile pasid : Nat) (r : Region) (g : Nat) (h : s.memOk) :
    (fillFrom s op tile pasid r g).1.memOk := granuleBytes_memOk _ _ _ _ _ s _ h

theorem fillGranule_memOk (s : State) (tile pasid otk region g : Nat) (h : s.memOk) :
    (fillGranule s tile pasid otk region g).1.memOk := by
  have hf := fillFrom_memOk s (otk / 512) tile pasid (regionOf (s.opTile otk) region) g h
  unfold fillGranule
  split
  all_goals
    rename_i he
    rw [he] at hf
    exact hf

theorem execGranuleFill_memOk (otk : Nat) (region : Fin 64) (g : Nat) (s : State) (h : s.memOk) :
    Next State.memOk (execGranuleFill otk region g s) := by
  unfold execGranuleFill
  split
  · exact h
  · rename_i k t _
    dsimp only
    split
    · exact h
    · have hw := memOk_of_mem h (wantLines_mem s t.tile (granuleReqs s otk t.launch.pasid.toNat region.val g
        ((viewRegion s t region.val).gva.toNat + 4096 * g) false))
      split
      · rename_i he
        rwa [he] at hw
      · rename_i s1 he
        rw [he] at hw
        replace hw : (s1.dropSent t.tile fun q => q.owner = .granule otk region.val g).memOk :=
          memOk_of_mem hw (dropSent_mem ..)
        split
        · have hf := fillFrom_memOk _ t.op t.tile t.launch.pasid.toNat (viewRegion s t region.val) g hw
          split
          all_goals
            rename_i he
            rw [he] at hf
          · exact hf
          · exact raiseTrap_memOk _ k t _ _ hf
        · have hf := fillGranule_memOk _ t.tile t.launch.pasid.toNat otk region.val g hw
          split
          all_goals
            rename_i he
            rw [he] at hf
          · exact hf
          · exact raiseTrap_memOk _ k t _ _ hf

/-! ## Atomics, flushes and the colour queues (R93, R94, R274, R287) -/

theorem keepsMem_awaitBarriers (g : Gated) (t : Thread) : KeepsMem (awaitBarriers g t) :=
  keepsMem_bind keepsMem_get fun _ => keepsMem_ite (keepsMem_throw _) (keepsMem_pure _)

theorem keepsMem_atCapture (i : Instr) (f : AtForm) (t : Thread) : KeepsMem (atCapture i f t) := by
  refine keepsMem_bind keepsMem_get fun s => keepsMem_lift_bind fun a => ?_
  dsimp only
  split
  · exact keepsMem_capture i t
  · exact keepsMem_bind (keepsMem_chargeGated t) fun _ => keepsMem_bind (keepsMem_touch t _ _) fun _ => keepsMem_pure _

@[simp] theorem enterUol_mem (s : State) (tile key : Nat) (a : Atomic) (pa : Nat) : (enterUol s tile key a pa).mem = s.mem := rfl

theorem sendDiffering_memOk (s : State) (t : Thread) (a : Atomic) (pa : Nat) (h : s.memOk) : (sendDiffering s t a pa).memOk := by
  unfold sendDiffering
  have hw := memOk_of_mem h (wantLines_mem s t.tile [portReq s t.op (lineOf pa) .evict false])
  split
  · split
    · exact h
    · split
      all_goals
        rename_i he
        rw [he] at hw
      · exact mergeTileLine_memOk _ _ _ hw
      · exact hw
  · exact h

theorem keepsMem_atIssue (f : AtForm) (g : Gated) (t : Thread) : KeepsMem (atIssue f g t) := by
  refine keepsMem_bind (keepsMem_awaitBarriers g t) fun _ => keepsMem_bind keepsMem_get fun s => ?_
  refine keepsMem_lift_bind fun a => keepsMem_bind (keepsMem_resolveRmw t a.1) fun l => ?_
  split
  · exact keepsMem_throw _
  · refine keepsMem_bind (keepsMem_hwStrike _) fun _ => keepsMem_guard ?_
    split
    · refine keepsMem_ite (keepsMem_pure _) ?_
      refine keepsMem_bind (keepsMem_modify _ fun s h => sendDiffering_memOk s t _ _ h) fun _ => ?_
      refine keepsMem_bind keepsMem_get fun s => keepsMem_ite ?_ (keepsMem_pure _)
      exact keepsMem_bind (keepsMem_modify _ fun _ h => h) fun _ => keepsMem_pure _
    · exact keepsMem_pure _

theorem runAtomic_memOk (i : Instr) (f : AtForm) (s : State) (h : s.memOk) : Next State.memOk (runAtomic i f s) :=
  runGated_memOk i _ _ s (keepsMem_atCapture i f) (keepsMem_atIssue f) h

theorem drainWaiting_memOk (s : State) (k : Nat) (h : s.memOk) : (drainWaiting s k).memOk := by
  unfold drainWaiting
  split
  · exact h
  · rename_i t _
    refine foldl_keeps (fun p : State × List Atomic => p.1.memOk) _ (fun p a hp => ?_) _ (s, []) h
    dsimp only
    split
    · have hs := sendDiffering_memOk p.1 { t with waiting := p.2 } a
      split
      · exact hs _ hp
      · exact hs _ hp
    · exact hp

theorem startWaiting_memOk (s : State) (h : s.memOk) : (startWaiting s).memOk :=
  foldl_keeps State.memOk _ (fun s e hs => drainWaiting_memOk s e.1 hs) _ s h

theorem writeGranuleNow_memOk (s : State) (op tile pasid : Nat) (r : Region) (g : Nat) (h : s.memOk) :
    (writeGranuleNow s op tile pasid r g).1.memOk := by
  unfold writeGranuleNow
  generalize List.range 512 = is
  refine foldl_keeps (fun p : State × Bool => p.1.memOk) _ (fun p i hp => ?_) is _ h
  have ht := translateOp_memOk p.1 op tile pasid (r.gva.toNat + 4096 * g + 8 * i) true hp
  split
  all_goals
    rename_i he
    rw [he] at ht
  · exact ht
  · exact physWrite_memOk _ _ _ _ _ ht

/-- The state that an operation hands on beside its answer is in canonical form. -/
def FstOk {γ : Type} (p : State × γ) : Prop := p.1.memOk

theorem FstOk.pair {γ : Type} {s : State} (x : γ) (h : s.memOk) : FstOk (s, x) := h

theorem writeBackNow_fstOk (s : State) (tile : Nat) (d : Dirty) (h : s.memOk) : FstOk (writeBackNow s tile d) := by
  have hw := writeGranuleNow_memOk s (d.ot / 512) tile (opPasid s (d.ot / 512)) (regionOf (s.opTile d.ot) d.region) d.gran h
  rw [writeBackNow]
  split
  rename_i he
  rw [he] at hw
  exact hw

theorem writeBackAll_fstOk (s : State) (tile : Nat) (ds : List Dirty) (h : s.memOk) : FstOk (writeBackAll s tile ds) := by
  refine foldl_keeps FstOk _ (fun p d hp => ?_) ds (s, []) h
  have hw : (writeBackNow p.1 tile d).1.memOk := writeBackNow_fstOk p.1 tile d hp
  exact FstOk.pair _ hw

theorem cleanLine_memOk (s : State) (l : Nat) (h : s.memOk) : (dropLine (writeBackLine (mergeLine s l) l) l).memOk :=
  memOk_of_mem (writeBackLine_memOk _ l (mergeLine_memOk s l h)) (dropLine_mem ..)

theorem flushLines_memOk (s : State) (pas : List (Nat × Nat)) (h : s.memOk) : (flushLines s pas).memOk :=
  memOk_of_mem (foldl_keeps State.memOk _ (fun s l hs => cleanLine_memOk s l hs) _ s h) rfl

theorem doFlush_memOk (s : State) (t : Thread) (pas : List (Nat × Nat)) (place : W64 × BitVec 16) (h : s.memOk) :
    (doFlush s t pas place).memOk := by
  refine foldl_keeps State.memOk _ (fun s d hs => ?_) _ _
    (flushLines_memOk _ pas (writeBackAll_fstOk s t.tile (flushDirty s t.tile pas) h))
  split
  · exact raiseTrapFor_memOk s _ _ _ _ _ hs
  · exact hs

theorem performAtomic_memOk (s : State) (k : Nat) (t : Thread) (a : Atomic) (h : s.memOk) : (performAtomic s k t a).memOk := by
  unfold performAtomic
  split
  · exact h
  · dsimp only
    split
    · exact physWrite_memOk _ _ _ _ _ (basinBytes_memOk s _ _ _ h)
    · exact memOk_of_mem (physWrite_memOk _ _ _ _ _ (basinBytes_memOk s _ _ _ h)) rfl

theorem mergeFor_memOk (s : State) (x : QEntry) (h : s.memOk) : (mergeFor s x).memOk := by
  unfold mergeFor
  split
  · exact mergeLine_memOk s _ h
  · exact h

theorem execColourQueuePerform_memOk (k : Nat) (c : Fin 8) (s : State) (h : s.memOk) :
    Next State.memOk (execColourQueuePerform k c s) := by
  unfold execColourQueuePerform
  split
  · exact h
  · rename_i t _
    split
    · exact h
    · rename_i x rest _
      split
      · exact h
      · have hw := memOk_of_mem h (wantLines_mem s t.tile (entryReqs s t t.queues[c] x))
        split
        · rename_i he
          rwa [he] at hw
        · rename_i s1 he
          rw [he] at hw
          have hm : ∀ t', (mergeFor ((s1.dropSent t.tile (entryUsed s1 t rest x)).setThread k t') x).memOk := fun t' =>
            mergeFor_memOk _ x (memOk_of_mem hw (dropSent_mem ..))
          cases x with
          | st y =>
            dsimp only
            split
            · exact drainWaiting_memOk _ k (physWrite_memOk _ _ _ _ _ (hm _))
            · exact drainWaiting_memOk _ k (hm _)
          | atom a => exact drainWaiting_memOk _ k (performAtomic_memOk _ k _ a (hm _))
          | flush pas o p b own => exact drainWaiting_memOk _ k (doFlush_memOk _ _ pas _ (hm _))

theorem execUpdateOnlyLineEviction_memOk (tile line : Nat) (s : State) (h : s.memOk) :
    Next State.memOk (execUpdateOnlyLineEviction tile line s) := by
  unfold execUpdateOnlyLineEviction
  split
  · exact h
  · rename_i u _
    have hw := memOk_of_mem h (wantLines_mem s tile [portReq s (keyOp (u.from_.headD (0, 0)).1) line .evict false])
    split
    all_goals
      rename_i he
      rw [he] at hw
    · exact hw
    · exact startWaiting_memOk _ (mergeTileLine_memOk _ _ _ hw)

theorem execL2WriteBack_memOk (line : Nat) (evict : Bool) (s : State) (h : s.memOk) :
    Next State.memOk (execL2WriteBack line evict s) := by
  show State.memOk (if evict then _ else _)
  split
  · exact memOk_of_mem (writeBackLine_memOk s line h) (dropLine_mem ..)
  · exact writeBackLine_memOk s line h

end Sys2Proof.Machine
end

section
/-! SUPPORT. Memory keeps its canonical form: the accesses of the array's pipes and of the flumes, and the flume commands
(file 04; log entry 1; O60). -/

namespace Sys2Proof.Machine

/-! ## Accesses of an agent (R100, R102, R241) -/

theorem keepsMem_ensureFilled (g : Agent) (region : Nat) (grans : List Nat) : KeepsMem (ensureFilled g region grans) := by
  refine keepsMem_bind (keepsMem_forIn (fun k u => ?_) _ _) fun _ => keepsMem_pure _
  refine keepsMem_read fun s h => keepsMem_guard ?_
  have hc := claimPage64_memOk s (g.ot / 512) g.tile (granuleAt (regionOf (s.opTile g.ot) region) (4096 * k) / 16) h
  refine keepsMem_bind (keepsMem_set hc) fun _ => keepsMem_ite ?_ (keepsMem_pure _)
  refine keepsMem_bind (keepsMem_askLines _ _) fun _ => keepsMem_read fun s h => ?_
  have hf := fillGranule_memOk s g.tile g.pasid g.ot region k h
  exact keepsMem_bind (keepsMem_set (dropOwner_memOk _ _ hf)) fun _ => keepsMem_guard (keepsMem_pure _)

theorem keepsMem_agentWords (g : Agent) (ps : List (Nat × Nat)) (w : Bool) : KeepsMem (agentWords g ps w) := by
  refine keepsMem_mapM (fun p => ?_) _
  refine keepsMem_read fun s h => keepsMem_bind (keepsMem_set (translateOp_memOk s (g.ot / 512) g.tile g.pasid p.1 w h)) fun _ => ?_
  split
  · exact keepsMem_throw _
  · exact keepsMem_pure _

theorem keepsMem_agentRead (g : Agent) (a : Addr) (n : Nat) : KeepsMem (agentRead g a n) := by
  cases a with
  | scr r o =>
    exact keepsMem_bind (keepsMem_ensureFilled g r _) fun _ => keepsMem_bind keepsMem_get fun _ => keepsMem_pure _
  | glob va =>
    refine keepsMem_bind (keepsMem_agentWords g _ false) fun ws => keepsMem_bind keepsMem_get fun s => ?_
    refine keepsMem_bind (keepsMem_askLines _ _) fun _ => keepsMem_bind (keepsMem_mapM (fun w => ?_) _) fun _ => keepsMem_pure _
    refine keepsMem_read fun s h => keepsMem_bind (keepsMem_set ?_) fun _ => keepsMem_pure _
    show State.memOk (if g.port < Config.tiles then opRead s (g.ot / 512) g.tile w.1 w.2.2 w.2.1
      else basinBytes s w.1 w.2.2 w.2.1).1
    split
    · exact opRead_memOk s _ _ _ _ _ h
    · exact basinBytes_memOk s _ _ _ h

theorem keepsMem_elemRead (g : Agent) (x : HRec) (i0 i1 i2 : Int) : KeepsMem (elemRead g x i0 i1 i2) :=
  keepsMem_bind keepsMem_get fun _ => keepsMem_lift_bind fun a => keepsMem_bind (keepsMem_agentRead g a _) fun _ => keepsMem_pure _

theorem keepsMem_publishScr (g : Agent) (region : Nat) (ws : List ByteWrite) (tag : Tag) :
    KeepsMem (publishScr g region ws tag) := by
  refine keepsMem_bind keepsMem_get fun s => keepsMem_guard (keepsMem_bind (keepsMem_ensureFilled g region _) fun _ => ?_)
  refine keepsMem_bind (keepsMem_modify _ fun s h => ?_) fun _ => keepsMem_modify _ fun _ h => h
  exact foldl_keeps State.memOk _ (fun s k hs => claimPage64_memOk s _ _ _ hs) _ s h

theorem keepsMem_frontStore (g : Agent) (region off : Nat) (bs : List Byte) : KeepsMem (frontStore g region off bs) :=
  keepsMem_bind (keepsMem_ensureFilled g region _) fun _ => keepsMem_modify _ fun _ h => h

theorem keepsMem_globalWrites (g : Agent) (ws : List ByteWrite) : KeepsMem (globalWrites g ws) := by
  refine keepsMem_bind (keepsMem_agentWords g _ true) fun ls => keepsMem_bind keepsMem_get fun s => ?_
  refine keepsMem_bind (keepsMem_askLines _ _) fun _ => keepsMem_forM (fun x => ?_) _
  exact keepsMem_modify _ fun s h => physWrite_memOk s _ _ _ _ h

theorem runAgent_memOk (s : State) (k ord : Nat) (place : W64 × BitVec 16) (f : Op Unit) (hf : KeepsMem f) (h : s.memOk) :
    (runAgent s k ord place f).memOk := by
  have hr := hf s h
  unfold runAgent
  split
  all_goals
    rename_i he
    rw [he] at hr
  · exact dropOwner_memOk _ _ hr
  · split
    · exact raiseTrapFor_memOk _ _ _ _ _ _ hr
    · exact hr
  · exact keepPorts_memOk s _ h

/-! ## Issue, `fl.cancel` and the bytes of a command (R116, R117, R131, R138) -/

theorem keepsMem_flBytes (c : FlumeCmd) (d : FlDest) (a : Addr) (n : Nat) : KeepsMem (flBytes c d a n) :=
  keepsMem_bind keepsMem_get fun _ => keepsMem_bind (keepsMem_agentRead _ a n) fun _ => keepsMem_bind keepsMem_get fun _ =>
    keepsMem_pure _

theorem keepsMem_readIndex (g : Gated) (t : Thread) (c : FlumeCmd) : KeepsMem (readIndex g t c) := by
  unfold readIndex
  split
  · exact keepsMem_pure _
  · exact keepsMem_pure _
  · refine keepsMem_bind (keepsMem_awaitBarriers g t) fun _ => keepsMem_bind keepsMem_get fun s => keepsMem_lift_bind fun a => ?_
    exact keepsMem_guard (keepsMem_bind (keepsMem_flBytes c _ a _) fun _ => keepsMem_pure _)

theorem keepsMem_flIssue (x : Fl) (g : Gated) (t : Thread) : KeepsMem (flIssue x g t) := by
  refine keepsMem_bind keepsMem_get fun s => keepsMem_guard ?_
  dsimp only
  split
  · exact keepsMem_pure _
  · refine keepsMem_bind (keepsMem_readIndex g t _) fun ix => keepsMem_bind (keepsMem_modify _ fun s h => ?_) fun _ => keepsMem_pure _
    exact memOk_of_mem (dropOwner_memOk s _ h) rfl

theorem runFlume_memOk (i : Instr) (x : Fl) (s : State) (h : s.memOk) : Next State.memOk (runFlume i x s) :=
  runGated_memOk i _ _ s (keepsMem_capture i) (keepsMem_flIssue x) h

theorem execFlPoll_memOk (x : Fl) (s : State) (h : s.memOk) : Next State.memOk (execFlPoll x s) :=
  runGated_memOk _ _ _ s (keepsMem_capture _) (fun _ _ => keepsMem_pure _) h

theorem execFlCancel_memOk (x : Fl) (s : State) (h : s.memOk) : Next State.memOk (execFlCancel x s) := by
  refine runGated_memOk _ _ _ s (keepsMem_capture _) (fun g t => ?_) h
  refine keepsMem_read fun s h => ?_
  dsimp only
  split
  · exact keepsMem_pure _
  · exact keepsMem_bind (keepsMem_set (cancelFlumes_memOk _ _ (memOk_of_mem h rfl))) fun _ => keepsMem_pure _

/-! ## A command's work (R119 to R121, R130 to R135) -/

theorem keepsMem_flElem (c : FlumeCmd) (d : FlDest) (x : HRec) (i0 i1 i2 : Nat) : KeepsMem (flElem c d x i0 i1 i2) :=
  keepsMem_bind keepsMem_get fun _ => keepsMem_bind keepsMem_get fun _ => keepsMem_lift_bind fun a =>
    keepsMem_bind (keepsMem_flBytes c d a _) fun _ => keepsMem_pure _

theorem keepsMem_angles (c : FlumeCmd) (d : FlDest) (delta : Int) : KeepsMem (angles c d delta) := by
  refine keepsMem_mapM (fun j => ?_) _
  exact keepsMem_bind (keepsMem_flElem c d c.hS j 0 0) fun _ => keepsMem_pure _

theorem keepsMem_readRows (c : FlumeCmd) (d : FlDest) (rs : List Nat) : KeepsMem (readRows c d rs) := by
  refine keepsMem_foldlM _ (fun m i1 => keepsMem_foldlM _ (fun m i2 => keepsMem_foldlM _ (fun m i0 => ?_) _ m) _ m) rs []
  exact keepsMem_bind (keepsMem_flElem c d c.hD i0 i1 i2) fun _ => keepsMem_pure _

theorem keepsMem_putRows (c : FlumeCmd) (m : Rows) (rs : List Nat) : KeepsMem (putRows c m rs) := by
  refine keepsMem_bind keepsMem_get fun s => keepsMem_bind (keepsMem_mapM (fun i1 => ?_) _) fun _ => keepsMem_pure _
  exact keepsMem_mapM (fun i2 => keepsMem_mapM (fun i0 => keepsMem_lift _) _) _

/-- One element read and the bytes it is written to. -/
theorem keepsMem_moveElem (c : FlumeCmd) (d : FlDest) (x : HRec) (i0 i1 i2 j0 j1 j2 : Nat) :
    KeepsMem (do let v ← flElem c d x i0 i1 i2; liftM (flPut (← get) c j0 j1 j2 v)) :=
  keepsMem_bind (keepsMem_flElem c d x i0 i1 i2) fun _ => keepsMem_bind keepsMem_get fun _ => keepsMem_lift _

theorem keepsMem_flWork (c : FlumeCmd) (src dst : FlDest) : KeepsMem (flWork c src dst) := by
  refine keepsMem_ite (keepsMem_pure _) ?_
  have hmove : ∀ f : Nat × Nat × Nat → Nat × Nat × Nat, KeepsMem (do
      let ws ← (indices c.hS).mapM fun i => do
        let v ← flElem c src c.hS i.1 i.2.1 i.2.2
        liftM (flPut (← get) c (f i).1 (f i).2.1 (f i).2.2 v)
      return ws.flatten) := fun f =>
    keepsMem_bind (keepsMem_mapM (fun i => keepsMem_moveElem c src c.hS _ _ _ _ _ _) _) fun _ => keepsMem_pure _
  split
  · exact hmove fun i => permute (permCode c) i.1 i.2.1 i.2.2
  · exact hmove fun i => permute (permCode c) i.1 i.2.1 i.2.2
  · exact hmove fun i => permute (permCode c) i.1 i.2.1 i.2.2
  · exact hmove fun i => permute (permCode c) i.1 i.2.1 i.2.2
  · exact keepsMem_bind (keepsMem_mapM (fun i => keepsMem_moveElem c src c.hS _ _ _ _ _ _) _) fun _ => keepsMem_pure _
  · refine keepsMem_bind (keepsMem_mapM (fun j => ?_) _) fun _ => keepsMem_pure _
    exact keepsMem_mapM (fun i2 => keepsMem_mapM (fun i0 => keepsMem_moveElem c src c.hS _ _ _ _ _ _) _) _
  · refine keepsMem_bind keepsMem_get fun s => keepsMem_bind (keepsMem_mapM (fun i => ?_) _) fun _ => keepsMem_pure _
    exact keepsMem_lift _
  · exact keepsMem_bind (keepsMem_angles c src _) fun _ => keepsMem_bind (keepsMem_readRows c dst _) fun _ => keepsMem_putRows c _ _
  · refine keepsMem_bind (keepsMem_readRows c dst _) fun old => keepsMem_bind ?_ fun m2 =>
      keepsMem_bind (keepsMem_putRows c _ _) fun a => keepsMem_bind (keepsMem_putRows c _ _) fun b => keepsMem_pure _
    exact keepsMem_ite (keepsMem_bind (keepsMem_angles c src _) fun _ => keepsMem_pure _) (keepsMem_pure _)
  · exact keepsMem_pure _

theorem keepsMem_currentPages (c : FlumeCmd) (ps : List Nat) : KeepsMem (currentPages c ps) := by
  refine keepsMem_mapM (fun p => ?_) _
  refine keepsMem_read fun s h => keepsMem_bind (keepsMem_set (translateOp_memOk s _ _ _ _ true h)) fun _ => ?_
  split
  · exact keepsMem_throw _
  · exact keepsMem_pure _

theorem keepsMem_shadowPages (n : Nat) (c : FlumeCmd) (ps : List (Nat × Nat × Bool)) : KeepsMem (shadowPages n c ps) := by
  induction ps with
  | nil => exact keepsMem_pure _
  | cons q r ih =>
    obtain ⟨p, pa, cached⟩ := q
    unfold shadowPages
    refine keepsMem_read fun s h => ?_
    split
    · exact keepsMem_bind ih fun _ => keepsMem_pure _
    · dsimp only
      split
      · exact keepsMem_pure _
      · refine keepsMem_bind (keepsMem_set ?_) fun _ => keepsMem_bind ih fun _ => keepsMem_pure _
        exact memOk_of_mem (copyFrame_memOk s pa _ cached h) rfl

theorem writeFrames_memOk (s : State) (frames : List (Nat × Nat)) (ws : List ByteWrite) (h : s.memOk) :
    (writeFrames s frames ws).memOk := by
  refine wf_writes ws _ (fun m w hm => ?_) s.mem h
  dsimp only
  split
  · exact wf_writeByte m _ _ hm
  · exact hm

theorem markTicket_memOk {s : State} (c : FlumeCmd) (x : TicketState) (h : s.memOk) : (markTicket s c x).memOk :=
  memOk_of_mem h (markTicket_mem s c x)

theorem keepsMem_doWork (n : Nat) (c : FlumeCmd) (ps : List (Nat × Nat × Bool)) : KeepsMem (doWork n c ps) := by
  refine keepsMem_bind keepsMem_get fun s => keepsMem_bind (keepsMem_flWork c _ _) fun ws => ?_
  refine keepsMem_bind (keepsMem_shadowPages n c ps) fun fs => ?_
  split
  · exact keepsMem_throw _
  · refine keepsMem_bind (keepsMem_askLines _ _) fun _ => keepsMem_modify _ fun s h => ?_
    exact markTicket_memOk _ _ (writeFrames_memOk _ _ _ (memOk_of_mem h rfl))

theorem keepsMem_startWork (n : Nat) (c : FlumeCmd) : KeepsMem (startWork n c) := by
  refine keepsMem_bind (keepsMem_ite (keepsMem_currentPages c _) (keepsMem_pure _)) fun ps => ?_
  refine keepsMem_bind keepsMem_get fun s => keepsMem_ite (keepsMem_throw _) (keepsMem_ite ?_ (keepsMem_doWork n c ps))
  exact keepsMem_bind (keepsMem_askLines _ _) fun _ => keepsMem_modify _ fun _ h => h

theorem execFlumeCommandStart_memOk (n : Nat) (s : State) (h : s.memOk) : Next State.memOk (execFlumeCommandStart n s) := by
  unfold execFlumeCommandStart
  split
  · exact h
  · rename_i c _
    split
    · exact h
    · split
      · extract_lets s1 s2
        have h2 : s2.memOk := cancelFlumes_memOk s1 _ (memOk_of_mem h rfl)
        split
        · exact h
        · show State.memOk (match mfind s2.threads c.thread with | some t => _ | none => _)
          split
          · exact raiseTrapFor_memOk s2 _ _ _ _ _ h2
          · exact h2
      · exact runAgent_memOk s _ _ _ _ (keepsMem_startWork n c) h

/-! ## Publishes (R71, R102, R119, R120) -/

theorem setOpsObjs_memOk {s : State} (ops : Map Operator) (objs : Map CodeObj) (h : s.memOk) :
    State.memOk { s with ops := ops, objs := objs } := h

theorem moveFrame_memOk (s : State) (old new : Nat) (h : s.memOk) : (moveFrame s old new).memOk := by
  unfold moveFrame
  refine setOpsObjs_memOk _ _ ?_
  exact homeWrite_memOk _ _ _ _ (homeWrite_memOk _ _ _ _ (noteHole_memOk s (frameEntry s new) h))

@[simp] theorem dropTlb_mem (s : State) (pasid page : Nat) : (dropTlb s pasid page).mem = s.mem := rfl
@[simp] theorem noteFrame_mem (s : State) (frame : Nat) : (noteFrame s frame).mem = s.mem := rfl
@[simp] theorem noteWordIn_mem (s : State) (here : Nat → Bool) : (s.noteWordIn here).mem = s.mem := rfl

theorem keepsMem_swapPage (c : FlumeCmd) (p : Nat × Nat) : KeepsMem (swapPage c p) := by
  refine keepsMem_read fun s h => ?_
  extract_lets pasid
  split
  · extract_lets old s1 s2
    have h1 : s1.memOk := foldl_keeps State.memOk _ (fun s l hs => cleanLine_memOk s l hs) _ _ (memOk_of_mem h rfl)
    have h2 : s2.memOk := homeWrite_memOk _ _ 8 _ h1
    clear_value s2
    have h3 : (moveFrame s2 old p.2).memOk := moveFrame_memOk s2 old p.2 h2
    generalize moveFrame s2 old p.2 = s3 at h3
    refine keepsMem_set (memOk_of_mem h3 ?_)
    rw [noteWordIn_mem, returnFrames_mem, dropTlb_mem]
  · exact keepsMem_bind (keepsMem_set (memOk_of_mem h (noteMalformed_mem ..))) fun _ => keepsMem_throw _
  · exact keepsMem_throw _

theorem keepsMem_writeArrival (c : FlumeCmd) (d : FlDest) (tag : Tag) : KeepsMem (writeArrival c d tag) :=
  keepsMem_ite (keepsMem_bind keepsMem_get fun _ => keepsMem_frontStore _ _ _ _) (keepsMem_pure _)

theorem keepsMem_publishGroup (d : FlDest) (cs : List FlumeCmd) : KeepsMem (publishGroup d cs) := by
  refine keepsMem_bind keepsMem_get fun s => ?_
  split
  · exact keepsMem_pure _
  · dsimp only
    split
    · exact keepsMem_bind (keepsMem_publishScr _ _ _ _) fun _ => keepsMem_pure _
    · refine keepsMem_bind (keepsMem_modify _ fun s h => memOk_of_mem (writeFrames_memOk s _ _ h) (returnFrames_mem ..)) fun _ => ?_
      exact keepsMem_bind (keepsMem_forM (fun p => keepsMem_swapPage _ p) _) fun _ => keepsMem_pure _

theorem retireFlume_memOk (s : State) (n : Nat) (c : FlumeCmd) (h : s.memOk) : (retireFlume s n c).memOk :=
  markTicket_memOk c _ (memOk_of_mem h rfl)

theorem execFlumePublish_memOk (n : Nat) (s : State) (h : s.memOk) : Next State.memOk (execFlumePublish n s) := by
  unfold execFlumePublish
  split
  · exact h
  · rename_i c _
    split
    · exact h
    · split
      · extract_lets cs
        split
        · exact h
        · refine next_memOk (runAgent_memOk s _ _ _ _ (keepsMem_bind ?_ fun tag => ?_) h)
          · exact keepsMem_ite (keepsMem_pure _) (keepsMem_publishGroup _ _)
          · refine keepsMem_bind (keepsMem_writeArrival c _ tag) fun _ => keepsMem_modify _ fun s h => retireFlume_memOk _ n c ?_
            exact foldl_keeps State.memOk _ (fun s e hs => retireFlume_memOk s e.1 e.2 hs) _ s h
      · split
        · exact h
        · refine next_memOk (runAgent_memOk s _ _ _ _ (keepsMem_bind (keepsMem_publishGroup _ _) fun tag => ?_) h)
          refine keepsMem_bind (keepsMem_writeArrival c _ tag) fun _ => keepsMem_modify _ fun s h => ?_
          split
          · exact retireFlume_memOk s n c h
          · exact h

end Sys2Proof.Machine
end

section
/-! SUPPORT. Memory keeps its canonical form: the front end (file 07; log entry 1; O60). -/

namespace Sys2Proof.Machine

theorem FstOk.of_eq {γ : Type} {p : State × γ} {s : State} {x : γ} (h : FstOk p) (he : p = (s, x)) : s.memOk := by
  subst he
  exact h

/-- A state in canonical form, where an operation hands one on at all. -/
def SomeOk (o : Option State) : Prop := ∀ s', o = some s' → s'.memOk

theorem someOk_some {s : State} (h : s.memOk) : SomeOk (some s) := by
  intro s' he
  cases he
  exact h

theorem someOk_none : SomeOk none := nofun

theorem SomeOk.bind {o : Option State} {f : State → Option State} (h : SomeOk o) (hf : ∀ s, s.memOk → SomeOk (f s)) :
    SomeOk (o.bind f) := by
  cases o with
  | none => exact someOk_none
  | some s => exact hf s (h s rfl)

/-! ## Accesses of the basin (R100, R334) -/

@[simp] theorem noteWord_mem (s : State) (line : Nat) : (s.noteWord line).mem = s.mem := rfl

theorem basinPut_memOk (s : State) (pa : Nat) (data : List Byte) (cached : Bool) (h : s.memOk) :
    (basinPut s pa data cached).memOk := by
  have hm := mergeLine_memOk s (lineOf pa) h
  unfold basinPut
  extract_lets s1 l s2
  split
  · exact memOk_of_mem (homeWriteBytes_memOk data s2 pa (memOk_of_mem hm rfl)) (noteWord_mem ..)
  · refine memOk_of_mem (s := { s1 with mem := writeBytes s1.mem pa data }) (wf_writeBytes data s1.mem pa hm) ?_
    rw [noteWord_mem, noteWrite_mem]

theorem basinRead_fstOk (s : State) (pasid va n : Nat) (h : s.memOk) : FstOk (basinRead s pasid va n) := by
  refine foldl_keeps FstOk _ (fun p q hp => ?_) (pieces n va n) (s, some []) h
  split
  · rename_i acc pa c _ _
    exact FstOk.pair _ (basinBytes_memOk p.1 pa q.2 c hp)
  · exact hp

theorem basinWrite_someOk (s : State) (pasid va : Nat) (data : List Byte) (h : s.memOk) :
    SomeOk (basinWrite s pasid va data) := by
  refine foldl_keeps SomeOk _ (fun o q ho => ?_) _ (some s) (someOk_some h)
  split
  · exact someOk_none
  · rename_i s1
    split
    · exact someOk_some (basinPut_memOk _ _ _ _ (setPteBit_memOk s1 _ _ (ho s1 rfl)))
    · exact someOk_none

theorem basinWord_fstOk (s : State) (pasid va n : Nat) (h : s.memOk) : FstOk (basinWord s pasid va n) :=
  basinRead_fstOk s pasid va n h

theorem setQueues_memOk {s : State} (qs : Map Queue) (h : s.memOk) : State.memOk { s with queues := qs } := h

theorem putQueue_memOk (s : State) (slot : Nat) (q : Queue) (h : s.memOk) : (putQueue s slot q).memOk := by
  unfold putQueue
  exact setQueues_memOk _ (homeWrite_memOk _ _ _ _ (noteHole_memOk s _ h))

theorem userHalf_fstOk (s : State) (q : Queue) (h : s.memOk) : FstOk (userHalf s q) := by
  have hw := basinWord_fstOk s q.pasid q.uva 64 h
  unfold userHalf
  split
  all_goals
    rename_i he
    have hs := hw.of_eq he
  · exact hs
  · extract_lets base code
    split
    · exact hs
    · exact hs

/-! ## Records and their ends (R338 to R342) -/

theorem setRec_memOk {s : State} (r : Rec) (h : s.memOk) : (setRec s r).memOk := h

theorem endRecord_memOk (s : State) (r : Rec) (status : Nat) (h : s.memOk) : (endRecord s r status).memOk := by
  unfold endRecord
  extract_lets done s1 exit hi lo
  have h1 : s1.memOk := setRec_memOk _ h
  have hw : SomeOk ((basinWrite s1 r.pasid (done + 8) (leBytes 8 hi)).bind fun s => basinWrite s r.pasid done (leBytes 8 lo)) :=
    (basinWrite_someOk s1 _ _ _ h1).bind fun s hs => basinWrite_someOk s _ _ _ hs
  split
  · exact h1
  · split
    · rename_i he
      exact hw _ he
    · exact putQueue_memOk s1 _ _ h1

theorem settleRec_memOk (s : State) (r : Rec) (h : s.memOk) : (settleRec s r).memOk := by
  unfold settleRec
  split
  · extract_lets pred
    clear_value pred
    split
    · split
      · exact setRec_memOk _ h
      · exact h
    · split
      · exact setRec_memOk _ h
      · exact h
    · exact setRec_memOk _ h
    · exact setRec_memOk _ h
    · exact h
  · split
    · exact endRecord_memOk s r _ h
    · exact h
  · exact h

theorem settleRecs_memOk (s : State) (h : s.memOk) : (settleRecs s).memOk := by
  refine foldl_keeps State.memOk _ (fun s e hs => ?_) _ s h
  split
  · exact settleRec_memOk s _ hs
  · exact hs

theorem dropOperator_memOk (s : State) (op : Nat) (h : s.memOk) : (dropOperator s op).memOk :=
  memOk_of_mem (dropPins_memOk _ op (cancelFlumes_memOk s _ h)) rfl

theorem settleTwice_memOk (n : Nat) (s : State) (h : s.memOk) : (settleTwice n s).memOk := by
  induction n generalizing s with
  | zero => exact h
  | succ n ih => exact ih _ (settleRecs_memOk s h)

theorem frontSettle_memOk (s : State) (h : s.memOk) : (frontSettle s).memOk :=
  foldl_keeps State.memOk _ (fun s op hs => dropOperator_memOk s op hs) _ _ (settleTwice_memOk _ s h)

/-! ## Queues: withdrawals, kicks, the installation of an entry (R335, R336) -/

theorem actWithdraw_fstOk (s : State) (slot : Nat) (q : Queue) (w : Nat) (h : s.memOk) : FstOk (actWithdraw s slot q w) := by
  unfold actWithdraw
  extract_lets serial tag void
  split
  · exact h
  · split
    · exact h
    · exact h

theorem actWords_fstOk (s : State) (slot : Nat) (q : Queue) (h : s.memOk) : FstOk (actWords s slot q) :=
  foldl_keeps FstOk _ (fun p w hp => actWithdraw_fstOk p.1 slot p.2 w.toNat hp) q.words _ h

theorem mergeQueue_fstOk (s : State) (slot : Nat) (q : Queue) (h : s.memOk) : FstOk (mergeQueue s slot q) := by
  have hu := userHalf_fstOk s q h
  unfold mergeQueue
  split
  all_goals
    rename_i he
    have hs := hu.of_eq he
  · exact hs
  · exact actWithdraw_fstOk _ slot _ _ (actWords_fstOk _ slot q hs)

theorem kickQueue_memOk (s : State) (slot : Nat) (q : Queue) (k : W32) (h : s.memOk) : (kickQueue s slot q k).memOk := by
  have hm := mergeQueue_fstOk s slot q h
  unfold kickQueue
  split
  rename_i he
  have hs := hm.of_eq he
  split
  · exact putQueue_memOk _ _ _ hs
  · split
    · exact putQueue_memOk _ _ _ hs
    · split
      · exact putQueue_memOk _ _ _ hs
      · exact putQueue_memOk _ _ _ hs

theorem installQueue_memOk (s : State) (slot : Nat) (h : s.memOk) : (installQueue s slot).memOk := by
  unfold installQueue
  extract_lets a s1 e old s2 same q
  have h2 : s2.memOk := memOk_of_mem (noteHole_memOk s a h) rfl
  have hu := userHalf_fstOk s2 q h2
  split
  · exact h2
  · split
    all_goals
      rename_i he
      have hs := hu.of_eq he
    · exact putQueue_memOk _ _ _ hs
    · exact kickQueue_memOk _ _ _ _ hs

theorem handPackets_mem (n : Nat) (s : State) : (handPackets n s).mem = s.mem := by
  induction n generalizing s with
  | zero => rfl
  | succ n ih =>
    unfold handPackets
    split
    · rw [ih]
      rfl
    · rfl

theorem handPacket_mem (s : State) (slot : Nat) (k : W32) : (handPacket s slot k).mem = s.mem := handPackets_mem ..

theorem donePacket_mem (s : State) (slot : Nat) : (donePacket s slot).mem = s.mem := handPackets_mem ..

theorem kickSlot_memOk (slot : Nat) (k : W32) (s : State) (h : s.memOk) : Next State.memOk (kickSlot slot k s) := by
  unfold kickSlot
  extract_lets s1 q
  have h1 : s1.memOk := by
    unfold s1
    split
    · exact h
    · exact installQueue_memOk s slot h
  split
  · exact h1
  · exact frontSettle_memOk _ (memOk_of_mem (kickQueue_memOk s1 slot q k h1) (handPacket_mem ..))

theorem execDoorbellKick_memOk (slot : Door) (offset bytes : Nat) (k : W32) (s : State) (h : s.memOk) :
    Next State.memOk (execDoorbellKick slot offset bytes k s) := by
  unfold execDoorbellKick
  split
  · exact h
  · split
    · split
      · exact h
      · exact kickSlot_memOk _ k s h
    · split
      · exact kickSlot_memOk _ k s h
      · exact h

theorem execWithdrawal_memOk (slot : Nat) (s : State) (h : s.memOk) : Next State.memOk (execWithdrawal slot s) := by
  have hact : ∀ (s : State) (q : Queue) (w : Nat), s.memOk →
      (frontSettle (putQueue (actWithdraw s slot q w).1 slot (actWithdraw s slot q w).2)).memOk := fun s q w h =>
    frontSettle_memOk _ (putQueue_memOk _ _ _ (actWithdraw_fstOk s slot q w h))
  have hw := basinWord_fstOk s (s.queue slot).pasid ((s.queue slot).uva + 16) 8 h
  unfold execWithdrawal
  extract_lets q act
  split
  · exact h
  · split
    · exact hact s _ _ h
    · split
      · rename_i he
        exact hact _ _ _ (hw.of_eq he)
      · exact h

/-! ## Reading a record (R337, R340, R351 to R353) -/

theorem readArgs_fstOk (s : State) (pasid va n : Nat) (h : s.memOk) : FstOk (readArgs s pasid va n) := by
  have hr := basinRead_fstOk s pasid va (8 * n) h
  unfold readArgs
  split
  · exact h
  · split
    all_goals
      rename_i he
      exact hr.of_eq he

theorem noteHistory_fstOk (s : State) (q : Queue) (r : Rec) (h : s.memOk) : FstOk (noteHistory s q r) := by
  have hr := readArgs_fstOk s r.pasid (r.word 2) r.hints h
  unfold noteHistory
  extract_lets plain
  split
  · exact h
  · split
    all_goals
      rename_i he
      exact hr.of_eq he

theorem waitHolds_fstOk (s : State) (r : Rec) (h : s.memOk) : FstOk (waitHolds s r) := by
  have hw := basinWord_fstOk s r.pasid (r.word 4) 4 h
  unfold waitHolds
  split
  · exact h
  · split
    all_goals
      rename_i he
      exact hw.of_eq he

theorem testWait_memOk (s : State) (r : Rec) (h : s.memOk) : (testWait s r).memOk := by
  have hw := waitHolds_fstOk s r h
  unfold testWait
  split
  all_goals
    rename_i he
    have hs := hw.of_eq he
  · exact putQueue_memOk _ _ _ (setRec_memOk _ hs)
  · split
    · exact setRec_memOk _ hs
    · split
      · exact setRec_memOk _ hs
      · exact hs

theorem matchesPond_fstOk (s : State) (r : Rec) (p : Pond) (h : s.memOk) : FstOk (matchesPond s r p) := by
  have hr := readArgs_fstOk s r.pasid (r.word 2) p.args.length h
  unfold matchesPond
  extract_lets clear words
  split
  all_goals
    rename_i he
    exact hr.of_eq he

theorem comparePonds_memOk (s : State) (r : Rec) (h : s.memOk) : (comparePonds s r).memOk :=
  foldl_keeps State.memOk _ (fun s e hs => memOk_of_mem (matchesPond_fstOk s r e.2 hs) rfl) _ s h

theorem stopPondOf_memOk {s : State} (r : Rec) (h : s.memOk) : (stopPondOf s r).memOk := h

theorem execRecordRead_memOk (slot : Nat) (s : State) (h : s.memOk) : Next State.memOk (execRecordRead slot s) := by
  unfold execRecordRead
  extract_lets q s1
  have hm : FstOk (mergeQueue s1 slot q) := mergeQueue_fstOk s1 slot q (memOk_of_mem h (donePacket_mem s slot))
  split
  · exact h
  · split
    rename_i s2 q2 u he
    have h2 : s2.memOk := hm.of_eq he
    split
    · exact frontSettle_memOk _ (putQueue_memOk _ _ _ h2)
    · rename_i v
      have hr := basinRead_fstOk s2 q2.pasid (v.base + 64 * (q2.ridx.toNat % v.size)) 64 h2
      split
      all_goals
        rename_i he
        have h3 := hr.of_eq he
      · exact frontSettle_memOk _ (putQueue_memOk _ _ _ h3)
      · extract_lets s3 r0 r bad q3
        have h4 : FstOk (if bad then (s3, q3) else noteHistory s3 q3 r) := by
          split
          · exact FstOk.pair _ h3
          · exact noteHistory_fstOk s3 q3 r h3
        split
        rename_i s4 q4 he4
        have h4 := h4.of_eq he4
        have hw := basinWrite_someOk s4 q2.pasid (q2.uva + 24) (leBytes 4 q4.ridx.toNat) h4
        clear_value q3 bad r
        have h5 : FstOk (match basinWrite s4 q2.pasid (q2.uva + 24) (leBytes 4 q4.ridx.toNat) with
            | some s => (s, q4)
            | none => (s4, { q4 with err := 1 })) := by
          split
          · rename_i he5
            exact FstOk.pair _ (hw _ he5)
          · exact FstOk.pair _ h4
        split
        rename_i s5 q5 he5
        have h5 := h5.of_eq he5
        extract_lets s6
        have h6 : s6.memOk := putQueue_memOk s5 slot q5 h5
        clear_value s6
        split
        · exact frontSettle_memOk _ (setRec_memOk _ (stopPondOf_memOk _ h6))
        · split
          · exact frontSettle_memOk _ (setRec_memOk _ (stopPondOf_memOk _ h6))
          · exact frontSettle_memOk _ (testWait_memOk _ _ (comparePonds_memOk _ _ (setRec_memOk _ h6)))

theorem execWaitWordSatisfied_memOk (slot : Nat) (index : W32) (s : State) (h : s.memOk) :
    Next State.memOk (execWaitWordSatisfied slot index s) := by
  unfold execWaitWordSatisfied
  split
  · exact h
  · split
    · exact frontSettle_memOk _ (testWait_memOk _ _ h)
    · exact h

end Sys2Proof.Machine
end

section
/-! SUPPORT. Memory keeps its canonical form: the matrix array (file 05; log entry 1; O60). -/

namespace Sys2Proof.Machine

/-! ## Capture, issue, leases (R239 to R246) -/

theorem keepsMem_capturePort (t : Thread) (p : Fin 4 × Nat) : KeepsMem (capturePort t p) :=
  keepsMem_lift_bind fun _ => keepsMem_pure _

theorem keepsMem_matrixCapture (i : Instr) (t : Thread) : KeepsMem (matrixCapture i t) :=
  keepsMem_bind (keepsMem_chargeGated t) fun _ => keepsMem_bind keepsMem_get fun _ =>
    keepsMem_bind (keepsMem_foldlM _ (fun t p => keepsMem_capturePort t p) _ t) fun _ => keepsMem_pure _

theorem keepsMem_matrixIssue (accs : BitVec 4) (ok : Regs → Bool) (g : Gated) (t : Thread) :
    KeepsMem (matrixIssue accs ok g t) :=
  keepsMem_bind keepsMem_get fun _ => keepsMem_guard (keepsMem_guard (keepsMem_pure _))

theorem runMatrix_memOk (i : Instr) (accs : BitVec 4) (ok : Regs → Bool) (s : State) (h : s.memOk) :
    Next State.memOk (runMatrix i accs ok s) :=
  runGated_memOk i _ _ s (keepsMem_matrixCapture i) (keepsMem_matrixIssue accs ok) h

theorem endVictimTurn_memOk (s : State) (t : Thread) (h : s.memOk) : (endVictimTurn s t).memOk := by
  unfold endVictimTurn
  split
  · split
    · exact h
    · exact h
  · exact h

@[simp] theorem startIdle_mem (s : State) (tile : Nat) : (startIdle s tile).mem = s.mem := rfl

theorem execMLease_memOk (mask : BitVec 4) (s : State) (h : s.memOk) : Next State.memOk (execMLease mask s) := by
  refine runGated_memOk _ _ _ s (keepsMem_matrixCapture _) (fun g t => ?_) h
  refine keepsMem_read fun s h => keepsMem_bind (keepsMem_matrixIssue _ _ g t) fun u => keepsMem_guard ?_
  refine keepsMem_bind (keepsMem_set (claimAccs_memOk _ _ _ mask (endVictimTurn_memOk _ t ?_))) fun _ => keepsMem_pure _
  exact h

theorem execMWait_memOk (s : State) (h : s.memOk) : Next State.memOk (execMWait s) :=
  runGated_memOk _ _ _ s (keepsMem_matrixCapture _) (fun g t =>
    keepsMem_bind (keepsMem_matrixIssue _ _ g t) fun _ => keepsMem_pure _) h

theorem execMCellp_memOk (x : MMul) (s : State) (h : s.memOk) : Next State.memOk (execMCellp x s) :=
  runGated_memOk _ _ _ s (keepsMem_matrixCapture _) (fun g t =>
    keepsMem_bind (keepsMem_matrixIssue _ _ g t) fun _ => keepsMem_pure _) h

theorem execMProg_memOk (a : Fin 32) (slot : Fin 4) (s : State) (h : s.memOk) : Next State.memOk (execMProg a slot s) := by
  refine runGated_memOk _ _ _ s (keepsMem_matrixCapture _) (fun g t => ?_) h
  refine keepsMem_bind (keepsMem_awaitBarriers g t) fun _ => keepsMem_guard ?_
  refine keepsMem_bind (keepsMem_matrixIssue _ _ g t) fun t => keepsMem_guard ?_
  refine keepsMem_bind keepsMem_get fun s => keepsMem_lift_bind fun ad => keepsMem_bind (keepsMem_agentRead _ ad 8) fun bs => ?_
  exact keepsMem_bind (keepsMem_modify _ fun s h => dropOwner_memOk s _ h) fun _ => keepsMem_guard (keepsMem_pure _)

/-! ## Operands (R241, R250 to R252) -/

theorem keepsMem_popPort (g : Agent) (n : Nat) (r : Regs) (p : Fin 4) : KeepsMem (popPort g n r p) := by
  induction n generalizing r with
  | zero => exact keepsMem_pure _
  | succ n ih =>
    exact keepsMem_bind keepsMem_get fun _ => keepsMem_lift_bind fun a => keepsMem_bind (keepsMem_agentRead g a _) fun _ =>
      keepsMem_bind (ih _) fun _ => keepsMem_pure _

theorem keepsMem_popSource (g : Agent) (n : Nat) (r : Regs) (a : MSrc) : KeepsMem (match a with
    | .port p => popPort g n r p
    | .handle _ => pure (r, 0) : Op (Regs × Nat)) := by
  cases a with
  | port p => exact keepsMem_popPort g n r p
  | handle h => exact keepsMem_pure _

theorem keepsMem_popSteps (g : Agent) (a b : MSrc) (n : Nat) (r : Regs) : KeepsMem (popSteps g a b n r) := by
  induction n generalizing r with
  | zero => exact keepsMem_pure _
  | succ n ih =>
    exact keepsMem_bind (keepsMem_popSource g 2 r a) fun x => keepsMem_bind (keepsMem_popSource g 3 x.1 b) fun y =>
      keepsMem_bind (ih y.1) fun _ => keepsMem_pure _

theorem keepsMem_readOperands (g : Agent) (r : Regs) (a b : MSrc) (tyA tyB : Ty) (k0 k1 : Nat) :
    KeepsMem (readOperands g r a b tyA tyB k0 k1) := by
  refine keepsMem_bind (keepsMem_popSteps g a b _ r) fun x => ?_
  refine keepsMem_bind (keepsMem_mapM (fun m => ?_) _) fun as => keepsMem_bind (keepsMem_mapM (fun n => ?_) _) fun bs => keepsMem_pure _
  · cases a with
    | port p => exact keepsMem_pure _
    | handle h => exact keepsMem_mapM (fun k => keepsMem_elemRead g _ _ _ _) _
  · cases b with
    | port p => exact keepsMem_pure _
    | handle h => exact keepsMem_mapM (fun k => keepsMem_elemRead g _ _ _ _) _

theorem keepsMem_putAcc (t : Thread) (a : Fin 4) (xs : List W32) (tag : Tag) : KeepsMem (putAcc t a xs tag) :=
  keepsMem_modify _ fun _ h => h

theorem keepsMem_readScales (g : Agent) (r : Regs) (a b : Fin 32) (ty : Ty) (len k : Nat) :
    KeepsMem (readScales g r a b ty len k) := by
  have hs : ∀ (h : HRec) (i0 i1 i2 : Int), KeepsMem (do return decodeElem ty (← elemRead g h i0 i1 i2)) :=
    fun h i0 i1 i2 => keepsMem_bind (keepsMem_elemRead g h i0 i1 i2) fun _ => keepsMem_pure _
  refine keepsMem_bind (keepsMem_mapM (fun m => keepsMem_mapM (fun q => hs _ _ _ _) _) _) fun as => ?_
  exact keepsMem_bind (keepsMem_mapM (fun n => keepsMem_mapM (fun q => hs _ _ _ _) _) _) fun bs => keepsMem_pure _

theorem keepsMem_fillCells (g : Agent) (r : Regs) (a : MSrc) : KeepsMem (fillCells g r a) := by
  cases a with
  | port p => exact keepsMem_bind (keepsMem_popPort g 96 r p) fun _ => keepsMem_pure _
  | handle h =>
    refine keepsMem_mapM (fun i => keepsMem_ite ?_ (keepsMem_pure _)) _
    exact keepsMem_bind (keepsMem_elemRead g _ _ _ _) fun _ => keepsMem_pure _

theorem keepsMem_readScale (g : Agent) (r : Regs) (ty : Ty) (a : MSrc) : KeepsMem (readScale g r ty a) := by
  cases a with
  | port p => exact keepsMem_bind (keepsMem_popPort g 1 r p) fun _ => keepsMem_pure _
  | handle h => exact keepsMem_bind (keepsMem_elemRead g _ _ _ _) fun _ => keepsMem_pure _

/-! ## A command's work (R247 to R257) -/

theorem keepsMem_advance (t : Thread) (c : MCmd) (n : Nat) : KeepsMem (advance t c n) := by
  refine keepsMem_bind keepsMem_get fun s => ?_
  dsimp only
  split
  · exact keepsMem_bind (keepsMem_readOperands _ _ _ _ _ _ _ _) fun _ => keepsMem_bind (keepsMem_putAcc _ _ _ _) fun _ => keepsMem_pure _
  · exact keepsMem_bind (keepsMem_readOperands _ _ _ _ _ _ _ _) fun _ => keepsMem_bind (keepsMem_readScales _ _ _ _ _ _ _) fun _ =>
      keepsMem_bind (keepsMem_putAcc _ _ _ _) fun _ => keepsMem_pure _
  · exact keepsMem_bind (keepsMem_readOperands _ _ _ _ _ _ _ _) fun _ => keepsMem_bind (keepsMem_putAcc _ _ _ _) fun _ => keepsMem_pure _
  · exact keepsMem_pure _

theorem keepsMem_drain (t : Thread) (c : MCmd) (src : Fin 4) (a : Fin 32) (tyD tyS : Ty) (sat : Bool) (rnd : Rnd) :
    KeepsMem (drain t c src a tyD tyS sat rnd) := by
  refine keepsMem_bind keepsMem_get fun s => ?_
  extract_lets ot h mode xs is vs fl
  refine keepsMem_bind (keepsMem_mapM (fun v => keepsMem_lift _) _) fun ws => keepsMem_ite ?_ ?_
  · exact keepsMem_bind (keepsMem_publishScr _ _ _ _) fun _ => keepsMem_pure _
  · exact keepsMem_bind keepsMem_get fun s => keepsMem_bind (keepsMem_globalWrites _ _) fun _ =>
      keepsMem_bind (keepsMem_modify _ fun _ h => h) fun _ => keepsMem_pure _

/-- A command that only replaces an accumulator. -/
theorem keepsMem_putAcc_return (t : Thread) (a : Fin 4) (xs : List W32) (tag : Tag) (c : MCmd) :
    KeepsMem (do putAcc t a xs tag; return c) := keepsMem_bind (keepsMem_putAcc t a xs tag) fun _ => keepsMem_pure c

theorem keepsMem_runCommand (t : Thread) (c : MCmd) : KeepsMem (runCommand t c) := by
  refine keepsMem_bind keepsMem_get fun s => ?_
  extract_lets ot tagOf
  split
  split
  · exact keepsMem_bind (keepsMem_advance t c _) fun c => keepsMem_bind keepsMem_get fun _ => keepsMem_putAcc_return t _ _ _ c
  · exact keepsMem_bind (keepsMem_advance t c _) fun c => keepsMem_bind keepsMem_get fun _ => keepsMem_putAcc_return t _ _ _ c
  · exact keepsMem_bind (keepsMem_advance t c _) fun c => keepsMem_bind keepsMem_get fun _ => keepsMem_putAcc_return t _ _ _ c
  · exact keepsMem_putAcc_return t _ _ _ c
  · exact keepsMem_bind (keepsMem_fillCells _ _ _) fun _ => keepsMem_putAcc_return t _ _ _ c
  · exact keepsMem_putAcc_return t _ _ _ _
  · exact keepsMem_bind (keepsMem_readScale _ _ _ _) fun _ => keepsMem_putAcc_return t _ _ _ _
  · exact keepsMem_putAcc_return t _ _ _ _
  · exact keepsMem_putAcc_return t _ _ _ c
  · exact keepsMem_putAcc_return t _ _ _ c
  · exact keepsMem_putAcc_return t _ _ _ _
  · exact keepsMem_drain _ _ _ _ _ _ _ _
  · exact keepsMem_pure c

/-! ## Turns, completions, grants (R242 to R249) -/

theorem takeTurn_mem (s : State) (tile : Nat) : (takeTurn s tile).mem = s.mem := by
  unfold takeTurn
  split
  · rfl
  · rfl

theorem keepTurns_memOk (s : State) (h : s.memOk) : (keepTurns s).memOk := by
  refine foldl_keeps State.memOk _ (fun s e hs => ?_) _ s h
  split
  · split
    · exact hs
    · exact hs
  · exact hs

theorem retireCommand_mem (s : State) (k : Nat) (c : MCmd) : (retireCommand s k c).mem = s.mem := by
  unfold retireCommand
  split
  · rfl
  · extract_lets gone acc tl q s1
    rw [State.setThread_mem]
    unfold s1
    split
    · rfl
    · rfl

theorem countTurn_mem (s : State) (k : Nat) (t : Thread) : (countTurn s k t).mem = s.mem := by
  unfold countTurn
  extract_lets tl more
  split
  · rfl
  · rfl

theorem setThread_memOk {s : State} (k : Nat) (t : Thread) (h : s.memOk) : (s.setThread k t).memOk := h

theorem execMatrixCommandComplete_memOk (k : Nat) (s : State) (h : s.memOk) :
    Next State.memOk (execMatrixCommandComplete k s) := by
  unfold execMatrixCommandComplete
  split
  · exact h
  · rename_i t _
    split
    · exact h
    · rename_i c rest _
      split
      · exact h
      · split
        · refine drainWaiting_memOk _ k (memOk_of_mem h ?_)
          split
          · rw [countTurn_mem, retireCommand_mem]
          · exact retireCommand_mem s k c
        · extract_lets s1
          have h1 : s1.memOk := memOk_of_mem h (takeTurn_mem s t.tile)
          have hr := keepsMem_runCommand t c s1 h1
          clear_value s1
          split
          · exact h1
          · split
            · exact raiseTrapFor_memOk _ _ _ _ _ _ (memOk_of_mem h1 rfl)
            · split
              all_goals
                rename_i he
                rw [he] at hr
              · split
                · exact setThread_memOk _ _ (dropOwner_memOk _ _ hr)
                · refine drainWaiting_memOk _ k (memOk_of_mem (dropOwner_memOk _ (.place k c.ord) hr) ?_)
                  rw [countTurn_mem, retireCommand_mem]
              · exact raiseTrapFor_memOk _ _ _ _ _ _ hr
              · exact keepPorts_memOk s1 _ h1

theorem endTurn_memOk {s : State} (tile : Nat) (p : Fin 4) (h : s.memOk) : (endTurn s tile p).memOk := h

theorem execArrayTurnEnd_memOk (tile : Nat) (s : State) (h : s.memOk) : Next State.memOk (execArrayTurnEnd tile s) := by
  unfold execArrayTurnEnd
  extract_lets tl
  split
  · exact h
  · split
    · exact h
    · split
      · exact h
      · rename_i t _
        split
        · exact h
        · split
          · rename_i c rest _
            have hr := keepsMem_advance t c 1 s h
            split
            · exact h
            · split
              · split
                all_goals
                  rename_i he
                  rw [he] at hr
                · exact endTurn_memOk tile _ (setThread_memOk _ _ (dropOwner_memOk _ _ hr))
                · exact raiseTrapFor_memOk _ _ _ _ _ _ hr
                · exact keepPorts_memOk s _ h
              · exact endTurn_memOk tile _ h
          · exact endTurn_memOk tile _ h

theorem execLeaseGrant_memOk (tile thread : Nat) (s : State) (h : s.memOk) : Next State.memOk (execLeaseGrant tile thread s) := by
  unfold execLeaseGrant
  split
  · split
    · exact h
    · exact h
  · exact h

@[simp] theorem dropAcc_mem (s : State) (op : Nat) : (dropAcc s op).mem = s.mem := rfl

theorem execLeaseTimeout_memOk (thread : Nat) (s : State) (h : s.memOk) : Next State.memOk (execLeaseTimeout thread s) := by
  unfold execLeaseTimeout
  split
  · exact h
  · split
    · split
      · exact h
      · exact raiseTrap_memOk _ _ _ _ _ h
    · exact h

end Sys2Proof.Machine
end

section
/-! SUPPORT. Memory keeps its canonical form: the vector operations, the waits, the probes and the page requests (files 02,
03 and 05; log entry 1; O60). -/

namespace Sys2Proof.Machine

/-! ## Vector operations (R217 to R237) -/

theorem keepsMem_putLanes (t : Thread) (lat reg : Nat) (nw : Bool) (d : VDst) (g key : Tag) (w n : Nat) (act : Nat → Bool)
    (f : Nat → Nat × FlagSet) : KeepsMem (putLanes t lat reg nw d g key w n act f) :=
  keepsMem_ite (keepsMem_putV _ _ _ _ _ _ _ _ _ _ _) (keepsMem_putV _ _ _ _ _ _ _ _ _ _ _)

/-- An operation of one vector operand. -/
theorem runOp_readV_memOk (a : VSrc) (f : Thread × VReg × Tag → Op Thread) (hf : ∀ p, KeepsMem (f p)) (s : State) (h : s.memOk) :
    Next State.memOk (runOp s fun t => readV t a >>= f) :=
  runOp_memOk s _ (fun t => keepsMem_bind (keepsMem_readV t a) hf) h

theorem vector1_memOk (key lat reg : Nat) (x : V1) (f : Rnd → Nat → Nat × FlagSet) (s : State) (h : s.memOk) :
    Next State.memOk (vector1 key lat reg x f s) :=
  runOp_readV_memOk _ _ (fun _ => keepsMem_putLanes _ _ _ _ _ _ _ _ _ _ _) s h

theorem vector2_memOk (key lat reg : Nat) (x : V2) (f : Rnd → Nat → Nat → Nat × FlagSet) (s : State) (h : s.memOk) :
    Next State.memOk (vector2 key lat reg x f s) :=
  runOp_readV_memOk _ _ (fun _ => keepsMem_bind (keepsMem_readV _ _) fun _ => keepsMem_putLanes _ _ _ _ _ _ _ _ _ _ _) s h

theorem vector3_memOk (key lat reg : Nat) (x : V3) (f : Rnd → Nat → Nat → Nat → Nat × FlagSet) (s : State) (h : s.memOk) :
    Next State.memOk (vector3 key lat reg x f s) :=
  runOp_readV_memOk _ _ (fun _ => keepsMem_bind (keepsMem_readV _ _) fun _ => keepsMem_bind (keepsMem_readV _ _) fun _ =>
    keepsMem_putLanes _ _ _ _ _ _ _ _ _ _ _) s h

theorem vectorWhole_memOk (key : Nat) (x : V2) (f : Nat → Nat → Nat → Nat) (s : State) (h : s.memOk) :
    Next State.memOk (vectorWhole key x f s) :=
  runOp_readV_memOk _ _ (fun _ => keepsMem_bind (keepsMem_readV _ _) fun _ => keepsMem_putLanes _ _ _ _ _ _ _ _ _ _ _) s h

theorem execVDot_memOk (x : V3) (s : State) (h : s.memOk) : Next State.memOk (execVDot x s) :=
  runOp_readV_memOk _ _ (fun _ => keepsMem_bind (keepsMem_readV _ _) fun _ => keepsMem_bind (keepsMem_readV _ _) fun _ =>
    keepsMem_putLanes _ _ _ _ _ _ _ _ _ _ _) s h

theorem execVCvt_memOk (x : V1) (src : Ty) (part : Fin 16) (s : State) (h : s.memOk) : Next State.memOk (execVCvt x src part s) :=
  runOp_readV_memOk _ _ (fun _ => keepsMem_putLanes _ _ _ _ _ _ _ _ _ _ _) s h

theorem execVScl_memOk (x : V2) (src scale : Ty) (s : State) (h : s.memOk) : Next State.memOk (execVScl x src scale s) :=
  runOp_readV_memOk _ _ (fun _ => keepsMem_bind (keepsMem_readV _ _) fun _ => keepsMem_putLanes _ _ _ _ _ _ _ _ _ _ _) s h

theorem execVCmp_memOk (cc : Cc) (d : Fin 16) (a b : VSrc) (ty : Ty) (msk : Fin 16) (s : State) (h : s.memOk) :
    Next State.memOk (execVCmp cc d a b ty msk s) :=
  runOp_readV_memOk _ _ (fun _ => keepsMem_bind (keepsMem_readV _ _) fun _ => keepsMem_pure _) s h

theorem execVClass_memOk (d : Fin 16) (a : VSrc) (set : BitVec 8) (ty : Ty) (msk : Fin 16) (s : State) (h : s.memOk) :
    Next State.memOk (execVClass d a set ty msk s) := runOp_readV_memOk _ _ (fun _ => keepsMem_pure _) s h

theorem execVSel_memOk (x : V2) (q : Fin 16) (s : State) (h : s.memOk) : Next State.memOk (execVSel x q s) :=
  runOp_readV_memOk _ _ (fun _ => keepsMem_bind (keepsMem_readV _ _) fun _ => keepsMem_putLanes _ _ _ _ _ _ _ _ _ _ _) s h

theorem reduce_memOk (key : Nat) (k : RedKind) (scan : Bool) (x : VRed) (s : State) (h : s.memOk) :
    Next State.memOk (reduce key k scan x s) := runOp_readV_memOk _ _ (fun _ => keepsMem_putV _ _ _ _ _ _ _ _ _ _ _) s h

theorem execVBcast_memOk (x : V1) (b : SSrc) (s : State) (h : s.memOk) : Next State.memOk (execVBcast x b s) :=
  runOp_readV_memOk _ _ (fun _ => keepsMem_lift_bind fun _ => keepsMem_putLanes _ _ _ _ _ _ _ _ _ _ _) s h

theorem execVBcastScalar_memOk (nw : Bool) (d : VDst) (b : SSrc) (ty : Ty) (msk : Fin 16) (s : State) (h : s.memOk) :
    Next State.memOk (execVBcastScalar nw d b ty msk s) :=
  runOp_memOk s _ (fun _ => keepsMem_lift_bind fun _ => keepsMem_putLanes _ _ _ _ _ _ _ _ _ _ _) h

theorem execVSlide_memOk (x : V2) (c : SSrc) (s : State) (h : s.memOk) : Next State.memOk (execVSlide x c s) :=
  runOp_readV_memOk _ _ (fun _ => keepsMem_bind (keepsMem_readV _ _) fun _ => keepsMem_lift_bind fun _ =>
    keepsMem_putLanes _ _ _ _ _ _ _ _ _ _ _) s h

theorem execVBrev_memOk (x : V1) (b : Fin 16) (s : State) (h : s.memOk) : Next State.memOk (execVBrev x b s) :=
  runOp_readV_memOk _ _ (fun _ => keepsMem_putLanes _ _ _ _ _ _ _ _ _ _ _) s h

theorem execVIns_memOk (d : Fin 96) (a b : SSrc) (ty : Ty) (s : State) (h : s.memOk) : Next State.memOk (execVIns d a b ty s) :=
  runOp_memOk s _ (fun _ => keepsMem_lift_bind fun _ => keepsMem_lift_bind fun _ => keepsMem_putLanes _ _ _ _ _ _ _ _ _ _ _) h

theorem execVGet_memOk (d : Fin 64) (a : VSrc) (b : SSrc) (ty : Ty) (s : State) (h : s.memOk) :
    Next State.memOk (execVGet d a b ty s) :=
  runOp_readV_memOk _ _ (fun _ => keepsMem_lift_bind fun _ => keepsMem_ite (keepsMem_pure _) (keepsMem_pure _)) s h

theorem execVPack_memOk (x : V2) (s : State) (h : s.memOk) : Next State.memOk (execVPack x s) :=
  runOp_readV_memOk _ _ (fun _ => keepsMem_bind (keepsMem_readV _ _) fun _ => keepsMem_putLanes _ _ _ _ _ _ _ _ _ _ _) s h

theorem execVUnpack_memOk (x : V1) (half int4 : Bool) (s : State) (h : s.memOk) : Next State.memOk (execVUnpack x half int4 s) :=
  runOp_readV_memOk _ _ (fun _ => keepsMem_putLanes _ _ _ _ _ _ _ _ _ _ _) s h

theorem execVIota_memOk (nw : Bool) (d : VDst) (a : SSrc) (ty : Ty) (msk : Fin 16) (s : State) (h : s.memOk) :
    Next State.memOk (execVIota nw d a ty msk s) :=
  runOp_memOk s _ (fun _ => keepsMem_lift_bind fun _ => keepsMem_putLanes _ _ _ _ _ _ _ _ _ _ _) h

/-! ## Traps, exits, yields, waits, barriers and takes (R310 to R315, R348 to R350) -/

theorem execTrap_memOk (code : W32) (s : State) (h : s.memOk) : Next State.memOk (execTrap code s) :=
  runGated_memOk _ _ _ s (keepsMem_capture _) (fun _ _ => keepsMem_throw _) h

theorem execExit_memOk (a : Fin 64) (s : State) (h : s.memOk) : Next State.memOk (execExit a s) :=
  runGated_memOk _ _ _ s (keepsMem_capture _) (fun _ _ =>
    keepsMem_bind (keepsMem_modify _ fun _ h => settleTrap_memOk _ _ h) fun _ => keepsMem_pure _) h

theorem execYield_memOk (s : State) (h : s.memOk) : Next State.memOk (execYield s) := by
  refine runGated_memOk _ _ _ s (keepsMem_capture _) (fun g t => ?_) h
  refine keepsMem_read fun s h => ?_
  split
  · exact keepsMem_pure _
  · refine keepsMem_ite (keepsMem_pure _) (keepsMem_ite ?_ (keepsMem_pure _))
    exact keepsMem_bind (keepsMem_set h) fun _ => keepsMem_pure _

theorem execWaitA_memOk (d : Fin 64) (p : Fin 32) (b : Fin 64) (cc : Cc) (s : State) (h : s.memOk) :
    Next State.memOk (execWaitA d p b cc s) := by
  refine runGated_memOk _ _ _ s (fun t => ?_) (fun g t => ?_) h
  · exact keepsMem_bind keepsMem_get fun _ => keepsMem_lift_bind fun _ => keepsMem_capture _ t
  · refine keepsMem_bind (keepsMem_awaitBarriers g t) fun _ => keepsMem_bind keepsMem_get fun _ => keepsMem_lift_bind fun a => ?_
    exact keepsMem_bind (keepsMem_loadAddr _ a 4) fun _ => keepsMem_ite (keepsMem_pure _) (keepsMem_throw _)

theorem execWaitAWake_memOk (thread : Nat) (s : State) (h : s.memOk) : Next State.memOk (execWaitAWake thread s) := by
  unfold execWaitAWake
  split
  · exact h
  · split
    · split
      · split
        · extract_lets v asleep mayRead
          split
          · exact h
          · exact h
        · exact h
      · exact h
    · exact h

theorem keepsMem_gateAddr (g : Gated) (t : Thread) (p : Fin 32) (al : Nat) : KeepsMem (gateAddr g t p al) := by
  refine keepsMem_guard (keepsMem_lift_bind fun a => keepsMem_bind (keepsMem_resolveRmw t a) fun l => ?_)
  cases l with
  | glob pa c => exact keepsMem_pure _
  | scr r o => exact keepsMem_throw _

theorem keepsMem_gateRead (pa n : Nat) (c : Bool) : KeepsMem (gateRead pa n c) :=
  keepsMem_read fun s h => keepsMem_bind (keepsMem_set (basinBytes_memOk s pa n c h)) fun _ => keepsMem_pure _

theorem keepsMem_gateWrite (t : Thread) (pa n v : Nat) (c : Bool) : KeepsMem (gateWrite t pa n v c) :=
  keepsMem_modify _ fun s h => physWrite_memOk s _ _ _ _ h

theorem keepsMem_askGate (g : Gated) (t : Thread) (pa : Nat) : KeepsMem (askGate g t pa) :=
  keepsMem_bind keepsMem_get fun _ => keepsMem_askLines _ _

theorem execTake_memOk (d p : Fin 32) (s : State) (h : s.memOk) : Next State.memOk (execTake d p s) := by
  refine runGated_memOk _ _ _ s (keepsMem_capture _) (fun g t => ?_) h
  refine keepsMem_bind (keepsMem_awaitBarriers g t) fun _ => keepsMem_bind (keepsMem_gateAddr g t p 32) fun x => ?_
  obtain ⟨pa, c⟩ := x
  refine keepsMem_bind keepsMem_get fun s => keepsMem_guard (keepsMem_bind (keepsMem_askGate g t pa) fun _ => ?_)
  refine keepsMem_bind (keepsMem_modify _ fun s h => mergeLine_memOk s _ h) fun _ => ?_
  refine keepsMem_bind (keepsMem_gateRead pa 4 c) fun next => keepsMem_bind (keepsMem_gateRead _ 4 c) fun last => ?_
  refine keepsMem_bind (keepsMem_gateRead _ 4 c) fun chunk => keepsMem_bind (keepsMem_gateRead _ 4 c) fun takes => ?_
  refine keepsMem_bind keepsMem_get fun s => ?_
  have hlast : ∀ n, KeepsMem (do
      gateWrite t (pa + 16) 4 (takes + 1) c
      modify fun s => s.dropOwner (.place t.key g.ord)
      return giveResult (giveResult t (pairLo d) (BitVec.ofNat 32 next)) (pairHi d) (BitVec.ofNat 32 n)) := fun n =>
    keepsMem_bind (keepsMem_gateWrite t _ 4 _ c) fun _ =>
      keepsMem_bind (keepsMem_modify _ fun s h => dropOwner_memOk s _ h) fun _ => keepsMem_pure _
  exact keepsMem_ite (keepsMem_bind (keepsMem_gateWrite t pa 4 _ c) fun _ => hlast _) (hlast _)

theorem keepsMem_stragglerWrite (t : Thread) (a v : Nat) : KeepsMem (stragglerWrite t a v) := by
  refine keepsMem_forM (α := Addr × Nat) (fun p => keepsMem_bind (keepsMem_resolve t p.1 true) fun l => ?_) _
  cases l with
  | glob pa c => exact keepsMem_modify _ fun s h => physWrite_memOk s _ _ _ _ h
  | scr r o => exact keepsMem_throw _

theorem keepsMem_stragglerCheck (t : Thread) (a : Nat) : KeepsMem ((addrPieces (.glob a) 8).forM fun p => do
    let _ ← resolve t p.1 true) :=
  keepsMem_forM (α := Addr × Nat) (fun p => keepsMem_bind (keepsMem_resolve t p.1 true) fun _ => keepsMem_pure _) _

theorem keepsMem_barArrive (t : Thread) (pa : Nat) (c : Bool) : KeepsMem (barArrive t pa c) := by
  have hw (a v : Nat) := keepsMem_stragglerWrite t a v
  have hg (a n v : Nat) := keepsMem_gateWrite t a n v c
  have hr (a n : Nat) := keepsMem_gateRead a n c
  refine keepsMem_bind (hr _ _) fun parties => keepsMem_guard ?_
  refine keepsMem_bind (hr _ _) fun k => keepsMem_bind (hr _ _) fun gen => keepsMem_bind (hr _ _) fun recd => ?_
  refine keepsMem_bind keepsMem_get fun s => keepsMem_guard ?_
  refine keepsMem_bind (keepsMem_forM (fun a => keepsMem_stragglerCheck t a) _) fun _ => ?_
  have hrest : KeepsMem (do
      let first ← gateRead (pa + 24) 8 c
      let lag := min 0xFFFFFFFF (s.time.toNat - first)
      stragglerWrite t (recd + 64 + 8 * k) (t.seqid.toNat + lag * 2 ^ 32)
      if k + 1 = parties then
        stragglerWrite t recd (parties + (gen + 1) % 2 ^ 32 * 2 ^ 32)
        stragglerWrite t (recd + 8) first
        stragglerWrite t (recd + 16) s.time.toNat
        stragglerWrite t (recd + 24) (t.seqid.toNat + lag * 2 ^ 32)
        [32, 40, 48, 56].forM fun o => stragglerWrite t (recd + o) 0
        gateWrite t (pa + 8) 4 (gen + 1) c
        gateWrite t (pa + 4) 4 0 c
        let wake (e : Thread) : Thread :=
          if e.bar = some (pa, false) then
            { e with bar := some (pa, true), flow := if e.run = .issuing then .normal else e.flow } else e
        modify fun s => { s with threads := s.threads.map fun e => (e.1, wake e.2) }
        return true
      else
        gateWrite t (pa + 4) 4 (k + 1) c
        return false) := by
    refine keepsMem_bind (hr _ _) fun first => keepsMem_bind (hw _ _) fun _ => keepsMem_ite ?_ ?_
    · refine keepsMem_bind (hw _ _) fun _ => keepsMem_bind (hw _ _) fun _ => keepsMem_bind (hw _ _) fun _ => ?_
      refine keepsMem_bind (hw _ _) fun _ => keepsMem_bind (keepsMem_forM (fun o => hw _ _) _) fun _ => ?_
      refine keepsMem_bind (hg _ _ _) fun _ => keepsMem_bind (hg _ _ _) fun _ => ?_
      exact keepsMem_bind (keepsMem_modify _ fun _ h => h) fun _ => keepsMem_pure _
    · exact keepsMem_bind (hg _ _ _) fun _ => keepsMem_pure _
  exact keepsMem_ite (keepsMem_bind (hg _ _ _) fun _ => hrest) hrest

theorem execBar_memOk (p : Fin 32) (s : State) (h : s.memOk) : Next State.memOk (execBar p s) := by
  unfold execBar
  split
  · exact h
  · rename_i t0 _
    split
    · exact runGated_memOk _ _ _ s (keepsMem_capture _) (fun _ _ => keepsMem_pure _) h
    · exact h
    · split
      · exact raiseTrap_memOk _ _ _ _ _ h
      · rename_i g rest _ _ _ _
        extract_lets f
        have hf : KeepsMem f := by
          refine keepsMem_bind (keepsMem_awaitBarriers g t0) fun _ => keepsMem_bind (keepsMem_gateAddr g t0 p 64) fun x => ?_
          refine keepsMem_bind (keepsMem_askGate g t0 x.1) fun _ => keepsMem_bind (keepsMem_gateRead x.1 4 x.2) fun _ => ?_
          refine keepsMem_guard (keepsMem_bind keepsMem_get fun _ => keepsMem_guard ?_)
          exact keepsMem_bind (keepsMem_barArrive t0 x.1 x.2) fun _ => keepsMem_pure _
        have hr := hf s h
        split
        all_goals
          rename_i he
          rw [he] at hr
        · exact stopAt_memOk _ _ _ _ (keepPorts_memOk s _ h)
        · exact stopAt_memOk _ _ _ _ hr
        · exact setThread_memOk _ _ (dropOwner_memOk _ _ hr)
    · exact runGated_memOk _ _ _ s (keepsMem_capture _) (fun _ _ => keepsMem_pure _) h

/-! ## Probes, releases and page requests (R73 to R83) -/

@[simp] theorem noteWalk_mem (s : State) (tile pasid page : Nat) : (noteWalk s tile pasid page).mem = s.mem := by
  unfold noteWalk
  split
  · exact noteMalformed_mem ..
  · rfl
  · rfl

theorem noteWalks_memOk (s : State) (tile pasid : Nat) (ps : List Nat) (h : s.memOk) :
    (ps.foldl (fun s p => noteWalk s tile pasid p) s).memOk :=
  foldl_keeps State.memOk _ (fun s p hs => memOk_of_mem hs (noteWalk_mem s tile pasid p)) ps s h

theorem loadTlb_memOk (s : State) (tile pasid page : Nat) (h : s.memOk) : (loadTlb s tile pasid page).memOk := by
  unfold loadTlb
  split
  · exact setFrameAccessed_memOk _ _ (setPteBit_memOk _ _ _ h)
  · exact h

theorem keepsMem_probePin (t : Thread) (kind : Nat) (pages : List Nat) : KeepsMem (probePin t kind pages) := by
  refine keepsMem_read fun s h => ?_
  refine keepsMem_ite (keepsMem_pure _) ?_
  dsimp only
  split
  · exact keepsMem_pure _
  · rename_i s' hp
    have h' : s'.memOk := pinFrames_memOk _ s' _ _ _ (noteHole_memOk s _ h) hp
    refine keepsMem_bind (keepsMem_set ?_) fun _ => keepsMem_pure _
    exact foldl_keeps State.memOk _ (fun s p hs => loadTlb_memOk s _ _ p hs) _ _ h'

theorem keepsMem_probeStep (t : Thread) (va len kind : Nat) : KeepsMem (probeStep t va len kind) := by
  refine keepsMem_ite (keepsMem_pure _) (keepsMem_ite (keepsMem_pure _) ?_)
  dsimp only
  split
  · exact keepsMem_pure _
  · refine keepsMem_ite (keepsMem_pure _) (keepsMem_read fun s h => keepsMem_ite ?_ ?_)
    · exact keepsMem_bind (keepsMem_set (noteWalks_memOk s _ _ _ h)) fun _ => keepsMem_pure _
    · exact keepsMem_bind (keepsMem_probePin _ _ _) fun _ => keepsMem_pure _
  · refine keepsMem_read fun s h => ?_
    split
    · exact keepsMem_bind (keepsMem_set (memOk_of_mem h (noteWalk_mem ..))) fun _ => keepsMem_pure _
    · refine keepsMem_ite (keepsMem_pure _) ?_
      split
      · exact keepsMem_bind (keepsMem_set (memOk_of_mem h (noteWalk_mem ..))) fun _ => keepsMem_pure _
      · split
        · exact keepsMem_bind (keepsMem_probePin _ _ _) fun _ => keepsMem_pure _
        · refine keepsMem_guard ?_
          split
          · exact keepsMem_pure _
          · exact keepsMem_pure _

theorem execProbe_memOk (d : Option (Fin 64)) (p : Fin 32) (b : Fin 64) (kind : BitVec 2) (s : State) (h : s.memOk) :
    Next State.memOk (execProbe d p b kind s) := by
  unfold execProbe
  split
  · exact h
  · rename_i t0 _
    split
    · rename_i g rest _ _
      have hr := keepsMem_probeStep t0 (pairVal g.regs p).toNat (g.regs.s[b]).toNat kind.toNat s h
      split
      all_goals
        rename_i he
        rw [he] at hr
      · exact stopAt_memOk _ _ _ _ hr
      · exact hr
      · exact runGated_memOk _ _ _ _ (keepsMem_capture _) (fun _ _ => keepsMem_pure _) (setThread_memOk _ _ hr)
    · exact runGated_memOk _ _ _ s (keepsMem_capture _) (fun _ _ => keepsMem_pure _) h

theorem execRelease_memOk (p : Fin 32) (b : Fin 64) (s : State) (h : s.memOk) : Next State.memOk (execRelease p b s) := by
  refine runGated_memOk _ _ _ s (keepsMem_capture _) (fun g t => ?_) h
  refine keepsMem_bind keepsMem_get fun s => keepsMem_guard (keepsMem_ite (keepsMem_pure _) ?_)
  refine keepsMem_bind (keepsMem_modify _ fun s h => ?_) fun _ => keepsMem_pure _
  refine foldl_keeps State.memOk _ (fun s f hs => ?_) _ s h
  split
  · exact unpinFrame_memOk _ _ _ _ hs
  · exact hs

theorem sendPageRequest_memOk (s : State) (r : PageReq) (h : s.memOk) : (sendPageRequest s r).memOk := by
  unfold sendPageRequest
  extract_lets tail a v s1 ctl
  have h1 : s1.memOk := homeWrite_memOk _ _ _ _ (noteHole_memOk s a h)
  clear_value s1
  exact h1

theorem execPageRequest_memOk (thread : Nat) (s : State) (h : s.memOk) : Next State.memOk (execPageRequest thread s) := by
  unfold execPageRequest
  split
  · exact h
  · split
    · split
      · extract_lets pasid va len found missing waiting
        clear_value missing
        split
        · exact h
        · split
          · exact h
          · split
            · exact h
            · exact setThread_memOk _ _ (sendPageRequest_memOk _ _ h)
      · exact h
    · exact h

theorem answerRequest_mem (s : State) (v : W64) : (answerRequest s v).mem = s.mem := by
  unfold answerRequest
  extract_lets seq st st'
  split
  · rfl
  · rfl

theorem execPrans_memOk (v : W64) (s : State) (h : s.memOk) : Next State.memOk (execPrans v s) :=
  next_memOk (memOk_of_mem h (answerRequest_mem { s with basin := { s.basin with prans := v } } v))

end Sys2Proof.Machine
end

section
/-! SUPPORT. Memory keeps its canonical form: placement and the ends of operators, the pond, the contexts and the code
objects (files 07 and 09; log entry 1; O60). -/

namespace Sys2Proof.Machine

/-! ## Placement (R341 to R345) -/

theorem launch_mem (s : State) (r : Rec) (prio : Nat) (pond : Option (Fin 4)) (places : List (Nat × List (Fin 4))) :
    (launch s r prio pond places).mem = s.mem := by
  unfold launch
  split
  · rfl
  · rfl

theorem passOver_mem (s : State) : (passOver s).mem = s.mem := by
  unfold passOver
  split
  · rfl
  · split
    · rfl
    · split
      · rfl
      · split
        · rfl
        · rfl

theorem noteStarted_mem (s : State) (r : Rec) : (noteStarted s r).mem = s.mem := by
  unfold noteStarted
  extract_lets q
  split
  · rfl
  · rfl

theorem setHeadSince_memOk {s : State} (x : Option (Nat × Nat)) (h : s.memOk) : State.memOk { s with headSince := x } := h

theorem execRecordPlacement_memOk (r : Rect) (s : State) (h : s.memOk) : Next State.memOk (execRecordPlacement r s) := by
  unfold execRecordPlacement
  split
  · exact h
  · split
    · exact h
    · split
      · exact h
      · extract_lets s0 op s1 s2
        refine frontSettle_memOk _ (setHeadSince_memOk _ (memOk_of_mem h ?_))
        rw [noteStarted_mem]
        exact (launch_mem ..).trans (passOver_mem s)

theorem execChainSuccessorStart_memOk (slot : Nat) (index : W32) (s : State) (h : s.memOk) :
    Next State.memOk (execChainSuccessorStart slot index s) := by
  unfold execChainSuccessorStart
  split
  · exact h
  · split
    · exact h
    · rename_i old o _
      split
      · exact h
      · extract_lets places s1
        have h1 : s1.memOk := dropOperator_memOk s old h
        clear_value s1
        split
        · exact h
        · refine frontSettle_memOk _ (memOk_of_mem (setRec_memOk _ (memOk_of_mem h1 ?_)) (noteStarted_mem ..))
          exact launch_mem ..

/-! ## Ends of operators (R345, R363 to R366) -/

theorem keepsMem_releaseTile (tile otk : Nat) : KeepsMem (releaseTile tile otk) := by
  refine keepsMem_bind keepsMem_get fun s => keepsMem_bind keepsMem_get fun s => keepsMem_bind (keepsMem_askLines _ _) fun _ => ?_
  refine keepsMem_read fun s h => keepsMem_bind (keepsMem_set (memOk_of_mem ?_ (dropSent_mem _ _ _))) fun _ => keepsMem_pure _
  exact writeBackAll_fstOk s tile _ h

theorem keepsMem_releaseWrites (op : Nat) (back : Bool) : KeepsMem (releaseWrites op back) := by
  rw [releaseWrites]
  cases back with
  | false => exact keepsMem_pure _
  | true =>
    refine keepsMem_bind keepsMem_get fun s => ?_
    dsimp only
    generalize (List.map (fun e => (e.2.tile, e.2.ot)) (s.threadsOf op)).eraseDups = ts
    refine keepsMem_bind (keepsMem_mapM (f := fun x : Nat × Nat => releaseTile x.1 x.2) (fun x => ?_) ts) fun b => ?_
    · exact keepsMem_releaseTile _ _
    · exact keepsMem_pure _

theorem retireOperator_memOk (s : State) (op : Nat) (o : Operator) (status : Nat) (h : s.memOk) :
    (retireOperator s op o status).memOk := by
  unfold retireOperator
  extract_lets exit
  split
  · exact frontSettle_memOk _ (dropOperator_memOk s op h)
  · extract_lets keep s1
    have h1 : s1.memOk := by
      unfold s1
      split
      · exact dropPins_memOk _ op (cancelFlumes_memOk _ _ (memOk_of_mem h (dropAcc_mem s op)))
      · exact dropOperator_memOk s op h
    exact frontSettle_memOk _ (endRecord_memOk _ _ _ h1)

theorem execOperatorCompletion_memOk (op : Nat) (s : State) (h : s.memOk) : Next State.memOk (execOperatorCompletion op s) := by
  unfold execOperatorCompletion
  split
  · exact h
  · rename_i o _
    split
    · exact h
    · extract_lets status
      have hr := keepsMem_releaseWrites op (ctxField s o.ctx 367 364 = 1 || ctxField s o.ctx 367 364 = 2) s h
      split
      all_goals
        rename_i he
        rw [he] at hr
      · exact retireOperator_memOk _ _ _ _ hr
      · split
        · exact settleTrap_memOk _ _ (raiseTrap_memOk _ _ _ _ _ hr)
        · exact hr
      · exact keepPorts_memOk s _ h

theorem execPreemption_memOk (victims : List Nat) (s : State) (h : s.memOk) : Next State.memOk (execPreemption victims s) := by
  unfold execPreemption
  split
  · exact h
  · split
    · exact h
    · extract_lets stop s1 may away mark s2
      split
      · exact h
      · split
        · exact h
        · exact h

theorem spillFails_someOk (s : State) (op : Nat) (h : s.memOk) : SomeOk (spillFails s op) := by
  unfold spillFails
  split
  · extract_lets s1
    refine someOk_some ?_
    split
    · exact raiseTrap_memOk _ _ _ _ _ h
    · exact h
  · exact someOk_none

theorem setThreads_memOk {s : State} (ts : Map Thread) (h : s.memOk) : State.memOk { s with threads := ts } := h

theorem execSwitchOut_memOk (op : Nat) (s : State) (h : s.memOk) : Next State.memOk (execSwitchOut op s) := by
  have hf := spillFails_someOk s op h
  unfold execSwitchOut
  split
  · exact h
  · split
    · exact h
    · split
      · exact h
      · split
        · exact h
        · split
          · rename_i he
            exact hf _ he
          · exact spillNow_memOk _ _ (setThreads_memOk _ h)

theorem startIdles_memOk (s : State) (tiles : List Nat) (h : s.memOk) : (tiles.foldl startIdle s).memOk :=
  foldl_keeps State.memOk _ (fun s tile hs => memOk_of_mem hs (startIdle_mem s tile)) tiles s h

theorem resumeOn_memOk (s : State) (op : Nat) (o : Operator) (places : List (Nat × List (Fin 4))) (h : s.memOk) :
    (resumeOn s op o places).memOk := by
  unfold resumeOn
  extract_lets s1
  have h1 : s1.memOk := startIdles_memOk s _ h
  clear_value s1
  exact h1

theorem execOperatorResume_memOk (op : Nat) (r : Rect) (s : State) (h : s.memOk) :
    Next State.memOk (execOperatorResume op r s) := by
  have hf := spillFails_someOk s op h
  unfold execOperatorResume
  split
  · exact h
  · split
    · exact h
    · split
      · rename_i he
        exact hf _ he
      · extract_lets z own s1 s2
        split
        · exact resumeOn_memOk _ _ _ _ h
        · split
          · exact resumeOn_memOk _ _ _ _ (spillRest_memOk s1 op _ h)
          · exact h

theorem execPreemptionDeadline_memOk (thread : Nat) (s : State) (h : s.memOk) :
    Next State.memOk (execPreemptionDeadline thread s) := by
  unfold execPreemptionDeadline
  split
  · exact h
  · split
    · exact raiseTrap_memOk _ _ _ _ _ h
    · exact h

/-! ## The pond (R351 to R361) -/

theorem endPond_memOk {s : State} (i : Nat) (p : Pond) (back : List Nat) (h : s.memOk) : (endPond s i p back).memOk := h

theorem setBasin_memOk {s : State} (b : Basin) (h : s.memOk) : State.memOk { s with basin := b } := h

theorem execPondRunStart_memOk (run : Fin 4) (slot : Nat) (r : Rect) (s : State) (h : s.memOk) :
    Next State.memOk (execPondRunStart run slot r s) := by
  unfold execPondRunStart
  extract_lets q op
  split
  · exact h
  · split
    · exact h
    · rename_i x as _
      extract_lets z s1 p
      have h1 : s1.memOk := memOk_of_mem h (launch_mem ..)
      clear_value s1
      split
      · exact h
      · exact h1

theorem execPondRunStop_memOk (run : Fin 4) (s : State) (h : s.memOk) : Next State.memOk (execPondRunStop run s) := by
  unfold execPondRunStop
  split
  · exact h
  · split
    · exact h
    · exact frontSettle_memOk _ (setBasin_memOk _ (dropOperator_memOk _ _ (endPond_memOk _ _ _ h)))

theorem execPondRunClaimable_memOk (run : Fin 4) (s : State) (h : s.memOk) : Next State.memOk (execPondRunClaimable run s) := by
  unfold execPondRunClaimable
  split
  · exact h
  · rename_i p _
    split
    · exact h
    · split
      · exact h
      · have hr := keepsMem_releaseWrites p.op true s h
        split
        all_goals
          rename_i he
          rw [he] at hr
        · split
          · exact hr
          · exact hr
        · exact keepPorts_memOk s _ h

theorem refreshLines_memOk (s : State) (p : Pond) (page frame old : Nat) (h : s.memOk) :
    (refreshLines s p page frame old).memOk := by
  unfold refreshLines
  generalize List.range 1024 = is
  refine foldl_keeps State.memOk _ (fun s i hs => ?_) _ s h
  exact basinPut_memOk _ _ _ _ (basinBytes_memOk s (old + 64 * i) 64 true hs)

theorem cleanLines_memOk (s : State) (ls : List Nat) (h : s.memOk) :
    (ls.foldl (fun s l => dropLine (writeBackLine (mergeLine s l) l) l) s).memOk :=
  foldl_keeps State.memOk _ (fun s l hs => cleanLine_memOk s l hs) ls s h

theorem claimPage_memOk (s : State) (pasid : Nat) (p : Pond) (page frame : Nat) (h : s.memOk) :
    (claimPage s pasid p page frame).memOk := by
  have hn : ∀ old, (noteFrame s old).memOk := fun old => memOk_of_mem h (noteFrame_mem s old)
  unfold claimPage
  split
  · extract_lets old s1
    have h1 : s1.memOk := copyFrame_memOk _ _ _ _ (refreshLines_memOk _ _ _ _ _ (hn old))
    exact memOk_of_mem (homeWrite_memOk _ _ _ _ h1) (noteWordIn_mem ..)
  · extract_lets old s1 s2 s3
    have h2 : s2.memOk := cleanLines_memOk _ _ (refreshLines_memOk _ _ _ _ _ (hn old))
    have h3 : s3.memOk := homeWrite_memOk _ _ _ _ h2
    clear_value s3
    have h4 := moveFrame_memOk s3 old frame h3
    generalize moveFrame s3 old frame = s4 at h4
    refine memOk_of_mem h4 ?_
    rw [noteWordIn_mem, dropTlb_mem]
  · exact h

theorem execPondClaim_memOk (run : Fin 4) (s : State) (h : s.memOk) : Next State.memOk (execPondClaim run s) := by
  unfold execPondClaim
  split
  · exact h
  · rename_i p _
    split
    · rename_i o r _ _
      split
      · exact h
      · extract_lets real s1 s2 s3
        have h1 : s1.memOk := foldl_keeps State.memOk _ (fun s e hs => claimPage_memOk s o.pasid p e.1 e.2 hs) _ s h
        have h2 : s2.memOk := dropOperator_memOk _ _ (endPond_memOk _ _ _ h1)
        refine frontSettle_memOk _ (endRecord_memOk _ _ _ (memOk_of_mem (setBasin_memOk _ h2) (noteStarted_mem ..)))
    · exact h

theorem writePrctl_mem (s : State) (v : Nat) : (writePrctl s v).mem = s.mem := by
  unfold writePrctl
  extract_lets moved s1
  split
  · rfl
  · rfl

theorem execPrctl_memOk (v : W64) (s : State) (h : s.memOk) : Next State.memOk (execPrctl v s) :=
  next_memOk (memOk_of_mem h (writePrctl_mem s v.toNat))

/-! ## Contexts (R396, R402 to R406) -/

theorem ctxDone_memOk {s : State} (n : Nat) (h : s.memOk) : (ctxDone s n).memOk := h

theorem setCtxState_memOk (s : State) (ctx v : Nat) (h : s.memOk) : (setCtxState s ctx v).memOk :=
  setCtxField_memOk s ctx 367 364 v h

@[simp] theorem stopCtxPonds_mem (s : State) (ctx : Nat) : (stopCtxPonds s ctx).mem = s.mem := rfl

theorem ctxCreate_memOk (s : State) (ctx : Nat) (h : s.memOk) : (ctxCreate s ctx).memOk := by
  unfold ctxCreate
  split
  · exact h
  · split
    · exact h
    · exact ctxDone_memOk 0 (setCtxState_memOk s ctx 1 h)

theorem ctxKill_memOk (s : State) (ctx : Nat) (h : s.memOk) : (ctxKill s ctx).memOk := by
  unfold ctxKill
  split
  · exact h
  · exact setBasin_memOk _ (frontSettle_memOk _ (killContext_memOk s ctx none h))

theorem dropReserved_memOk (s : State) (ctx : Nat) (h : s.memOk) : (dropReserved s ctx).memOk :=
  foldl_keeps State.memOk _ (fun s op hs => dropOperator_memOk s op hs) _ s h

theorem ctxDestroy_memOk (s : State) (ctx : Nat) (h : s.memOk) : (ctxDestroy s ctx).memOk := by
  unfold ctxDestroy
  split
  · refine ctxDone_memOk 0 (setCtxState_memOk _ ctx 0 (dropReserved_memOk _ ctx ?_))
    exact memOk_of_mem h (stopCtxPonds_mem s ctx)
  · exact h

theorem ctxResume_mem (s : State) (ctx : Option Nat) (slot : Nat) (index : W32) : (ctxResume s ctx slot index).mem = s.mem := by
  unfold ctxResume
  split
  · rfl
  · exact passOver_mem _

theorem ctxEnd_mem (s : State) (ctx : Option Nat) (slot : Nat) (index : W32) : (ctxEnd s ctx slot index).mem = s.mem := by
  unfold ctxEnd
  split
  · rfl
  · rfl

theorem setOps_memOk {s : State} (ops : Map Operator) (h : s.memOk) : State.memOk { s with ops := ops } := h

theorem ctxMigrate_memOk (s : State) (ctx : Nat) (h : s.memOk) : (ctxMigrate s ctx).memOk := by
  unfold ctxMigrate
  split
  · exact h
  · extract_lets mark
    exact ctxDone_memOk 0 (setCtxState_memOk _ ctx 2 (setOps_memOk _ (memOk_of_mem h (stopCtxPonds_mem s ctx))))

theorem ctxCommand_memOk (s : State) (v : W64) (h : s.memOk) : (ctxCommand s v).memOk := by
  unfold ctxCommand
  extract_lets b s1 ctx slot index b1 s2
  have h2 : s2.memOk := noteHole_memOk s1 _ h
  clear_value s2
  split
  · exact h
  · split
    · exact ctxCreate_memOk s2 ctx h2
    · exact ctxKill_memOk s2 ctx h2
    · exact ctxDestroy_memOk s2 ctx h2
    · exact memOk_of_mem h2 (ctxResume_mem ..)
    · exact memOk_of_mem h2 (ctxEnd_mem ..)
    · exact ctxMigrate_memOk s2 ctx h2
    · exact h2

theorem runCommands_memOk (n : Nat) (s : State) (h : s.memOk) : (runCommands n s).memOk := by
  induction n generalizing s with
  | zero => exact h
  | succ n ih =>
    unfold runCommands
    split
    · exact h
    · split
      · exact h
      · exact ih _ (ctxCommand_memOk _ _ h)

theorem execKillComplete_memOk (s : State) (h : s.memOk) : Next State.memOk (execKillComplete s) := by
  unfold execKillComplete
  split
  · exact h
  · extract_lets s1 s2
    have h1 : s1.memOk := frontSettle_memOk s h
    clear_value s1
    split
    · exact h1
    · exact runCommands_memOk _ _ h1

theorem abandonOp_memOk (s : State) (e : Nat × Operator) (h : s.memOk) : (abandonOp s e).memOk := by
  have h1 := dropOperator_memOk s e.1 h
  unfold abandonOp
  extract_lets s1
  split
  · exact setRec_memOk _ h1
  · exact h1

theorem setRecs_memOk {s : State} (rs : Map Rec) (h : s.memOk) : State.memOk { s with recs := rs } := h

theorem rewindQueue_memOk (s : State) (e : Nat × Queue) (h : s.memOk) : (rewindQueue s e).memOk := by
  unfold rewindQueue
  extract_lets n s1
  have h1 : s1.memOk := setRecs_memOk _ h
  have hw := basinWrite_someOk s1 e.2.pasid (e.2.uva + 24) (leBytes 4 n.toNat) h1
  split
  · rename_i he
    exact putQueue_memOk _ _ _ (hw _ he)
  · exact putQueue_memOk _ _ _ h1

theorem execMigrationCheckpoint_memOk (ctx : Nat) (s : State) (h : s.memOk) :
    Next State.memOk (execMigrationCheckpoint ctx s) := by
  unfold execMigrationCheckpoint
  split
  · exact h
  · extract_lets s1 s2
    have h1 : s1.memOk := foldl_keeps State.memOk _ (fun s e hs => abandonOp_memOk s e hs) _ s h
    clear_value s1
    have h2 : s2.memOk := foldl_keeps State.memOk _ (fun s e hs => rewindQueue_memOk s e hs) _ _ (dropReserved_memOk s1 ctx h1)
    split
    · exact h1
    · exact setCtxState_memOk s2 ctx 3 h2

/-! ## Code objects (R375 to R381) -/

theorem loaderSays_memOk {s : State} (code count : Nat) (h : s.memOk) : (loaderSays s code count).memOk := h

theorem setObjsPonds_memOk {s : State} (objs : Map CodeObj) (ps : Map Pond) (h : s.memOk) :
    State.memOk { s with objs := objs, ponds := ps } := h

theorem removeObject_memOk (s : State) (o : CodeObj) (h : s.memOk) : (removeObject s o).memOk := by
  unfold removeObject
  exact setObjsPonds_memOk _ _ (foldl_keeps State.memOk _ (fun s f hs => setFramePins_memOk s _ _ hs) _ s h)

theorem loaderPut_memOk (s : State) (pasid va : Nat) (data : List Byte) (h : s.memOk) : (loaderPut s pasid va data).memOk := by
  refine foldl_keeps State.memOk _ (fun s q hs => ?_) _ s h
  split
  · exact basinPut_memOk _ _ _ _ hs
  · exact hs

theorem pinAll_memOk (s : State) (fs : List Nat) (h : s.memOk) : (pinAll s fs).memOk :=
  foldl_keeps State.memOk _ (fun s _ hs => setFramePins_memOk s _ _ hs) fs s h

theorem setObjs_memOk {s : State} (objs : Map CodeObj) (h : s.memOk) : State.memOk { s with objs := objs } := h

theorem execCodeObjectLoad_memOk (img : ObjImage) (number : Nat) (s : State) (h : s.memOk) :
    Next State.memOk (execCodeObjectLoad img number s) := by
  unfold execCodeObjectLoad
  extract_lets native o
  split
  · exact h
  · split
    · exact h
    · split
      · exact h
      · split
        · exact h
        · split
          · exact h
          · split
            · exact h
            · refine loaderSays_memOk _ _ (setObjs_memOk _ ?_)
              exact loaderPut_memOk _ _ _ _ (loaderPut_memOk _ _ _ _ (loaderPut_memOk _ _ _ _ (loaderPut_memOk _ _ _ _
                (pinAll_memOk s _ h))))

theorem execCodeObjectUnload_memOk (pasid number : Nat) (s : State) (h : s.memOk) :
    Next State.memOk (execCodeObjectUnload pasid number s) := by
  unfold execCodeObjectUnload
  split
  · exact h
  · split
    · exact loaderSays_memOk _ _ (removeObject_memOk s _ h)
    · exact h

theorem execCodeObjectQuery_memOk (pasid number : Nat) (s : State) (h : s.memOk) :
    Next State.memOk (execCodeObjectQuery pasid number s) := by
  unfold execCodeObjectQuery
  split
  · exact h
  · exact h

theorem execCodeObjectRemoval_memOk (pasid number : Nat) (s : State) (h : s.memOk) :
    Next State.memOk (execCodeObjectRemoval pasid number s) := by
  unfold execCodeObjectRemoval
  split
  · exact h
  · split
    · exact loaderSays_memOk _ _ (removeObject_memOk s _ h)
    · exact h

theorem patchTable_memOk (o : CodeObj) (u bundle : Nat) (s : State) (off : Nat) (h : s.memOk) :
    (patchTable o u bundle s off).memOk := by
  refine foldl_keeps State.memOk _ (fun s i hs => ?_) _ s h
  dsimp only
  split
  · exact loaderPut_memOk _ _ _ _ hs
  · exact hs

theorem execBlockTranslation_memOk (pasid number : Nat) (label : BitVec 16) (bundles : List W64) (s : State) (h : s.memOk) :
    Next State.memOk (execBlockTranslation pasid number label bundles s) := by
  unfold execBlockTranslation
  split
  · exact h
  · extract_lets bs
    split
    · exact h
    · extract_lets at_
      split
      · exact h
      · split
        · refine setObjs_memOk _ ?_
          refine foldl_keeps State.memOk _ (fun s _ hs => patchTable_memOk _ _ _ s _ hs) _ _ ?_
          exact loaderPut_memOk _ _ _ _ (pinAll_memOk s _ h)
        · exact h

end Sys2Proof.Machine
end

section
/-! SUPPORT. Memory keeps its canonical form: retirement, invalidations, the sweepers, the fabric, the service port and the
accesses of the host (files 02 and 08 to 10; log entry 1; O60). -/

namespace Sys2Proof.Machine

/-! ## Retirement, invalidations and the sweepers (R65, R71, R84 to R87, R328, R335, R395) -/

@[simp] theorem logOpen_mem (s : State) (kind place unit : Nat) : (logOpen s kind place unit).mem = s.mem := rfl

theorem logOpen_memOk {s : State} (kind place unit : Nat) (h : s.memOk) : (logOpen s kind place unit).memOk := h

theorem setSpeed_memOk {s : State} (tile v : Nat) (h : s.memOk) : (setSpeed s tile v).memOk := h

theorem retireOp_memOk (tile : Nat) (cs : List Culprit) (spare : Bool) (s : State) (e : Nat × Operator) (h : s.memOk) :
    (retireOp tile cs spare s e).memOk := by
  unfold retireOp
  split
  rename_i op o
  extract_lets mine atFault restart s1 s2 pick ts
  have h1 : s1.memOk := dropOperator_memOk s op h
  have h2 : s2.memOk := h
  clear_value s1 ts pick s2
  split
  · exact h
  · split
    · split
      · exact setRec_memOk _ h1
      · exact h1
    · split
      · exact raiseTrapFor_memOk _ _ _ _ _ _ h2
      · exact h2

theorem dropReservedOn_memOk (s : State) (tile : Nat) (h : s.memOk) : (dropReservedOn s tile).memOk :=
  foldl_keeps State.memOk _ (fun s op hs => dropOperator_memOk s op hs) _ s h

theorem setTile_memOk {s : State} (k : Nat) (t : Tile) (h : s.memOk) : (s.setTile k t).memOk := h

theorem execTileRetirement_memOk (tile : Nat) (s : State) (h : s.memOk) : Next State.memOk (execTileRetirement tile s) := by
  unfold execTileRetirement
  extract_lets tl there spare s1 t1 s2 s3 s4
  have h1 : s1.memOk := foldl_keeps State.memOk _ (fun s e hs => retireOp_memOk tile tl.culprits spare.isSome s e hs) _ _
    (dropReservedOn_memOk s tile h)
  have h3 : s3.memOk := setSpeed_memOk _ _ (setTile_memOk _ _ h1)
  clear_value s3 spare
  have h4 : s4.memOk := by
    unfold s4
    split
    · split
      · exact h3
      · exact setSpeed_memOk _ _ h3
    · exact h3
  clear_value s4
  split
  · exact h
  · exact frontSettle_memOk _ (logOpen_memOk _ _ _ h4)

theorem execRetiredTileTest_memOk (tile : Nat) (passes : Bool) (s : State) (h : s.memOk) :
    Next State.memOk (execRetiredTileTest tile passes s) := by
  unfold execRetiredTileTest
  split
  · exact h
  · split
    · exact h
    · exact logOpen_memOk _ _ _ (setTile_memOk _ _ (setSpeed_memOk _ _ h))

theorem startInvalidation_mem (s : State) (v : W64) : (startInvalidation s v).mem = s.mem := by
  unfold startInvalidation
  extract_lets size pasid kept
  split
  · rfl
  · rfl

theorem execWkinv_memOk (v : W64) (s : State) (h : s.memOk) : Next State.memOk (execWkinv v s) :=
  next_memOk (memOk_of_mem h (startInvalidation_mem s v))

theorem execTlbInvalidationComplete_memOk (s : State) (h : s.memOk) : Next State.memOk (execTlbInvalidationComplete s) := by
  unfold execTlbInvalidationComplete
  split
  · exact h
  · exact h

theorem startDirectory_memOk {s : State} (v : W64) (h : s.memOk) : (startDirectory s v).memOk := by
  rw [startDirectory]
  exact setBasin_memOk _ h

theorem execQdinv_memOk (v : W64) (s : State) (h : s.memOk) : Next State.memOk (execQdinv v s) :=
  next_memOk (startDirectory_memOk v h)

theorem retestWaits_memOk (s : State) (slot : Nat) (h : s.memOk) : (retestWaits s slot).memOk :=
  foldl_keeps State.memOk _ (fun s r hs => testWait_memOk s r hs) _ s h

theorem execDirectoryInvalidationComplete_memOk (s : State) (h : s.memOk) :
    Next State.memOk (execDirectoryInvalidationComplete s) := by
  unfold execDirectoryInvalidationComplete
  split
  · exact h
  · extract_lets s1
    have h1 : s1.memOk :=
      foldl_keeps State.memOk _ (fun s slot hs => retestWaits_memOk _ slot (installQueue_memOk s slot hs)) _ s h
    clear_value s1
    exact frontSettle_memOk _ (setBasin_memOk _ h1)

theorem setFrameAt_memOk (s : State) (stack : Fin 8) (f v : Nat) (h : s.memOk) : (setFrameAt s stack f v).memOk :=
  homeWrite_memOk _ _ 16 v (noteHole_memOk s _ h)

theorem setStack_memOk {s : State} (i : Fin 8) (k : Stack) (h : s.memOk) : (s.setStack i k).memOk := h

theorem setTiles_memOk {s : State} (ts : Map Tile) (h : s.memOk) : State.memOk { s with tiles := ts } := h

theorem clearAccessed_memOk (s : State) (stack : Fin 8) (f : Nat) (h : s.memOk) : (clearAccessed s stack f).memOk := by
  unfold clearAccessed
  extract_lets e s1 s2
  have h1 : s1.memOk := setFrameAt_memOk s stack f _ h
  clear_value s1
  have h2 : s2.memOk := by
    unfold s2
    split
    · exact homeWrite_memOk _ _ _ _ h1
    · exact h1
  clear_value s2
  exact setTiles_memOk _ h2

theorem coldAppend_memOk (s : State) (stack : Fin 8) (f : Nat) (h : s.memOk) : (coldAppend s stack f).memOk :=
  setStack_memOk _ _ (homeWrite_memOk _ _ 4 f (noteHole_memOk _ _ (setFrameAt_memOk s stack f _ h)))

theorem visitFrame_memOk (s : State) (stack : Fin 8) (f : Nat) (h : s.memOk) : (visitFrame s stack f).memOk := by
  unfold visitFrame
  extract_lets e
  split
  · exact h
  · split
    · exact clearAccessed_memOk s stack f h
    · exact coldAppend_memOk s stack f h

theorem execSweeperVisit_memOk (stack : Fin 8) (s : State) (h : s.memOk) : Next State.memOk (execSweeperVisit stack s) := by
  unfold execSweeperVisit
  extract_lets k f s1 k1
  have h1 : s1.memOk := visitFrame_memOk s stack f h
  clear_value s1
  split
  · exact h
  · exact setStack_memOk stack _ h1

theorem leaveFrame_memOk (s : State) (stack : Fin 8) (v : W64) (h : s.memOk) : (leaveFrame s stack v).memOk := by
  unfold leaveFrame
  extract_lets n done f e r
  have hd : ∀ (s : State) (r : Nat), s.memOk → (done s r).memOk := fun s r hs => setStack_memOk stack _ hs
  clear_value done
  split
  · exact hd s 3 h
  · exact hd _ r (setFrameAt_memOk s stack f _ h)

theorem execSwleave_memOk (stack : Fin 8) (v : W64) (s : State) (h : s.memOk) : Next State.memOk (execSwleave stack v s) :=
  next_memOk (leaveFrame_memOk s stack v h)

theorem freeFrame_memOk (s : State) (stack : Fin 8) (v : W64) (h : s.memOk) : (freeFrame s stack v).memOk := by
  unfold freeFrame
  extract_lets n k s1
  split
  · exact h
  · exact setFrameAt_memOk s1 stack n _ h

theorem execSwfree_memOk (stack : Fin 8) (v : W64) (s : State) (h : s.memOk) : Next State.memOk (execSwfree stack v s) :=
  next_memOk (freeFrame_memOk s stack v h)

theorem execChannelSparing_memOk (stack : Fin 8) (channel : Fin 64) (s : State) (h : s.memOk) :
    Next State.memOk (execChannelSparing stack channel s) := by
  unfold execChannelSparing
  extract_lets k
  split
  · split
    · exact h
    · exact h
  · split
    · exact h
    · exact h

/-! ## Rider cores and ports (R386 to R394, R407 to R410) -/

theorem setQueue_memOk {s : State} (qs : Map Queue) (h : s.memOk) : State.memOk { s with queues := qs } := h

theorem rerunPacket_memOk (s : State) (p : Nat × W32) (h : s.memOk) : (rerunPacket s p).memOk := by
  unfold rerunPacket
  extract_lets q s1
  have h1 : s1.memOk := kickQueue_memOk s p.1 q p.2 h
  clear_value s1
  split
  · exact h1
  · exact h

theorem handPackets_memOk (n : Nat) (s : State) (h : s.memOk) : (handPackets n s).memOk := memOk_of_mem h (handPackets_mem n s)

@[simp] theorem takePacket_mem (s : State) (c : Fin 18) (p : Nat × W32) : (takePacket s c p).mem = s.mem := rfl

theorem execRiderCoreFailover_memOk (core : Fin 18) (s : State) (h : s.memOk) :
    Next State.memOk (execRiderCoreFailover core s) := by
  unfold execRiderCoreFailover
  extract_lets r s1 open_
  have h1 : s1.memOk := h
  clear_value s1
  split
  · exact h
  · split
    · exact h1
    · split
      · exact handPackets_memOk _ _ h1
      · extract_lets x s2
        have h2 : s2.memOk := logOpen_memOk _ _ _ h1
        clear_value s2 open_
        refine next_memOk ?_
        split
        · exact frontSettle_memOk _ (rerunPacket_memOk _ _ (memOk_of_mem h2 (takePacket_mem ..)))
        · exact handPackets_memOk _ _ h2

theorem grantFault_memOk (s : State) (core : Fin 18) (h : s.memOk) : (grantFault s core).memOk := by
  unfold grantFault
  extract_lets r s1 s2
  have h1 : s1.memOk := h
  clear_value s1
  have h2 : s2.memOk := by
    unfold s2
    split
    · exact putQueue_memOk _ _ _ h1
    · exact h1
  clear_value s2
  exact handPackets_memOk _ _ h2

theorem execGrantFault_memOk (core : Fin 18) (grant offset size : Nat) (op : RiderOp) (s : State) (h : s.memOk) :
    Next State.memOk (execGrantFault core grant offset size op s) := by
  unfold execGrantFault
  extract_lets r base
  split
  · exact h
  · split
    · split
      · exact h
      · exact h
    · split
      · exact h
      · exact h
    · split
      · have hr : FstOk ((pieces size base size).foldl (fun (p : State × List Byte) q =>
            ((basinBytes p.1 q.1 q.2 true).1, p.2 ++ (basinBytes p.1 q.1 q.2 true).2)) (s, [])) :=
          foldl_keeps FstOk _ (fun p q hp => FstOk.pair _ (basinBytes_memOk p.1 q.1 q.2 true hp)) _ (s, []) h
        exact hr
      · exact grantFault_memOk s core h
    · split
      · exact foldl_keeps State.memOk _ (fun s q hs => basinPut_memOk s _ _ true hs) _ s h
      · exact grantFault_memOk s core h
    · split
      · exact h
      · exact h

theorem execFlitReceive_memOk (port : Fin 18) (flit : FlitIn) (s : State) (h : s.memOk) :
    Next State.memOk (execFlitReceive port flit s) := by
  unfold execFlitReceive
  extract_lets p
  split
  · split
    · exact h
    · exact h
  · split
    · exact h
    · exact h
  · exact h

theorem execFlitReplay_memOk (port : Fin 18) (s : State) (h : s.memOk) : Next State.memOk (execFlitReplay port s) := by
  unfold execFlitReplay
  extract_lets p fails p'
  split
  · exact h
  · exact h

theorem failLane_mem (port : Fin 18) (s : State) (lane : Bool × Nat) : (failLane port s lane).mem = s.mem := by
  unfold failLane
  extract_lets p
  split
  · rfl
  · split
    · rfl
    · rfl

theorem failLane_memOk (port : Fin 18) (s : State) (lane : Bool × Nat) (h : s.memOk) : (failLane port s lane).memOk :=
  memOk_of_mem h (failLane_mem port s lane)

theorem execLaneCheck_memOk (port : Fin 18) (bad : List (Bool × Fin 16)) (s : State) (h : s.memOk) :
    Next State.memOk (execLaneCheck port bad s) := by
  unfold execLaneCheck
  extract_lets s1
  have h1 : s1.memOk := foldl_keeps State.memOk _ (fun s l hs => failLane_memOk port s l hs) _ s h
  clear_value s1
  split
  · exact h
  · exact h1

theorem refillBy_memOk {s : State} (tile n : Nat) (h : s.memOk) : (refillBy s tile n).memOk := h

theorem catchUp_memOk (s : State) (tile : Nat) (h : s.memOk) : (catchUp s tile).memOk := by
  unfold catchUp
  split
  · exact h
  · exact refillBy_memOk _ _ h

theorem refillPorts_memOk (s : State) (h : s.memOk) : (refillPorts s).memOk :=
  foldl_keeps State.memOk _ (fun s t hs => catchUp_memOk s t hs) _ s h

theorem catchUpAll_memOk (s : State) (h : s.memOk) : (catchUpAll s).memOk := by
  unfold catchUpAll
  generalize List.range (Config.tiles + 16) = is
  exact foldl_keeps State.memOk _ (fun s t hs => catchUp_memOk s t hs) is s h

theorem execAllotRefill_memOk (tile : Nat) (s : State) (h : s.memOk) : Next State.memOk (execAllotRefill tile s) := by
  unfold execAllotRefill
  split
  · exact h
  · exact refillBy_memOk _ _ h

theorem sendLine_memOk (s : State) (tile : Nat) (r : PortReq) (h : s.memOk) : (sendLine s tile r).memOk := by
  unfold sendLine
  extract_lets t x leaves t1 s1
  have h1 : s1.memOk := h
  clear_value s1
  split
  · exact physRead_memOk _ _ _ _ _ h1
  · exact h1

theorem execPortSend_memOk (tile : Nat) (s : State) (h : s.memOk) : Next State.memOk (execPortSend tile s) := by
  unfold execPortSend
  extract_lets t
  split
  · exact h
  · split
    · split
      · exact h
      · exact sendLine_memOk s tile _ h
    · exact h

/-! ## Bring-up and heat (R396 to R398) -/

theorem setSvc_memOk {s : State} (x : Service) (h : s.memOk) : State.memOk { s with svc := x } := h

theorem bootStep_mem (old : List (Nat × Nat)) (s : State) (f : Nat × Nat) : (bootStep old s f).mem = s.mem := by
  unfold bootStep
  split
  · rfl
  · extract_lets s1
    split
    · rfl
    · rfl

theorem repairRows_memOk (old : List (Nat × Nat)) (s : State) (h : s.memOk) : (repairRows old s).memOk := by
  unfold repairRows
  split
  · exact h
  · exact foldl_keeps State.memOk _ (fun s r hs => logOpen_memOk _ _ _ (setSvc_memOk _ hs)) _ s h

theorem logTiles_memOk (ts : List Nat) (s : State) (h : s.memOk) :
    (ts.foldl (fun s t => logOpen s 1 (terraceOf t) t) s).memOk := foldl_keeps State.memOk _ (fun _ _ hs => logOpen_memOk _ _ _ hs) ts s h

theorem setSpeedtTiles_memOk {s : State} (sp : Map (BitVec 8)) (ts : Map Tile) (h : s.memOk) :
    State.memOk { s with speedt := sp, tiles := ts } := h

theorem writeSpeeds_memOk (old : List (Nat × Nat)) (units : List (BitVec 6)) (s : State) (h : s.memOk) :
    (writeSpeeds old units s).memOk := by
  rw [writeSpeeds]
  exact setSpeedtTiles_memOk _ _ (logTiles_memOk _ s h)

theorem trainLanes_memOk (old : List (Nat × Nat)) (s : State) (h : s.memOk) : (trainLanes old s).memOk := by
  refine foldl_keeps State.memOk _ (fun s u hs => ?_) _ s h
  dsimp only
  split
  · exact hs
  · exact failLane_memOk _ _ _ hs

theorem startRiders_memOk (old : List (Nat × Nat)) (s : State) (h : s.memOk) : (startRiders old s).memOk := by
  refine foldl_keeps State.memOk _ (fun s u hs => ?_) _ s h
  dsimp only
  split
  · split
    · exact hs
    · exact hs
  · exact hs

theorem bootWork_memOk (old : List (Nat × Nat)) (units : List (BitVec 6)) (code : Nat) (s : State) (h : s.memOk) :
    (bootWork old units code s).memOk := by
  unfold bootWork
  split
  · exact h
  · exact repairRows_memOk old s h
  · exact writeSpeeds_memOk old units s h
  · exact trainLanes_memOk old s h
  · exact startRiders_memOk old s h
  · exact h
  · exact h

theorem execBringUp_memOk (fails : BootFailures) (units : List (BitVec 6)) (s : State) (h : s.memOk) :
    Next State.memOk (execBringUp fails units s) := by
  unfold execBringUp
  split
  · exact h
  · extract_lets r0 s1 v s2 old s3
    have h1 : s1.memOk := by
      unfold s1
      split
      · rfl
      · exact h
    clear_value s1
    have h2 : s2.memOk := setSvc_memOk _ h1
    clear_value s2
    have h3 : s3.memOk := by
      refine foldl_keeps State.memOk _ (fun s c hs => ?_) _ s2 h2
      split
      · exact hs
      · exact foldl_keeps State.memOk _ (fun s f hs => memOk_of_mem hs (bootStep_mem old s f)) _ _ (bootWork_memOk old units c s hs)
    clear_value s3
    split
    · exact h3
    · exact setSvc_memOk _ h3

theorem takeJunction_mem (s : State) (milli : W32) : (takeJunction s milli).mem = s.mem := by
  unfold takeJunction
  extract_lets was s1
  split
  · rfl
  · rfl

theorem setOffSvc_memOk {s : State} (off : Bool) (x : Service) (h : s.memOk) : State.memOk { s with off := off, svc := x } := h

theorem killContexts_memOk (cs : List Nat) (s : State) (h : s.memOk) :
    (cs.foldl (fun s c => frontSettle (killContext s c none)) s).memOk :=
  foldl_keeps State.memOk _ (fun s c hs => frontSettle_memOk _ (killContext_memOk s c none hs)) cs s h

theorem shutDown_memOk (s : State) (h : s.memOk) : (shutDown s).memOk := by
  rw [shutDown]
  exact setOffSvc_memOk _ _ (killContexts_memOk _ s h)

theorem execThermalEvent_memOk (milli : W32) (s : State) (h : s.memOk) : Next State.memOk (execThermalEvent milli s) := by
  have h1 : (takeJunction s milli).memOk := memOk_of_mem h (takeJunction_mem s milli)
  unfold execThermalEvent
  refine next_memOk ?_
  split
  · exact shutDown_memOk _ h1
  · exact h1

theorem execThermalShutdown_memOk (milli : W32) (s : State) (h : s.memOk) : Next State.memOk (execThermalShutdown milli s) := by
  unfold execThermalShutdown
  split
  · exact h
  · exact shutDown_memOk _ (memOk_of_mem h (takeJunction_mem s milli))

/-! ## The service port (R399, R400) -/

theorem respond_memOk {s : State} (conn : Fin 4) (kind : Nat) (seq : W32) (st : Nat) (body : List Byte) (h : s.memOk) :
    (respond s conn kind seq st body).memOk := h

theorem serve_memOk (s : State) (conn : Fin 4) (kind : Nat) (seq : W32) (f : State → Nat × List Byte × State)
    (hf : (f s).2.2.memOk) (h : s.memOk) : Next State.memOk (serve s conn kind seq f) := by
  unfold serve
  split
  · exact respond_memOk _ _ _ _ _ hf
  · exact h

theorem noBody_memOk (body : List Byte) (f : State → List Byte × State) (s : State) (hf : (f s).2.memOk) (h : s.memOk) :
    (noBody body f s).2.2.memOk := by
  unfold noBody
  split
  · exact hf
  · exact h

theorem execServiceConnection_memOk (cert : SvcIn) (s : State) (h : s.memOk) :
    Next State.memOk (execServiceConnection cert s) := by
  unfold execServiceConnection
  split
  · split
    · exact h
    · split
      · exact h
      · exact h
  · split
    · exact h
    · exact serve_memOk s _ _ _ _ h h

theorem execReadBootRecord_memOk (conn : Fin 4) (seq : W32) (body : List (BitVec 8)) (s : State) (h : s.memOk) :
    Next State.memOk (execReadBootRecord conn seq body s) := serve_memOk s _ _ _ _ (noBody_memOk body _ s h h) h

theorem execClearBootRecord_memOk (conn : Fin 4) (seq : W32) (body : List (BitVec 8)) (s : State) (h : s.memOk) :
    Next State.memOk (execClearBootRecord conn seq body s) := serve_memOk s _ _ _ _ (noBody_memOk body _ s h h) h

theorem execReadSpeedTable_memOk (conn : Fin 4) (seq : W32) (body : List (BitVec 8)) (s : State) (h : s.memOk) :
    Next State.memOk (execReadSpeedTable conn seq body s) := serve_memOk s _ _ _ _ (noBody_memOk body _ s h h) h

theorem execReadRlim_memOk (conn : Fin 4) (seq : W32) (body : List (BitVec 8)) (s : State) (h : s.memOk) :
    Next State.memOk (execReadRlim conn seq body s) := serve_memOk s _ _ _ _ (noBody_memOk body _ s h h) h

theorem execReadTelemetry_memOk (conn : Fin 4) (seq : W32) (body : List (BitVec 8)) (s : State) (h : s.memOk) :
    Next State.memOk (execReadTelemetry conn seq body s) := serve_memOk s _ _ _ _ (noBody_memOk body _ s h h) h

theorem execReadServiceLog_memOk (conn : Fin 4) (seq : W32) (body : List (BitVec 8)) (s : State) (h : s.memOk) :
    Next State.memOk (execReadServiceLog conn seq body s) := by
  refine serve_memOk s _ _ _ _ ?_ h
  dsimp only
  split
  · exact h
  · exact h

theorem execBeginFirmwareImage_memOk (conn : Fin 4) (seq : W32) (body : List (BitVec 8)) (s : State) (h : s.memOk) :
    Next State.memOk (execBeginFirmwareImage conn seq body s) := by
  refine serve_memOk s _ _ _ _ ?_ h
  dsimp only
  split
  · exact h
  · split
    · exact h
    · exact h

theorem execFirmwareChunk_memOk (conn : Fin 4) (seq : W32) (body : List (BitVec 8)) (s : State) (h : s.memOk) :
    Next State.memOk (execFirmwareChunk conn seq body s) := by
  refine serve_memOk s _ _ _ _ ?_ h
  dsimp only
  split
  · exact h
  · split
    · exact h
    · exact h

theorem execCommitFirmwareImage_memOk (conn : Fin 4) (seq : W32) (body : List (BitVec 8)) (s : State) (h : s.memOk) :
    Next State.memOk (execCommitFirmwareImage conn seq body s) := by
  refine serve_memOk s _ _ _ _ ?_ h
  dsimp only
  split
  · exact h
  · split
    · exact h
    · split
      · exact h
      · exact h

/-! ## Registers and the accesses of the host (R382 to R385) -/

theorem writeStack_memOk (s : State) (k : Fin 8) (r : Nat) (v : W64) (h : s.memOk) : (writeStack s k r v).memOk := by
  unfold writeStack
  extract_lets x n
  split
  · exact h
  · exact h
  · split
    · exact h
    · exact h
  · exact leaveFrame_memOk s k v h
  · exact freeFrame_memOk s k v h
  · exact h

theorem setTerrace_memOk {s : State} (t : Nat) (x : Terrace) (h : s.memOk) : (setTerrace s t x).memOk := h

theorem setAllot_memOk {s : State} (m : Map (BitVec 32)) (h : s.memOk) : State.memOk { s with allot := m } := h

theorem writeReg_memOk (s : State) (off : Nat) (v : W64) (h : s.memOk) : (writeReg s off v).memOk := by
  unfold writeReg
  extract_lets b
  split
  · exact h
  · exact memOk_of_mem h (startInvalidation_mem s v)
  · exact h
  · exact h
  · exact h
  · exact startDirectory_memOk v h
  · exact h
  · exact ctxCommand_memOk s _ h
  · exact memOk_of_mem h (writePrctl_mem s v.toNat)
  · exact h
  · exact h
  · exact h
  · exact h
  · exact memOk_of_mem h (answerRequest_mem { s with basin := { b with prans := v } } v)
  · split
    · exact setAllot_memOk _ (catchUpAll_memOk s h)
    · split
      · exact h
      · extract_lets x
        split
        · exact h
        · exact h
      · exact writeStack_memOk s _ _ v h
      · exact h

theorem windowWrite_memOk (s : State) (off bytes : Nat) (v : W64) (h : s.memOk) : (windowWrite s off bytes v).memOk := by
  unfold windowWrite
  extract_lets reg old half old'
  split
  · exact h
  · split
    · exact writeReg_memOk s _ v h
    · split
      · exact h
      · exact writeReg_memOk s _ _ h

theorem setL2_memOk {s : State} (m : Map L2Line) (h : s.memOk) : State.memOk { s with l2 := m } := h

theorem hostBytes_fstOk (s : State) (pa n : Nat) (c : Bool) (h : s.memOk) : FstOk (hostBytes s pa n c) := by
  have hb := basinBytes_memOk s pa n c h
  rw [hostBytes]
  split
  rename_i he
  rw [he] at hb
  split
  · exact hb
  · exact hb

theorem setHostSeen_memOk {s : State} (bs : List Byte) (h : s.memOk) : State.memOk { s with hostSeen := bs } := h

theorem hostWord_memOk (s : State) (pasid va : Nat) (write wide : Bool) (f : State → Nat → Nat → State × Option Nat × Nat)
    (hf : ∀ s pa m, s.memOk → (f s pa m).1.memOk) (h : s.memOk) : (hostWord s pasid va write wide f).memOk := by
  unfold hostWord
  extract_lets n
  split
  · exact h
  · split
    · exact h
    · rename_i pa c _
      have hb := hostBytes_fstOk s pa n c h
      split
      rename_i s1 bs he
      have hv := hf s1 pa (leOf bs) (hb.of_eq he)
      split
      rename_i s2 v out he
      rw [he] at hv
      refine setHostSeen_memOk _ ?_
      split
      · exact basinPut_memOk _ _ _ _ hv
      · exact hv

theorem hostAccess_memOk (s : State) (core pasid va : Nat) (op : HostOp) (h : s.memOk) :
    (hostAccess s core pasid va op).memOk := by
  unfold hostAccess
  split
  · exact h
  · exact hostWord_memOk s _ _ _ _ _ (fun s pa m hs => hs) h
  · exact hostWord_memOk s _ _ _ _ _ (fun s pa m hs => hs) h
  · refine hostWord_memOk s _ _ _ _ _ (fun s pa m hs => ?_) h
    split
    · exact hs
    · exact hs
  · rename_i n
    extract_lets r
    have hr : FstOk r := by
      refine foldl_keeps FstOk _ (fun p q hp => ?_) (pieces n va n) (s, some []) h
      split
      · rename_i acc pa c _ _
        exact FstOk.pair _ (hostBytes_fstOk p.1 pa q.2 c hp)
      · exact hp
    clear_value r
    split
    · exact setHostSeen_memOk _ hr
    · exact h
  · rename_i data
    extract_lets r
    have hr : SomeOk r := by
      refine foldl_keeps SomeOk _ (fun o q ho => ?_) _ (some s) (someOk_some h)
      cases o with
      | none => exact someOk_none
      | some s1 =>
        cases he : hostAddr s1 pasid q.1 true with
        | none =>
          simp only [he]
          exact someOk_none
        | some a =>
          simp only [he]
          exact someOk_some (basinPut_memOk s1 _ _ _ (ho s1 rfl))
    clear_value r
    cases r with
    | none => exact h
    | some s1 => exact hr s1 rfl

theorem execHostCoreAccess_memOk (core : Fin 48) (pasid : Nat) (va : W64) (op : HostOp) (s : State) (h : s.memOk) :
    Next State.memOk (execHostCoreAccess core pasid va op s) := by
  unfold execHostCoreAccess
  split
  · exact h
  · exact hostAccess_memOk s _ _ _ op h

theorem execPcieDeviceAccess_memOk (link : Fin 2) (pasid : Nat) (va : W64) (op : HostOp) (s : State) (h : s.memOk) :
    Next State.memOk (execPcieDeviceAccess link pasid va op s) := by
  unfold execPcieDeviceAccess
  split
  · exact h
  · exact hostAccess_memOk s _ _ _ op h

end Sys2Proof.Machine
end

section
/-! PROOFS. Memory keeps its canonical form: every operation and every event by its own lemma, then the turn, the schedule
and the step (log entry 1; O60). -/

namespace Sys2Proof.Machine

theorem exec_memOk (i : Instr) (s : State) (h : s.memOk) : Next State.memOk (exec i s) := by
  cases i with
  | nop => rw [exec_nop]; exact h
  | sealOp _ => rw [exec_sealOp]; exact execSealOp_memOk _ s h
  | prep _ _ => rw [exec_prep]; exact runPure_memOk s _ h
  | prepr _ _ => rw [exec_prepr]; exact runPure_memOk s _ h
  | cmp _ _ _ _ => rw [exec_cmp]; exact runPure_memOk s _ h
  | cmpi _ _ _ _ => rw [exec_cmpi]; exact runPure_memOk s _ h
  | vAny _ _ _ => rw [exec_vAny]; exact runPure_memOk s _ h
  | vAll _ _ _ => rw [exec_vAll]; exact runPure_memOk s _ h
  | cOp _ _ _ _ => rw [exec_cOp]; exact runPure_memOk s _ h
  | br _ _ _ => rw [exec_br]; exact runPure_memOk s _ h
  | jmp _ => rw [exec_jmp]; exact runPure_memOk s _ h
  | call _ => rw [exec_call]; exact runPure_memOk s _ h
  | ret => rw [exec_ret]; exact runPure_memOk s _ h
  | jtab _ _ => rw [exec_jtab]; exact execJtab_memOk _ _ s h
  | loop _ => rw [exec_loop]; exact runPure_memOk s _ h
  | loopi _ => rw [exec_loopi]; exact runPure_memOk s _ h
  | lpipe _ _ => rw [exec_lpipe]; exact runPure_memOk s _ h
  | lbrk _ => rw [exec_lbrk]; exact runPure_memOk s _ h
  | lpset _ => rw [exec_lpset]; exact runPure_memOk s _ h
  | lpget _ => rw [exec_lpget]; exact runPure_memOk s _ h
  | trap _ => rw [exec_trap]; exact execTrap_memOk _ s h
  | exit _ => rw [exec_exit]; exact execExit_memOk _ s h
  | yield => rw [exec_yield]; exact execYield_memOk s h
  | fmt _ => rw [exec_fmt]; exact runPure_memOk s _ h
  | fmti _ => rw [exec_fmti]; exact runPure_memOk s _ h
  | sysr _ _ => rw [exec_sysr]; exact runPure_memOk s _ h
  | sysw _ _ => rw [exec_sysw]; exact runPure_memOk s _ h
  | waitA _ _ _ _ => rw [exec_waitA]; exact execWaitA_memOk _ _ _ _ s h
  | waitAWake _ => rw [exec_waitAWake]; exact execWaitAWake_memOk _ s h
  | take _ _ => rw [exec_take]; exact execTake_memOk _ _ s h
  | bar _ => rw [exec_bar]; exact execBar_memOk _ s h
  | add _ => rw [exec_add]; exact runPure_memOk s _ h
  | sub _ => rw [exec_sub]; exact runPure_memOk s _ h
  | addi _ => rw [exec_addi]; exact runPure_memOk s _ h
  | mul _ => rw [exec_mul]; exact runPure_memOk s _ h
  | mulh _ => rw [exec_mulh]; exact runPure_memOk s _ h
  | mulhz _ => rw [exec_mulhz]; exact runPure_memOk s _ h
  | div _ => rw [exec_div]; exact runPure_memOk s _ h
  | divz _ => rw [exec_divz]; exact runPure_memOk s _ h
  | rem _ => rw [exec_rem]; exact runPure_memOk s _ h
  | remz _ => rw [exec_remz]; exact runPure_memOk s _ h
  | and _ => rw [exec_and]; exact runPure_memOk s _ h
  | or _ => rw [exec_or]; exact runPure_memOk s _ h
  | xor _ => rw [exec_xor]; exact runPure_memOk s _ h
  | andi _ => rw [exec_andi]; exact runPure_memOk s _ h
  | ori _ => rw [exec_ori]; exact runPure_memOk s _ h
  | xori _ => rw [exec_xori]; exact runPure_memOk s _ h
  | shl _ => rw [exec_shl]; exact runPure_memOk s _ h
  | shr _ => rw [exec_shr]; exact runPure_memOk s _ h
  | sra _ => rw [exec_sra]; exact runPure_memOk s _ h
  | shli _ => rw [exec_shli]; exact runPure_memOk s _ h
  | shri _ => rw [exec_shri]; exact runPure_memOk s _ h
  | srai _ => rw [exec_srai]; exact runPure_memOk s _ h
  | min _ => rw [exec_min]; exact runPure_memOk s _ h
  | max _ => rw [exec_max]; exact runPure_memOk s _ h
  | minz _ => rw [exec_minz]; exact runPure_memOk s _ h
  | maxz _ => rw [exec_maxz]; exact runPure_memOk s _ h
  | sel _ _ => rw [exec_sel]; exact runPure_memOk s _ h
  | clz _ => rw [exec_clz]; exact runPure_memOk s _ h
  | ctz _ => rw [exec_ctz]; exact runPure_memOk s _ h
  | popc _ => rw [exec_popc]; exact runPure_memOk s _ h
  | li _ _ _ => rw [exec_li]; exact runPure_memOk s _ h
  | lui _ _ => rw [exec_lui]; exact runPure_memOk s _ h
  | mov _ => rw [exec_mov]; exact runPure_memOk s _ h
  | extS _ _ => rw [exec_extS]; exact runPure_memOk s _ h
  | extZ _ _ => rw [exec_extZ]; exact runPure_memOk s _ h
  | addP _ => rw [exec_addP, execAddP, pair3]; exact runPure_memOk s _ h
  | addiP _ _ _ => rw [exec_addiP]; exact runPure_memOk s _ h
  | subP _ => rw [exec_subP, execSubP, pair3]; exact runPure_memOk s _ h
  | shlP _ _ _ => rw [exec_shlP]; exact runPure_memOk s _ h
  | leaH _ _ _ => rw [exec_leaH]; exact runPure_memOk s _ h
  | ldSb _ => rw [exec_ldSb]; exact runOp_memOk s _ (keepsMem_loadScalar _ _ _ _) h
  | ldZb _ => rw [exec_ldZb]; exact runOp_memOk s _ (keepsMem_loadScalar _ _ _ _) h
  | ldSh _ => rw [exec_ldSh]; exact runOp_memOk s _ (keepsMem_loadScalar _ _ _ _) h
  | ldZh _ => rw [exec_ldZh]; exact runOp_memOk s _ (keepsMem_loadScalar _ _ _ _) h
  | ldW _ => rw [exec_ldW]; exact runOp_memOk s _ (keepsMem_loadScalar _ _ _ _) h
  | ldP _ _ _ => rw [exec_ldP]; exact execLdP_memOk _ _ _ s h
  | stB _ => rw [exec_stB]; exact runOp_memOk s _ (keepsMem_storeScalar _ _ _) h
  | stH _ => rw [exec_stH]; exact runOp_memOk s _ (keepsMem_storeScalar _ _ _) h
  | stW _ => rw [exec_stW]; exact runOp_memOk s _ (keepsMem_storeScalar _ _ _) h
  | stP _ _ _ _ => rw [exec_stP]; exact runOp_memOk s _ (fun t => keepsMem_storeBase t _ _ _ _ _ _ _) h
  | ldV _ _ _ => rw [exec_ldV]; exact execLdV_memOk _ _ _ s h
  | ldVg _ _ _ _ _ => rw [exec_ldVg]; exact execLdVg_memOk _ _ _ _ _ s h
  | landingSlotLanded _ _ => rw [exec_landingSlotLanded]; exact execLandingSlotLanded_memOk _ _ s h
  | stV _ _ _ _ => rw [exec_stV]; exact execStV_memOk _ _ _ _ s h
  | stVs _ _ _ _ _ _ => rw [exec_stVs]; exact execStVs_memOk _ _ _ _ _ _ s h
  | commit _ _ => rw [exec_commit]; exact execCommit_memOk _ _ s h
  | hld _ _ _ => rw [exec_hld]; exact execHld_memOk _ _ _ s h
  | hst _ _ _ _ => rw [exec_hst]; exact runOp_memOk s _ (fun t => keepsMem_storeBase t _ _ _ _ _ _ _) h
  | hset _ _ _ _ => rw [exec_hset]; exact runPure_memOk s _ h
  | atAdd _ => rw [exec_atAdd]; exact runAtomic_memOk _ _ s h
  | atMin _ => rw [exec_atMin]; exact runAtomic_memOk _ _ s h
  | atMax _ => rw [exec_atMax]; exact runAtomic_memOk _ _ s h
  | atAnd _ => rw [exec_atAnd]; exact runAtomic_memOk _ _ s h
  | atOr _ => rw [exec_atOr]; exact runAtomic_memOk _ _ s h
  | atXor _ => rw [exec_atXor]; exact runAtomic_memOk _ _ s h
  | atCas _ _ _ _ _ _ => rw [exec_atCas]; exact runAtomic_memOk _ _ s h
  | atXchg _ _ => rw [exec_atXchg]; exact runAtomic_memOk _ _ s h
  | atFadd _ _ _ _ _ => rw [exec_atFadd]; exact runAtomic_memOk _ _ s h
  | mark _ => rw [exec_mark]; exact runPure_memOk s _ h
  | fence _ _ => rw [exec_fence]; exact runPure_memOk s _ h
  | probe _ _ _ _ => rw [exec_probe]; exact execProbe_memOk _ _ _ _ s h
  | release _ _ => rw [exec_release]; exact execRelease_memOk _ _ s h
  | pageRequest _ => rw [exec_pageRequest]; exact execPageRequest_memOk _ s h
  | prans _ => rw [exec_prans]; exact execPrans_memOk _ s h
  | rmap _ _ _ => rw [exec_rmap]; exact runPure_memOk s _ h
  | runmap _ => rw [exec_runmap]; exact runPure_memOk s _ h
  | granuleFill _ _ _ => rw [exec_granuleFill]; exact execGranuleFill_memOk _ _ _ s h
  | rflush _ _ => rw [exec_rflush]; exact execRflush_memOk _ _ s h
  | stamp _ _ => rw [exec_stamp]; exact runPure_memOk s _ h
  | wset _ _ _ _ => rw [exec_wset]; exact runPure_memOk s _ h
  | flCopy _ => rw [exec_flCopy]; exact runFlume_memOk _ _ s h
  | flXpose _ => rw [exec_flXpose]; exact runFlume_memOk _ _ s h
  | flPerm _ => rw [exec_flPerm]; exact runFlume_memOk _ _ s h
  | flGather _ => rw [exec_flGather]; exact runFlume_memOk _ _ s h
  | flScatter _ => rw [exec_flScatter]; exact runFlume_memOk _ _ s h
  | flFill _ => rw [exec_flFill]; exact runFlume_memOk _ _ s h
  | flMcast _ => rw [exec_flMcast]; exact runFlume_memOk _ _ s h
  | flPatch _ => rw [exec_flPatch]; exact runFlume_memOk _ _ s h
  | flRope _ => rw [exec_flRope]; exact runFlume_memOk _ _ s h
  | flPublish _ => rw [exec_flPublish]; exact runFlume_memOk _ _ s h
  | flPoll _ => rw [exec_flPoll]; exact execFlPoll_memOk _ s h
  | flCancel _ => rw [exec_flCancel]; exact execFlCancel_memOk _ s h
  | flumeCommandStart _ => rw [exec_flumeCommandStart]; exact execFlumeCommandStart_memOk _ s h
  | flumePublish _ => rw [exec_flumePublish]; exact execFlumePublish_memOk _ s h
  | vAdd _ => rw [exec_vAdd]; exact vector2_memOk _ _ _ _ _ s h
  | vSub _ => rw [exec_vSub]; exact vector2_memOk _ _ _ _ _ s h
  | vMul _ => rw [exec_vMul]; exact vector2_memOk _ _ _ _ _ s h
  | vFma _ => rw [exec_vFma]; exact vector3_memOk _ _ _ _ _ s h
  | vFms _ => rw [exec_vFms]; exact vector3_memOk _ _ _ _ _ s h
  | vMin _ => rw [exec_vMin]; exact vector2_memOk _ _ _ _ _ s h
  | vMax _ => rw [exec_vMax]; exact vector2_memOk _ _ _ _ _ s h
  | vAbs _ => rw [exec_vAbs]; exact vector1_memOk _ _ _ _ _ s h
  | vNeg _ => rw [exec_vNeg]; exact vector1_memOk _ _ _ _ _ s h
  | vAbd _ => rw [exec_vAbd]; exact vector2_memOk _ _ _ _ _ s h
  | vMulh _ => rw [exec_vMulh]; exact vector2_memOk _ _ _ _ _ s h
  | vMadd _ => rw [exec_vMadd]; exact vector3_memOk _ _ _ _ _ s h
  | vDot _ => rw [exec_vDot]; exact execVDot_memOk _ s h
  | vRcp _ => rw [exec_vRcp]; exact vector1_memOk _ _ _ _ _ s h
  | vRsq _ => rw [exec_vRsq]; exact vector1_memOk _ _ _ _ _ s h
  | vSqrt _ => rw [exec_vSqrt]; exact vector1_memOk _ _ _ _ _ s h
  | vExp2 _ => rw [exec_vExp2]; exact vector1_memOk _ _ _ _ _ s h
  | vLog2 _ => rw [exec_vLog2]; exact vector1_memOk _ _ _ _ _ s h
  | vCvt _ _ _ => rw [exec_vCvt]; exact execVCvt_memOk _ _ _ s h
  | vScl _ _ _ => rw [exec_vScl]; exact execVScl_memOk _ _ _ s h
  | vRnd _ => rw [exec_vRnd]; exact vector1_memOk _ _ _ _ _ s h
  | vCmp _ _ _ _ _ _ => rw [exec_vCmp]; exact execVCmp_memOk _ _ _ _ _ _ s h
  | vClass _ _ _ _ _ => rw [exec_vClass]; exact execVClass_memOk _ _ _ _ _ s h
  | vSel _ _ => rw [exec_vSel]; exact execVSel_memOk _ _ s h
  | vAnd _ => rw [exec_vAnd]; exact vector2_memOk _ _ _ _ _ s h
  | vOr _ => rw [exec_vOr]; exact vector2_memOk _ _ _ _ _ s h
  | vXor _ => rw [exec_vXor]; exact vector2_memOk _ _ _ _ _ s h
  | vNot _ => rw [exec_vNot]; exact vector1_memOk _ _ _ _ _ s h
  | vShl _ => rw [exec_vShl]; exact vector2_memOk _ _ _ _ _ s h
  | vShr _ => rw [exec_vShr]; exact vector2_memOk _ _ _ _ _ s h
  | vSra _ => rw [exec_vSra]; exact vector2_memOk _ _ _ _ _ s h
  | vPopc _ => rw [exec_vPopc]; exact vector1_memOk _ _ _ _ _ s h
  | vClz _ => rw [exec_vClz]; exact vector1_memOk _ _ _ _ _ s h
  | vRedAdd _ => rw [exec_vRedAdd]; exact reduce_memOk _ _ _ _ s h
  | vRedMax _ => rw [exec_vRedMax]; exact reduce_memOk _ _ _ _ s h
  | vRedMin _ => rw [exec_vRedMin]; exact reduce_memOk _ _ _ _ s h
  | vScan _ => rw [exec_vScan]; exact reduce_memOk _ _ _ _ s h
  | vPerm _ => rw [exec_vPerm]; exact vectorWhole_memOk _ _ _ s h
  | vBcast _ _ => rw [exec_vBcast]; exact execVBcast_memOk _ _ s h
  | vBcastScalar _ _ _ _ _ => rw [exec_vBcastScalar]; exact execVBcastScalar_memOk _ _ _ _ _ s h
  | vShuf _ _ => rw [exec_vShuf, execVShuf]; exact vectorWhole_memOk _ _ _ s h
  | vSlide _ _ => rw [exec_vSlide]; exact execVSlide_memOk _ _ s h
  | vBrev _ _ => rw [exec_vBrev]; exact execVBrev_memOk _ _ s h
  | vMov _ => rw [exec_vMov]; exact vector1_memOk _ _ _ _ _ s h
  | vIns _ _ _ _ => rw [exec_vIns]; exact execVIns_memOk _ _ _ _ s h
  | vGet _ _ _ _ => rw [exec_vGet]; exact execVGet_memOk _ _ _ _ s h
  | vPack _ => rw [exec_vPack]; exact execVPack_memOk _ s h
  | vUnpack _ _ _ => rw [exec_vUnpack]; exact execVUnpack_memOk _ _ _ s h
  | vIota _ _ _ _ _ => rw [exec_vIota]; exact execVIota_memOk _ _ _ _ _ s h
  | qAnd _ => rw [exec_qAnd]; exact runPure_memOk s _ h
  | qOr _ => rw [exec_qOr]; exact runPure_memOk s _ h
  | qXor _ => rw [exec_qXor]; exact runPure_memOk s _ h
  | qNot _ _ => rw [exec_qNot]; exact runPure_memOk s _ h
  | qMov _ _ => rw [exec_qMov]; exact runPure_memOk s _ h
  | qCnt _ _ _ => rw [exec_qCnt]; exact runPure_memOk s _ h
  | qFirst _ _ _ => rw [exec_qFirst]; exact runPure_memOk s _ h
  | mLease _ => rw [exec_mLease]; exact execMLease_memOk _ s h
  | leaseGrant _ _ => rw [exec_leaseGrant]; exact execLeaseGrant_memOk _ _ s h
  | mFree _ => rw [exec_mFree]; exact runMatrix_memOk _ _ _ s h
  | mZero _ => rw [exec_mZero]; exact runMatrix_memOk _ _ _ s h
  | mWait => rw [exec_mWait]; exact execMWait_memOk s h
  | mMma _ => rw [exec_mMma]; exact runMatrix_memOk _ _ _ s h
  | mMmas _ _ _ _ _ _ _ _ _ => rw [exec_mMmas]; exact runMatrix_memOk _ _ _ s h
  | mCellp _ => rw [exec_mCellp]; exact execMCellp_memOk _ s h
  | mProg _ _ => rw [exec_mProg]; exact execMProg_memOk _ _ s h
  | mDrain _ _ _ _ _ _ => rw [exec_mDrain]; exact runMatrix_memOk _ _ _ s h
  | mFill _ _ _ => rw [exec_mFill]; exact runMatrix_memOk _ _ _ s h
  | mAdd _ _ _ _ => rw [exec_mAdd]; exact runMatrix_memOk _ _ _ s h
  | mScale _ _ _ => rw [exec_mScale]; exact runMatrix_memOk _ _ _ s h
  | mBfly _ _ _ _ _ _ _ => rw [exec_mBfly]; exact runMatrix_memOk _ _ _ s h
  | mBrev _ _ _ _ _ _ => rw [exec_mBrev]; exact runMatrix_memOk _ _ _ s h
  | mTwid _ _ _ _ _ _ _ => rw [exec_mTwid]; exact runMatrix_memOk _ _ _ s h
  | mTmul _ _ _ => rw [exec_mTmul]; exact runMatrix_memOk _ _ _ s h
  | arrayTurnEnd _ => rw [exec_arrayTurnEnd]; exact execArrayTurnEnd_memOk _ s h
  | matrixCommandComplete _ => rw [exec_matrixCommandComplete]; exact execMatrixCommandComplete_memOk _ s h
  | updateOnlyLineEviction _ _ => rw [exec_updateOnlyLineEviction]; exact execUpdateOnlyLineEviction_memOk _ _ s h
  | l2WriteBack _ _ => rw [exec_l2WriteBack]; exact execL2WriteBack_memOk _ _ s h
  | colourQueuePerform _ _ => rw [exec_colourQueuePerform]; exact execColourQueuePerform_memOk _ _ s h
  | allotRefill _ => rw [exec_allotRefill]; exact execAllotRefill_memOk _ s h
  | portSend _ => rw [exec_portSend]; exact execPortSend_memOk _ s h
  | codeObjectRemoval _ _ => rw [exec_codeObjectRemoval]; exact execCodeObjectRemoval_memOk _ _ s h
  | tileRetirement _ => rw [exec_tileRetirement]; exact execTileRetirement_memOk _ s h
  | retiredTileTest _ _ => rw [exec_retiredTileTest]; exact execRetiredTileTest_memOk _ _ s h
  | leaseTimeout _ => rw [exec_leaseTimeout]; exact execLeaseTimeout_memOk _ s h
  | preemptionDeadline _ => rw [exec_preemptionDeadline]; exact execPreemptionDeadline_memOk _ s h
  | wkinv _ => rw [exec_wkinv]; exact execWkinv_memOk _ s h
  | tlbInvalidationComplete => rw [exec_tlbInvalidationComplete]; exact execTlbInvalidationComplete_memOk s h
  | qdinv _ => rw [exec_qdinv]; exact execQdinv_memOk _ s h
  | directoryInvalidationComplete => rw [exec_directoryInvalidationComplete]; exact execDirectoryInvalidationComplete_memOk s h
  | sweeperVisit _ => rw [exec_sweeperVisit]; exact execSweeperVisit_memOk _ s h
  | swleave _ _ => rw [exec_swleave]; exact execSwleave_memOk _ _ s h
  | swfree _ _ => rw [exec_swfree]; exact execSwfree_memOk _ _ s h
  | channelSparing _ _ => rw [exec_channelSparing]; exact execChannelSparing_memOk _ _ s h
  | doorbellKick _ _ _ _ => rw [exec_doorbellKick]; exact execDoorbellKick_memOk _ _ _ _ s h
  | recordRead _ => rw [exec_recordRead]; exact execRecordRead_memOk _ s h
  | waitWordSatisfied _ _ => rw [exec_waitWordSatisfied]; exact execWaitWordSatisfied_memOk _ _ s h
  | recordPlacement _ => rw [exec_recordPlacement]; exact execRecordPlacement_memOk _ s h
  | chainSuccessorStart _ _ => rw [exec_chainSuccessorStart]; exact execChainSuccessorStart_memOk _ _ s h
  | headPassedOver => rw [exec_headPassedOver]; exact memOk_of_mem h (passOver_mem s)
  | operatorCompletion _ => rw [exec_operatorCompletion]; exact execOperatorCompletion_memOk _ s h
  | preemption _ => rw [exec_preemption]; exact execPreemption_memOk _ s h
  | switchOut _ => rw [exec_switchOut]; exact execSwitchOut_memOk _ s h
  | operatorResume _ _ => rw [exec_operatorResume]; exact execOperatorResume_memOk _ _ s h
  | withdrawal _ => rw [exec_withdrawal]; exact execWithdrawal_memOk _ s h
  | pondRunStart _ _ _ => rw [exec_pondRunStart]; exact execPondRunStart_memOk _ _ _ s h
  | pondRunStop _ => rw [exec_pondRunStop]; exact execPondRunStop_memOk _ s h
  | pondRunClaimable _ => rw [exec_pondRunClaimable]; exact execPondRunClaimable_memOk _ s h
  | pondClaim _ => rw [exec_pondClaim]; exact execPondClaim_memOk _ s h
  | prctl _ => rw [exec_prctl]; exact execPrctl_memOk _ s h
  | ctxCreate _ => rw [exec_ctxCreate]; exact ctxCommand_memOk s _ h
  | ctxKill _ => rw [exec_ctxKill]; exact ctxCommand_memOk s _ h
  | killComplete => rw [exec_killComplete]; exact execKillComplete_memOk s h
  | ctxDestroy _ => rw [exec_ctxDestroy]; exact ctxCommand_memOk s _ h
  | ctxResumeOperator _ _ => rw [exec_ctxResumeOperator]; exact ctxCommand_memOk s _ h
  | ctxEndOperator _ _ => rw [exec_ctxEndOperator]; exact ctxCommand_memOk s _ h
  | ctxMigrate _ => rw [exec_ctxMigrate]; exact ctxCommand_memOk s _ h
  | migrationCheckpoint _ => rw [exec_migrationCheckpoint]; exact execMigrationCheckpoint_memOk _ s h
  | codeObjectLoad _ _ => rw [exec_codeObjectLoad]; exact execCodeObjectLoad_memOk _ _ s h
  | codeObjectUnload _ _ => rw [exec_codeObjectUnload]; exact execCodeObjectUnload_memOk _ _ s h
  | codeObjectQuery _ _ => rw [exec_codeObjectQuery]; exact execCodeObjectQuery_memOk _ _ s h
  | blockTranslation _ _ _ _ => rw [exec_blockTranslation]; exact execBlockTranslation_memOk _ _ _ _ s h
  | riderCoreFailover _ => rw [exec_riderCoreFailover]; exact execRiderCoreFailover_memOk _ s h
  | grantFault _ _ _ _ _ => rw [exec_grantFault]; exact execGrantFault_memOk _ _ _ _ _ s h
  | flitReceive _ _ => rw [exec_flitReceive]; exact execFlitReceive_memOk _ _ s h
  | flitReplay _ => rw [exec_flitReplay]; exact execFlitReplay_memOk _ s h
  | laneCheck _ _ => rw [exec_laneCheck]; exact execLaneCheck_memOk _ _ s h
  | bringUp _ _ => rw [exec_bringUp]; exact execBringUp_memOk _ _ s h
  | thermalEvent _ => rw [exec_thermalEvent]; exact execThermalEvent_memOk _ s h
  | thermalShutdown _ => rw [exec_thermalShutdown]; exact execThermalShutdown_memOk _ s h
  | serviceConnection _ => rw [exec_serviceConnection]; exact execServiceConnection_memOk _ s h
  | serviceConnectionClose _ => rw [exec_serviceConnectionClose]; exact h
  | readBootRecord _ _ _ => rw [exec_readBootRecord]; exact execReadBootRecord_memOk _ _ _ s h
  | clearBootRecord _ _ _ => rw [exec_clearBootRecord]; exact execClearBootRecord_memOk _ _ _ s h
  | readServiceLog _ _ _ => rw [exec_readServiceLog]; exact execReadServiceLog_memOk _ _ _ s h
  | readSpeedTable _ _ _ => rw [exec_readSpeedTable]; exact execReadSpeedTable_memOk _ _ _ s h
  | readRlim _ _ _ => rw [exec_readRlim]; exact execReadRlim_memOk _ _ _ s h
  | readTelemetry _ _ _ => rw [exec_readTelemetry]; exact execReadTelemetry_memOk _ _ _ s h
  | beginFirmwareImage _ _ _ => rw [exec_beginFirmwareImage]; exact execBeginFirmwareImage_memOk _ _ _ s h
  | firmwareChunk _ _ _ => rw [exec_firmwareChunk]; exact execFirmwareChunk_memOk _ _ _ s h
  | commitFirmwareImage _ _ _ => rw [exec_commitFirmwareImage]; exact execCommitFirmwareImage_memOk _ _ _ s h
  | registerWrite _ _ _ => rw [exec_registerWrite]; exact windowWrite_memOk s _ _ _ h
  | hostCoreAccess _ _ _ _ => rw [exec_hostCoreAccess]; exact execHostCoreAccess_memOk _ _ _ _ s h
  | pcieDeviceAccess _ _ _ _ => rw [exec_pcieDeviceAccess]; exact execPcieDeviceAccess_memOk _ _ _ _ s h

/-! ## Turns (R36, R310, R320, R369) -/

theorem claimUnit_memOk (s : State) (t : Thread) (is : List Instr) (h : s.memOk) : (claimUnit s t is).memOk := by
  unfold claimUnit
  split
  · exact h
  · exact claimBanks_memOk s t _ h

theorem runSlots_memOk (is : List Instr) (s : State) (h : s.memOk) : Next State.memOk (runSlots is s) := by
  induction is generalizing s with
  | nil => exact h
  | cons i is ih =>
    have he := exec_memOk i s h
    unfold runSlots
    split
    · rename_i s' hx
      rw [hx] at he
      split
      · split
        · exact ih s' he
        · exact he
      · exact he
    · exact he

theorem fetchTrap_memOk (s : State) (k : Nat) (t : Thread) (w : Walk) (h : s.memOk) : (fetchTrap s k t w).memOk := by
  unfold fetchTrap
  split
  · exact h
  · exact raiseTrap_memOk _ _ _ _ _ (memOk_of_mem h (noteMalformed_mem ..))
  · exact raiseTrap_memOk _ _ _ _ _ h

theorem setCur_memOk {s : State} (k : Nat) (h : s.memOk) : State.memOk { s with cur := k } := h

theorem runUnit_memOk (s : State) (k : Nat) (t : Thread) (h : s.memOk) : Next State.memOk (runUnit s k t) := by
  unfold runUnit
  extract_lets s1 t1
  have h1 : s1.memOk := setCur_memOk k h
  clear_value s1
  split
  · exact raiseTrap_memOk _ _ _ _ _ h1
  · split
    · exact fetchTrap_memOk _ _ _ _ h1
    · split
      · exact raiseTrap_memOk _ _ _ _ _ h1
      · rename_i is0 _
        split
        rename_i is spent _
        extract_lets t2
        have hr := runSlots_memOk is ((claimUnit s1 t2 is).setThread k t2) (setThread_memOk _ _ (claimUnit_memOk s1 t2 is h1))
        split
        · rename_i s' he
          rw [he] at hr
          split
          · exact hr
          · split
            · exact dropOwner_memOk _ _ (setThread_memOk _ _ hr)
            · exact hr
            · exact dropOwner_memOk _ _ hr
        · exact hr

theorem stopThread_memOk (s : State) (k : Nat) (t : Thread) (h : s.memOk) : (stopThread s k t).memOk :=
  settleTrap_memOk _ _ (setThread_memOk _ _ h)

theorem issueTurn_memOk (s : State) (k : Nat) (t : Thread) (h : s.memOk) : Next State.memOk (issueTurn s k t) := by
  unfold issueTurn
  extract_lets t1 s0 s1 stopping waits
  have h1 : s1.memOk := setCur_memOk k (setThread_memOk k t1 h)
  clear_value s1
  split
  · rename_i g _ _
    have he := exec_memOk g.instr s1 h1
    split
    · rename_i s' hx
      rw [hx] at he
      split
      · exact he
      · refine next_memOk ?_
        split
        · split
          · exact stopThread_memOk _ _ _ he
          · exact he
        · exact he
    · exact he
  · split
    · refine next_memOk ?_
      split
      · exact stopThread_memOk _ _ _ h1
      · exact h1
    · split
      · exact stopThread_memOk _ _ _ h1
      · exact h1

theorem parkedTurn_memOk (s : State) (k : Nat) (t : Thread) (h : s.memOk) : Next State.memOk (parkedTurn s k t) := by
  unfold parkedTurn
  split
  · rename_i o g rest _ _
    split
    · exact h
    · have he := exec_memOk g.instr { s.setThread k { t with run := .issuing, flow := .normal } with cur := k } h
      split
      · rename_i s' hx
        rw [hx] at he
        split
        · split
          · exact he
          · exact he
        · exact he
      · exact he
  · exact h

theorem threadTurn_memOk (s : State) (k : Nat) (h : s.memOk) : Next State.memOk (threadTurn s k) := by
  unfold threadTurn
  split
  · exact h
  · rename_i t _
    split
    · exact h
    · have hstop : Next State.memOk
          (if released s t then issueTurn s k { t with run := .issuing, parked := none } else parkedTurn s k t) := by
        split
        · exact issueTurn_memOk s k _ h
        · exact parkedTurn_memOk s k t h
      split
      · split
        · exact raiseTrap_memOk _ _ _ _ _ h
        · exact runUnit_memOk s k t h
      · exact issueTurn_memOk s k t h
      · exact hstop
      · exact hstop
      · exact h

/-! ## The schedule and the step (log entries 5 and 6) -/

theorem firstEvent_someOk (s : State) (h : s.memOk) : SomeOk (firstEvent s) := by
  intro s' hs
  obtain ⟨i, -, hi⟩ := List.exists_of_findSome?_eq_some hs
  have he := exec_memOk i s h
  split at hi
  · rename_i s1 hx
    rw [hx] at he
    split at hi
    · exact nomatch hi
    · cases hi
      exact he
  · exact nomatch hi

theorem rotate_memOk (s : State) (h : s.memOk) : (rotate s).memOk := by
  unfold rotate
  extract_lets live
  split
  · exact h
  · exact h

theorem defaultTurn_memOk (s : State) (h : s.memOk) : Next State.memOk (defaultTurn s) := by
  unfold defaultTurn
  split
  · exact threadTurn_memOk s s.cur h
  · refine rotate_memOk _ ?_
    cases he : firstEvent s with
    | none => exact h
    | some s' => exact firstEvent_someOk s h s' he

theorem oneTurn_memOk (s : State) (h : s.memOk) : Next State.memOk (oneTurn s) := by
  unfold oneTurn
  split
  · split
    · exact h
    · exact defaultTurn_memOk _ (refillPorts_memOk _ h)
  · rename_i a rest _
    extract_lets s1
    have h1 : s1.memOk := refillPorts_memOk _ h
    clear_value s1
    split
    · exact exec_memOk _ s1 h1
    · split
      · exact h1
      · exact exec_memOk _ s1 h1
    · split
      · exact h1
      · exact threadTurn_memOk s1 _ h1

theorem keepLeases_mem (s0 s : State) : (keepLeases s0 s).mem = s.mem := by
  unfold keepLeases
  split
  · rfl
  · rfl

theorem trimL2_memOk (s : State) (ter : Nat) (h : s.memOk) : (trimL2 s ter).memOk :=
  foldl_keeps State.memOk _ (fun s l hs => memOk_of_mem (writeBackLine_memOk s l hs) (dropLine_mem ..)) _ s h

theorem trimL1_memOk {s : State} (tile : Nat) (h : s.memOk) : (trimL1 s tile).memOk := h

theorem trimRemote_memOk {s : State} (ter : Nat) (h : s.memOk) : (trimRemote s ter).memOk := h

theorem trimHost_memOk {s : State} (h : s.memOk) : (trimHost s).memOk := h

theorem keepCaches_memOk (s : State) (h : s.memOk) : (keepCaches s).memOk := by
  rw [keepCaches]
  split
  · exact h
  · refine trimHost_memOk (foldl_keeps State.memOk _ (fun s t hs => trimRemote_memOk t hs) _ _ ?_)
    refine foldl_keeps State.memOk _ (fun s t hs => trimL2_memOk s t hs) _ _ ?_
    exact foldl_keeps State.memOk _ (fun s t hs => trimL1_memOk t hs) _ s h

theorem settleError_memOk (s : State) (e : HwError) (h : s.memOk) : (settleError s e).memOk := by
  unfold settleError
  extract_lets s1
  have h1 : s1.memOk := h
  clear_value s1
  split
  · split
    · exact raiseTrapFor_memOk _ _ _ _ _ _ h1
    · exact h1
  · exact h1
  all_goals exact h

theorem afterStep_memOk (s0 s : State) (h : s.memOk) : (afterStep s0 s).memOk := by
  have h1 := startWaiting_memOk s h
  have h2 := foldl_keeps State.memOk _ (fun s e hs => settleError_memOk s e hs) (startWaiting s).hwErrors _ h1
  exact keepCaches_memOk _ (memOk_of_mem (keepTurns_memOk _ h2) (keepLeases_mem ..))

theorem step_memOk (s : State) (h : s.memOk) : Next State.memOk (step s) := by
  have ht := oneTurn_memOk s h
  unfold step
  split
  · rename_i s' he
    rw [he] at ht
    split
    · exact trivial
    · exact afterStep_memOk s s' ht
  · exact ht

/-- Settles O60: what `exec` does keeps the form, by cases on the operation or event, and the turn, the schedule and the
settling after a step only add to it what keeps it too. -/
theorem stepKeepsMemory : Obligations.StepKeepsMemory := by
  unfold Obligations.StepKeepsMemory
  intro s s' h hs
  have hn := step_memOk s h
  rw [hs] at hn
  exact hn

end Sys2Proof.Machine
end

section
/-! PROOFS. Invalidations of translations and of directory entries (files 02 and 07; O27). -/

namespace Sys2Proof.Machine

/-- A map whose values change in place is found through key by key. -/
theorem mfind_mapVals {α β : Type} (m : Map α) (f : Nat → α → β) (i : Nat) :
    mfind (m.map fun e => (e.1, f e.1 e.2)) i = (mfind m i).map (f i) := by
  induction m with
  | nil => rfl
  | cons e r ih =>
    obtain ⟨k, v⟩ := e
    simp only [List.map_cons, mfind]
    split
    · next h => rw [h, Option.map_some]
    · split
      · rfl
      · exact ih

/-- What holds of the tiles of a machine whose tiles all change in place. -/
theorem tile_mapTiles {s u : State} (f : Nat → Tile → Tile) (hu : u.tiles = s.tiles.map fun e => (e.1, f e.1 e.2)) {k : Nat}
    (hk : mfind s.tiles k ≠ none) : u.tile k = f k (s.tile k) := by
  obtain ⟨t, ht⟩ := Option.ne_none_iff_exists'.mp hk
  simp only [State.tile, mget, hu, mfind_mapVals, ht, Option.map_some, Option.getD_some]

theorem getLsbD_ofNat_add_top (n : Nat) (h : n < 2 ^ 63) : (BitVec.ofNat 64 (n + 2 ^ 63)).getLsbD 63 = true := by
  rw [← bit_toNat, BitVec.toNat_ofNat, bit, decide_eq_true_eq]
  omega

theorem ofNat_mod_top (x : W64) : BitVec.ofNat 64 (x.toNat % 2 ^ 63) = x &&& ~~~(1#64 <<< 63) := by
  apply BitVec.eq_of_toNat_eq
  rw [BitVec.toNat_ofNat]
  have h : ~~~(1#64 <<< 63) = BitVec.ofNat 64 (2 ^ 63 - 1) := by decide
  rw [h, BitVec.toNat_and, BitVec.toNat_ofNat, Nat.mod_eq_of_lt (show 2 ^ 63 - 1 < 2 ^ 64 by decide), Nat.and_two_pow_sub_one_eq_mod]
  omega

/-! ## Translations (R71) -/

/-- A write of WKINV names an entry. -/
def invalidates (s : State) (v : W64) (x : TlbEntry) : Bool :=
  x.pasid = bits v.toNat 51 32 && match bits v.toNat 1 0 with
    | 0 => !x.large && x.page = s.basin.wkinva.toNat
    | 1 => x.large && x.page / 32 = s.basin.wkinva.toNat / 32
    | _ => true

theorem size_eq (v : W64) : bits v.toNat 1 0 = v.toNat % 4 := by simp [bits]

theorem invalidates_iff (s : State) (v : W64) (hsize : v.toNat % 4 ≠ 3) (x : TlbEntry) : invalidates s v x = true ↔
    x.pasid = v.toNat / 2 ^ 32 % 2 ^ 20 ∧ (v.toNat % 4 = 2 ∨ (v.toNat % 4 = 0 ∧ x.large = false ∧ x.page = s.basin.wkinva.toNat)
      ∨ (v.toNat % 4 = 1 ∧ x.large = true ∧ x.page / 32 = s.basin.wkinva.toNat / 32)) := by
  have hp : bits v.toNat 51 32 = v.toNat / 2 ^ 32 % 2 ^ 20 := rfl
  rw [invalidates, size_eq, hp]
  have hcases : v.toNat % 4 = 0 ∨ v.toNat % 4 = 1 ∨ v.toNat % 4 = 2 := by omega
  rcases hcases with h | h | h <;> simp [h]

/-- The TLB of a tile after a write of WKINV. -/
def invalidatedTile (s : State) (v : W64) (_ : Nat) (t : Tile) : Tile := { t with tlb := t.tlb.filter fun x => !invalidates s v x }

/-- What a write of WKINV starts: nothing where its size names no entries. -/
theorem startInvalidation_cases (s : State) (v : W64) :
    (v.toNat % 4 = 3 ∧ ∃ b, startInvalidation s v = { s with basin := b } ∧ b.wkwait = s.basin.wkwait) ∨
    (v.toNat % 4 ≠ 3 ∧ ∃ b, startInvalidation s v
        = { s with tiles := s.tiles.map fun e => (e.1, invalidatedTile s v e.1 e.2), basin := b }
      ∧ ∃ n < 2 ^ 63, b.wkinv = BitVec.ofNat 64 (n + 2 ^ 63)) := by
  rw [← size_eq]
  by_cases h : bits v.toNat 1 0 = 3
  · refine Or.inl ⟨h, ?_⟩
    rw [startInvalidation, if_pos h]
    exact ⟨_, rfl, rfl⟩
  · refine Or.inr ⟨h, ?_⟩
    rw [startInvalidation, if_neg h]
    have hkept : (BitVec.ofNat 64 (bits v.toNat 1 0 + bits v.toNat 51 32 * 2 ^ 32)).toNat < 2 ^ 63 := by
      rw [BitVec.toNat_ofNat, bits, bits]
      omega
    exact ⟨_, rfl, _, hkept, rfl⟩

theorem tlbInvalidation : Says.TlbInvalidation := by
  intro s v
  refine ⟨fun hsize => ?_, fun hsize => ?_, fun hbusy hdone => ?_, fun hwait => ?_⟩
  · obtain ⟨h3, -⟩ | ⟨-, b, hu, n, hn, hb⟩ := startInvalidation_cases s v
    · exact absurd h3 hsize
    rw [exec_wkinv, execWkinv, runEvent, hu]
    refine ⟨_, rfl, by rw [hb]; exact getLsbD_ofNat_add_top n hn, rfl, rfl, fun k e hk => ?_⟩
    rw [tile_mapTiles (invalidatedTile s v) rfl hk, invalidatedTile, List.mem_filter, Bool.not_eq_true', ← Bool.not_eq_true,
      invalidates_iff s v hsize]
  · obtain ⟨-, b, hu, hb⟩ | ⟨h3, -⟩ := startInvalidation_cases s v
    · rw [exec_wkinv, execWkinv, runEvent, hu]
      exact ⟨_, rfl, rfl, hb⟩
    · exact absurd hsize h3
  · rw [exec_tlbInvalidationComplete, execTlbInvalidationComplete, if_neg, runEvent, ofNat_mod_top]
    rw [bit_toNat, hbusy]
    simpa using hdone
  · rw [exec_tlbInvalidationComplete, execTlbInvalidationComplete, if_pos]
    simpa using Or.inr hwait

/-! ## Directory entries (R335) -/

/-- The state after the pending entries have been read again, with the register showing that none is pending. -/
def directoryDone (s : State) : State :=
  { s with basin := { s.basin with qdinv := BitVec.ofNat 64 (s.basin.qdinv.toNat % 2 ^ 63), qdwait := [] } }

theorem directoryInvalidationComplete_of_pending (s : State) (h : s.basin.qdwait ≠ []) : execDirectoryInvalidationComplete s
    = .next (frontSettle (directoryDone (s.basin.qdwait.foldl (fun s slot => retestWaits (installQueue s slot) slot) s))) := by
  rw [execDirectoryInvalidationComplete, if_neg h, runEvent, directoryDone]

theorem directoryInvalidation : Says.DirectoryInvalidation := by
  intro s
  refine ⟨fun v => ?_, fun slot hslot => ?_, fun hnone => ?_⟩
  · rw [exec_qdinv, execQdinv, runEvent, startDirectory]
  · rw [exec_directoryInvalidationComplete, directoryInvalidationComplete_of_pending s (by simp [hslot]), hslot, List.foldl_cons,
      List.foldl_nil, directoryDone]
  · rw [exec_directoryInvalidationComplete, execDirectoryInvalidationComplete, if_pos hnone]

/-- Settles O27: a write of WKINV filters every TLB, and the completions wait for nothing but what they name. -/
theorem invalidations : Obligations.Invalidations :=
  ⟨tlbInvalidation, directoryInvalidation⟩

end Sys2Proof.Machine
end

section
/-! SUPPORT. Writes at the home: what they leave, and what reads find after them, whether or not the L2 holds the line
(file 02; O23, O24, O28). -/

namespace Sys2Proof.Machine

/-! ## Fields of numbers -/

/-- Setting a field sets its bits and no others (R8). -/
theorem testBit_setBits (x hi lo v i : Nat) (h : lo ≤ hi) :
    (setBits x hi lo v).testBit i = if lo ≤ i ∧ i ≤ hi then v.testBit (i - lo) else x.testBit i := by
  have hlo : 2 ^ (hi + 1 - lo) * 2 ^ lo = 2 ^ (hi + 1) := by rw [← Nat.pow_add, Nat.sub_add_cancel (by omega)]
  have hx : setBits x hi lo v = 2 ^ (hi + 1) * (x / 2 ^ (hi + 1)) + (2 ^ lo * (v % 2 ^ (hi + 1 - lo)) + x % 2 ^ lo) := by
    have h1 := Nat.div_add_mod x (2 ^ lo)
    have h2 := Nat.div_add_mod (x / 2 ^ lo) (2 ^ (hi + 1 - lo))
    have h3 : x / 2 ^ lo / 2 ^ (hi + 1 - lo) = x / 2 ^ (hi + 1) := by rw [Nat.div_div_eq_div_mul, mul_comm, hlo]
    have h4 : x = 2 ^ (hi + 1) * (x / 2 ^ (hi + 1)) + (x / 2 ^ lo % 2 ^ (hi + 1 - lo) * 2 ^ lo + x % 2 ^ lo) := by
      calc x = 2 ^ lo * (2 ^ (hi + 1 - lo) * (x / 2 ^ lo / 2 ^ (hi + 1 - lo)) + x / 2 ^ lo % 2 ^ (hi + 1 - lo)) + x % 2 ^ lo := by
              rw [h2, h1]
        _ = _ := by rw [h3, ← hlo]; ring
    have h5 : v % 2 ^ (hi + 1 - lo) * 2 ^ lo = 2 ^ lo * (v % 2 ^ (hi + 1 - lo)) := mul_comm _ _
    simp only [setBits, bits]
    omega
  have hx1 : x % 2 ^ lo < 2 ^ lo := Nat.mod_lt _ (Nat.two_pow_pos lo)
  have hx2 : 2 ^ lo * (v % 2 ^ (hi + 1 - lo)) + x % 2 ^ lo < 2 ^ (hi + 1) := by
    have hv : v % 2 ^ (hi + 1 - lo) < 2 ^ (hi + 1 - lo) := Nat.mod_lt _ (Nat.two_pow_pos _)
    calc _ < 2 ^ lo * (v % 2 ^ (hi + 1 - lo)) + 2 ^ lo := by omega
      _ = 2 ^ lo * (v % 2 ^ (hi + 1 - lo) + 1) := by ring
      _ ≤ 2 ^ lo * 2 ^ (hi + 1 - lo) := Nat.mul_le_mul_left _ hv
      _ = 2 ^ (hi + 1) := by rw [mul_comm, hlo]
  rw [hx, Nat.testBit_two_pow_mul_add _ hx2, Nat.testBit_two_pow_mul_add _ hx1, Nat.testBit_mod_two_pow,
    Nat.testBit_mod_two_pow, Nat.testBit_div_two_pow]
  by_cases h1 : i < hi + 1
  · by_cases h2 : i < lo
    · simp [h1, h2, Nat.not_le_of_lt h2]
    · simp [h1, h2, Nat.le_of_lt_succ h1, Nat.le_of_not_lt h2, show i - lo < hi + 1 - lo by omega]
  · simp [h1, show ¬ i ≤ hi by omega, show hi + 1 ≤ i by omega]

theorem testBit_bits (x hi lo i : Nat) : (bits x hi lo).testBit i = (decide (i < hi + 1 - lo) && x.testBit (lo + i)) := by
  rw [bits, Nat.testBit_mod_two_pow, Nat.testBit_div_two_pow, Nat.add_comm i lo]

theorem bit_eq_testBit (x i : Nat) : bit x i = x.testBit i := by rw [bit, Nat.testBit_eq_decide_div_mod_eq]

/-- A field set reads back (R8). -/
theorem bits_setBits (x hi lo v : Nat) (h : lo ≤ hi) : bits (setBits x hi lo v) hi lo = v % 2 ^ (hi + 1 - lo) := by
  refine Nat.eq_of_testBit_eq fun i => ?_
  rw [testBit_bits, testBit_setBits x hi lo v _ h, Nat.testBit_mod_two_pow, Nat.add_sub_cancel_left]
  by_cases hi' : i < hi + 1 - lo
  · simp [hi', show lo + i ≤ hi by omega]
  · simp [hi']

/-- A field below `n` bits set leaves a number of `n` bits. -/
theorem setBits_lt {x hi lo v n : Nat} (hx : x < 2 ^ n) (h : lo ≤ hi) (hn : hi < n) : setBits x hi lo v < 2 ^ n := by
  refine Nat.lt_pow_two_of_testBit _ fun i hi' => ?_
  rw [testBit_setBits _ _ _ _ _ h, if_neg (by omega)]
  exact Nat.testBit_lt_two_pow (hx.trans_le (Nat.pow_le_pow_right (by decide) hi'))

/-! ## Bytes at the home (R90, R91) -/

theorem byte_testBit (x i j : Nat) : (BitVec.ofNat 8 (x / 256 ^ i)).getLsbD j = (decide (j < 8) && x.testBit (8 * i + j)) := by
  rw [BitVec.getLsbD_ofNat, show (256 : Nat) = 2 ^ 8 from rfl, ← Nat.pow_mul, Nat.testBit_div_two_pow, Nat.add_comm]

/-- A byte of a line that one byte is set in. -/
theorem setByte_byte (l : L2Line) (i j : Nat) (b : Byte) (hj : j < 64) :
    BitVec.ofNat 8 ((l.setByte i b).data.toNat / 256 ^ j) = if j = i then b else BitVec.ofNat 8 (l.data.toNat / 256 ^ j) := by
  refine BitVec.eq_of_getLsbD_eq fun k hk => ?_
  have hd : (l.setByte i b).data.toNat.testBit (8 * j + k)
      = (setBits l.data.toNat (8 * i + 7) (8 * i) b.toNat).testBit (8 * j + k) := by
    rw [← BitVec.getLsbD, L2Line.setByte, BitVec.getLsbD_ofNat, decide_eq_true (by omega), Bool.true_and]
  rw [byte_testBit, hd, testBit_setBits _ _ _ _ _ (by omega)]
  by_cases h : j = i
  · rw [if_pos h, h, if_pos (by omega), Nat.add_sub_cancel_left, decide_eq_true hk, Bool.true_and, BitVec.getLsbD]
  · rw [if_neg h, if_neg (by omega), byte_testBit]

theorem homeByte_homeWriteByte (s : State) (pa p : Nat) (b : Byte) (h : s.memOk) :
    homeByte (homeWriteByte s pa b) p = if p = pa then b else homeByte s p := by
  unfold homeWriteByte
  split
  · next l hl =>
    by_cases hline : lineOf p = lineOf pa
    · have hu : mfind (mput s.l2 (lineOf pa) (l.setByte (pa % 64) b)) (lineOf p) = some (l.setByte (pa % 64) b) := by
        rw [hline, mfind_mput_same]
      have hiff : p % 64 = pa % 64 ↔ p = pa := by
        simp only [lineOf] at hline
        omega
      simp only [homeByte, hu, hline ▸ hl, setByte_byte l _ _ b (Nat.mod_lt p (by decide)), hiff]
    · rw [if_neg fun he => hline (congrArg lineOf he)]
      simp only [homeByte, mfind_mput_ne _ _ _ _ hline]
  · next hl =>
    by_cases hp : p = pa
    · rw [if_pos hp, hp]
      exact (homeByte_inStack (s := { s with mem := writeByte s.mem pa b }) hl).trans (readByte_writeByte_same s.mem pa b h)
    · rw [if_neg hp]
      simp only [homeByte, readByte_writeByte_ne s.mem pa p b hp h]

theorem homeByte_homeWriteBytes (bs : List Byte) (s : State) (pa p : Nat) (h : s.memOk) :
    homeByte (homeWriteBytes s pa bs) p = if pa ≤ p then bs.getD (p - pa) (homeByte s p) else homeByte s p := by
  induction bs generalizing s pa with
  | nil => simp [homeWriteBytes]
  | cons b r ih =>
    have h1 : ((homeWriteByte s pa b).noteWrite (lineOf pa)).memOk := homeWriteByte_memOk s pa b h
    have hb : homeByte ((homeWriteByte s pa b).noteWrite (lineOf pa)) p = if p = pa then b else homeByte s p :=
      homeByte_homeWriteByte s pa p b h
    rw [homeWriteBytes, ih _ _ h1, hb]
    rcases Nat.lt_trichotomy p pa with hlt | rfl | hgt
    · rw [if_neg (by omega), if_neg (by omega), if_neg (by omega)]
    · simp
    · obtain ⟨k, rfl⟩ : ∃ k, p = pa + (k + 1) := ⟨p - pa - 1, by omega⟩
      rw [if_pos (by omega), if_neg (by omega), if_pos (by omega), show pa + (k + 1) - (pa + 1) = k by omega,
        Nat.add_sub_cancel_left, List.getD_cons_succ]

/-- A number written reads back (R90). -/
theorem homeRead_homeWrite (s : State) (pa n v : Nat) (h : s.memOk) : homeRead (homeWrite s pa n v) pa n = v % 2 ^ (8 * n) := by
  have hb : homeBytes (homeWrite s pa n v) pa n = leBytes n v := by
    rw [homeBytes_eq_map, leBytes_eq_map]
    refine List.map_congr_left fun i hi => ?_
    rw [homeWrite, homeByte_homeWriteBytes _ _ _ _ h, if_pos (by omega), Nat.add_sub_cancel_left, leBytes_eq_map]
    simp [List.getD, List.mem_range.mp hi]
  rw [homeRead, hb, leOf_leBytes, Nat.pow_mul]

/-- What stands beside the bytes written is as it was. -/
theorem homeRead_homeWrite_outside (s : State) (pa n v p m : Nat) (h : s.memOk) (hp : p + m ≤ pa ∨ pa + n ≤ p) :
    homeRead (homeWrite s pa n v) p m = homeRead s p m := by
  simp only [homeRead, homeBytes_eq_map]
  refine congrArg leOf (List.map_congr_left fun i hi => ?_)
  have hi := List.mem_range.mp hi
  rw [homeWrite, homeByte_homeWriteBytes _ _ _ _ h]
  split
  · rw [List.getD_eq_default _ _ (by rw [leBytes_length]; omega)]
  · rfl

/-! ## What a write at the home leaves -/

/-- What device writes at the home may change: memory and the L2, and what watches them. -/
structure HomeOnly (s u : State) : Prop where
  same : u = { s with mem := u.mem, l2 := u.l2, hostRes := u.hostRes, ponds := u.ponds, hole := u.hole }

namespace HomeOnly

theorem refl (s : State) : HomeOnly s s := ⟨rfl⟩

theorem trans {a b c : State} (h : HomeOnly a b) (h' : HomeOnly b c) : HomeOnly a c := ⟨by rw [h'.same, h.same]⟩

variable {s u : State} (h : HomeOnly s u)
include h

theorem threads : u.threads = s.threads := by rw [h.same]
theorem ops : u.ops = s.ops := by rw [h.same]
theorem tiles : u.tiles = s.tiles := by rw [h.same]
theorem basin : u.basin = s.basin := by rw [h.same]
theorem reqs : u.reqs = s.reqs := by rw [h.same]
theorem reqSeq : u.reqSeq = s.reqSeq := by rw [h.same]
theorem sweepers : u.sweepers = s.sweepers := by rw [h.same]
theorem cur : u.cur = s.cur := by rw [h.same]

end HomeOnly

theorem homeWriteByte_homeOnly (s : State) (pa : Nat) (b : Byte) : HomeOnly s (homeWriteByte s pa b) := by
  unfold homeWriteByte
  split
  · exact ⟨rfl⟩
  · exact ⟨rfl⟩

theorem noteWrite_homeOnly (s : State) (line : Nat) : HomeOnly s (s.noteWrite line) := ⟨rfl⟩

theorem noteHole_homeOnly (s : State) (a : Nat) : HomeOnly s (s.noteHole a) := by
  rw [noteHole_same]
  exact ⟨rfl⟩

theorem homeWriteBytes_homeOnly (bs : List Byte) (s : State) (pa : Nat) : HomeOnly s (homeWriteBytes s pa bs) := by
  induction bs generalizing s pa with
  | nil => exact .refl s
  | cons b r ih => exact ((homeWriteByte_homeOnly s pa b).trans (noteWrite_homeOnly _ _)).trans (ih _ _)

theorem homeWrite_homeOnly (s : State) (pa n v : Nat) : HomeOnly s (homeWrite s pa n v) := homeWriteBytes_homeOnly ..

theorem homeRead_noteHole (s : State) (a p n : Nat) : homeRead (s.noteHole a) p n = homeRead s p n := by
  simp only [homeRead, homeBytes_eq_map, homeByte_noteHole]

/-- A device write at an address that a base register gives. -/
theorem holeWrite_homeOnly (s : State) (a n v : Nat) : HomeOnly s (homeWrite (s.noteHole a) a n v) :=
  (noteHole_homeOnly s a).trans (homeWrite_homeOnly ..)

theorem homeRead_holeWrite (s : State) (a n v : Nat) (h : s.memOk) :
    homeRead (homeWrite (s.noteHole a) a n v) a n = v % 2 ^ (8 * n) := homeRead_homeWrite _ a n v (noteHole_memOk s a h)

/-! ## Pins of a frame (R84) -/

theorem frameEntry_homeOnly {s u : State} (h : HomeOnly s u) (pa : Nat) : frameEntry u pa = frameEntry s pa := by
  rw [frameEntry, frameEntry, h.basin]

theorem setFramePins_homeOnly (s : State) (pa n : Nat) : HomeOnly s (setFramePins s pa n) := holeWrite_homeOnly ..

/-- The count of pins set in a frame's entry reads back. -/
theorem framePins_setFramePins (s : State) (pa n : Nat) (hn : n < 2 ^ 16) (h : s.memOk) : framePins (setFramePins s pa n) pa = n := by
  rw [framePins, frameEntry_homeOnly (setFramePins_homeOnly ..), setFramePins]
  rw [homeRead_holeWrite _ _ _ _ h, Nat.mod_eq_of_lt (setBits_lt (homeRead_lt s _ 16) (by decide) (by decide)),
    bits_setBits _ _ _ _ (by decide)]
  exact Nat.mod_eq_of_lt hn

theorem framePins_lt (s : State) (pa : Nat) : framePins s pa < 2 ^ 16 := Nat.mod_lt _ (by decide)

end Sys2Proof.Machine
end

section
/-! PROOFS. Releases, page requests and their answers (file 02; O24). -/

namespace Sys2Proof.Machine
open Sys2Proof.Says

/-! ## The pages of a range -/

/-- A range within one page has that page alone. -/
theorem probePages_one {va len : Nat} (hl : 1 ≤ len) (h : va % 2 ^ 16 + len ≤ 2 ^ 16) : probePages va len = [va / 2 ^ 16] := by
  have hn : (va + len - 1) / 65536 + 1 - va / 65536 = 1 := by omega
  rw [probePages, hn]
  rfl

theorem probePages_lt {va len q : Nat} (hl : 1 ≤ len) (h : va + len ≤ 2 ^ 57) (hq : q ∈ probePages va len) : q < 2 ^ 41 := by
  obtain ⟨i, hi, rfl⟩ := List.mem_map.mp hq
  have := List.mem_range.mp hi
  omega

/-! ## Pins of an operator (R76, R77) -/

/-- What an operator holds after one pin of a frame is taken off. -/
def unpinned (f n : Nat) (o : Operator) : Operator :=
  { o with pins := if mget 0 o.pins f ≤ n then mdel o.pins f else mput o.pins f (mget 0 o.pins f - n) }

/-- One operator of the map changed. -/
theorem mfind_mapAt {α : Type} (m : Map α) (k : Nat) (f : α → α) {x : α} (h : mfind m k = some x) :
    mfind (m.map fun e => if e.1 = k then (e.1, f e.2) else e) k = some (f x) := by
  have he : (fun e : Nat × α => if e.1 = k then (e.1, f e.2) else e) = fun e => (e.1, (fun i y => if i = k then f y else y) e.1 e.2) := by
    funext e
    dsimp only
    split
    · rfl
    · rfl
  rw [he, mfind_mapVals m (fun i y => if i = k then f y else y), h, Option.map_some, if_pos rfl]

/-- One operator's pins of a frame counted down. -/
def unpinOps (u : State) (op f n : Nat) : State :=
  { u with ops := u.ops.map fun o => if o.1 = op then (o.1, unpinned f n o.2) else o }

theorem unpinFrame_eq (s : State) (op f n : Nat) :
    unpinFrame s op f n = unpinOps (setFramePins s (framePa f) (framePins s (framePa f) - n)) op f n := by
  unfold unpinFrame unpinOps
  extract_lets u
  rfl

theorem unpinFrame_ops (s : State) (op f n : Nat) {o : Operator} (ho : mfind s.ops op = some o) :
    mfind (unpinFrame s op f n).ops op = some (unpinned f n o) := by
  rw [unpinFrame_eq, unpinOps, (setFramePins_homeOnly s _ _).ops]
  exact mfind_mapAt s.ops op (unpinned f n) ho

theorem framePins_unpinOps (u : State) (op f n pa : Nat) : framePins (unpinOps u op f n) pa = framePins u pa := by
  simp only [framePins, frameEntry, homeRead, homeBytes_eq_map]
  rfl

theorem unpinFrame_framePins (s : State) (op f n : Nat) (h : s.memOk) :
    framePins (unpinFrame s op f n) (framePa f) = framePins s (framePa f) - n := by
  rw [unpinFrame_eq, framePins_unpinOps]
  exact framePins_setFramePins s (framePa f) _ ((Nat.sub_le ..).trans_lt (framePins_lt s _)) h

/-- One pin less: none of the last, one less of several; the pins of other frames stand. -/
theorem unpinned_pins {o : Operator} {f n : Nat} (h : mfind o.pins f = some (n + 1)) (hm : mrises o.pins 0 = true) :
    mfind (unpinned f 1 o).pins f = (if n = 0 then none else some n)
      ∧ ∀ k, k ≠ f → mfind (unpinned f 1 o).pins k = mfind o.pins k := by
  have hg : mget 0 o.pins f = n + 1 := by rw [mget, h, Option.getD_some]
  simp only [unpinned, hg]
  by_cases hn : n = 0
  · rw [if_pos (by omega), if_pos hn]
    exact ⟨mfind_mdel_same _ _ 0 hm, fun k hk => mfind_mdel_ne _ _ _ 0 hk hm⟩
  · rw [if_neg (by omega), if_neg hn]
    exact ⟨mfind_mput_same .., fun k hk => mfind_mput_ne _ _ _ _ hk⟩

/-! ## Releases (R77) -/

/-- The frames of the pages of a range that are present. -/
def releasedFrames (s : State) (pasid va len : Nat) : List Nat :=
  ((probePages va len).filterMap fun q => (peekAddr s pasid (q * 65536)).map frameIndex).eraseDups

/-- The machine with one pin of the operator off each of the frames on which it holds one. -/
def releaseFrames (s : State) (op : Nat) (fs : List Nat) : State :=
  fs.foldl (fun s f => if ((mfind s.ops op).bind fun o => mfind o.pins f).isSome then unpinFrame s op f 1 else s) s

section
variable {s : State} {t : Thread} {g : Gated} {rest : List Gated} {p : Fin 32} {b : Fin 64} (h : Issues s t (.release p b) g rest)
include h

theorem release_waits (hm : mayTranslate s t g.ord = true) : Makes s (.release p b) { t with flow := .stalled .other } := by
  refine issue_waits h (exec_release p b s) ?_
  have hm' : mayTranslate s { t with issue := rest } g.ord = true := hm
  rw [op_run_bind_ok (op_run_get s), if_pos hm']
  rfl

theorem release_empty (hm : mayTranslate s t g.ord = false)
    (hr : (g.regs.s[b]).toNat = 0 ∨ 2 ^ 57 < (pairVal g.regs p).toNat + (g.regs.s[b]).toNat) :
    Issued s (.release p b) s { t with issue := rest } := by
  refine issue_ok h (exec_release p b s) ?_
  have hm' : mayTranslate s { t with issue := rest } g.ord = false := hm
  rw [op_run_bind_ok (op_run_get s), if_neg (by simp [hm']), if_pos]
  · rfl
  · simp only [Bool.or_eq_true, decide_eq_true_eq]
    omega

theorem release_frames (hm : mayTranslate s t g.ord = false) (hl : 1 ≤ (g.regs.s[b]).toNat)
    (hr : (pairVal g.regs p).toNat + (g.regs.s[b]).toNat ≤ 2 ^ 57) :
    Issued s (.release p b) (releaseFrames s t.op (releasedFrames s t.launch.pasid.toNat (pairVal g.regs p).toNat (g.regs.s[b]).toNat))
      { t with issue := rest } := by
  refine issue_ok h (exec_release p b s) ?_
  have hm' : mayTranslate s { t with issue := rest } g.ord = false := hm
  rw [op_run_bind_ok (op_run_get s), if_neg (by simp [hm']), if_neg]
  · rfl
  · simp only [Bool.or_eq_true, decide_eq_true_eq]
    omega

end

theorem releasedFrames_one {s : State} {pasid va len pa : Nat} (hl : 1 ≤ len) (h : va % 2 ^ 16 + len ≤ 2 ^ 16)
    (hp : peekAddr s pasid (va / 2 ^ 16 * 2 ^ 16) = some pa) : releasedFrames s pasid va len = [frameIndex pa] := by
  have hp' : peekAddr s pasid (va / 2 ^ 16 * 65536) = some pa := hp
  rw [releasedFrames, probePages_one hl h, List.filterMap_cons, hp']
  rfl

theorem releaseRuns : Says.ReleaseRuns := by
  intro s t g rest p b h
  refine ⟨release_waits h, fun hm => ⟨release_empty h hm, fun pa o hl hpage hr hpa ho => ?_⟩⟩
  have hrun := release_frames h hm hl hr
  rw [releasedFrames_one hl hpage hpa, releaseFrames, List.foldl_cons, List.foldl_nil, ho, Option.bind_some] at hrun
  refine ⟨fun hn => ?_, fun n hn hpins hmem => ?_⟩
  · rwa [hn] at hrun
  · rw [hn, if_pos Option.isSome_some] at hrun
    obtain ⟨hf, hk⟩ := unpinned_pins hn hpins
    exact ⟨_, _, hrun, unpinFrame_ops s t.op _ 1 ho, hf, hk, unpinFrame_framePins s t.op _ 1 hmem⟩

/-! ## Page requests (R79 to R81) -/

/-- The record of a page request, as it stands in the ring (R81). -/
def requestRecord (r : PageReq) : Nat :=
  r.seq.toNat + r.pasid * 2 ^ 32 + r.ctx * 2 ^ 52 + r.first * 65536 * 2 ^ 64 + r.last * 65536 * 2 ^ 128 + r.kind * 2 ^ 192

/-- The place of the ring that the next request takes (R81). -/
def requestPlace (s : State) : Nat :=
  bits s.basin.prqbase.toNat 38 15 * 2 ^ 15 + 32 * (s.basin.prqtail.toNat % 2048 % 1024)

/-- A request noted: it is outstanding, the tail of the ring moves on from `tail`, and the interrupt is raised that PRQCTL
enables (R81). -/
def noteRequest (u : State) (tail : Nat) (r : PageReq) : State :=
  { u with
    reqs := u.reqs ++ [r], reqSeq := u.reqSeq + 1
    basin := { u.basin with
      prqtail := BitVec.ofNat 64 ((tail + 1) % 2048)
      irqs := if bit u.basin.prqctl.toNat 0 then BitVec.ofNat 16 (bits u.basin.prqctl.toNat 31 16) :: u.basin.irqs else u.basin.irqs } }

theorem sendPageRequest_eq (s : State) (r : PageReq) : sendPageRequest s r
    = noteRequest (homeWrite (s.noteHole (requestPlace s)) (requestPlace s) 32 (requestRecord r)) (s.basin.prqtail.toNat % 2048) r := by
  rw [sendPageRequest, noteRequest, requestRecord, requestPlace]

theorem homeRead_noteRequest (u : State) (tail : Nat) (r : PageReq) (a n : Nat) :
    homeRead (noteRequest u tail r) a n = homeRead u a n := by
  simp only [homeRead, homeBytes_eq_map]
  rfl

theorem prqtail_noteRequest (u : State) (tail : Nat) (r : PageReq) : (noteRequest u tail r).basin.prqtail.toNat = (tail + 1) % 2048 :=
  Nat.mod_eq_of_lt ((Nat.mod_lt _ (by decide)).trans (by decide))

theorem irqs_noteRequest (u : State) (tail : Nat) (r : PageReq) : (noteRequest u tail r).basin.irqs
    = if u.basin.prqctl.getLsbD 0 then BitVec.ofNat 16 (u.basin.prqctl.toNat / 2 ^ 16) :: u.basin.irqs else u.basin.irqs := by
  have h : BitVec.ofNat 16 (bits u.basin.prqctl.toNat 31 16) = BitVec.ofNat 16 (u.basin.prqctl.toNat / 2 ^ 16) := by
    refine BitVec.eq_of_toNat_eq ?_
    simp only [BitVec.toNat_ofNat, bits]
    omega
  rw [noteRequest, bit_toNat, h]

theorem requestRecord_fields {r : PageReq} (hp : r.pasid < 2 ^ 20) (hc : r.ctx < 2 ^ 12) (hf : r.first < 2 ^ 41)
    (hl : r.last < 2 ^ 41) (hk : r.kind < 4) :
    let w (hi lo : Nat) := bits (requestRecord r % 2 ^ (8 * 32)) hi lo
    w 31 0 = r.seq.toNat ∧ w 51 32 = r.pasid ∧ w 63 52 = r.ctx ∧ w 127 64 = 65536 * r.first ∧ w 191 128 = 65536 * r.last
      ∧ w 255 192 = r.kind := by
  have hs := r.seq.isLt
  simp only [bits, requestRecord]
  omega

theorem requestRoom_iff (s : State) (ter : Nat) : requestRoom s ter = false ↔
    (s.basin.prqtail.toNat + 2048 - s.basin.prqhead.toNat % 2048) % 2048 = 1024 ∨ 256 ≤ (s.reqs.filter fun r => r.terrace = ter).length := by
  simp only [requestRoom, Bool.and_eq_false_iff, decide_eq_false_iff_not, ne_eq, not_not, Nat.not_lt]
  exact or_comm

theorem coveringReq_isSome (s : State) (pasid kind lo hi : Nat) : (coveringReq s pasid kind lo hi).isSome = true ↔
    ∃ r ∈ s.reqs, r.pasid = pasid ∧ r.first ≤ lo ∧ hi ≤ r.last ∧ (r.kind = 2 ∨ r.kind = kind) := by
  simp only [coveringReq, List.find?_isSome, Bool.and_eq_true, Bool.or_eq_true, decide_eq_true_eq, and_assoc]

/-- What the event of a page request does for a probe that sleeps and whose missing pages no malformed entry precedes. -/
theorem pageRequest_eq {s : State} {k : Nat} {t : Thread} {g : Gated} {rest : List Gated} {d : Option (Fin 64)} {p : Fin 32}
    {b : Fin 64} {kind : BitVec 2} {m : Nat} {ms : List Nat} (ht : mfind s.threads k = some t) (hi : t.issue = g :: rest)
    (hg : g.instr = .probe d p b kind) (hp : t.probe = none) (hf : t.flow = .stalled .other) (hl : 1 ≤ (g.regs.s[b]).toNat)
    (hr : (pairVal g.regs p).toNat + (g.regs.s[b]).toNat ≤ 2 ^ 57)
    (hlim : (probePages (pairVal g.regs p).toNat (g.regs.s[b]).toNat).length ≤ pinLimit s t.launch.pasid.toNat)
    (hmiss : ((probePages (pairVal g.regs p).toNat (g.regs.s[b]).toNat).filter fun q =>
      probePage s t.launch.pasid.toNat kind.toNat q = .missing) = m :: ms)
    (hbad : ∀ q ∈ probePages (pairVal g.regs p).toNat (g.regs.s[b]).toNat, probePage s t.launch.pasid.toNat kind.toNat q ≠ .malformed) :
    let r : PageReq := ⟨s.reqSeq, t.launch.ctx.toNat, t.launch.pasid.toNat, terraceOf t.tile, kind.toNat, m, (m :: ms).getLastD m, true⟩
    execPageRequest k s = if !requestRoom s (terraceOf t.tile)
        || (coveringReq s t.launch.pasid.toNat kind.toNat m ((m :: ms).getLastD m)).isSome then .next s
      else .next ((sendPageRequest s r).setThread k { t with probe := some (r.seq, m :: ms, none) }) := by
  have hm : ((((probePages (pairVal g.regs p).toNat (g.regs.s[b]).toNat).map fun q =>
      (q, probePage s t.launch.pasid.toNat kind.toNat q)).filter fun q => q.2 = .missing).map (·.1)) = m :: ms := by
    rw [List.filter_map, List.map_map]
    simpa [Function.comp_def] using hmiss
  have hb : (((probePages (pairVal g.regs p).toNat (g.regs.s[b]).toNat).map fun q =>
      (q, probePage s t.launch.pasid.toNat kind.toNat q)).any fun q => q.2 = .malformed) = false := by
    simpa [List.any_eq_false] using hbad
  intro r
  simp only [execPageRequest, ht, hi, hp, hg, hm, hb, hf]
  rw [if_neg]
  · rfl
  · simp only [Bool.or_eq_true, decide_eq_true_eq]
    omega

theorem pageRequestIsSent : Says.PageRequestIsSent := by
  intro s k t g rest d p b kind m ms ht hi hg hp hf hmem va len pasid pages last hl hr hlim hmiss hbad full covered
  have heq := (exec_pageRequest k s).trans (pageRequest_eq ht hi hg hp hf hl hr hlim hmiss hbad)
  have hno : (!requestRoom s (terraceOf t.tile) || (coveringReq s pasid kind.toNat m last).isSome) = true ↔ full ∨ covered := by
    rw [Bool.or_eq_true, Bool.not_eq_true', requestRoom_iff, coveringReq_isSome]
  refine ⟨fun h => heq.trans (if_pos (hno.mpr h)), fun hfree hnone => ?_⟩
  rw [if_neg fun h => (hno.mp h).elim hfree hnone] at heq
  have hpage : ∀ q ∈ m :: ms, q < 2 ^ 41 := fun q hq => by
    rw [← hmiss] at hq
    exact probePages_lt hl hr (List.mem_filter.mp hq).1
  have hlast : last ∈ m :: ms := by
    rw [show last = (m :: ms).getLast (by simp) by simp [last, List.getLastD_eq_getLast?, List.getLast?_eq_some_getLast]]
    exact List.getLast_mem _
  intro r tail a
  have hu := holeWrite_homeOnly s (requestPlace s) 32 (requestRecord r)
  have hread : homeRead (sendPageRequest s r) (requestPlace s) 32 = requestRecord r % 2 ^ (8 * 32) := by
    rw [sendPageRequest_eq, homeRead_noteRequest, homeRead_holeWrite _ _ _ _ hmem]
  have hfields := requestRecord_fields (r := r) t.launch.pasid.isLt t.launch.ctx.isLt (hpage m (by simp)) (hpage _ hlast) kind.isLt
  rw [← hread] at hfields
  have hreqs : (sendPageRequest s r).reqs = s.reqs ++ [r] := by rw [sendPageRequest_eq, noteRequest, hu.reqs]
  have hseq : (sendPageRequest s r).reqSeq = s.reqSeq + 1 := by rw [sendPageRequest_eq, noteRequest, hu.reqSeq]
  have htail : (sendPageRequest s r).basin.prqtail.toNat = (tail + 1) % 2048 := by rw [sendPageRequest_eq, prqtail_noteRequest]
  have hirqs := irqs_noteRequest (homeWrite (s.noteHole (requestPlace s)) (requestPlace s) 32 (requestRecord r)) tail r
  rw [← sendPageRequest_eq, hu.basin] at hirqs
  generalize sendPageRequest s r = u at *
  exact ⟨_, heq, hreqs, hseq, htail, hirqs, mfind_mput_same .., hfields⟩

/-! ## Answers (R80 to R83) -/

/-- The probe of a thread that waits for the answered request goes on with the status. -/
def answered (seq : W32) (st : Nat) (w : Thread) : Thread :=
  match w.probe with
  | some (q, m, none) =>
    if q = seq then { w with probe := some (q, m, some st), flow := if w.run = .issuing then .normal else w.flow } else w
  | _ => w

/-- The status that a probe goes on with (R82). -/
def answerStatus (v : W64) : Nat := if v.extractLsb' 32 8 = 0 then 0 else if v.extractLsb' 32 8 = 1 then 1 else 3

theorem answerStatus_eq (v : W64) :
    (if bits v.toNat 39 32 = 0 || bits v.toNat 39 32 = 1 then bits v.toNat 39 32 else 3) = answerStatus v := by
  have h0 : v.extractLsb' 32 8 = 0 ↔ bits v.toNat 39 32 = 0 := by rw [bits_toNat, ← BitVec.toNat_inj]; rfl
  have h1 : v.extractLsb' 32 8 = 1 ↔ bits v.toNat 39 32 = 1 := by rw [bits_toNat, ← BitVec.toNat_inj]; rfl
  simp only [answerStatus, h0, h1]
  by_cases ha : bits v.toNat 39 32 = 0
  · simp [ha]
  · by_cases hb : bits v.toNat 39 32 = 1
    · simp [hb]
    · simp [ha, hb]

theorem answerReserved_iff (v : W64) : v.extractLsb' 40 24 = 0 ↔ bits v.toNat 63 40 = 0 := by
  rw [bits_toNat, ← BitVec.toNat_inj]
  rfl

theorem answerRequest_drops {s : State} {v : W64} (h : (∀ r ∈ s.reqs, r.seq ≠ v.setWidth 32) ∨ v.extractLsb' 40 24 ≠ 0) :
    answerRequest s v = { s with basin := { s.basin with prdrop := s.basin.prdrop + 1 } } := by
  rw [answerRequest]
  refine if_pos ?_
  rw [ne_eq, answerReserved_iff] at h
  simpa [or_comm] using h

theorem answerRequest_taken {s : State} {v : W64} {r : PageReq} (hr : r ∈ s.reqs) (hs : r.seq = v.setWidth 32)
    (h : v.extractLsb' 40 24 = 0) : answerRequest s v = { s with
      reqs := s.reqs.filter fun q => q.seq ≠ r.seq
      threads := s.threads.map fun e => (e.1, answered r.seq (answerStatus v) e.2) } := by
  have hany : (s.reqs.any fun q => q.seq = v.setWidth 32) = true := List.any_eq_true.mpr ⟨r, hr, by simp [hs]⟩
  have hthreads : (fun e : Nat × Thread => match e.2.probe with
      | some (q, m, none) => if q = v.setWidth 32 then (e.1, { e.2 with
          probe := some (q, m, some (answerStatus v)), flow := if e.2.run = .issuing then .normal else e.2.flow }) else e
      | _ => e) = fun e => (e.1, answered r.seq (answerStatus v) e.2) := by
    funext e
    unfold answered
    rw [hs]
    split
    · split
      · rfl
      · rfl
    · rfl
  rw [answerRequest, if_neg (by simp [(answerReserved_iff v).mp h, hany]), answerStatus_eq, ← hs]
  rw [← hs] at hthreads
  exact congrArg (fun f => { s with reqs := s.reqs.filter fun q => q.seq ≠ r.seq, threads := s.threads.map f }) hthreads

theorem pageRequestIsAnswered : Says.PageRequestIsAnswered := by
  intro s v
  refine ⟨fun h => ?_, fun r hr hs h => ?_⟩
  · rw [exec_prans, execPrans, runEvent, answerRequest_drops (s := { s with basin := { s.basin with prans := v } }) h]
  · refine ⟨_, exec_prans v s, ?_⟩
    rw [answerRequest_taken (s := { s with basin := { s.basin with prans := v } }) hr hs h]
    refine ⟨rfl, rfl, rfl, rfl, fun k w hw => ?_⟩
    have hu := (mfind_mapVals s.threads (fun _ => answered r.seq (answerStatus v)) k).trans (congrArg _ hw)
    rw [Option.map_some] at hu
    refine ⟨fun m hm hrun => hu.trans ?_, fun hm => hu.trans ?_⟩
    · simp only [answered, hm, if_true, hrun]
      rfl
    · unfold answered
      split
      · rename_i q m hq
        rw [if_neg (by rintro rfl; exact hm m hq)]
      · rfl

/-- Settles O24: releases by the pins of the one frame, requests by the record they write, answers by what they map over the
threads. -/
theorem releaseAndPageRequests : Obligations.ReleaseAndPageRequests :=
  ⟨releaseRuns, pageRequestIsSent, pageRequestIsAnswered⟩

end Sys2Proof.Machine
end

section
/-! PROOFS. Probe statuses and the pins that are counted (file 02; O23). -/

namespace Sys2Proof.Machine
open Sys2Proof.Says

/-! ## The sequencer that runs stays the same -/

theorem noteWalk_cur (s : State) (tile pasid page : Nat) : (noteWalk s tile pasid page).cur = s.cur := by
  unfold noteWalk noteMalformed
  split
  · rfl
  · rfl
  · rfl

theorem setPteBit_cur (s : State) (pte i : Nat) : (setPteBit s pte i).cur = s.cur := by
  unfold setPteBit
  extract_lets e
  split
  · rfl
  · exact (homeWrite_homeOnly ..).cur

theorem setFrameAccessed_cur (s : State) (pa : Nat) : (setFrameAccessed s pa).cur = s.cur := by
  unfold setFrameAccessed
  extract_lets a e
  split
  · rfl
  · exact (holeWrite_homeOnly ..).cur

theorem loadTlb_cur (s : State) (tile pasid page : Nat) : (loadTlb s tile pasid page).cur = s.cur := by
  unfold loadTlb
  split
  · rw [setFrameAccessed_cur, setPteBit_cur, State.setTile_cur]
  · rfl

theorem loadTlbs_cur (s : State) (tile pasid : Nat) (ps : List Nat) :
    (ps.foldl (fun u q => loadTlb u tile pasid q) s).cur = s.cur :=
  foldl_keeps (fun u => u.cur = s.cur) _ (fun u q h => (loadTlb_cur u tile pasid q).trans h) ps s rfl

/-! ## Pins (R76, R84) -/

/-- An operator with one more pin of a frame. -/
def pinned (f : Nat) (o : Operator) : Operator := { o with pins := mput o.pins f (mget 0 o.pins f + 1) }

/-- One operator's pins of a frame counted up. -/
def pinOps (u : State) (op f : Nat) : State := { u with ops := u.ops.map fun o => if o.1 = op then (o.1, pinned f o.2) else o }

/-- One pin more of an operator on a frame: the frame's own count and the operator's. -/
def pinFrame (op : Nat) (s : State) (f : Nat) : State :=
  pinOps (setFramePins s (framePa f) (framePins s (framePa f) + 1)) op f

theorem pinOps_cur (u : State) (op f : Nat) : (pinOps u op f).cur = u.cur := rfl

theorem pinOps_basin (u : State) (op f : Nat) : (pinOps u op f).basin = u.basin := rfl

theorem framePins_pinOps (u : State) (op f pa : Nat) : framePins (pinOps u op f) pa = framePins u pa := by
  simp only [framePins, frameEntry, homeRead, homeBytes_eq_map]
  rfl

theorem pinFrames_eq (s : State) (op pasid : Nat) (fs : List Nat) : pinFrames s op pasid fs
    = if fs.any fun f => framePins s (framePa f) = 65535 then .error 5
      else if pinLimit s pasid < (countedFrames s pasid).length + (fs.filter (!(countedFrames s pasid).contains ·)).length then .error 1
      else .ok (fs.foldl (pinFrame op) s) := by
  rw [pinFrames]
  rfl

theorem pinFrame_cur (op : Nat) (s : State) (f : Nat) : (pinFrame op s f).cur = s.cur := by
  rw [pinFrame, pinOps_cur, (setFramePins_homeOnly ..).cur]

theorem pinFrames_cur {s s' : State} {op pasid : Nat} {fs : List Nat} (h : pinFrames s op pasid fs = .ok s') : s'.cur = s.cur := by
  rw [pinFrames_eq] at h
  split at h
  · exact nomatch h
  · split at h
    · exact nomatch h
    · cases h
      exact foldl_keeps (fun u => u.cur = s.cur) _ (fun u f hu => (pinFrame_cur op u f).trans hu) fs s rfl

theorem pinFrame_ops (op : Nat) (s : State) (f : Nat) {o : Operator} (ho : mfind s.ops op = some o) :
    mfind (pinFrame op s f).ops op = some (pinned f o) := by
  rw [pinFrame, pinOps, (setFramePins_homeOnly ..).ops]
  exact mfind_mapAt s.ops op (pinned f) ho

theorem pinFrame_framePins (op : Nat) (s : State) (f : Nat) (h : s.memOk) (hlt : framePins s (framePa f) < 65535) :
    framePins (pinFrame op s f) (framePa f) = framePins s (framePa f) + 1 := by
  rw [pinFrame, framePins_pinOps]
  exact framePins_setFramePins s (framePa f) _ (by omega) h

theorem frameEntry_pinFrame (op : Nat) (s : State) (f pa : Nat) : frameEntry (pinFrame op s f) pa = frameEntry s pa := by
  rw [frameEntry, frameEntry, pinFrame, pinOps_basin, (setFramePins_homeOnly ..).basin]

theorem mem_countedFrames {s : State} {op pasid f : Nat} {o : Operator} (ho : mfind s.ops op = some o) (hp : o.pasid = pasid)
    (hf : mfind o.pins f ≠ none) : f ∈ countedFrames s pasid := by
  obtain ⟨n, hn⟩ := Option.ne_none_iff_exists'.mp hf
  rw [countedFrames, List.mem_eraseDups, List.mem_flatMap]
  exact ⟨(op, o), List.mem_filter.mpr ⟨mem_of_mfind ho, by simpa using hp⟩, List.mem_map.mpr ⟨(f, n), mem_of_mfind hn, rfl⟩⟩

theorem pinsAreCounted : Says.PinsAreCounted := by
  intro s op pasid f o ho hp hmem a pins
  rw [pinFrames_eq]
  have hpins : framePins s (framePa f) = pins := rfl
  refine ⟨fun hfull => if_pos (by simpa [hpins] using hfull), fun hfree hf hlim => ?_⟩
  have hin : f ∈ countedFrames s pasid := mem_countedFrames ho hp hf
  refine ⟨pinFrame op s f, pinned f o, ?_, pinFrame_ops op s f ho, ?_, ?_⟩
  · rw [if_neg (by simpa [hpins] using hfree.ne), if_neg (by simpa [hin] using hlim), List.foldl_cons, List.foldl_nil]
  · rw [pinned, mget, mfind_mput_same, Option.getD_some]
  · have hread := pinFrame_framePins op s f hmem hfree
    rwa [framePins, frameEntry_pinFrame] at hread

/-! ## What a probe finds (R73 to R75) -/

section
variable {s s' : State} {t t' : Thread} {g : Gated} {rest : List Gated} {d : Option (Fin 64)} {p : Fin 32} {b : Fin 64}
  {kind : BitVec 2} (h : Issues s t (.probe d p b kind) g rest)
include h

/-- A probe that ends returns its status to the register it names, if any, as it issues. -/
theorem probe_ends {n : Nat} (hn : (probeStep t (pairVal g.regs p).toNat (g.regs.s[b]).toNat kind.toNat).run s = (.ok (t', some n), s'))
    (hc : s'.cur = s.cur) (hr : t'.run = t.run) (hi : t'.issue = t.issue) :
    exec (.probe d p b kind) s = .next ((s'.setThread s.cur t').setThread s.cur (finishIssue (s'.setThread s.cur t')
      { t' with issue := rest, results := t'.results ++ match d with
        | none => []
        | some d => [(d, BitVec.ofNat 32 n)] })) := by
  obtain ⟨ht, hrun, hq, hg, -⟩ := h
  rw [exec_probe, execProbe, show mfind s.threads s.cur = some t from ht]
  simp only [hrun, hq, hn]
  have hcur : (s'.setThread s.cur t').cur = s.cur := hc
  refine (runGated_issue (t := t') (g := g) (rest := rest) ?_ (hr.trans hrun) (hi.trans hq) hg (.inr rfl) rfl).trans ?_
  · rw [hcur]
    exact mfind_mput_same ..
  · rw [hcur]
    cases d with
    | none => rw [List.append_nil]
    | some d => rfl

/-- A probe that waits. -/
theorem probe_waits (hn : (probeStep t (pairVal g.regs p).toNat (g.regs.s[b]).toNat kind.toNat).run s = (.ok (t', none), s)) :
    Makes s (.probe d p b kind) { t' with flow := .stalled .other } := by
  obtain ⟨ht, hrun, hq, hg, -⟩ := h
  rw [Makes, exec_probe, execProbe, show mfind s.threads s.cur = some t from ht]
  simp only [hrun, hq, hn]
  rfl

end

/-- The sequencer of a probe whose missing pages `ms` an outstanding request covers, if one does: it waits for its answer
(R79). -/
def joinRequest (t : Thread) (ms : List Nat) : Option PageReq → Thread
  | some r => { t with probe := some (r.seq, ms, none) }
  | none => t

section
variable {s : State} {t : Thread} {va len kind : Nat}

theorem probeStep_empty : (probeStep t va 0 kind).run s = (.ok (t, some 0), s) := rfl

theorem probeStep_outside (hl : len ≠ 0) (h : 2 ^ 57 < va + len) : (probeStep t va len kind).run s = (.ok (t, some 4), s) := by
  rw [probeStep, if_neg hl, if_pos (by simpa using Or.inr h)]
  rfl

variable (hl : len ≠ 0) (hr : va + len ≤ 2 ^ 57)
include hl hr

theorem probe_inside : ¬ ((decide (2 ^ 57 ≤ va) || decide (2 ^ 57 < va + len)) = true) := by
  simp only [Bool.or_eq_true, decide_eq_true_eq]
  omega

theorem probeStep_answered {q : W32} {m : List Nat} {st : Nat} (hp : t.probe = some (q, m, some st)) (hst : st ≠ 0) :
    (probeStep t va len kind).run s = (.ok ({ t with probe := none }, some st), s) := by
  rw [probeStep, if_neg hl, if_neg (probe_inside hl hr)]
  simp only [hp, hst, ne_eq, not_false_eq_true, if_true]
  rfl

variable (hp : t.probe = none)
include hp

theorem probeStep_noTable {w : Walk} (hw : pasidEntry s t.launch.pasid.toNat = .error w) :
    (probeStep t va len kind).run s = (.ok (t, some 3), noteWalk s t.tile t.launch.pasid.toNat (va / 65536)) := by
  rw [probeStep, if_neg hl, if_neg (probe_inside hl hr)]
  simp only [hp]
  rw [op_run_bind_ok (op_run_get s)]
  rw [hw]
  rfl

variable {root limit : Nat} (hroot : pasidEntry s t.launch.pasid.toNat = .ok (root, limit))
include hroot

theorem probeStep_tooMany (hlim : limit < (probePages va len).length) : (probeStep t va len kind).run s = (.ok (t, some 2), s) := by
  rw [probeStep, if_neg hl, if_neg (probe_inside hl hr)]
  simp only [hp]
  rw [op_run_bind_ok (op_run_get s)]
  rw [hroot]
  dsimp only
  rw [if_pos hlim]
  rfl

variable (hlim : (probePages va len).length ≤ limit)
include hlim

theorem probeStep_malformed {q : Nat}
    (hq : (probePages va len).find? (fun p => probePage s t.launch.pasid.toNat kind p = .malformed) = some q) :
    (probeStep t va len kind).run s = (.ok (t, some 3), noteWalk s t.tile t.launch.pasid.toNat q) := by
  rw [probeStep, if_neg hl, if_neg (probe_inside hl hr)]
  simp only [hp]
  rw [op_run_bind_ok (op_run_get s)]
  rw [hroot]
  dsimp only
  rw [if_neg (by omega), hq]
  rfl

theorem probeStep_pins (hok : ∀ q ∈ probePages va len, ∃ pa, probePage s t.launch.pasid.toNat kind q = .ok pa) {s' : State}
    (hpin : pinFrames (s.noteHole s.basin.frtb.toNat) t.op t.launch.pasid.toNat
      ((probePages va len).filterMap fun q => match probePage s t.launch.pasid.toNat kind q with
        | .ok pa => some (frameIndex pa)
        | _ => none).eraseDups = .ok s') :
    (probeStep t va len kind).run s
      = (.ok (t, some 0), (probePages va len).foldl (fun u q => loadTlb u t.tile t.launch.pasid.toNat q) s') := by
  have hbad : (probePages va len).find? (fun p => probePage s t.launch.pasid.toNat kind p = .malformed) = none := by
    refine List.find?_eq_none.mpr fun q hq => ?_
    obtain ⟨pa, hpa⟩ := hok q hq
    simp [hpa]
  have hmiss : (probePages va len).filter (fun p => probePage s t.launch.pasid.toNat kind p = .missing) = [] := by
    refine List.filter_eq_nil_iff.mpr fun q hq => ?_
    obtain ⟨pa, hpa⟩ := hok q hq
    simp [hpa]
  have hany : ¬ (((probePages va len).map fun q => probePage s t.launch.pasid.toNat kind q).any
      fun | .ok _ => false | _ => true) = true := by
    rw [List.any_map, List.any_eq_true]
    rintro ⟨q, hq, hbad⟩
    obtain ⟨pa, hpa⟩ := hok q hq
    simp [hpa] at hbad
  have hrun : (probePin t kind (probePages va len)).run s
      = (.ok (some 0), (probePages va len).foldl (fun u q => loadTlb u t.tile t.launch.pasid.toNat q) s') := by
    rw [probePin, op_run_bind_ok (op_run_get s)]
    dsimp only
    split
    · rename_i hb
      exact absurd hb hany
    · rw [List.filterMap_map]
      split
      · rename_i he
        exact nomatch hpin.symm.trans he
      · rename_i he
        cases hpin.symm.trans he
        rfl
  rw [probeStep, if_neg hl, if_neg (probe_inside hl hr)]
  simp only [hp]
  rw [op_run_bind_ok (op_run_get s)]
  rw [hroot]
  dsimp only
  rw [if_neg (by omega), hbad, hmiss]
  exact op_run_bind_ok hrun

theorem probeStep_missing {m : Nat} {ms : List Nat}
    (hbad : (probePages va len).find? (fun p => probePage s t.launch.pasid.toNat kind p = .malformed) = none)
    (hmiss : (probePages va len).filter (fun p => probePage s t.launch.pasid.toNat kind p = .missing) = m :: ms)
    (hpond : s.pondOf t.op = none) :
    (probeStep t va len kind).run s
      = (.ok (joinRequest t (m :: ms) (coveringReq s t.launch.pasid.toNat kind m ((m :: ms).getLastD m)), none), s) := by
  rw [probeStep, if_neg hl, if_neg (probe_inside hl hr)]
  simp only [hp]
  rw [op_run_bind_ok (op_run_get s)]
  rw [hroot]
  dsimp only
  rw [if_neg (by omega), hbad, hmiss]
  dsimp only
  rw [if_neg (by simp [hpond])]
  generalize coveringReq s t.launch.pasid.toNat kind m ((m :: ms).getLastD m) = covering
  cases covering with
  | none => rfl
  | some r => rfl

end

/-- The pages of a range that is not empty, from its first to its last. -/
theorem probePages_ends {va len : Nat} (hl : len ≠ 0) :
    ∃ ms, probePages va len = va / 65536 :: ms ∧ (va / 65536 :: ms).getLastD (va / 65536) = (va + len - 1) / 65536 := by
  obtain ⟨n, hn⟩ : ∃ n, (va + len - 1) / 65536 + 1 - va / 65536 = n + 1 := ⟨(va + len - 1) / 65536 - va / 65536, by omega⟩
  have hpages : probePages va len = va / 65536 :: (List.range n).map fun i => va / 65536 + (i + 1) := by
    rw [probePages, hn, List.range_succ_eq_map, List.map_cons, List.map_map]
    rfl
  refine ⟨_, hpages, ?_⟩
  rw [← hpages, probePages, hn, List.range_succ, List.map_append, List.map_singleton, List.getLastD_concat]
  omega

theorem probeStatuses : Says.ProbeStatuses := by
  intro s t g rest d p b kind h va len pasid pages result gives
  have hpond : s.pondOf t.op = none := h.2.2.2.2
  refine ⟨fun hl => ?_, fun hl hr => ?_, fun hl hr hp w hw => ?_, fun hl hr hp root limit hroot => ⟨fun hlim => ?_,
    fun hlim hok fs s' hfs hpin => ?_, fun hlim q hq => ?_, fun hlim hmiss => ?_⟩, fun hl hr q m st hp hst => ?_⟩
  · have hstep : (probeStep t va len kind.toNat).run s = (.ok (t, some 0), s) := by rw [hl, probeStep_empty]
    exact probe_ends h hstep rfl rfl rfl
  · exact probe_ends h (probeStep_outside hl hr) rfl rfl rfl
  · exact probe_ends h (probeStep_noTable hl hr hp hw) (noteWalk_cur ..) rfl rfl
  · exact probe_ends h (probeStep_tooMany hl hr hp hroot hlim) rfl rfl rfl
  · rw [hfs] at hpin
    refine probe_ends h (probeStep_pins hl hr hp hroot hlim hok hpin) ?_ rfl rfl
    rw [loadTlbs_cur, pinFrames_cur hpin, (noteHole_homeOnly s _).cur]
  · exact probe_ends h (probeStep_malformed hl hr hp hroot hlim hq) (noteWalk_cur ..) rfl rfl
  · obtain ⟨ms, hpages, hlast⟩ := probePages_ends (va := va) hl
    have hbad : (probePages va len).find? (fun p => probePage s pasid kind.toNat p = .malformed) = none :=
      List.find?_eq_none.mpr fun q hq => by simp [hmiss q hq]
    have hall : (probePages va len).filter (fun p => probePage s pasid kind.toNat p = .missing) = va / 65536 :: ms := by
      rw [← hpages]
      exact List.filter_eq_self.mpr fun q hq => by simpa using hmiss q hq
    have hstep := probeStep_missing hl hr hp hroot hlim hbad hall hpond
    rw [hlast] at hstep
    refine ⟨fun hnone => probe_waits h (hstep.trans ?_), fun r hreqs hcov => ?_⟩
    · have hc : coveringReq s pasid kind.toNat (va / 65536) ((va + len - 1) / 65536) = none := by
        rw [← Option.not_isSome_iff_eq_none, coveringReq_isSome]
        rintro ⟨r, hr, hcov⟩
        exact hnone r hr hcov
      rw [hc]
      rfl
    · have hc : coveringReq s pasid kind.toNat (va / 65536) ((va + len - 1) / 65536) = some r := by
        rw [coveringReq, hreqs, List.find?_cons_of_pos]
        simpa [and_assoc] using hcov
      rw [hc, ← hpages] at hstep
      exact probe_waits h hstep
  · exact probe_ends h (probeStep_answered hl hr hp hst) rfl rfl rfl

/-- Settles O23: the step of a probe branch by branch, and a pin's count on the operator and in the frame's entry. -/
theorem probesAndPins : Obligations.ProbesAndPins :=
  ⟨probeStatuses, pinsAreCounted⟩

end Sys2Proof.Machine
end

section
/-! PROOFS. An atomic that differs from its update-only line, in a tile that lists the line twice (R93; O18). -/

namespace Sys2Proof.Machine
open Sys2Proof.Says

/-! ## The counterexample -/

/-- A page of zero addresses, cached and writable, as the TLB of the counterexample has it. -/
def twicePage : TlbEntry := ⟨0, 0, false, 0, true, true, true, true, 0⟩

/-- The lines the tile records are of `at.min`, the atomic that issues is an `at.add`. -/
def twiceLine : Uol := { kind := .min, wide := false, col := 0, words := [], from_ := [] }

def twiceForm : AtOp := ⟨.pair 0, 0, false, 0, 0⟩

/-- The `at.add` as it was captured, with all registers 0. -/
def twiceGated : Gated := ⟨.atAdd twiceForm, {}, 0, 1⟩

/-- The sequencer whose seal has passed, with the `at.add` to issue. -/
def twiceThread : Thread :=
  { op := 0, ltile := 0, seq := 0, tile := 0, pseq := 0, run := .issuing, issue := [twiceGated], ord := 2 }

/-- Tile 0 records line 0 twice, and the request to evict it has left the port. -/
def twiceState : State :=
  { State.reset with
    cur := 0
    threads := [(twiceThread.key, twiceThread)]
    tiles := [(0, { tlb := [twicePage], uol := [(0, twiceLine), (0, twiceLine)], sent := [⟨0, 0, .evict, false⟩] })] }

/-- The atomic the `at.add` stands for. -/
def twiceAtomic : Atomic := { kind := .add, wide := false, loc := .glob 0 true, v := 0, col := 0, ord := 1 }

/-- Tile 0 with the first of the two lines merged. -/
def twiceSent : State := mergeTileLine (wantLines twiceState 0 [portReq twiceState 0 0 .evict false]).1 0 0

/-- How many atomics the sequencer of the counterexample has waiting after a step. -/
def twiceWaiting (o : Host.Outcome State Fault Refusal) : Nat :=
  match o with
  | .next s => ((mfind s.threads twiceThread.key).map fun t => t.waiting.length).getD 0
  | _ => 0

/-! ## What the model does with it -/

theorem twiceState_issues : Issues twiceState twiceThread (.atAdd twiceForm) twiceGated [] := by
  refine ⟨rfl, rfl, rfl, rfl, ?_⟩
  decide +kernel

theorem twiceState_barriersMet : BarriersMet twiceState twiceThread [] twiceGated := by
  intro b hb
  exact absurd hb (List.not_mem_nil)

theorem twiceState_baseAddr :
    baseAddr (viewOf twiceState twiceThread) twiceGated.regs twiceForm.base twiceForm.off.toInt 4 4 = .ok (.glob 0, 0) := by
  decide +kernel

theorem twiceState_reaches : Reaches twiceState twiceThread (.glob 0) 4 true twicePage := by
  refine ⟨?_, ?_, rfl, ?_, rfl, rfl⟩ <;> decide +kernel

/-- The second line, which differs too, stands after the first was merged: the atomic waits. -/
theorem twiceState_atomic_waits : twiceWaiting (exec (.atAdd twiceForm) twiceState) = 1 := by
  decide +kernel

/-- The sequencer the statement names has nothing waiting. -/
theorem twiceSent_entered_waits_not :
    twiceWaiting (.next ((enterUol twiceSent 0 twiceThread.key twiceAtomic 0).setThread 0
      (finishIssue (enterUol twiceSent 0 twiceThread.key twiceAtomic 0) { twiceThread with issue := [] }))) = 0 := by
  decide +kernel

/-- Refutes O18: the statement takes any list of update-only lines. Where a tile lists one line twice, and both differ from
the atomic that issues, the merge takes the first away and the atomic waits for the second, while the statement has it
enter the line. (A list whose lines rise, as O19 asks for, has no line twice.) -/
theorem not_atomicsIssueAndApply : ¬ Obligations.AtomicsIssueAndApply := by
  rintro ⟨hissue, -⟩
  obtain ⟨hcomm, -⟩ := hissue twiceState twiceThread twiceGated [] 0 twicePage 0 twiceState_barriersMet rfl
    (by decide +kernel) (by decide +kernel)
  obtain ⟨-, hcached⟩ := hcomm twiceForm (.atAdd twiceForm, .add) (.head _) ⟨twiceState_baseAddr, twiceState_reaches⟩
  obtain ⟨-, -, hdiffers⟩ := hcached rfl twiceState_issues
  obtain ⟨-, henters⟩ := hdiffers ⟨by decide +kernel, fun y hy => absurd hy List.not_mem_nil⟩
    ⟨twiceLine, by decide +kernel, by decide +kernel⟩
  have hmodel : exec (.atAdd twiceForm) twiceState = _ :=
    henters (by decide +kernel) (by decide +kernel) (by decide +kernel)
  have hwaits := twiceState_atomic_waits
  rw [hmodel] at hwaits
  exact absurd (twiceSent_entered_waits_not.symm.trans hwaits) (by decide)

end Sys2Proof.Machine
end

section
/-! SUPPORT. What the front end leaves of the operators: it settles records without touching them, and takes one off its
tiles with all it has there (R342). -/

namespace Sys2Proof.Machine

/-! ## States with the same operators -/

/-- The operators, and what each has on its tiles, are those of `s`. -/
structure SameOps (s u : State) : Prop where
  ops : u.ops = s.ops
  opTiles : u.opTiles = s.opTiles

namespace SameOps

theorem refl (s : State) : SameOps s s := ⟨rfl, rfl⟩

theorem trans {a b c : State} (h : SameOps a b) (h' : SameOps b c) : SameOps a c :=
  ⟨h'.ops.trans h.ops, h'.opTiles.trans h.opTiles⟩

theorem of_homeOnly {s u : State} (h : HomeOnly s u) : SameOps s u := ⟨h.ops, by rw [h.same]⟩

theorem foldl {β : Type} {f : State → β → State} (hf : ∀ u x, SameOps u (f u x)) (xs : List β) (s : State) :
    SameOps s (xs.foldl f s) := foldl_keeps (SameOps s) f (fun u x hu => hu.trans (hf u x)) xs s (.refl s)

end SameOps

/-! ## Writes of the basin (R335) -/

theorem noteWord_sameOps (s : State) (line : Nat) : SameOps s (s.noteWord line) := ⟨rfl, rfl⟩

theorem mergeWords_sameOps (line : Nat) (u : Uol) (ws : Map W64) (s : State) : SameOps s (mergeWords s line u ws) := by
  induction ws generalizing s with
  | nil => exact .refl s
  | cons w ws ih =>
    have hl2 : SameOps s { s with l2 := mput s.l2 line (l2Line s line) } := ⟨rfl, rfl⟩
    exact (hl2.trans (.of_homeOnly (homeWrite_homeOnly ..))).trans (ih _)

theorem setTile_sameOps (s : State) (k : Nat) (t : Tile) : SameOps s (s.setTile k t) := ⟨rfl, rfl⟩

theorem mergeTileLine_sameOps (s : State) (tile line : Nat) : SameOps s (mergeTileLine s tile line) := by
  unfold mergeTileLine
  split
  · exact .refl s
  · exact ((setTile_sameOps ..).trans (mergeWords_sameOps ..)).trans (noteWord_sameOps ..)

theorem mergeLine_sameOps (s : State) (line : Nat) : SameOps s (mergeLine s line) :=
  .foldl (f := fun u (e : Nat × Tile) => mergeTileLine u e.1 line) (fun u e => mergeTileLine_sameOps u e.1 line) _ s

theorem basinPut_sameOps (s : State) (pa : Nat) (data : List Byte) (cached : Bool) : SameOps s (basinPut s pa data cached) := by
  have hm := mergeLine_sameOps s (lineOf pa)
  unfold basinPut
  extract_lets s1 l s2
  split
  · have h2 : SameOps s1 s2 := ⟨rfl, rfl⟩
    exact ((hm.trans h2).trans (.of_homeOnly (homeWriteBytes_homeOnly ..))).trans (noteWord_sameOps ..)
  · exact ⟨hm.ops, hm.opTiles⟩

theorem setPteBit_sameOps (s : State) (pte i : Nat) : SameOps s (setPteBit s pte i) := by
  unfold setPteBit
  extract_lets e
  split
  · exact .refl s
  · exact .of_homeOnly (homeWrite_homeOnly ..)

/-- A write of the basin that succeeds touches no operator. -/
theorem basinWrite_sameOps {s u : State} {pasid va : Nat} {data : List Byte} (h : basinWrite s pasid va data = some u) :
    SameOps s u := by
  refine foldl_keeps (fun o => ∀ u, o = some u → SameOps s u) _ (fun o q ho u hu => ?_) _ (some s)
    (fun u hu => Option.some.inj hu ▸ .refl s) u h
  split at hu
  · cases hu
  · rename_i s1
    split at hu
    · cases hu
      exact ((ho s1 rfl).trans (setPteBit_sameOps ..)).trans (basinPut_sameOps ..)
    · cases hu

theorem setQueues_sameOps (s : State) (qs : Map Queue) : SameOps s { s with queues := qs } := ⟨rfl, rfl⟩

theorem putQueue_sameOps (s : State) (slot : Nat) (q : Queue) : SameOps s (putQueue s slot q) := by
  unfold putQueue
  exact (SameOps.of_homeOnly (holeWrite_homeOnly ..)).trans (setQueues_sameOps ..)

/-! ## Records (R342, R345) -/

theorem setRec_sameOps (s : State) (r : Rec) : SameOps s (setRec s r) := ⟨rfl, rfl⟩

theorem endRecord_sameOps (s : State) (r : Rec) (status : Nat) : SameOps s (endRecord s r status) := by
  unfold endRecord
  extract_lets done s1 exit hi lo
  have h1 : SameOps s s1 := setRec_sameOps ..
  split
  · exact h1
  · split
    · rename_i he
      obtain ⟨s2, h2, h3⟩ := Option.bind_eq_some_iff.mp he
      exact (h1.trans (basinWrite_sameOps h2)).trans (basinWrite_sameOps h3)
    · exact h1.trans (putQueue_sameOps ..)

theorem settleRec_sameOps (s : State) (r : Rec) : SameOps s (settleRec s r) := by
  unfold settleRec
  split
  · extract_lets pred
    clear_value pred
    split
    · split
      · exact setRec_sameOps ..
      · exact .refl s
    · split
      · exact setRec_sameOps ..
      · exact .refl s
    · exact setRec_sameOps ..
    · exact setRec_sameOps ..
    · exact .refl s
  · split
    · exact endRecord_sameOps ..
    · exact .refl s
  · exact .refl s

theorem settleRecs_sameOps (s : State) : SameOps s (settleRecs s) := by
  refine .foldl (fun u e => ?_) _ s
  split
  · exact settleRec_sameOps ..
  · exact .refl u

theorem settleTwice_sameOps (n : Nat) (s : State) : SameOps s (settleTwice n s) := by
  induction n generalizing s with
  | zero => exact .refl s
  | succ n ih => exact (settleRecs_sameOps s).trans (ih _)

/-! ## An operator taken off its tiles -/

theorem markTicket_sameOps (s : State) (c : FlumeCmd) (x : TicketState) : SameOps s (markTicket s c x) := by
  unfold markTicket
  split
  · exact ⟨rfl, rfl⟩
  · exact .refl s

theorem returnFrames_sameOps (s : State) (ter : Nat) (fs : List Nat) : SameOps s (returnFrames s ter fs) := ⟨rfl, rfl⟩

theorem cancelFlumes_sameOps (s : State) (p : Nat → FlumeCmd → Bool) : SameOps s (cancelFlumes s p) := by
  unfold cancelFlumes
  extract_lets gone kept pages s1
  have h0 : SameOps s { s with flumes := s.flumes.filter fun e => !p e.1 e.2 } := ⟨rfl, rfl⟩
  have h1 : SameOps s s1 :=
    h0.trans (.foldl (f := fun u (e : Nat × FlumeCmd) => markTicket u e.2 .cancelled)
      (fun u e => markTicket_sameOps u e.2 .cancelled) _ _)
  exact h1.trans (.foldl (f := fun u (f : Nat × Nat) => returnFrames u f.1 [f.2])
    (fun u f => returnFrames_sameOps u f.1 [f.2]) _ _)

/-- Operator 0, where there is one, stays as it is, and what each operator has on its tiles. -/
structure KeepsFirst (s u : State) : Prop where
  op : ∀ o, mfind s.ops 0 = some o → mfind u.ops 0 = some o
  opTiles : u.opTiles = s.opTiles

theorem SameOps.keepsFirst {s u : State} (h : SameOps s u) : KeepsFirst s u := ⟨fun o ho => by rw [h.ops, ho], h.opTiles⟩

theorem KeepsFirst.trans {a b c : State} (h : KeepsFirst a b) (h' : KeepsFirst b c) : KeepsFirst a c :=
  ⟨fun o ho => h'.op o (h.op o ho), h'.opTiles.trans h.opTiles⟩

theorem unpinOps_keepsFirst (u : State) {op : Nat} (f n : Nat) (h : op ≠ 0) : KeepsFirst u (unpinOps u op f n) := by
  refine ⟨fun o ho => ?_, rfl⟩
  have hmap : (unpinOps u op f n).ops
      = u.ops.map fun e => (e.1, (fun i o => if i = op then unpinned f n o else o) e.1 e.2) := by
    refine List.map_congr_left fun e _ => ?_
    dsimp only
    split
    · rfl
    · rfl
  rw [hmap, mfind_mapVals u.ops fun i o => if i = op then unpinned f n o else o, ho]
  simp [Ne.symm h]

theorem unpinFrame_keepsFirst (s : State) {op : Nat} (f n : Nat) (h : op ≠ 0) : KeepsFirst s (unpinFrame s op f n) := by
  rw [unpinFrame_eq]
  exact (SameOps.of_homeOnly (setFramePins_homeOnly ..)).keepsFirst.trans (unpinOps_keepsFirst _ f n h)

theorem dropPins_keepsFirst (s : State) {op : Nat} (h : op ≠ 0) : KeepsFirst s (dropPins s op) := by
  unfold dropPins
  split
  · exact (SameOps.refl s).keepsFirst
  · refine foldl_keeps (KeepsFirst s) _ (fun u (e : Nat × Nat) hu => ?_) _ s (SameOps.refl s).keepsFirst
    exact hu.trans (unpinFrame_keepsFirst u e.1 e.2 h)

/-- Key 0 is found at the head of a table alone: it stays where another key goes, whatever the order of the keys. -/
theorem mfind_mdel_zero {α : Type} {m : Map α} {k : Nat} {x : α} (h : k ≠ 0) (hx : mfind m 0 = some x) :
    mfind (mdel m k) 0 = some x := by
  match m with
  | [] => cases hx
  | (0, v) :: r =>
    have hv : v = x := by simpa [mfind] using hx
    simp [mdel, mfind, h, hv]
  | (j + 1, v) :: r => simp [mfind] at hx

/-- The last of an operator's departure: its entry, its sequencers and what is its on the tiles. -/
def leaveTiles (u : State) (op : Nat) : State :=
  let gone (k : Nat) : Bool := keyOp k = op
  { u with
    ops := mdel u.ops op
    threads := u.threads.filter fun e => e.2.op ≠ op
    opTiles := u.opTiles.filter fun e => e.1 / 512 ≠ op
    tiles := u.tiles.map fun e => (e.1, { e.2 with
      leaseQ := e.2.leaseQ.filter fun r => !gone r.thread
      turn := if e.2.turn.any gone then none else e.2.turn
      portQ := e.2.portQ.filter fun r => r.owner.op ≠ some op
      sent := e.2.sent.filter fun r => r.owner.op ≠ some op }) }

theorem dropOperator_eq (s : State) (op : Nat) :
    dropOperator s op = leaveTiles (dropPins (cancelFlumes s fun _ c => keyOp c.thread = op) op) op := by
  unfold dropOperator
  extract_lets u v
  rfl

/-- Operator 0 with its tiles as it was, or gone with all it had there. -/
structure FirstStays (s u : State) : Prop where
  op : (∃ e ∈ u.opTiles, e.1 / 512 = 0) → ∀ o, mfind s.ops 0 = some o → mfind u.ops 0 = some o
  opTiles : ∀ e ∈ u.opTiles, e ∈ s.opTiles

theorem FirstStays.trans {a b c : State} (h : FirstStays a b) (h' : FirstStays b c) : FirstStays a c := by
  refine ⟨fun ⟨e, he, he0⟩ o ho => ?_, fun e he => h.opTiles e (h'.opTiles e he)⟩
  exact h'.op ⟨e, he, he0⟩ o (h.op ⟨e, h'.opTiles e he, he0⟩ o ho)

theorem KeepsFirst.firstStays {s u : State} (h : KeepsFirst s u) : FirstStays s u :=
  ⟨fun _ => h.op, fun e he => by rwa [← h.opTiles]⟩

theorem mem_leaveTiles_opTiles {u : State} {op : Nat} {e : Nat × OpTile} :
    e ∈ (leaveTiles u op).opTiles ↔ e ∈ u.opTiles ∧ e.1 / 512 ≠ op := by
  simp [leaveTiles]

theorem leaveTiles_ops (u : State) (op : Nat) : (leaveTiles u op).ops = mdel u.ops op := rfl

theorem unpinOps_opTiles (u : State) (op f n : Nat) : (unpinOps u op f n).opTiles = u.opTiles := rfl

theorem unpinFrame_opTiles (s : State) (op f n : Nat) : (unpinFrame s op f n).opTiles = s.opTiles := by
  rw [unpinFrame_eq, unpinOps_opTiles]
  exact (SameOps.of_homeOnly (setFramePins_homeOnly ..)).opTiles

theorem dropPins_opTiles (s : State) (op : Nat) : (dropPins s op).opTiles = s.opTiles := by
  unfold dropPins
  split
  · rfl
  · refine foldl_keeps (fun u => u.opTiles = s.opTiles) _ (fun u (e : Nat × Nat) hu => ?_) _ s rfl
    exact (unpinFrame_opTiles u op e.1 e.2).trans hu

/-- An operator leaves its tiles once its pins have gone. -/
theorem leaveTiles_dropPins_firstStays (w : State) (op : Nat) : FirstStays w (leaveTiles (dropPins w op) op) where
  op := by
    rintro ⟨e, he, he0⟩ o ho
    have hop : op ≠ 0 := fun h => (mem_leaveTiles_opTiles.mp he).2 (he0.trans h.symm)
    rw [leaveTiles_ops]
    exact mfind_mdel_zero hop ((dropPins_keepsFirst w hop).op o ho)
  opTiles := by
    intro e he
    rw [← dropPins_opTiles w op]
    exact (mem_leaveTiles_opTiles.mp he).1

theorem dropOperator_firstStays (s : State) (op : Nat) : FirstStays s (dropOperator s op) := by
  rw [dropOperator_eq]
  exact (cancelFlumes_sameOps s _).keepsFirst.firstStays.trans (leaveTiles_dropPins_firstStays _ op)

/-- Where something is still on operator 0's tiles after the front end has settled, its entry is as it was. -/
theorem frontSettle_firstStays (s : State) : FirstStays s (frontSettle s) := by
  have h0 := (settleTwice_sameOps (s.recs.length + 1) s).keepsFirst.firstStays
  exact foldl_keeps (FirstStays s) _ (fun u op hu => hu.trans (dropOperator_firstStays u op)) _ _ h0

end Sys2Proof.Machine
end

section
/-! PROOFS. A retirement where the table of sequencers lists one of another operator under a key of the one that is to be
trapped (R328; O28). -/

namespace Sys2Proof.Machine
open Sys2Proof.Says

/-! ## The counterexample -/

/-- Operator 0, not restartable, on tile 0. -/
def strayOp : Operator := { slot := 0, index := 0, ctx := 0, pasid := 0, obj := 0, tiles := [(0, 0)] }

/-- A stopped sequencer of an operator on tile 0. -/
def strayThread (op : Nat) : Thread := { op := op, ltile := 0, seq := 0, tile := 0, pseq := 0, run := .stopped }

/-- Tile 0, to be retired for a block of the sequencer that stands under key 0. -/
def strayTile : Tile := { retiring := true, culprits := [⟨0, 0, 0, 0⟩] }

/-- Key 0, one of operator 0's, holds a sequencer of operator 1, which there is not; operator 0 has one under key 1. -/
def strayState : State :=
  { State.reset with
    threads := [(0, strayThread 1), (1, strayThread 0)]
    ops := [(0, strayOp)]
    opTiles := [(0, {})]
    tiles := [(0, strayTile)] }

/-- Whether operator 0 still runs, with what it has on its tile. -/
def strayRuns (s : State) : Bool := (s.opTiles.any fun e => e.1 / 512 = 0) && (mfind s.ops 0).any fun o => o.state = .started

/-- The state after a step. -/
def nextOf (o : Host.Outcome State Fault Refusal) : State :=
  match o with
  | .next s => s
  | _ => State.reset

/-- The model takes the trap for the sequencer under key 0, and so for operator 1: operator 0 runs on. -/
theorem strayState_runs_on : strayRuns (nextOf (exec (.tileRetirement 0) strayState)) = true := by
  decide +kernel

/-- Refutes O28: the statement takes any table of sequencers. Where the key of the sequencer at fault, one of the
retired operator's, holds a sequencer of another operator, the trap is the other's, and the operator does not end. -/
theorem not_sweepingAndRetirement : ¬ Obligations.SweepingAndRetirement := by
  rintro ⟨-, hretire⟩
  obtain ⟨-, hone, -⟩ := hretire strayState 0
  obtain ⟨u, u0, hexec, hu, -, -, -, -, -, htrapped⟩ := hone 0 strayOp (by decide +kernel) (by decide +kernel)
    (by decide +kernel) (by decide +kernel) (by decide +kernel) (by decide +kernel) (by decide +kernel) (by decide +kernel)
    (by decide +kernel) (by decide +kernel)
  obtain ⟨o', ho', -, hends⟩ := htrapped rfl (.inl (by decide +kernel)) rfl rfl (by decide +kernel) (by decide +kernel)
  have hruns : strayRuns (frontSettle u0) = true := by
    rw [← hu]
    simpa [hexec, nextOf] using strayState_runs_on
  rw [strayRuns, Bool.and_eq_true, List.any_eq_true] at hruns
  obtain ⟨⟨e, he, he0⟩, hstarted⟩ := hruns
  have hstays := (frontSettle_firstStays u0).op ⟨e, he, of_decide_eq_true he0⟩ o' ho'
  rw [hstays] at hstarted
  simp [hends] at hstarted

end Sys2Proof.Machine
end

section
/-! PROOFS. Barriers, region maps, stamps and flushes, which wait for their block's seal (O16). -/

namespace Sys2Proof.Machine
open Sys2Proof.Says

/-! ## Regions (R104, R105, R288) -/

section
variable {s : State} {t : Thread} (ht : Running s t) {n : Fin 64} {b : SSrc} {v : W32} {g : Tag} (hb : readS t b = .ok (v, g))
include ht

theorem runmap_makes (hr : (regionOf (s.opTile t.ot) n.val).size ≠ 0) :
    Makes s (.runmap n) { addPend t (.runmap n t.ord) with ord := t.ord + 1 } :=
  makes_of_ok ht (exec_runmap ..) (if_neg hr)

theorem runmap_traps (hr : (regionOf (s.opTile t.ot) n.val).size = 0) : Traps s t (.runmap n) .illegal :=
  traps_of_error ht (exec_runmap ..) (if_pos hr)

include hb

/-- What an `rmap` of a page-aligned global range answers (R105). -/
theorem rmap_makes {p : Fin 32} (hr : (regionOf (s.opTile t.ot) n.val).size ≠ 0) (hlt : (pairVal t.regs p).toNat < 2 ^ 57)
    (hal : (pairVal t.regs p).toNat % 4096 = 0) (hlen : v.toNat = (regionOf (s.opTile t.ot) n.val).size.toNat * 4096) :
    Makes s (.rmap n p b) { addPend t (.rmap n ((pairVal t.regs p).setWidth 57) t.ord) with ord := t.ord + 1 } := by
  have hhi : bits (pairVal t.regs p).toNat 63 57 = 0 := by rw [bits, Nat.div_eq_of_lt hlt, Nat.zero_mod]
  have hlo : bits (pairVal t.regs p).toNat 11 0 = 0 := by simpa [bits] using hal
  refine makes_of_ok ht (exec_rmap ..) ?_
  rw [hb]
  exact if_neg (by simpa [hhi, hlo, hlen] using hr)

theorem rmap_traps {p : Fin 32} (h : v.toNat ≠ (regionOf (s.opTile t.ot) n.val).size.toNat * 4096
    ∨ (pairVal t.regs p).toNat % 4096 ≠ 0) : Traps s t (.rmap n p b) .illegal := by
  have hlo : bits (pairVal t.regs p).toNat 11 0 = (pairVal t.regs p).toNat % 4096 := by simp [bits]
  refine traps_of_error ht (exec_rmap ..) ?_
  rw [hb]
  refine if_pos ?_
  rw [hlo]
  rcases h with h | h
  · simp [h]
  · simp [h]

theorem stamp_makes (hr : (regionOf (s.opTile t.ot) n.val).size ≠ 0) : Makes s (.stamp n b)
    (addSig (addPend t (.stamp n v)) (mix (mix (mix (key 0x240 0) g) (BitVec.ofNat 32 n.val)) 0)) := by
  refine makes_of_ok ht (exec_stamp ..) ?_
  rw [hb]
  exact if_neg hr

end

/-! ## Flushes (R287) -/

/-- A range within one page is one part of it. -/
theorem pageRuns_within {a n : Nat} (hn : 1 ≤ n) (h : a % 2 ^ 16 + n ≤ 2 ^ 16) : pageRuns a n = [(a, n)] := by
  have hone : (a + n - 1) / 2 ^ 16 + 1 - a / 2 ^ 16 = 1 := by omega
  have hlo : max a (a / 2 ^ 16 * 2 ^ 16) = a := by omega
  have hhi : min (a + n) ((a / 2 ^ 16 + 1) * 2 ^ 16) = a + n := by omega
  rw [pageRuns, if_neg (by omega), hone]
  simp only [List.range_one, List.map_cons, List.map_nil, Nat.add_zero, hlo, hhi, Nat.add_sub_cancel_left]

/-- A flush of a range within one page translates it at its bundle. -/
theorem rflush_leaves {s s1 : State} {t : Thread} {p : Fin 32} {b : SSrc} {len : W32} {g : Tag} {pa : Nat} {c : Bool}
    (ht : Running s t) (hb : readS t b = .ok (len, g)) (hn : 1 ≤ len.toNat)
    (hpage : (pairVal t.regs p).toNat % 2 ^ 16 + len.toNat ≤ 2 ^ 16) (htop : (pairVal t.regs p).toNat + len.toNat ≤ 2 ^ 57)
    (hp : s.pondOf t.op = none)
    (htr : translate s t.tile t.launch.pasid.toNat (pairVal t.regs p).toNat false = (s1, some (pa, c))) :
    Leaves s (.rflush p b) s1 { addPend t (.rflush [(pa, len.toNat)] t.ord t.pc) with ord := t.ord + 1 } := by
  have h63 : bit (pairVal t.regs p).toNat 63 = false := by
    rw [bit, Nat.div_eq_of_lt (by omega)]
    rfl
  have hhi : bits (pairVal t.regs p).toNat 62 57 = 0 := by rw [bits, Nat.div_eq_of_lt (by omega), Nat.zero_mod]
  refine (exec_rflush ..).trans (runOp_ok ht ?_)
  rw [hb, op_run_bind_ok (op_run_lift_ok ..)]
  simp only [h63, hp, hhi, pageRuns_within hn hpage, Nat.not_lt.mpr htop, Option.isSome_none, Bool.or_self, Bool.false_eq_true,
    if_false, ne_eq, not_true_eq_false, decide_false, List.mapM_cons, List.mapM_nil]
  rw [op_run_bind_ok (x := [(pa, len.toNat)]) (s' := s1)]
  · rfl
  · rw [op_run_bind_ok (x := (pa, len.toNat)) (s' := s1)]
    · rfl
    · rw [op_run_bind_ok (op_run_get s), htr]
      rfl

/-- Settles O16: each operation's own checks passed, its entry joins the block's pending list. -/
theorem pendingOperations : Obligations.PendingOperations := by
  intro s t ht pends
  refine ⟨fun sc => makes_of_ok ht (exec_mark ..) rfl, fun sc m => makes_of_ok ht (exec_fence ..) rfl,
    fun n p b len g hb => ⟨rmap_makes ht hb, fun h => rmap_traps ht hb (.inl h), fun h => rmap_traps ht hb (.inr h)⟩,
    fun n => runmap_makes ht, fun n => runmap_traps ht, fun n a v g ha => stamp_makes ht ha, ?_⟩
  exact fun p b len g s1 pa c hb hn hpage htop hp htr => rflush_leaves ht hb hn hpage htop hp htr

end Sys2Proof.Machine
end

section
/-! SUPPORT. Writes to a line that the L2 holds, update-only lines merged at their home, and lines given up (files 03 and 10;
R90, R91, R93, R94). -/

namespace Sys2Proof.Machine
open Sys2Proof.Says

/-! ## Bytes at the home -/

theorem homeRead_congr {s u : State} {pa n : Nat} (h : ∀ i < n, homeByte u (pa + i) = homeByte s (pa + i)) :
    homeRead u pa n = homeRead s pa n := by
  simp only [homeRead, homeBytes_eq_map]
  exact congrArg leOf (List.map_congr_left fun i hi => h i (List.mem_range.mp hi))

/-- The bytes `bs` stand at the home from `pa` on, over those of `s`. -/
def Overwrites (s u : State) (pa : Nat) (bs : List Byte) : Prop :=
  ∀ b, homeByte u b = if pa ≤ b then bs.getD (b - pa) (homeByte s b) else homeByte s b

theorem Overwrites.outside {s u : State} {pa b : Nat} {bs : List Byte} (h : Overwrites s u pa bs)
    (hb : b < pa ∨ pa + bs.length ≤ b) : homeByte u b = homeByte s b := by
  rw [h b]
  split
  · rw [List.getD_eq_default _ _ (by omega)]
  · rfl

theorem Overwrites.inside {s u : State} {pa i : Nat} {bs : List Byte} (h : Overwrites s u pa bs) (hi : i < bs.length) :
    homeByte u (pa + i) = bs[i] := by
  rw [h, if_pos (by omega), Nat.add_sub_cancel_left, List.getD_eq_getElem _ _ hi]

/-- A number written reads back. -/
theorem Overwrites.homeRead {s u : State} {pa n v : Nat} (h : Overwrites s u pa (leBytes n v)) :
    homeRead u pa n = v % 2 ^ (8 * n) := by
  have hb : homeBytes u pa n = leBytes n v := by
    refine List.ext_getElem (by simp [homeBytes_eq_map, leBytes_length]) fun i hi _ => ?_
    rw [← h.inside]
    simp [homeBytes_eq_map]
  rw [Machine.homeRead, hb, leOf_leBytes, Nat.pow_mul]

/-! ## Writes to a line that the L2 holds (R90) -/

/-- Such a write of one byte leaves the stack alone. -/
theorem homeWriteByte_held {s : State} {pa : Nat} {l : L2Line} (h : mfind s.l2 (lineOf pa) = some l) (b : Byte) :
    homeWriteByte s pa b = { s with l2 := mput s.l2 (lineOf pa) (l.setByte (pa % 64) b) } := by
  simp [homeWriteByte, h]

theorem homeByte_homeWriteByte_held {s : State} {pa : Nat} (h : (mfind s.l2 (lineOf pa)).isSome) (b : Byte) (p : Nat) :
    homeByte (homeWriteByte s pa b) p = if p = pa then b else homeByte s p := by
  obtain ⟨l, hl⟩ := Option.isSome_iff_exists.mp h
  by_cases hline : lineOf p = lineOf pa
  · have hempty := homeByte_homeWriteByte { s with mem := [] } pa p b (by exact wf_nil)
    rw [homeWriteByte_held (s := { s with mem := [] }) hl] at hempty
    rw [homeWriteByte_held hl]
    simpa [homeByte, hline, hl] using hempty
  · rw [if_neg fun he => hline (congrArg lineOf he), homeWriteByte_held hl]
    simp only [homeByte, mfind_mput_ne _ _ _ _ hline]

/-- A write within a line that the L2 holds goes there. -/
theorem homeWriteBytes_held (bs : List Byte) {s : State} {pa line : Nat} (hl : (mfind s.l2 line).isSome)
    (hin : ∀ i < bs.length, lineOf (pa + i) = line) :
    (homeWriteBytes s pa bs).mem = s.mem ∧ Overwrites s (homeWriteBytes s pa bs) pa bs := by
  induction bs generalizing s pa with
  | nil => exact ⟨rfl, fun b => by simp [homeWriteBytes]⟩
  | cons b r ih =>
    have hline : lineOf pa = line := hin 0 (by simp)
    subst hline
    obtain ⟨l, hf⟩ := Option.isSome_iff_exists.mp hl
    let s1 := (homeWriteByte s pa b).noteWrite (lineOf pa)
    have hs1 : (mfind s1.l2 (lineOf pa)).isSome := by
      simp only [s1, homeWriteByte_held hf, State.noteWrite, mfind_mput_same, Option.isSome_some]
    have hmem1 : s1.mem = s.mem := by
      simp only [s1, homeWriteByte_held hf, noteWrite_mem]
    obtain ⟨hmem, hw⟩ := ih (s := s1) (pa := pa + 1) hs1 fun i hi => by
      rw [Nat.add_assoc, Nat.add_comm 1]
      exact hin (i + 1) (by simpa using hi)
    refine ⟨hmem.trans hmem1, fun p => ?_⟩
    have hb : homeByte s1 p = if p = pa then b else homeByte s p := homeByte_homeWriteByte_held hl b p
    rw [homeWriteBytes, hw p, hb]
    rcases Nat.lt_trichotomy p pa with hlt | rfl | hgt
    · rw [if_neg (by omega), if_neg (by omega), if_neg (by omega)]
    · simp
    · obtain ⟨k, rfl⟩ : ∃ k, p = pa + (k + 1) := ⟨p - pa - 1, by omega⟩
      rw [if_pos (by omega), if_neg (by omega), if_pos (by omega), show pa + (k + 1) - (pa + 1) = k by omega,
        Nat.add_sub_cancel_left, List.getD_cons_succ]

/-! ## A merge at the home (R94) -/

/-- One pending word of an update-only line applied at the home. -/
def mergeWord (s : State) (line : Nat) (u : Uol) (w : Nat × W64) : State :=
  let n := if u.wide then 8 else 4
  let s1 := { s with l2 := mput s.l2 line (l2Line s line) }
  homeWrite s1 (64 * line + w.1) n (atInt u.kind (8 * n) (homeRead s1 (64 * line + w.1) n) w.2.toNat)

theorem mergeWords_cons (s : State) (line : Nat) (u : Uol) (w : Nat × W64) (ws : Map W64) :
    mergeWords s line u (w :: ws) = mergeWords (mergeWord s line u w) line u ws := rfl

/-- A word within the line takes the operation's result, and no other byte changes. -/
theorem mergeWord_overwrites {s : State} {line n : Nat} {u : Uol} {w : Nat × W64} (hn : n = if u.wide then 8 else 4)
    (hw : w.1 + n ≤ 64) : Overwrites s (mergeWord s line u w) (64 * line + w.1)
      (leBytes n (atInt u.kind (8 * n) (homeRead s (64 * line + w.1) n) w.2.toNat)) := by
  let s1 := { s with l2 := mput s.l2 line (l2Line s line) }
  have hbyte : ∀ b, homeByte s1 b = homeByte s b := homeByte_fetched s line (l2Line s line) rfl
  have hread : homeRead s1 (64 * line + w.1) n = homeRead s (64 * line + w.1) n := homeRead_congr fun i _ => hbyte _
  obtain ⟨-, hover⟩ := homeWriteBytes_held (leBytes n (atInt u.kind (8 * n) (homeRead s1 (64 * line + w.1) n) w.2.toNat))
    (s := s1) (pa := 64 * line + w.1) (line := line) (by simp [s1]) fun i hi => by
      rw [leBytes_length] at hi
      rw [Nat.add_assoc]
      exact lineOf_within (by omega)
  intro b
  have hb := hover b
  rw [hread, hbyte] at hb
  rw [← hb, hn, mergeWord, homeWrite, ← hn, hread]

/-- Pending words that stand apart in the line each take their result, and no other byte changes. -/
theorem mergeWords_home {line n : Nat} {u : Uol} (hn : n = if u.wide then 8 else 4) (ws : Map W64) (s : State) (lo : Nat)
    (hr : mrises ws lo = true) (hal : ∀ p ∈ ws, p.1 % n = 0 ∧ p.1 < 64) :
    (∀ p ∈ ws, homeRead (mergeWords s line u ws) (64 * line + p.1) n
      = atInt u.kind (8 * n) (homeRead s (64 * line + p.1) n) p.2.toNat % 2 ^ (8 * n))
    ∧ ∀ b, (∀ p ∈ ws, b < 64 * line + p.1 ∨ 64 * line + p.1 + n ≤ b) → homeByte (mergeWords s line u ws) b = homeByte s b := by
  induction ws generalizing s lo with
  | nil => exact ⟨fun p hp => absurd hp List.not_mem_nil, fun b _ => rfl⟩
  | cons w r ih =>
    obtain ⟨-, hrise⟩ := (mrises_cons w.1 w.2 r lo).mp hr
    obtain ⟨hat, hout⟩ := ih (mergeWord s line u w) (w.1 + 1) hrise fun p hp => hal p (.tail _ hp)
    obtain ⟨hwal, hw64⟩ := hal w (.head _)
    have hn48 : n = 8 ∨ n = 4 := by
      rw [hn]
      split
      · exact .inl rfl
      · exact .inr rfl
    have hapart : ∀ p ∈ r, w.1 + n ≤ p.1 := fun p hp => by
      have h1 := mrises_le_key r _ hrise p hp
      have h2 := (hal p (.tail _ hp)).1
      rcases hn48 with rfl | rfl <;> omega
    have hword := mergeWord_overwrites (s := s) (line := line) (w := w) hn (by rcases hn48 with rfl | rfl <;> omega)
    have hother : ∀ b, b < 64 * line + w.1 ∨ 64 * line + w.1 + n ≤ b → homeByte (mergeWord s line u w) b = homeByte s b :=
      fun b hb => hword.outside (by rwa [leBytes_length])
    rw [mergeWords_cons]
    refine ⟨fun p hp => ?_, fun b hb => ?_⟩
    · rcases List.mem_cons.mp hp with rfl | hp
      · rw [← hword.homeRead]
        refine homeRead_congr fun i hi => hout _ fun q hq => .inl ?_
        have := hapart q hq
        omega
      · rw [hat p hp]
        congr 2
        refine homeRead_congr fun i hi => hother _ (.inr ?_)
        have := hapart p hp
        omega
    · rw [hout b fun p hp => hb p (.tail _ hp), hother b (hb w (.head _))]

theorem mergeWords_tiles (s : State) (line : Nat) (u : Uol) (ws : Map W64) : (mergeWords s line u ws).tiles = s.tiles := by
  induction ws generalizing s with
  | nil => rfl
  | cons w r ih => exact (ih _).trans (homeWrite_homeOnly ..).tiles

theorem tile_of_tiles {s u : State} (h : u.tiles = s.tiles) (k : Nat) : u.tile k = s.tile k := by
  rw [State.tile, State.tile, h]

/-- A tile whose update-only line has gone to be merged, with the requests to evict it. -/
def Tile.withoutUol (t : Tile) (line : Nat) : Tile :=
  let mine (r : PortReq) : Bool := r.line = line && r.owner = .evict
  { t with uol := mdel t.uol line, portQ := t.portQ.filter (!mine ·), sent := t.sent.filter (!mine ·) }

theorem mergeTileLine_eq {s : State} {tile line : Nat} {u : Uol} (hu : mfind (s.tile tile).uol line = some u) :
    mergeTileLine s tile line
      = (mergeWords (s.setTile tile ((s.tile tile).withoutUol line)) line u u.words).noteWord line := by
  simp only [mergeTileLine, hu]
  rfl

/-- What the merge of a tile's update-only line leaves: the line is not in the tile, and at the home its words have taken
effect, and nothing else. -/
theorem mergeTileLine_home {s : State} {tile line n : Nat} {u : Uol} (hu : mfind (s.tile tile).uol line = some u)
    (hn : n = if u.wide then 8 else 4) (ht : mrises (s.tile tile).uol 0 = true) (hr : mrises u.words 0 = true)
    (hal : ∀ p ∈ u.words, p.1 % n = 0 ∧ p.1 < 64) :
    let v := mergeTileLine s tile line
    mfind (v.tile tile).uol line = none
      ∧ (∀ p ∈ u.words, homeRead v (64 * line + p.1) n
          = atInt u.kind (8 * n) (homeRead s (64 * line + p.1) n) p.2.toNat % 2 ^ (8 * n))
      ∧ ∀ b, (∀ p ∈ u.words, b < 64 * line + p.1 ∨ 64 * line + p.1 + n ≤ b) → homeByte v b = homeByte s b := by
  intro v
  let s0 := s.setTile tile ((s.tile tile).withoutUol line)
  have hv : v = (mergeWords s0 line u u.words).noteWord line := mergeTileLine_eq hu
  have htile : v.tile tile = (s.tile tile).withoutUol line := by
    rw [hv, tile_of_tiles (s := s0) (by exact mergeWords_tiles ..), tile_setTile_same]
  obtain ⟨hat, hout⟩ := mergeWords_home (line := line) hn u.words s0 0 hr hal
  have hread (a : Nat) : homeRead v a n = homeRead (mergeWords s0 line u u.words) a n  := by
    rw [hv]
    exact homeRead_congr fun _ _ => rfl
  have hread0 (a : Nat) : homeRead s0 a n = homeRead s a n := homeRead_congr fun _ _ => rfl
  refine ⟨?_, fun p hp => ?_, fun b hb => ?_⟩
  · rw [htile]
    exact mfind_mdel_same _ _ _ ht
  · rw [hread, hat p hp, hread0]
  · rw [hv]
    exact hout b hb

theorem startWaiting_none {s : State} (h : ∀ e ∈ s.threads, e.2.waiting = []) : startWaiting s = s := by
  have hn : s.threads.filter (fun e => e.2.waiting ≠ []) = [] := by
    rw [List.filter_eq_nil_iff]
    intro e he
    simp [h e he]
  rw [startWaiting, hn]
  rfl

/-! ## Requests that are no fetches (R391) -/

theorem served_portReq_iff (s : State) (op tile line : Nat) (o : PortOwner) :
    (s.tile tile).served (portReq s op line o false) = true ↔ Sent s tile line o := by
  simp only [Tile.served, portReq, Bool.false_and, Bool.false_or, List.any_eq_true, PortReq.same, Bool.and_eq_true,
    decide_eq_true_eq, Sent, and_assoc, @eq_comm _ line, @eq_comm _ o, @eq_comm _ false]

theorem wantLines_sent {s : State} {tile line : Nat} {o : PortOwner} (h : Sent s tile line o) (op : Nat) :
    wantLines s tile [portReq s op line o false] = (s, true) := by
  refine wantLines_served fun q hq => ?_
  rw [List.mem_singleton.mp hq, served_portReq_iff]
  exact h

/-- Where it has not left, the access waits, and nothing but the queue of its tile's port changes. -/
theorem wantLines_notSent {s : State} {tile line : Nat} {o : PortOwner} (h : ¬ Sent s tile line o) (op : Nat) :
    ∃ q, wantLines s tile [portReq s op line o false] = (s.setTile tile { s.tile tile with portQ := q }, false) := by
  have hs : (s.tile tile).served (portReq s op line o false) = false := by
    rw [← Bool.not_eq_true, served_portReq_iff]
    exact h
  have hf : [portReq s op line o false].filter (fun r => !(s.tile tile).served r) = [portReq s op line o false] := by simp [hs]
  simp only [wantLines, hf]
  exact ⟨_, rfl⟩

end Sys2Proof.Machine
end

section
/-! PROOFS. Update-only lines merge, and the L2 writes back (O19). -/

namespace Sys2Proof.Machine
open Sys2Proof.Says

/-! ## Operands enter an update-only line (R93) -/

/-- The kinds that commute. -/
def commutes : List AtKind := [.add, .min, .max, .and, .or, .xor]

theorem atApply_commutes {k : AtKind} (h : k ∈ commutes) (w m v cmp : Nat) (hv : v < 2 ^ w) :
    (atApply k w m v cmp).1 = atInt k w m v := by
  simp only [commutes, List.mem_cons, List.not_mem_nil, or_false] at h
  rcases h with rfl | rfl | rfl | rfl | rfl | rfl <;> simp only [atApply, Nat.mod_eq_of_lt hv]

/-- The result of an operation on words of `w` bits has `w` bits (R280). -/
theorem atInt_lt (k : AtKind) {w m v : Nat} (hm : m < 2 ^ w) (hv : v < 2 ^ w) : atInt k w m v < 2 ^ w := by
  have hmod : ∀ x, x % 2 ^ w < 2 ^ w := fun x => Nat.mod_lt x (Nat.two_pow_pos w)
  cases k with
  | add => exact hmod _
  | min =>
    rw [atInt]
    split
    · exact hmod _
    · exact hm
  | max =>
    rw [atInt]
    split
    · exact hmod _
    · exact hm
  | and => exact Nat.and_lt_two_pow m hv
  | or => exact Nat.or_lt_two_pow hm hv
  | xor => exact Nat.xor_lt_two_pow hm hv
  | xchg | cas | fadd => exact hm

/-- The pending word that an operand leaves where the line holds `found` at its place. -/
def combined (a : Atomic) (found : Option W64) : W64 :=
  match found with
  | some x => BitVec.ofNat 64 (atInt a.kind (if a.wide then 64 else 32) x.toNat a.v.toNat)
  | none => a.v

/-- The update-only line an operand enters. -/
def lineFor (s : State) (tile : Nat) (a : Atomic) (pa : Nat) : Uol :=
  (mfind (s.tile tile).uol (lineOf pa)).getD { kind := a.kind, wide := a.wide, col := a.col, words := [], from_ := [] }

theorem enterUol_line (s : State) (tile key pa : Nat) (a : Atomic) :
    mfind ((enterUol s tile key a pa).tile tile).uol (pa / 64) = some { lineFor s tile a pa with
      words := mput (lineFor s tile a pa).words (pa % 64) (combined a (mfind (lineFor s tile a pa).words (pa % 64)))
      from_ := (key, a.ord) :: (lineFor s tile a pa).from_ } := by
  rw [enterUol, tile_setTile_same]
  exact mfind_mput_same ..

theorem combined_some {a : Atomic} {v : W64} (hk : a.kind ∈ commutes) (hv : v.toNat < 2 ^ (if a.wide then 64 else 32))
    (ha : a.v.toNat < 2 ^ (if a.wide then 64 else 32)) :
    (combined a (some v)).toNat = (atApply a.kind (if a.wide then 64 else 32) v.toNat a.v.toNat 0).1 := by
  have hle : 2 ^ (if a.wide then 64 else 32) ≤ 2 ^ 64 := Nat.pow_le_pow_right (by decide) (by split <;> decide)
  rw [atApply_commutes hk _ _ _ _ ha, combined, BitVec.toNat_ofNat,
    Nat.mod_eq_of_lt (Nat.lt_of_lt_of_le (atInt_lt a.kind hv ha) hle)]

/-! ## Its eviction (R94) -/

theorem evict_sent {s : State} {tile line : Nat} {u : Uol} (hu : mfind (s.tile tile).uol line = some u)
    (h : Sent s tile line .evict) (hw : ∀ k ∈ s.threads, k.2.waiting = []) :
    exec (.updateOnlyLineEviction tile line) s = .next (mergeTileLine s tile line) := by
  rw [exec_updateOnlyLineEviction, execUpdateOnlyLineEviction, hu]
  simp only [wantLines_sent h]
  rw [startWaiting_none (by rwa [(mergeTileLine_memoryOnly s tile line).threads])]
  rfl

theorem evict_notSent {s : State} {tile line : Nat} {u : Uol} (hu : mfind (s.tile tile).uol line = some u)
    (h : ¬ Sent s tile line .evict) :
    ∃ q, exec (.updateOnlyLineEviction tile line) s = .next (s.setTile tile { s.tile tile with portQ := q }) := by
  obtain ⟨q, hq⟩ := wantLines_notSent h (keyOp (u.from_.headD (0, 0)).1)
  refine ⟨q, ?_⟩
  rw [exec_updateOnlyLineEviction, execUpdateOnlyLineEviction, hu]
  simp only [hq]
  rfl

theorem updateOnlyLines : Says.UpdateOnlyLines := by
  intro s tile key pa a hk
  refine ⟨fun hnone => ?_, fun x hx hkind hwide hcol => ?_, fun line x => ?_,
    fun line x hx hns => ?_, fun line hnone => ?_⟩
  · have hline : lineFor s tile a pa = { kind := a.kind, wide := a.wide, col := a.col, words := [], from_ := [] } := by
      rw [lineFor, lineOf, hnone]
      rfl
    refine ⟨_, enterUol_line s tile key pa a, ?_, ?_, rfl, rfl⟩
    · rw [hline]
      exact mfind_mput_same ..
    · rw [hline]
  · have hline : lineFor s tile a pa = x := by
      rw [lineFor, lineOf, hx]
      rfl
    intro w
    refine ⟨_, enterUol_line s tile key pa a, by rw [hline], by rw [hline], by rw [hline], fun o ho => ?_, fun hn => ?_,
      fun v hv hvlt halt => ?_, rfl, rfl⟩
    · rw [hline]
      exact mfind_mput_ne _ _ _ _ ho
    · rw [hline, hn]
      exact mfind_mput_same ..
    · rw [hline, hv]
      exact ⟨_, mfind_mput_same .., combined_some hk hvlt halt⟩
  · intro n hr hal ht hx hsent hw
    obtain ⟨hgone, hat, hout⟩ := mergeTileLine_home hx rfl ht hr hal
    exact ⟨_, evict_sent hx hsent hw, hgone, hat, hout⟩
  · obtain ⟨q, hq⟩ := evict_notSent hx hns
    exact ⟨_, hq, by rw [tile_setTile_same]; exact hx, rfl, rfl⟩
  · rw [exec_updateOnlyLineEviction, execUpdateOnlyLineEviction, hnone]

/-! ## The L2 writes back (R90, R91) -/

/-- The words of a line that a write-back of the words `is` writes, over a memory. -/
def backWords (line : Nat) (l : L2Line) (is : List Nat) (m : List Host.Cell) : List Host.Cell :=
  is.foldl (fun m i => if l.dirty.getLsbD i then writeBytes m (64 * line + 8 * i) (bytesFrom l.data.toNat (8 * i) 8) else m) m

theorem writeBackLine_eq {s : State} {line : Nat} {l : L2Line} (h : mfind s.l2 line = some l) :
    writeBackLine s line = { s with mem := backWords line l (List.range 8) s.mem, l2 := mput s.l2 line { l with dirty := 0 } } := by
  simp only [writeBackLine, h]
  rfl

theorem bytesFrom_byte (x k : Nat) {j : Nat} (hj : j < 8) :
    (bytesFrom x k 8)[j]? = some (BitVec.ofNat 8 (x / 256 ^ (k + j))) := by
  simp [bytesFrom, leBytes_eq_map, hj, Nat.div_div_eq_div_mul, Nat.pow_add]

/-- After the write-back of the words `is`, a byte of a dirty one of them is the line's, and every other is as it was. -/
theorem readByte_backWords (line : Nat) (l : L2Line) (is : List Nat) (hnd : is.Nodup) (m : List Host.Cell)
    (hm : Memory.wf m = true) (b : Nat) :
    readByte (backWords line l is m) b =
      if 64 * line ≤ b ∧ (b - 64 * line) / 8 ∈ is ∧ l.dirty.getLsbD ((b - 64 * line) / 8) = true
      then BitVec.ofNat 8 (l.data.toNat / 256 ^ (b - 64 * line)) else readByte m b := by
  induction is generalizing m with
  | nil => simp [backWords]
  | cons i r ih =>
    obtain ⟨hi, hnd⟩ := List.nodup_cons.mp hnd
    by_cases hd : l.dirty.getLsbD i = true
    · have hstep : backWords line l (i :: r) m
          = backWords line l r (writeBytes m (64 * line + 8 * i) (bytesFrom l.data.toNat (8 * i) 8)) := by
        rw [backWords, List.foldl_cons, if_pos hd]
        rfl
      rw [hstep, ih hnd _ (wf_writeBytes _ _ _ hm)]
      by_cases hb : 64 * line ≤ b ∧ (b - 64 * line) / 8 = i
      · obtain ⟨hle, hbi⟩ := hb
        obtain ⟨j, hj, rfl⟩ : ∃ j < 8, b = 64 * line + 8 * i + j := ⟨b - 64 * line - 8 * i, by omega, by omega⟩
        have hoff : 64 * line + 8 * i + j - 64 * line = 8 * i + j := by omega
        have hlen : j < (bytesFrom l.data.toNat (8 * i) 8).length := by rwa [bytesFrom, leBytes_length]
        rw [if_neg (by rw [hbi]; exact fun h => hi h.2.1), if_pos (by simp [hbi, hd, hle]),
          readByte_writeBytes_inside _ _ _ _ hm hlen, hoff]
        exact Option.some.inj ((List.getElem?_eq_getElem hlen).symm.trans (bytesFrom_byte _ _ hj))
      · rw [readByte_writeBytes_outside _ _ _ _ hm (by rw [bytesFrom, leBytes_length]; omega)]
        refine if_congr ?_ rfl rfl
        simp only [List.mem_cons]
        exact ⟨fun ⟨h1, h2, h3⟩ => ⟨h1, .inr h2, h3⟩, fun ⟨h1, h2, h3⟩ => ⟨h1, h2.resolve_left fun h => hb ⟨h1, h⟩, h3⟩⟩
    · have hstep : backWords line l (i :: r) m = backWords line l r m := by
        rw [backWords, List.foldl_cons, if_neg hd]
        rfl
      rw [hstep, ih hnd m hm]
      refine if_congr ?_ rfl rfl
      simp only [List.mem_cons]
      refine ⟨fun ⟨h1, h2, h3⟩ => ⟨h1, .inr h2, h3⟩, fun ⟨h1, h2, h3⟩ => ⟨h1, h2.resolve_left fun h => ?_, h3⟩⟩
      rw [h] at h3
      exact hd h3

section
variable {s : State} {line : Nat} {l : L2Line} (hwf : Memory.wf s.mem = true) (hl : mfind s.l2 line = some l)
include hwf hl

/-- A write-back changes nothing of another line in the stack. -/
theorem readByte_writeBackLine_ne {b : Nat} (hb : b / 64 ≠ line) : readByte (writeBackLine s line).mem b = readByte s.mem b := by
  rw [writeBackLine_eq hl]
  refine (readByte_backWords line l _ List.nodup_range s.mem hwf b).trans (if_neg ?_)
  rw [List.mem_range]
  omega

/-- It brings the dirty words of its line to the stack. -/
theorem readByte_writeBackLine_dirty {i : Nat} (hi : i < 64) (hd : l.dirty.getLsbD (i / 8) = true) :
    readByte (writeBackLine s line).mem (64 * line + i) = l.data.extractLsb' (8 * i) 8 := by
  rw [writeBackLine_eq hl]
  refine (readByte_backWords line l _ List.nodup_range s.mem hwf _).trans ?_
  rw [Nat.add_sub_cancel_left, if_pos ⟨by omega, List.mem_range.mpr (by omega), hd⟩]
  refine BitVec.eq_of_getLsbD_eq fun k hk => ?_
  rw [byte_testBit, BitVec.getLsbD_extractLsb', BitVec.getLsbD]

/-- No byte changes at its home. -/
theorem homeByte_writeBackLine (b : Nat) : homeByte (writeBackLine s line) b = homeByte s b := by
  by_cases hb : lineOf b = line
  · subst hb
    rw [writeBackLine_eq hl]
    simp only [homeByte, mfind_mput_same, hl]
  · have hmem := readByte_writeBackLine_ne hwf hl hb
    rw [writeBackLine_eq hl] at hmem ⊢
    simp only [homeByte, mfind_mput_ne _ _ _ _ hb]
    rw [show readByte _ b = readByte s.mem b from hmem]

end

theorem l1_dropLine (s : State) (line k : Nat) : line ∉ ((dropLine s line).tile k).l1 := by
  have hm : mfind (dropLine s line).tiles k
      = (mfind s.tiles k).map fun t => { t with l1 := t.l1.filter (· ≠ line) } :=
    mfind_mapVals s.tiles (fun _ t => ({ t with l1 := t.l1.filter (· ≠ line) } : Tile)) k
  rw [State.tile, mget, hm]
  cases mfind s.tiles k with
  | none => exact List.not_mem_nil
  | some t => simp

theorem homeByte_dropLine {s : State} (h : mrises s.l2 0 = true) {line b : Nat} (hb : b / 64 ≠ line) :
    homeByte (dropLine s line) b = homeByte s b := by
  simp only [homeByte, dropLine, mfind_mdel_ne _ _ _ _ hb h, lineOf]

theorem l2WriteBack : Says.L2WriteBack := by
  intro s line l hwf hrise hl
  have hl2 : (writeBackLine s line).l2 = mput s.l2 line { l with dirty := 0 } := by rw [writeBackLine_eq hl]
  have hrise' : mrises (writeBackLine s line).l2 0 = true := hl2 ▸ mrises_mput _ _ _ _ (Nat.zero_le _) hrise
  refine ⟨⟨writeBackLine s line, rfl, homeByte_writeBackLine hwf hl, fun i => readByte_writeBackLine_dirty hwf hl,
      fun b => readByte_writeBackLine_ne hwf hl, ?_⟩,
    dropLine (writeBackLine s line) line, rfl, mfind_mdel_same _ _ _ hrise', fun b hb => ?_, l1_dropLine _ line⟩
  · rw [hl2, mfind_mput_same]
  · rw [homeByte_dropLine hrise' hb, homeByte_writeBackLine hwf hl]

end Sys2Proof.Machine

namespace Sys2Proof

/-- Settles O19: a line's words merge at their home apart from one another; a write-back only moves bytes to the stack. -/
theorem cachedLines : Obligations.CachedLines := ⟨Machine.updateOnlyLines, Machine.l2WriteBack⟩

end Sys2Proof
end

section
/-! PROOFS. The head of a colour queue performs (O20). -/

namespace Sys2Proof.Machine
open Sys2Proof.Says

/-! ## Writes of physical memory (R90, R107) -/

theorem mem_writeBytes_byte {m : List Host.Cell} (hm : Memory.wf m = true) (bs : List Byte) (pa b : Nat) :
    readByte (writeBytes m pa bs) b = if pa ≤ b then bs.getD (b - pa) (readByte m b) else readByte m b := by
  by_cases hb : pa ≤ b ∧ b < pa + bs.length
  · obtain ⟨i, rfl⟩ : ∃ i, b = pa + i := ⟨b - pa, by omega⟩
    have hi : i < bs.length := by omega
    rw [readByte_writeBytes_inside bs m pa i hm hi, if_pos hb.1, Nat.add_sub_cancel_left, List.getD_eq_getElem _ _ hi]
  · rw [readByte_writeBytes_outside bs m pa b hm (by omega)]
    split
    · rw [List.getD_eq_default _ _ (by omega)]
    · rfl

/-- A line without the copies that a write by a tile invalidates. -/
def L2Line.claimed (l : L2Line) (tile : Nat) : L2Line :=
  { l with remote := l.remote.filter (· = terraceOf tile), host := false }

/-- A line fetched into the L2 for a write, every other copy of it invalidated. -/
def fetchFor (s : State) (tile line : Nat) : State :=
  { s with
    l2 := mput s.l2 line ((l2Line s line).claimed tile)
    tiles := s.tiles.map fun e => if e.1 = tile then e else (e.1, { e.2 with l1 := e.2.l1.filter (· ≠ line) }) }

section
variable {s : State} {pa : Nat} (hu : ∀ e ∈ s.tiles, mfind e.2.uol (lineOf pa) = none) (tile : Nat) (bs : List Byte)
include hu

theorem physWrite_cached :
    physWrite s tile pa bs true = (homeWriteBytes (fetchFor s tile (lineOf pa)) pa bs).noteWord (lineOf pa) := by
  simp only [physWrite, if_true, mergeLine_none s _ hu]
  rfl

/-- A write gives its bytes, to the page's own place, and to no other. -/
theorem byteAt_physWrite (hm : s.memOk) (ch : Bool) (b : Nat) : byteAt (physWrite s tile pa bs ch) ch b
    = if pa ≤ b then bs.getD (b - pa) (byteAt s ch b) else byteAt s ch b := by
  cases ch with
  | false => exact mem_writeBytes_byte hm bs pa b
  | true =>
    rw [physWrite_cached hu]
    refine (homeByte_homeWriteBytes bs (fetchFor s tile (lineOf pa)) pa b hm).trans ?_
    have hf : homeByte (fetchFor s tile (lineOf pa)) b = homeByte s b  :=
      homeByte_fetched s (lineOf pa) ((l2Line s (lineOf pa)).claimed tile) rfl b
    rw [hf]
    rfl

theorem physWrite_memoryOnly (ch : Bool) : MemoryOnly s (physWrite s tile pa bs ch) := by
  cases ch with
  | false => exact ⟨rfl⟩
  | true =>
    rw [physWrite_cached hu]
    have hf : MemoryOnly s (fetchFor s tile (lineOf pa)) := ⟨rfl⟩
    exact (hf.trans (homeWriteBytes_memoryOnly ..)).trans (noteWord_memoryOnly ..)

/-- A cached write within one line leaves the stack alone. -/
theorem physWrite_cached_mem (hin : pa % 64 + bs.length ≤ 64) : (physWrite s tile pa bs true).mem = s.mem := by
  rw [physWrite_cached hu]
  refine (homeWriteBytes_held bs (s := fetchFor s tile (lineOf pa)) (line := lineOf pa) ?_ fun i hi => ?_).1
  · simp [fetchFor]
  · simp only [lineOf]
    omega

end

/-! ## The head of a queue -/

theorem drainWaiting_none {s : State} {k : Nat} {t : Thread} (ht : mfind s.threads k = some t) (hw : t.waiting = []) :
    drainWaiting s k = s := by
  have hsame : s.setThread k { t with waiting := [] } = s := by
    rw [← hw, State.setThread, mput_mfind ht]
  simp only [drainWaiting, ht, hw, List.foldl_nil]
  exact hsame

/-- A sequencer whose queues have lost the entry `x` at their heads. -/
def popEntry (t : Thread) (x : QEntry) : Thread :=
  { t with queues := t.queues.map fun q => if q.head? = some x then q.tail else q }

theorem popEntry_queue {t : Thread} {c : Fin 8} {x : QEntry} {q : List QEntry} (h : t.queues[c] = x :: q) :
    (popEntry t x).queues[c] = q := by
  have hc : t.queues[c.val] = x :: q := h
  simp [popEntry, hc]

/-- The state in which the head of a queue performs. -/
def headGone (s : State) (k : Nat) (t : Thread) (q : List QEntry) (x : QEntry) : State :=
  mergeFor ((s.dropSent t.tile (entryUsed s t q x)).setThread k (popEntry t x)) x

/-- The device once the head's store or atomic has performed. -/
def headDone (s : State) (k : Nat) (t : Thread) (q : List QEntry) (x : QEntry) (pa : Nat) (ch : Bool) : State :=
  match x with
  | .st y => physWrite (headGone s k t q x) t.tile pa y.data ch
  | .atom a => performAtomic (headGone s k t q x) k (popEntry t x) a
  | .flush _ _ _ _ _ => headGone s k t q x

section
variable {s : State} {k : Nat} {c : Fin 8} {t : Thread} {x : QEntry} {q : List QEntry} {pa n : Nat} {ch : Bool}
  (ht : mfind s.threads k = some t) (hk : t.key = k) (hq : t.queues[c] = x :: q) (hmay : mayPerform s t c x = true)
  (hx : x.bytes = some (.glob pa ch, n)) (hlast : ∀ e ∈ q, e.ord ≠ x.ord)

include hlast hx in
/-- The head's access writes through one line alone. -/
theorem linesAt_single : linesAt (x :: q) x.ord = [lineOf pa] := by
  unfold linesAt
  rw [List.take_succ_cons]
  refine (List.filterMap_cons_some (b := lineOf pa) ?_).trans (congrArg _ (List.filterMap_eq_nil_iff.mpr fun e he => ?_))
  · simp only [if_true, hx]
  · rw [if_neg (hlast e (List.mem_of_mem_take he))]

include hk hlast hx in
theorem entryReqs_single : entryReqs s t (x :: q) x = [portReq s t.op (lineOf pa) (.place k x.ord) false] := by
  have hl := linesAt_single hx hlast
  subst hk
  cases x with
  | st y => exact congrArg _ hl
  | atom a => exact congrArg _ hl
  | flush _ _ _ _ _ => cases hx

include ht hk hq hmay hlast hx

/-- Before the head's line request has left, the head waits. -/
theorem colourQueue_waits (hns : ¬ Sent s t.tile (lineOf pa) (.place k x.ord)) :
    ∃ p, exec (.colourQueuePerform k c) s = .next (s.setTile t.tile { s.tile t.tile with portQ := p }) := by
  obtain ⟨p, hp⟩ := wantLines_notSent hns t.op
  refine ⟨p, ?_⟩
  rw [exec_colourQueuePerform, execColourQueuePerform]
  simp only [ht]
  split
  · next h => rw [hq] at h; cases h
  · next h =>
    rw [hq] at h
    cases h
    simp only [hmay, Bool.not_true, Bool.false_eq_true, if_false, hq, entryReqs_single hk hx hlast, hp]
    rfl

/-- Once it has left, the head performs. -/
theorem colourQueue_performs (hs : Sent s t.tile (lineOf pa) (.place k x.ord)) :
    exec (.colourQueuePerform k c) s = .next (drainWaiting (headDone s k t q x pa ch) k) := by
  have hp := wantLines_sent hs t.op
  rw [exec_colourQueuePerform, execColourQueuePerform]
  simp only [ht]
  split
  · next h => rw [hq] at h; cases h
  · next h =>
    rw [hq] at h
    cases h
    simp only [hmay, Bool.not_true, Bool.false_eq_true, if_false, hq, entryReqs_single hk hx hlast, hp]
    cases x with
    | st y =>
      obtain ⟨hloc, -⟩ : y.loc = .glob pa ch ∧ y.data.length = n := by simpa [QEntry.bytes] using hx
      simp only [hloc]
      rfl
    | atom a => rfl
    | flush _ _ _ _ _ => cases hx

end

/-! ## What the head's access leaves -/

theorem dropSent_same (s : State) (tile : Nat) (p : PortReq → Bool) :
    s.dropSent tile p = { s with tiles := (s.dropSent tile p).tiles } := by
  unfold State.dropSent
  dsimp only
  split
  · rfl
  · rfl

theorem uol_dropSent {s : State} {line : Nat} (h : ∀ e ∈ s.tiles, mfind e.2.uol line = none) (tile : Nat) (p : PortReq → Bool) :
    ∀ e ∈ (s.dropSent tile p).tiles, mfind e.2.uol line = none := by
  unfold State.dropSent
  dsimp only
  split
  · intro e he
    rcases mem_mput _ _ _ _ he with rfl | he
    · show mfind (s.tile tile).uol line = none
      rw [State.tile, mget]
      cases hf : mfind s.tiles tile with
      | none => rfl
      | some t => exact h _ (mem_of_mfind hf)
    · exact h e he
  · exact h

section
variable {s : State} {k : Nat} {t : Thread} {x : QEntry} {q : List QEntry} {pa n : Nat} {ch : Bool}
  (hx : x.bytes = some (.glob pa ch, n)) (hu : ∀ e ∈ s.tiles, mfind e.2.uol (lineOf pa) = none)
include hx hu

/-- With no update-only data of its line, the head performs in a device that has only its request and its place less. -/
theorem headGone_eq : headGone s k t q x = (s.dropSent t.tile (entryUsed s t q x)).setThread k (popEntry t x) := by
  unfold headGone mergeFor
  rw [hx]
  cases ch with
  | false => rfl
  | true => exact mergeLine_none _ _ (uol_dropSent hu _ _)

theorem headGone_uol : ∀ e ∈ (headGone s k t q x).tiles, mfind e.2.uol (lineOf pa) = none := by
  rw [headGone_eq hx hu]
  exact uol_dropSent hu _ _

theorem headGone_thread : mfind (headGone s k t q x).threads k = some (popEntry t x) := by
  rw [headGone_eq hx hu]
  exact mfind_mput_same ..

theorem headGone_kept : (headGone s k t q x).mem = s.mem ∧ (headGone s k t q x).l2 = s.l2
    ∧ (headGone s k t q x).opTiles = s.opTiles := by
  rw [headGone_eq hx hu, dropSent_same]
  exact ⟨rfl, rfl, rfl⟩

theorem byteAt_headGone (b : Nat) : byteAt (headGone s k t q x) ch b = byteAt s ch b := by
  obtain ⟨hm, hl, -⟩ := headGone_kept (k := k) (t := t) (q := q) hx hu
  simp only [byteAt, homeByte, hm, hl]

/-- The head's write: its bytes at its place, and what else of the device stands. -/
theorem headWrite (hm : Memory.wf s.mem = true) (bs : List Byte) :
    let u := physWrite (headGone s k t q x) t.tile pa bs ch
    (∀ b, byteAt u ch b = if pa ≤ b then bs.getD (b - pa) (byteAt s ch b) else byteAt s ch b)
      ∧ (ch = false → u.l2 = s.l2) ∧ (ch = true → pa % 64 + bs.length ≤ 64 → u.mem = s.mem)
      ∧ u.opTiles = s.opTiles ∧ mfind u.threads k = some (popEntry t x) := by
  intro u
  obtain ⟨hmem, hl2, hot⟩ := headGone_kept (k := k) (t := t) (q := q) hx hu
  have huol := headGone_uol (k := k) (t := t) (q := q) hx hu
  have honly : MemoryOnly (headGone s k t q x) u := physWrite_memoryOnly huol ..
  refine ⟨fun b => ?_, ?_, ?_, ?_, ?_⟩
  · rw [byteAt_physWrite huol t.tile bs (by rw [State.memOk, hmem]; exact hm) ch b, byteAt_headGone hx hu]
  · rintro rfl
    exact hl2
  · rintro rfl hin
    exact (physWrite_cached_mem huol t.tile bs hin).trans hmem
  · rw [honly.same]
    exact hot
  · rw [honly.threads]
    exact headGone_thread hx hu

end

/-- An atomic reads its word or pair, writes the new one and gives back the old (R280, R281). -/
theorem performAtomic_eq {s : State} {k pa : Nat} {ch : Bool} {t : Thread} {a : Atomic} (hl : a.loc = .glob pa ch)
    (hu : ∀ e ∈ s.tiles, mfind e.2.uol (lineOf pa) = none) (ht : mfind s.threads k = some t) :
    let old := numAt s ch pa a.bytes
    let r := atApply a.kind (8 * a.bytes) old a.v.toNat a.cmp.toNat
    performAtomic s k t a = (physWrite s t.tile pa (leBytes a.bytes r.1) ch).setThread k
      { t with results := t.results ++ atResults a old, lateFlags := t.lateFlags ||| r.2 } := by
  intro old r
  have hread : basinBytes s pa a.bytes ch = (s, bytesAt s ch pa a.bytes) := by
    rw [basinBytes, mergeLine_none s _ hu, bytesAt_eq]
  have hthread (bs : List Byte) : mfind (physWrite s t.tile pa bs ch).threads k = some t := by
    rw [(physWrite_memoryOnly hu t.tile bs ch).threads, ht]
  simp only [performAtomic, hl, hread, hthread]
  rfl

/-- The two registers of a pair result (R279). -/
theorem atResults_pair {a : Atomic} {d : Fin 64} (hd : a.dest = some d) (hw : a.wide = true) (old : Nat) :
    atResults a old = [(⟨d.val / 2 * 2, by omega⟩, BitVec.ofNat 32 old),
      (⟨d.val / 2 * 2 + 1, by omega⟩, BitVec.ofNat 32 (old / 2 ^ 32))] := by
  simp only [atResults, hd, hw, if_true, pairLo, pairHi, evenPair, Nat.mul_comm 2]

/-- Bytes written at a place leave those beside them. -/
theorem written_outside {old : Byte} {bs : List Byte} {pa b : Nat} (h : b < pa ∨ pa + bs.length ≤ b) :
    (if pa ≤ b then bs.getD (b - pa) old else old) = old := by
  split
  · rw [List.getD_eq_default _ _ (by omega)]
  · rfl

/-- A number written at a place reads back. -/
theorem numAt_written {s u : State} {ch : Bool} {pa n v : Nat}
    (h : ∀ b, byteAt u ch b = if pa ≤ b then (leBytes n v).getD (b - pa) (byteAt s ch b) else byteAt s ch b) :
    numAt u ch pa n = v % 2 ^ (8 * n) := by
  have hb : (List.range n).map (fun i => byteAt u ch (pa + i)) = leBytes n v := by
    refine List.ext_getElem (by simp [leBytes_length]) fun i _ hi => ?_
    rw [List.getElem_map, List.getElem_range, h, if_pos (by omega), Nat.add_sub_cancel_left, List.getD_eq_getElem _ _ hi]
  rw [numAt, hb, leOf_leBytes, Nat.pow_mul]

/-- Settles O20: with its request gone and no update-only data of its line, the head is one write of its own bytes. -/
theorem colourQueuePerforms : Obligations.ColourQueuePerforms := by
  intro s k c t x q pa ch ht hk hq hmay hw hu hm hlast left leaves
  refine ⟨?_, ?_, ?_⟩
  · rintro hx hns
    obtain ⟨n, hbytes⟩ : ∃ n, x.bytes = some (.glob pa ch, n) := by
      rcases hx with ⟨y, rfl, hloc⟩ | ⟨a, rfl, hloc⟩
      · exact ⟨_, by rw [QEntry.bytes, hloc]⟩
      · exact ⟨_, by rw [QEntry.bytes, hloc]⟩
    obtain ⟨p, hp⟩ := colourQueue_waits ht hk hq hmay hbytes hlast hns
    exact ⟨_, hp, rfl, rfl, rfl⟩
  · rintro y rfl hloc hs
    have hbytes : (QEntry.st y).bytes = some (.glob pa ch, y.data.length) := by rw [QEntry.bytes, hloc]
    obtain ⟨hat, hl2, hmem, hot, hth⟩ := headWrite (k := k) (t := t) (q := q) hbytes hu hm y.data
    have hexec := colourQueue_performs ht hk hq hmay hbytes hlast hs
    rw [headDone, drainWaiting_none hth hw] at hexec
    refine ⟨_, _, ⟨hexec, fun b hb => ?_, hl2, hmem, hot, hth, popEntry_queue hq, rfl, rfl⟩, fun i hi => ?_, rfl⟩
    · rw [hat, written_outside hb]
    · rw [hat, if_pos (by omega), Nat.add_sub_cancel_left, List.getD_eq_getElem _ _ hi, List.getElem?_eq_getElem hi]
  · rintro a rfl hloc hs n old r
    have hbytes : (QEntry.atom a).bytes = some (.glob pa ch, n) := by rw [QEntry.bytes, hloc]; rfl
    have hlen : (leBytes n r.1).length = n := leBytes_length ..
    have hold : numAt (headGone s k t q (.atom a)) ch pa a.bytes = old := by
      simp only [numAt, byteAt_headGone hbytes hu, old]
      rfl
    obtain ⟨hat, hl2, hmem, hot, -⟩ := headWrite (k := k) (t := t) (q := q) hbytes hu hm (leBytes n r.1)
    have hatom := performAtomic_eq hloc (headGone_uol (k := k) (t := t) (q := q) hbytes hu)
      (headGone_thread (t := t) (q := q) hbytes hu)
    rw [hold] at hatom
    have hexec := colourQueue_performs ht hk hq hmay hbytes hlast hs
    rw [headDone, hatom, drainWaiting_none (mfind_mput_same _ k _) (by exact hw)] at hexec
    refine ⟨_, _, ⟨hexec, fun b hb => ?_, hl2, fun hch hin => hmem hch (by rwa [hlen]), hot, mfind_mput_same ..,
      popEntry_queue hq, rfl, rfl⟩, ?_, rfl, ?_⟩
    · exact (hat b).trans (written_outside (by rwa [hlen]))
    · exact numAt_written hat
    · refine congrArg (t.results ++ ·) ?_
      cases hd : a.dest with
      | none => simp only [atResults, hd]
      | some d =>
        cases hwide : a.wide with
        | false => simp [atResults, hd, hwide]
        | true => exact atResults_pair hd hwide old

end Sys2Proof.Machine
end

section
/-! SUPPORT. What the front end leaves as it settles: records that have started or ended, the queues' read indices, and the
operators that do not lapse (file 07; R342, R345). -/

namespace Sys2Proof.Machine
open Sys2Proof.Says

/-! ## Writes of the front end -/

/-- A table of queues changed in place, each with its read index. -/
theorem ridx_map (m : Map Queue) (f : Nat × Queue → Nat × Queue) (hf : ∀ e, (f e).1 = e.1 ∧ (f e).2.ridx = e.2.ridx) (k : Nat) :
    (mget {} (m.map f) k).ridx = (mget {} m k).ridx := by
  have hmap : m.map f = m.map fun e => (e.1, (fun i q => (f (i, q)).2) e.1 e.2) :=
    List.map_congr_left fun e _ => Prod.ext (hf e).1 rfl
  rw [mget, mget, hmap, mfind_mapVals m fun i q => (f (i, q)).2]
  cases mfind m k with
  | none => rfl
  | some q => exact (hf (k, q)).2

/-- What writes of the front end may change: memory and the caches, and of a queue all but its read index. -/
structure FrontWrites (s u : State) : Prop where
  memory : MemoryOnly s u
  ridx : ∀ k, (u.queue k).ridx = (s.queue k).ridx

namespace FrontWrites

theorem refl (s : State) : FrontWrites s s := ⟨.refl s, fun _ => rfl⟩

theorem trans {a b c : State} (h : FrontWrites a b) (h' : FrontWrites b c) : FrontWrites a c :=
  ⟨h.memory.trans h'.memory, fun k => (h'.ridx k).trans (h.ridx k)⟩

theorem foldl {β : Type} {f : State → β → State} (hf : ∀ u x, FrontWrites u (f u x)) (xs : List β) (s : State) :
    FrontWrites s (xs.foldl f s) := foldl_keeps (FrontWrites s) f (fun u x hu => hu.trans (hf u x)) xs s (refl s)

theorem of_homeOnly {s u : State} (h : HomeOnly s u) : FrontWrites s u := ⟨⟨by rw [h.same]⟩, fun _ => by rw [h.same]; rfl⟩

end FrontWrites

theorem noteWord_frontWrites (s : State) (line : Nat) : FrontWrites s (s.noteWord line) := by
  refine ⟨noteWord_memoryOnly s line, fun k => ridx_map s.queues _ (fun e => ?_) k⟩
  dsimp only
  repeat' split
  all_goals exact ⟨rfl, rfl⟩

theorem mergeWords_frontWrites (line : Nat) (u : Uol) (ws : Map W64) (s : State) : FrontWrites s (mergeWords s line u ws) := by
  induction ws generalizing s with
  | nil => exact .refl s
  | cons w ws ih =>
    have hl2 : FrontWrites s { s with l2 := mput s.l2 line (l2Line s line) } := ⟨⟨rfl⟩, fun _ => rfl⟩
    exact (hl2.trans (.of_homeOnly (homeWrite_homeOnly ..))).trans (ih _)

theorem mergeTileLine_frontWrites (s : State) (tile line : Nat) : FrontWrites s (mergeTileLine s tile line) := by
  cases hu : mfind (s.tile tile).uol line with
  | none =>
    rw [mergeTileLine, hu]
    exact .refl s
  | some u =>
    rw [mergeTileLine_eq hu]
    have ht : FrontWrites s (s.setTile tile ((s.tile tile).withoutUol line)) := ⟨⟨rfl⟩, fun _ => rfl⟩
    exact (ht.trans (mergeWords_frontWrites ..)).trans (noteWord_frontWrites ..)

theorem mergeLine_frontWrites (s : State) (line : Nat) : FrontWrites s (mergeLine s line) :=
  .foldl (f := fun u (e : Nat × Tile) => mergeTileLine u e.1 line) (fun u e => mergeTileLine_frontWrites u e.1 line) _ s

theorem basinPut_frontWrites (s : State) (pa : Nat) (data : List Byte) (c : Bool) : FrontWrites s (basinPut s pa data c) := by
  have hm := mergeLine_frontWrites s (lineOf pa)
  unfold basinPut
  extract_lets s1 l s2
  split
  · have h2 : FrontWrites s1 s2 := ⟨⟨rfl⟩, fun _ => rfl⟩
    exact ((hm.trans h2).trans (.of_homeOnly (homeWriteBytes_homeOnly ..))).trans (noteWord_frontWrites ..)
  · have h3 : FrontWrites s1 (({ s1 with mem := writeBytes s1.mem pa data } : State).noteWrite (lineOf pa)) :=
      ⟨⟨rfl⟩, fun _ => rfl⟩
    exact (hm.trans h3).trans (noteWord_frontWrites ..)

theorem setPteBit_frontWrites (s : State) (pte i : Nat) : FrontWrites s (setPteBit s pte i) := by
  unfold setPteBit
  extract_lets e
  split
  · exact .refl s
  · exact .of_homeOnly (homeWrite_homeOnly ..)

theorem basinWrite_frontWrites {s u : State} {pasid va : Nat} {data : List Byte} (h : basinWrite s pasid va data = some u) :
    FrontWrites s u := by
  refine foldl_keeps (fun o => ∀ u, o = some u → FrontWrites s u) _ (fun o q ho u hu => ?_) _ (some s)
    (fun u hu => Option.some.inj hu ▸ .refl s) u h
  split at hu
  · cases hu
  · rename_i s1
    split at hu
    · cases hu
      exact ((ho s1 rfl).trans (setPteBit_frontWrites ..)).trans (basinPut_frontWrites ..)
    · cases hu

theorem putQueue_frontWrites (s : State) (slot : Nat) {q : Queue} (hq : q.ridx = (s.queue slot).ridx) :
    FrontWrites s (putQueue s slot q) := by
  have hset (u : State) (hu : (u.queue slot).ridx = q.ridx) : FrontWrites u { u with queues := mput u.queues slot q } := by
    refine ⟨⟨rfl⟩, fun k => ?_⟩
    by_cases hk : k = slot
    · subst hk
      simpa [State.queue, mget] using hu.symm
    · simp only [State.queue, mget, mfind_mput_ne _ _ _ _ hk]
  have hwrite (a v : Nat) : FrontWrites s { homeWrite (s.noteHole a) a 32 v with
      queues := mput (s.noteHole a).queues slot q } := by
    have hqueues : (homeWrite (s.noteHole a) a 32 v).queues = (s.noteHole a).queues := by rw [(homeWrite_homeOnly ..).same]
    have h1 : FrontWrites s (homeWrite (s.noteHole a) a 32 v) := .of_homeOnly (holeWrite_homeOnly s a 32 v)
    rw [← hqueues]
    exact h1.trans (hset _ ((h1.ridx slot).trans hq.symm))
  unfold putQueue
  extract_lets a s1 e e'
  exact hwrite a e'

/-! ## Records (R341, R342, R345) -/

/-- Every record stands under its own key. -/
def Keyed (s : State) : Prop := ∀ e ∈ s.recs, e.1 = e.2.key

/-- A record that has started or ended, which the front end leaves alone. -/
def Rec.placed (r : Rec) : Bool := r.isStarted || r.isEnded

/-- What settling records leaves: whatever records it changes wait, or are still to end. -/
structure Settles (s u : State) : Prop where
  same : u = { s with
    mem := u.mem, l2 := u.l2, hostRes := u.hostRes, ponds := u.ponds, tiles := u.tiles, queues := u.queues, hole := u.hole
    recs := u.recs }
  ridx : ∀ k, (u.queue k).ridx = (s.queue k).ridx
  keyed : Keyed s → Keyed u
  recs : ∀ k, (∀ r, mfind s.recs k = some r → r.placed = true) → Keyed s → mfind u.recs k = mfind s.recs k

namespace Settles

theorem refl (s : State) : Settles s s := ⟨rfl, fun _ => rfl, id, fun _ _ _ => rfl⟩

theorem trans {a b c : State} (h : Settles a b) (h' : Settles b c) : Settles a c where
  same := by rw [h'.same, h.same]
  ridx k := (h'.ridx k).trans (h.ridx k)
  keyed hk := h'.keyed (h.keyed hk)
  recs k hp hk := by
    have hb := h.recs k hp hk
    exact (h'.recs k (fun r hr => hp r (hb ▸ hr)) (h.keyed hk)).trans hb

theorem foldl {β : Type} {f : State → β → State} (hf : ∀ u x, Settles u (f u x)) (xs : List β) (s : State) :
    Settles s (xs.foldl f s) := foldl_keeps (Settles s) f (fun u x hu => hu.trans (hf u x)) xs s (refl s)

end Settles

theorem FrontWrites.settles {s u : State} (h : FrontWrites s u) : Settles s u where
  same := by
    have hs := h.memory.same
    rw [hs]
  ridx := h.ridx
  keyed hk := by
    rw [Keyed, h.memory.same]
    exact hk
  recs k _ _ := by rw [h.memory.same]

/-- A record that waits, is ready or is still to end, changed in place. -/
theorem setRec_settles {s : State} {r r' : Rec} (hr : mfind s.recs r.key = some r) (hp : r.placed = false) (hk : r'.key = r.key) :
    Settles s (setRec s r') where
  same := rfl
  ridx _ := rfl
  keyed h e he := by
    rcases mem_mput _ _ _ _ he with rfl | he
    · rfl
    · exact h e he
  recs k hplaced _ := by
    refine mfind_mput_ne _ _ _ _ ?_
    rintro rfl
    rw [hk] at hplaced
    exact absurd (hplaced r hr) (by simp [hp])

theorem endRecord_frontWrites (s : State) (r : Rec) (status : Nat) :
    FrontWrites (setRec s { r with state := .ended status }) (endRecord s r status) := by
  unfold endRecord
  extract_lets done s1 exit hi lo
  split
  · exact .refl s1
  · split
    · rename_i he
      obtain ⟨s2, h2, h3⟩ := Option.bind_eq_some_iff.mp he
      exact (basinWrite_frontWrites h2).trans (basinWrite_frontWrites h3)
    · exact putQueue_frontWrites s1 r.slot rfl

theorem settleRec_settles {s : State} {r : Rec} (hr : mfind s.recs r.key = some r) : Settles s (settleRec s r) := by
  unfold settleRec
  split
  · next hw =>
    have hset {r' : Rec} (hk : r'.key = r.key) : Settles s (setRec s r') :=
      setRec_settles hr (by simp [Rec.placed, Rec.isStarted, Rec.isEnded, hw]) hk
    extract_lets pred
    clear_value pred
    split
    · split
      · exact hset rfl
      · exact .refl s
    · split
      · exact hset rfl
      · exact .refl s
    · exact hset rfl
    · exact hset rfl
    · exact .refl s
  · next st he =>
    split
    · have hset : Settles s (setRec s { r with state := .ended st }) :=
        setRec_settles hr (by simp [Rec.placed, Rec.isStarted, Rec.isEnded, he]) rfl
      exact hset.trans (endRecord_frontWrites s r st).settles
    · exact .refl s
  · exact .refl s

theorem settleRecs_settles {s : State} (h : Keyed s) : Settles s (settleRecs s) := by
  let P (u : State) : Prop := Keyed u ∧ Settles s u
  have h0 : P s := ⟨h, Settles.refl s⟩
  suffices hs : P (settleRecs s) from hs.2
  refine foldl_keeps P _ (fun u e hu => ?_) s.recs s h0
  obtain ⟨hkeyed, hset⟩ := hu
  split
  · next r hr =>
    have hk : e.1 = r.key := hkeyed (e.1, r) (mem_of_mfind hr)
    rw [hk] at hr
    have hstep : Settles u (settleRec u r) := settleRec_settles hr
    exact ⟨hstep.keyed hkeyed, hset.trans hstep⟩
  · exact ⟨hkeyed, hset⟩

theorem settleTwice_settles (n : Nat) {s : State} (h : Keyed s) : Settles s (settleTwice n s) := by
  induction n generalizing s with
  | zero => exact .refl s
  | succ n ih =>
    have h1 := settleRecs_settles h
    exact h1.trans (ih (h1.keyed h))

/-! ## Operators taken off their tiles -/

theorem mrises_mapVals {α β : Type} (m : Map α) (f : Nat → α → β) (lo : Nat) :
    mrises (m.map fun e => (e.1, f e.1 e.2)) lo = mrises m lo := by
  induction m generalizing lo with
  | nil => rfl
  | cons e r ih => simp only [List.map_cons, mrises, ih]

/-- No operator holds a pin. -/
def Unpinned (s : State) : Prop := ∀ e ∈ s.ops, e.2.pins = []

/-- What an operator's loss of its pins leaves: the frame table's counts are written at the home, and no other operator
changes. -/
structure PinsOnly (op : Nat) (s u : State) : Prop where
  same : u = { s with mem := u.mem, l2 := u.l2, hostRes := u.hostRes, ponds := u.ponds, hole := u.hole, ops := u.ops }
  ops : ∃ f : Nat → Operator → Operator, u.ops = s.ops.map (fun e => (e.1, f e.1 e.2)) ∧ ∀ k o, k ≠ op → f k o = o

namespace PinsOnly

theorem refl (op : Nat) (s : State) : PinsOnly op s s := ⟨rfl, fun _ o => o, by simp, fun _ _ _ => rfl⟩

theorem trans {op : Nat} {a b c : State} (h : PinsOnly op a b) (h' : PinsOnly op b c) : PinsOnly op a c := by
  obtain ⟨f, hf, hkeep⟩ := h.ops
  obtain ⟨f', hf', hkeep'⟩ := h'.ops
  refine ⟨by rw [h'.same, h.same], fun k o => f' k (f k o), ?_, fun k o hk => ?_⟩
  rotate_left
  · show f' k (f k o) = o
    rw [hkeep k o hk, hkeep' k o hk]
  rw [hf', hf, List.map_map]
  rfl

variable {op : Nat} {s u : State} (h : PinsOnly op s u)
include h

theorem rises (hr : mrises s.ops 0 = true) : mrises u.ops 0 = true := by
  obtain ⟨f, hf, -⟩ := h.ops
  rwa [hf, mrises_mapVals]

theorem op_ne {k : Nat} (hk : k ≠ op) : mfind u.ops k = mfind s.ops k := by
  obtain ⟨f, hf, hkeep⟩ := h.ops
  rw [hf, mfind_mapVals]
  cases mfind s.ops k with
  | none => rfl
  | some o => rw [Option.map_some, hkeep k o hk]

theorem op_none {k : Nat} (hk : mfind s.ops k = none) : mfind u.ops k = none := by
  obtain ⟨f, hf, -⟩ := h.ops
  rw [hf, mfind_mapVals, hk, Option.map_none]

end PinsOnly

theorem unpinFrame_pinsOnly (s : State) (op f n : Nat) : PinsOnly op s (unpinFrame s op f n) := by
  have hh := setFramePins_homeOnly s (framePa f) (framePins s (framePa f) - n)
  rw [unpinFrame_eq]
  generalize setFramePins s (framePa f) (framePins s (framePa f) - n) = u at hh ⊢
  refine ⟨congrArg (fun v : State => { v with ops := (unpinOps u op f n).ops }) hh.same, fun i o => if i = op then unpinned f n o else o, ?_, fun k o hk => if_neg hk⟩
  rw [unpinOps, hh.ops]
  refine List.map_congr_left fun e _ => ?_
  dsimp only
  split
  · rfl
  · rfl

theorem dropPins_pinsOnly (s : State) (op : Nat) : PinsOnly op s (dropPins s op) := by
  unfold dropPins
  split
  · exact .refl op s
  · exact foldl_keeps (PinsOnly op s) _ (fun u (e : Nat × Nat) hu => hu.trans (unpinFrame_pinsOnly u op e.1 e.2)) _ s (.refl op s)

theorem dropPins_unpinned {s : State} (h : Unpinned s) (op : Nat) : dropPins s op = s := by
  unfold dropPins
  split
  · rfl
  · next o ho => rw [h (op, o) (mem_of_mfind ho), List.foldl_nil]

theorem markTicket_same (s : State) (c : FlumeCmd) (x : TicketState) :
    markTicket s c x = { s with threads := (markTicket s c x).threads } := by
  unfold markTicket
  split
  · rfl
  · rfl

/-- A cancel changes the commands, the tickets of their sequencers and the pools of frames. -/
theorem cancelFlumes_same (s : State) (p : Nat → FlumeCmd → Bool) : cancelFlumes s p = { s with
    flumes := (cancelFlumes s p).flumes, threads := (cancelFlumes s p).threads, terraces := (cancelFlumes s p).terraces } := by
  let Q (u : State) : Prop := u = { s with flumes := u.flumes, threads := u.threads, terraces := u.terraces }
  show Q (cancelFlumes s p)
  unfold cancelFlumes
  extract_lets gone kept pages s1
  have h1 : Q s1 := by
    refine foldl_keeps Q _ (fun u (e : Nat × FlumeCmd) hu => ?_) gone _ rfl
    simp only [Q] at hu ⊢
    rw [markTicket_same, hu]
  refine foldl_keeps Q _ (fun u (f : Nat × Nat) hu => ?_) pages s1 h1
  simp only [Q] at hu ⊢
  rw [hu]
  rfl

/-- What operators that go leave behind: the records, the queues and every operator that stays. -/
structure Departs (gone : Nat → Prop) (s u : State) : Prop where
  same : u = { s with
    mem := u.mem, l2 := u.l2, hostRes := u.hostRes, ponds := u.ponds, hole := u.hole, flumes := u.flumes,
    threads := u.threads, terraces := u.terraces, ops := u.ops, opTiles := u.opTiles, tiles := u.tiles }
  rises : mrises s.ops 0 = true → mrises u.ops 0 = true
  stays : mrises s.ops 0 = true → ∀ k, ¬ gone k → mfind u.ops k = mfind s.ops k
  absent : mrises s.ops 0 = true → ∀ k, mfind s.ops k = none → mfind u.ops k = none
  unpinned : Unpinned s → u.mem = s.mem ∧ u.l2 = s.l2 ∧ Unpinned u

namespace Departs

theorem refl (gone : Nat → Prop) (s : State) : Departs gone s s :=
  ⟨rfl, id, fun _ _ _ => rfl, fun _ _ h => h, fun h => ⟨rfl, rfl, h⟩⟩

theorem trans {gone : Nat → Prop} {a b c : State} (h : Departs gone a b) (h' : Departs gone b c) : Departs gone a c where
  same := by rw [h'.same, h.same]
  rises hr := h'.rises (h.rises hr)
  stays hr k hk := (h'.stays (h.rises hr) k hk).trans (h.stays hr k hk)
  absent hr k hk := h'.absent (h.rises hr) k (h.absent hr k hk)
  unpinned hp := by
    obtain ⟨hm, hl, hu⟩ := h.unpinned hp
    obtain ⟨hm', hl', hu'⟩ := h'.unpinned hu
    exact ⟨hm'.trans hm, hl'.trans hl, hu'⟩

theorem mono {gone gone' : Nat → Prop} {s u : State} (h : Departs gone s u) (hg : ∀ k, gone k → gone' k) : Departs gone' s u :=
  ⟨h.same, h.rises, fun hr k hk => h.stays hr k fun hgone => hk (hg k hgone), h.absent, h.unpinned⟩

end Departs

theorem cancelFlumes_departs (gone : Nat → Prop) (s : State) (p : Nat → FlumeCmd → Bool) :
    Departs gone s (cancelFlumes s p) := by
  have hops : (cancelFlumes s p).ops = s.ops := (cancelFlumes_sameOps s p).ops
  refine ⟨by rw [cancelFlumes_same], fun h => hops ▸ h, fun _ _ _ => by rw [hops], fun _ _ hk => hops ▸ hk, fun h => ⟨?_, ?_, ?_⟩⟩
  · rw [cancelFlumes_same]
  · rw [cancelFlumes_same]
  · rw [Unpinned, hops]
    exact h

theorem dropPins_departs (s : State) (op : Nat) : Departs (· = op) s (dropPins s op) := by
  have hp := dropPins_pinsOnly s op
  refine ⟨by rw [hp.same], hp.rises, fun _ k hk => hp.op_ne hk, fun _ k hk => hp.op_none hk, fun h => ?_⟩
  rw [dropPins_unpinned h]
  exact ⟨rfl, rfl, h⟩

theorem leaveTiles_departs (s : State) (op : Nat) : Departs (· = op) s (leaveTiles s op) where
  same := rfl
  rises := mrises_mdel _ _ _
  stays h k hk := mfind_mdel_ne _ _ _ _ hk h
  absent h k hk := by
    by_cases hop : k = op
    · rw [hop]
      exact mfind_mdel_same _ _ _ h
    · exact (mfind_mdel_ne _ _ _ _ hop h).trans hk
  unpinned h := ⟨rfl, rfl, fun e he => h e (mem_mdel _ _ _ he)⟩

theorem dropOperator_departs (s : State) (op : Nat) : Departs (· = op) s (dropOperator s op) := by
  rw [dropOperator_eq]
  exact ((cancelFlumes_departs _ s _).trans (dropPins_departs _ op)).trans (leaveTiles_departs _ op)

theorem dropOperator_gone {s : State} (h : mrises s.ops 0 = true) (op : Nat) : mfind (dropOperator s op).ops op = none := by
  rw [dropOperator_eq]
  exact mfind_mdel_same _ _ _
    (((cancelFlumes_departs (· = op) s fun _ c => keyOp c.thread = op).trans (dropPins_departs _ op)).rises h)

theorem dropOperators_departs (ks : List Nat) (s : State) : Departs (· ∈ ks) s (ks.foldl dropOperator s) := by
  induction ks generalizing s with
  | nil => exact .refl _ s
  | cons k ks ih =>
    exact ((dropOperator_departs s k).mono fun j hj => hj ▸ .head ks).trans ((ih _).mono fun j hj => .tail k hj)

/-! ## After an event of the front end (R342, R345) -/

/-- The front end settles its records, then takes off the operators whose pending launches lapse. -/
theorem frontSettle_splits {s : State} (h : Keyed s) :
    ∃ w, Settles s w ∧ Departs (fun k => ∃ o, (k, o) ∈ w.ops ∧ lapsed w o = true) w (frontSettle s) := by
  refine ⟨settleTwice (s.recs.length + 1) s, settleTwice_settles _ h, ?_⟩
  refine (dropOperators_departs _ _).mono fun k hk => ?_
  obtain ⟨e, he, rfl⟩ := List.mem_map.mp hk
  obtain ⟨hmem, hl⟩ := List.mem_filter.mp he
  exact ⟨e.2, hmem, hl⟩

section
variable {s : State} (hk : Keyed s)
include hk

/-- A record that has started or ended stands, and none appears. -/
theorem frontSettle_rec {k : Nat} (hp : ∀ r, mfind s.recs k = some r → r.placed = true) :
    mfind (frontSettle s).recs k = mfind s.recs k := by
  obtain ⟨w, hs, hd⟩ := frontSettle_splits hk
  rw [hd.same]
  exact hs.recs k hp hk

theorem frontSettle_nextOp : (frontSettle s).nextOp = s.nextOp := by
  obtain ⟨w, hs, hd⟩ := frontSettle_splits hk
  rw [hd.same, hs.same]

variable (hr : mrises s.ops 0 = true)
include hr

theorem frontSettle_noOp {k : Nat} (ho : mfind s.ops k = none) : mfind (frontSettle s).ops k = none := by
  obtain ⟨w, hs, hd⟩ := frontSettle_splits hk
  have hw : w.ops = s.ops := by rw [hs.same]
  exact hd.absent (hw ▸ hr) k (hw ▸ ho)

/-- An operator that waits for no chain successor stands. -/
theorem frontSettle_op {k : Nat} {o : Operator} (ho : mfind s.ops k = some o) (hst : o.state ≠ .reserved) :
    mfind (frontSettle s).ops k = some o := by
  obtain ⟨w, hs, hd⟩ := frontSettle_splits hk
  have hw : w.ops = s.ops := by rw [hs.same]
  rw [hd.stays (hw ▸ hr) k ?_, hw, ho]
  rintro ⟨o', hmem, hl⟩
  obtain rfl : o' = o := congrArg Prod.snd (eq_of_mem_of_mfind hr ho (hw ▸ hmem) rfl)
  simp [lapsed, hst] at hl

/-- One that does stands while its successor is the next record to be read and its context is not being killed. -/
theorem frontSettle_reserved {k : Nat} {o : Operator} (ho : mfind s.ops k = some o) (hu : Unpinned s)
    (hrec : mfind s.recs (recKey o.slot (o.index + 1)) = none) (hidx : (s.queue o.slot).ridx = o.index + 1)
    (hctx : ctxField (frontSettle s) o.ctx 367 364 ≠ 4) : mfind (frontSettle s).ops k = some o := by
  obtain ⟨w, hs, hd⟩ := frontSettle_splits hk
  have hw : w.ops = s.ops := by rw [hs.same]
  obtain ⟨hmem, hl2, -⟩ := hd.unpinned (by rw [Unpinned, hw]; exact hu)
  have hbasin : (frontSettle s).basin = w.basin := by rw [hd.same]
  have hfield : ctxField (frontSettle s) o.ctx 367 364 = ctxField w o.ctx 367 364 := by
    simp only [ctxField, ctxAddr, homeRead, homeBytes_eq_map, homeByte, hmem, hl2, hbasin]
  have hwrec : mfind w.recs (recKey o.slot (o.index + 1)) = none :=
    (hs.recs _ (fun r h => absurd (hrec.symm.trans h) (by simp)) hk).trans hrec
  rw [hd.stays (hw ▸ hr) k ?_, hw, ho]
  rintro ⟨o', hmem, hl⟩
  obtain rfl : o' = o := congrArg Prod.snd (eq_of_mem_of_mfind hr ho (hw ▸ hmem) rfl)
  rw [hfield] at hctx
  simp only [lapsed, hwrec, hs.ridx, hidx] at hl
  simp [hctx] at hl

end

end Sys2Proof.Machine
end

section
/-! PROOFS. An operator completes: its regions are written back, its record ends, and it goes or keeps its sequencers for its
chain successor (O49). -/

namespace Sys2Proof.Machine
open Sys2Proof.Says

/-! ## The write-back of regions with nothing dirty (R101) -/

theorem dirtyOf_quiet {s : State} {otk : Nat} (h : ∀ p ∈ (s.opTile otk).regions, ∀ g ∈ p.2.gran, g.2 ≠ .dirty)
    (f : Region → Nat → Bool) : dirtyOf s otk f = [] := by
  rw [dirtyOf, List.flatMap_eq_nil_iff]
  intro p hp
  have hf : p.2.gran.filter (fun g => g.2 = .dirty && f p.2 g.1) = [] := by
    rw [List.filter_eq_nil_iff]
    intro g hg
    simp [h p hp g hg]
  rw [hf, List.map_nil]
  split
  · rfl
  · rfl

theorem releaseTile_quiet {s : State} {otk : Nat} (h : ∀ p ∈ (s.opTile otk).regions, ∀ g ∈ p.2.gran, g.2 ≠ .dirty)
    (tile : Nat) : (releaseTile tile otk).run s = (.ok none, s) := by
  have hsent : s.dropSent tile (isDirtyReq []) = s := by
    have hnone : ∀ r, isDirtyReq [] r = false := fun r => by
      unfold isDirtyReq
      split
      · rfl
      · rfl
    simp [State.dropSent, hnone]
  unfold releaseTile
  rw [op_run_bind_ok (op_run_get s), dirtyOf_quiet h, op_run_bind_ok (op_run_get s),
    op_run_bind_ok (askLines_served fun q hq => absurd hq (by simp [dirtyReqs])), op_run_bind_ok (op_run_get s)]
  simp only [writeBackAll, List.foldl_nil, hsent]
  rw [op_run_bind_ok (op_run_set s s)]
  rfl

/-- Where the context lives no more, or nothing is dirty, the device stays as it is. -/
theorem releaseWrites_quiet {s : State} {op : Nat} {back : Bool} (h : back = false ∨ Quiet s op) :
    (releaseWrites op back).run s = (.ok none, s) := by
  cases back with
  | false => rfl
  | true =>
    have hq : Quiet s op := h.resolve_left (by simp)
    have htiles : ∀ ts : List (Nat × Nat), (∀ x ∈ ts, ∃ e ∈ s.threadsOf op, e.2.ot = x.2) →
        (ts.mapM fun x => releaseTile x.1 x.2).run s = (.ok (ts.map fun _ => none), s) := by
      intro ts hts
      have hm := op_run_mapM (f := fun x : Nat × Nat => releaseTile x.1 x.2) (place := id) (g := fun _ => none) (s := s) ts
        fun x hx => by
          obtain ⟨e, he, hot⟩ := hts x hx
          obtain ⟨hmem, hop⟩ := List.mem_filter.mp he
          refine releaseTile_quiet ?_ x.1
          rw [id, ← hot]
          exact hq e hmem (of_decide_eq_true hop)
      rwa [List.map_id] at hm
    unfold releaseWrites
    rw [if_neg (by simp), op_run_bind_ok (op_run_get s), op_run_bind_ok (htiles _ fun x hx => ?_)]
    · have hnone : ∀ (ts : List (Nat × Nat)) (f : Option Nat → Option Nat), f none = none →
          (ts.map fun _ => (none : Option Nat)).findSome? f = none := fun ts f hf => by
        simp [hf]
      rw [hnone _ _ rfl]
      rfl
    · obtain ⟨e, he, rfl⟩ := List.mem_map.mp (List.mem_eraseDups.mp hx)
      exact ⟨e, he, rfl⟩

/-! ## The record's end (R342, R345) -/

theorem recKey_succ_ne (slot : Nat) (i : W32) : recKey slot (i + 1) ≠ recKey slot i := by
  intro h
  have ht : (i + 1).toNat = i.toNat := by simpa [recKey] using h
  have := i.isLt
  rw [BitVec.toNat_add] at ht
  simp at ht
  omega

section
variable {s : State} (hk : Keyed s) (r : Rec) (st : Nat)

theorem endRecord_recs : (endRecord s r st).recs = mput s.recs r.key { r with state := .ended st } := by
  rw [(endRecord_frontWrites s r st).memory.same]
  rfl

theorem endRecord_ops : (endRecord s r st).ops = s.ops := (endRecord_sameOps s r st).ops

include hk

theorem endRecord_keyed : Keyed (endRecord s r st) := by
  intro e he
  rw [endRecord_recs] at he
  rcases mem_mput _ _ _ _ he with rfl | he
  · rfl
  · exact hk e he

/-- A record that ends stays so as the front end settles. -/
theorem frontSettle_endRecord : mfind (frontSettle (endRecord s r st)).recs r.key = some { r with state := .ended st } := by
  have hf : mfind (endRecord s r st).recs r.key = some { r with state := .ended st } := by
    rw [endRecord_recs, mfind_mput_same]
  rw [frontSettle_rec (endRecord_keyed hk r st) (fun r' hr' => ?_), hf]
  rw [hf] at hr'
  cases hr'
  rfl

end

/-! ## The operator goes, or keeps its sequencers (R342, R345) -/

theorem dropAcc_departs (gone : Nat → Prop) (s : State) (op : Nat) : Departs gone s (dropAcc s op) :=
  ⟨rfl, id, fun _ _ _ => rfl, fun _ _ h => h, fun h => ⟨rfl, rfl, h⟩⟩

/-- The device with nothing of an operator under way but its sequencers. -/
def quieted (s : State) (op : Nat) : State :=
  dropPins (cancelFlumes (dropAcc s op) fun _ c => keyOp c.thread = op) op

theorem quieted_departs (s : State) (op : Nat) : Departs (· = op) s (quieted s op) :=
  ((dropAcc_departs _ s op).trans (cancelFlumes_departs _ _ _)).trans (dropPins_departs _ op)

/-- An operator keeps its sequencers for its chain successor. -/
def keepTiles (s : State) (op : Nat) (o : Operator) : State := (quieted s op).setOp op { o with state := .reserved, pins := [] }

theorem retireOperator_eq {s : State} {op : Nat} {o : Operator} {r : Rec}
    (hr : mfind s.recs (recKey o.slot o.index) = some r) :
    retireOperator s op o 0 = frontSettle (endRecord (if r.chain then keepTiles s op o else dropOperator s op)
      { r with exitValue := exitValueOf s op } 0) := by
  unfold retireOperator
  rw [hr]
  cases hc : r.chain
  · simp [hc]
  · simp [hc, keepTiles, quieted]

section
variable {s : State} {op : Nat} {o : Operator} {r : Rec} (hk : Keyed s) (hr : mfind s.recs (recKey o.slot o.index) = some r)
include hk hr

theorem retireOperator_gone (hrise : mrises s.ops 0 = true) (hc : r.chain = false) :
    mfind (retireOperator s op o 0).ops op = none := by
  have hd := dropOperator_departs s op
  have hv : Keyed (dropOperator s op) := by
    rw [Keyed, hd.same]
    exact hk
  rw [retireOperator_eq hr, if_neg (by simp [hc])]
  refine frontSettle_noOp (endRecord_keyed hv _ _) ?_ ?_
  · rw [endRecord_ops]
    exact hd.rises hrise
  · rw [endRecord_ops]
    exact dropOperator_gone hrise op

variable (hslot : r.slot = o.slot) (hindex : r.index = o.index)
include hslot hindex

/-- The record of an operator that retires has ended, with its exit value. -/
theorem retireOperator_rec : mfind (retireOperator s op o 0).recs (recKey o.slot o.index)
    = some { r with exitValue := exitValueOf s op, state := .ended 0 } := by
  have hkey : recKey o.slot o.index = { r with exitValue := exitValueOf s op }.key := by rw [Rec.key, hslot, hindex]
  have hv : Keyed (if r.chain then keepTiles s op o else dropOperator s op) := by
    split
    · rw [Keyed, keepTiles, (quieted_departs s op).same]
      exact hk
    · rw [Keyed, (dropOperator_departs s op).same]
      exact hk
  rw [retireOperator_eq hr, hkey, frontSettle_endRecord hv]

/-- A reserved operator keeps its tiles for the record that is read next. -/
theorem retireOperator_kept (hrise : mrises s.ops 0 = true) (hc : r.chain = true)
    (hnext : mfind s.recs (recKey o.slot (o.index + 1)) = none) (hidx : (s.queue o.slot).ridx = o.index + 1)
    (hpins : Unpinned s)
    (hctx : ctxField (retireOperator s op o 0) o.ctx 367 364 ≠ 4) :
    mfind (retireOperator s op o 0).ops op = some { o with state := .reserved, pins := [] } := by
  have hd := quieted_departs s op
  have hrecs : (keepTiles s op o).recs = s.recs := by
    rw [keepTiles, hd.same]
    rfl
  have hqueues : (keepTiles s op o).queues = s.queues := by
    rw [keepTiles, hd.same]
    rfl
  have hv : Keyed (keepTiles s op o) := by
    rw [Keyed, hrecs]
    exact hk
  rw [retireOperator_eq hr, if_pos hc] at hctx ⊢
  refine frontSettle_reserved (endRecord_keyed hv _ _) ?_ ?_ ?_ ?_ ?_ hctx
  · rw [endRecord_ops]
    exact mrises_mput _ _ _ _ (Nat.zero_le op) (hd.rises hrise)
  · rw [endRecord_ops]
    exact mfind_mput_same _ _ _
  · rw [Unpinned, endRecord_ops]
    obtain ⟨-, -, hp⟩ := hd.unpinned hpins
    intro e he
    rcases mem_mput _ _ _ _ he with rfl | he
    · rfl
    · exact hp e he
  · rw [endRecord_recs, mfind_mput_ne, hrecs]
    · exact hnext
    · rw [Rec.key, hslot, hindex]
      exact recKey_succ_ne _ _
  · rw [(endRecord_frontWrites _ _ _).ridx]
    show (mget {} (keepTiles s op o).queues o.slot).ridx = o.index + 1
    rw [hqueues]
    exact hidx

end

/-! ## The completion (R290, R315) -/

theorem execOperatorCompletion_busy {s : State} {op : Nat} {o : Operator} (ho : mfind s.ops op = some o)
    (h : operatorDone s op o = false) : execOperatorCompletion op s = .next s := by
  unfold execOperatorCompletion
  rw [ho]
  simp [h]

/-- An operator whose regions have been written back retires. -/
theorem execOperatorCompletion_done {s s1 : State} {op : Nat} {o : Operator} (ho : mfind s.ops op = some o)
    (hpond : o.pond = none) (hdone : operatorDone s op o = true) (hst : o.state = .started)
    (hw : (releaseWrites op (ctxField s o.ctx 367 364 = 1 || ctxField s o.ctx 367 364 = 2)).run s = (.ok none, s1))
    (hops : s1.ops = s.ops) : execOperatorCompletion op s = .next (retireOperator s1 op o 0) := by
  unfold execOperatorCompletion
  rw [ho]
  simp only [hpond, hdone, hst, hw, hops, ho]
  rfl

/-- Settles O49: a quiet operator is written back as it is; its record, once ended, stands as the front end settles, and its
entry is gone, or stands reserved while the record that is read next is its successor's. -/
theorem operatorCompletes : Obligations.OperatorCompletes := by
  intro s op o ho hpond hk
  refine ⟨fun h => execOperatorCompletion_busy ho h, fun s1 r hdone hst hrise => ?_⟩
  intro live hback hr hslot hindex
  obtain ⟨hw, hops, hrecs⟩ : (releaseWrites op live).run s = (.ok none, s1) ∧ s1.ops = s.ops ∧ s1.recs = s.recs := by
    rcases hback with ⟨hq, rfl⟩ | h
    · exact ⟨releaseWrites_quiet hq, rfl, rfl⟩
    · exact h
  rw [exec_operatorCompletion, execOperatorCompletion_done ho hpond hdone hst hw hops]
  rw [← hops] at hrise
  rw [← hrecs] at hr
  have hk1 : Keyed s1 := by
    rw [Keyed, hrecs]
    exact hk
  refine ⟨_, _, rfl, retireOperator_rec hk1 hr hslot hindex, rfl, rfl, fun hc => ?_, fun hc hnext hidx hpins hctx => ?_⟩
  · exact retireOperator_gone hk1 hr hrise hc
  · have hp1 : Unpinned s1 := by
      rw [Unpinned, hops]
      exact hpins
    exact ⟨_, retireOperator_kept hk1 hr hslot hindex hrise hc (hrecs ▸ hnext) hidx hp1 hctx, rfl, rfl⟩

end Sys2Proof.Machine
end

section
/-! PROOFS. What the pool starts, and the registers of a sequencer at operator start (O48). -/

namespace Sys2Proof.Machine
open Sys2Proof.Says

/-! ## A head that is passed over (R343) -/

/-- Only the note of the head changes. -/
theorem passOver_same (s : State) : passOver s = { s with headSince := (passOver s).headSince } := by
  unfold passOver
  split
  · rfl
  · split
    · rfl
    · split
      · rfl
      · split
        · rfl
        · rfl

section
variable {s : State}

theorem passOver_blocked (h : ∃ a ∈ poolOpen s, headBlocks s = some a.id) : passOver s = s := by
  have hb : ((poolOpen s).any fun a => headBlocks s = some a.id) = true := by simpa using h
  rw [passOver, if_pos hb]

variable (hopen : ∀ a ∈ poolOpen s, headBlocks s ≠ some a.id)
include hopen

theorem head_unblocked : ¬ ((poolOpen s).any fun a => headBlocks s = some a.id) = true := by simpa using hopen

theorem passOver_empty (h : poolHead s = none) : passOver s = { s with headSince := none } := by
  rw [passOver, if_neg (head_unblocked hopen), h]

variable {a : Item} (hhead : poolHead s = some a)
include hhead

theorem passOver_placeable (h : placeable s a = true) : passOver s = { s with headSince := none } := by
  rw [passOver, if_neg (head_unblocked hopen), hhead]
  exact if_pos h

theorem passOver_noted (h : placeable s a = false) {x : Nat × Nat} (hx : s.headSince = some x) (hid : x.1 = a.id) :
    passOver s = s := by
  rw [passOver, if_neg (head_unblocked hopen), hhead]
  simp [h, hx, hid]

theorem passOver_notes (h : placeable s a = false) (hx : ∀ x, s.headSince = some x → x.1 ≠ a.id) :
    passOver s = { s with headSince := some (a.id, s.time.toNat) } := by
  have hn : ¬ (s.headSince.any fun h => h.1 = a.id) = true := by
    cases hs : s.headSince with
    | none => simp
    | some x => simpa using hx x hs
  rw [passOver, if_neg (head_unblocked hopen), hhead]
  exact (if_neg (by simp [h])).trans (if_neg hn)

end

/-! ## The start of a record (R343 to R345) -/

/-- The operator a record starts as. -/
def startedAs (s : State) (r : Rec) (places : List (Nat × List (Fin 4))) : Operator :=
  { slot := r.slot, index := r.index, ctx := r.ctx, pasid := r.pasid, obj := r.objNo,
    tiles := places.zipIdx.map fun p => (p.2, p.1.1), seqs := r.seqs, prio := r.effPrio s, width := r.width,
    height := r.height, terr := r.terr, agroup := r.agroup, rolled := r.rolled }

/-- A record starts on tiles, and is noted as started. -/
def startRec (s : State) (r : Rec) (places : List (Nat × List (Fin 4))) : State :=
  noteStarted (setRec (launch s r (r.effPrio s) none places) { r with state := .started s.nextOp }) r

/-- What the start of a record is to the front end. -/
structure Started (s : State) (r : Rec) (places : List (Nat × List (Fin 4))) (u : State) : Prop where
  nextOp : u.nextOp = s.nextOp + 1
  recs : u.recs = mput s.recs r.key { r with state := .started s.nextOp }
  ops : u.ops = mput s.ops s.nextOp (startedAs s r places)

theorem noteStarted_same (s : State) (r : Rec) : noteStarted s r = { s with queues := (noteStarted s r).queues } := by
  unfold noteStarted
  extract_lets q
  split
  · rfl
  · rfl

theorem startRec_started {s : State} {r : Rec} {ob : CodeObj} (h : mfind s.objs (objKey r.pasid r.objNo) = some ob)
    (places : List (Nat × List (Fin 4))) : Started s r places (startRec s r places) := by
  constructor <;>
    · rw [startRec, noteStarted_same, launch, h]
      rfl

section
variable {s u : State} {r : Rec} {places : List (Nat × List (Fin 4))} (h : Started s r places u)
include h

theorem Started.keyed (hk : Keyed s) : Keyed u := by
  intro e he
  rw [h.recs] at he
  rcases mem_mput _ _ _ _ he with rfl | he
  · rfl
  · exact hk e he

/-- A record that starts has started, and its operator runs, once the front end has settled. -/
theorem Started.settled (hk : Keyed s) (hr : mrises s.ops 0 = true) :
    (frontSettle u).nextOp = s.nextOp + 1
      ∧ mfind (frontSettle u).recs r.key = some { r with state := .started s.nextOp }
      ∧ mfind (frontSettle u).ops s.nextOp = some (startedAs s r places) := by
  have hku := h.keyed hk
  have hrec : mfind u.recs r.key = some { r with state := .started s.nextOp } := by
    rw [h.recs, mfind_mput_same]
  have hop : mfind u.ops s.nextOp = some (startedAs s r places) := by
    rw [h.ops, mfind_mput_same]
  have hru : mrises u.ops 0 = true := by
    rw [h.ops]
    exact mrises_mput _ _ _ _ (Nat.zero_le _) hr
  refine ⟨(frontSettle_nextOp hku).trans h.nextOp, ?_, frontSettle_op hku hru hop (by simp [startedAs])⟩
  rw [frontSettle_rec hku (fun r' hr' => ?_), hrec]
  obtain rfl := Option.some.inj (hrec.symm.trans hr')
  rfl

end

/-! ## The pool's next record (R343) -/

theorem execRecordPlacement_none {s : State} (h : nextItem s = none) (r : Rect) : execRecordPlacement r s = .next s := by
  rw [execRecordPlacement, h]

section
variable {s : State} {a : Item} {r : Rect} (ha : nextItem s = some a)
include ha

theorem execRecordPlacement_unfit (hf : fitsAt s a.shape r = false) : execRecordPlacement r s = .next s := by
  rw [execRecordPlacement, ha]
  simp [hf]

theorem execRecordPlacement_fits (hop : a.isOp = false) {x : Rec} (hx : mfind s.recs a.key = some x)
    (hf : fitsAt s a.shape r = true) : ∃ u n, execRecordPlacement r s = .next (frontSettle { u with headSince := n })
      ∧ u = startRec (passOver s) x (placesAt (passOver s) a.shape r) := by
  rw [execRecordPlacement, ha]
  simp only [hop, hf, hx]
  exact ⟨_, _, rfl, rfl⟩

end

/-- The logical tiles of an operator placed on a rectangle. -/
theorem placesAt_tiles (s : State) (z : Shape) (r : Rect) : (placesAt s z r).zipIdx.map (fun p => (p.2, p.1.1))
    = ((rectTiles s z r).getD []).zipIdx.map fun p => (p.2, p.1) := by
  rw [placesAt, List.zipIdx_map, List.map_map]
  rfl

theorem recordPlacement_starts {s : State} {r : Rect} {a : Item} {x : Rec} {ob : CodeObj} (ha : nextItem s = some a)
    (hop : a.isOp = false) (hx : mfind s.recs a.key = some x) (hkey : x.key = a.key)
    (hob : mfind s.objs (objKey x.pasid x.objNo) = some ob) (hf : fitsAt s a.shape r = true) (hk : Keyed s)
    (hr : mrises s.ops 0 = true) : ∃ u o x', execRecordPlacement r s = .next u ∧ u.nextOp = s.nextOp + 1
      ∧ mfind u.recs a.key = some x' ∧ x'.state = .started s.nextOp ∧ x'.words = x.words
      ∧ mfind u.ops s.nextOp = some o ∧ o.slot = x.slot ∧ o.index = x.index ∧ o.prio = x.effPrio s
      ∧ o.tiles = ((rectTiles s a.shape r).getD []).zipIdx.map fun p => (p.2, p.1) := by
  obtain ⟨u, n, he, hu⟩ := execRecordPlacement_fits ha hop hx hf
  rw [passOver_same] at hu
  generalize (passOver s).headSince = m at hu
  have hst := startRec_started (s := { s with headSince := m }) hob (placesAt { s with headSince := m } a.shape r)
  rw [← hu] at hst
  have hst' : Started { s with headSince := m } x (placesAt { s with headSince := m } a.shape r) { u with headSince := n } :=
    ⟨hst.nextOp, hst.recs, hst.ops⟩
  obtain ⟨hn, hrec, ho⟩ := hst'.settled hk hr
  rw [hkey] at hrec
  exact ⟨_, _, _, he, hn, hrec, rfl, rfl, ho, rfl, rfl, rfl, placesAt_tiles _ _ _⟩

/-! ## Chain successors (R342, R344, R360, R445) -/

theorem pondHolds_iff (s : State) (r : Rec) :
    pondHolds s r = true ↔ ∃ p ∈ s.ponds, p.2.held = true ∧ p.2.slot = r.slot ∧ p.2.index = r.index := by
  simp [pondHolds, and_assoc]

theorem granulesFor_iff (s : State) (regs : List (Nat × Nat × Tag)) (tiles : Map Nat) :
    granulesFor s regs (tiles.map (·.2)) = true ↔ ∀ e ∈ tiles, placeRegions regs (takenGranules s e.2) ≠ none := by
  simp [granulesFor, Option.isSome_iff_ne_none]

/-- The tiles and sequencers of an operator, for its chain successor. -/
def placesOf (s : State) (old : Nat) (o : Operator) : List (Nat × List (Fin 4)) :=
  o.tiles.map fun e => (e.2, ((s.threadsOf old).filter fun t => t.2.ltile = e.1).map fun t => t.2.pseq)

theorem placesOf_tiles (s : State) (old : Nat) (o : Operator) : (placesOf s old o).map (·.1) = o.tiles.map (·.2) := by
  rw [placesOf, List.map_map]
  rfl

theorem placesOf_zipIdx (s : State) (old : Nat) (o : Operator) :
    (placesOf s old o).zipIdx.map (fun p => (p.2, p.1.1)) = o.tiles.zipIdx.map fun p => (p.2, p.1.2) := by
  rw [placesOf, List.zipIdx_map, List.map_map]
  rfl

theorem execChainSuccessorStart_none {s : State} {slot : Nat} {index : W32} (h : mfind s.recs (recKey slot index) = none) :
    execChainSuccessorStart slot index s = .next s := by
  rw [execChainSuccessorStart, h]

section
variable {s : State} {slot : Nat} {index : W32} {x : Rec} {old : Nat} {o : Operator} {ob : CodeObj}
  (hx : mfind s.recs (recKey slot index) = some x) (hres : reservedFor s x = some (old, o))
include hx hres

theorem execChainSuccessorStart_waits (h : x.state ≠ .ready ∨ pondHolds s x = true) :
    execChainSuccessorStart slot index s = .next s := by
  rw [execChainSuccessorStart, hx]
  simp only [hres]
  rcases h with h | h
  · simp [h]
  · simp [h]

variable (hob : mfind s.objs (objKey x.pasid x.objNo) = some ob) (hready : x.state = .ready) (hchained : x.chained = true)
  (hpond : pondHolds s x = false) (hctx : ctxField s x.ctx 367 364 = 1)
include hob hready hchained hpond hctx

theorem execChainSuccessorStart_ready : execChainSuccessorStart slot index s =
    if granulesFor (dropOperator s old) ob.regions (o.tiles.map (·.2)) then
      .next (frontSettle (startRec (dropOperator s old) x (placesOf s old o)))
    else .next s := by
  have hshape : (x.shape (dropOperator s old)).regs = ob.regions := by
    have hobjs : (dropOperator s old).objs = s.objs := by rw [(dropOperator_departs s old).same]
    simp [Rec.shape, objRegions, hobjs, hob]
  rw [execChainSuccessorStart, hx]
  simp only [hres]
  rw [if_neg (by simp [hready, hchained, hpond, hctx]), ← placesOf, hshape, placesOf_tiles]
  cases granulesFor (dropOperator s old) ob.regions (o.tiles.map (·.2))
  · rfl
  · rfl

theorem chainSuccessor_starts (hslot : x.slot = slot) (hindex : x.index = index) (hk : Keyed s)
    (hr : mrises s.ops 0 = true) (hroom : granulesFor (dropOperator s old) ob.regions (o.tiles.map (·.2)) = true) :
    ∃ u o' x', execChainSuccessorStart slot index s = .next u ∧ mfind u.recs (recKey slot index) = some x'
      ∧ x'.state = .started s.nextOp ∧ mfind u.ops s.nextOp = some o' ∧ o'.index = index
      ∧ o'.tiles = o.tiles.zipIdx.map fun p => (p.2, p.1.2) := by
  have hd := dropOperator_departs s old
  have hnext : (dropOperator s old).nextOp = s.nextOp := by rw [hd.same]
  have hst := startRec_started (s := dropOperator s old) (r := x) (ob := ob) (by rw [hd.same]; exact hob) (placesOf s old o)
  obtain ⟨-, hrec, ho⟩ := hst.settled (by rw [Keyed, hd.same]; exact hk) (hd.rises hr)
  rw [hnext] at hrec ho
  rw [Rec.key, hslot, hindex] at hrec
  refine ⟨_, _, _, (execChainSuccessorStart_ready hx hres hob hready hchained hpond hctx).trans (if_pos hroom), hrec, rfl, ho,
    hindex, placesOf_zipIdx _ _ _⟩

end

theorem recordsStart : RecordsStart := by
  intro s
  refine ⟨fun r h => execRecordPlacement_none h r, fun r a x ob ha hop hx hkey hob => ?_, ?_,
    fun slot index h => execChainSuccessorStart_none h, fun h => congrArg Host.Outcome.next (passOver_blocked h),
    fun hopen => ⟨fun h => ?_, fun a hhead => ⟨fun h => ?_, fun h => ⟨fun x hx hid => ?_, fun hx => ?_⟩⟩⟩⟩
  · exact ⟨execRecordPlacement_unfit ha, fun hf hk hr => recordPlacement_starts ha hop hx hkey hob hf hk hr⟩
  · intro slot index x old o ob hx hslot hindex hres hob room matched
    have hmatched : pondHolds s x = true ↔ matched := by
      rw [pondHolds_iff, hslot, hindex]
    refine ⟨fun h => execChainSuccessorStart_waits hx hres (h.imp_right hmatched.mpr), ?_⟩
    intro hready hchained hno hctx _ _ hk hr
    have hpond : pondHolds s x = false := Bool.eq_false_iff.mpr fun h => hno (hmatched.mp h)
    have hroom := granulesFor_iff (dropOperator s old) ob.regions o.tiles
    refine ⟨fun h => ?_, fun h => chainSuccessor_starts hx hres hob hready hchained hpond hctx hslot hindex hk hr
      (hroom.mpr h)⟩
    exact (execChainSuccessorStart_ready hx hres hob hready hchained hpond hctx).trans (if_neg fun hg => h (hroom.mp hg))
  · exact congrArg Host.Outcome.next (passOver_empty hopen h)
  · exact congrArg Host.Outcome.next (passOver_placeable hopen hhead h)
  · exact congrArg Host.Outcome.next (passOver_noted hopen hhead h hx hid)
  · exact congrArg Host.Outcome.next (passOver_notes hopen hhead h hx)

/-! ## The registers at operator start (R97, R168, R308, R344) -/

/-- A sequencer in the Jexcy form keeps it where its object has no native code that a block could be entered in. -/
theorem swapForm_untranslated {s : State} {t : Thread} (hf : t.form = .jexcy)
    (h : ∀ x, s.objOf t = some x → x.translated = [] ∧ x.falls = []) : swapForm s t = t := by
  unfold swapForm
  cases ho : s.objOf t with
  | none => rfl
  | some o =>
    obtain ⟨ht, hl⟩ := h o ho
    have hin : inForm o .jexcy t.pc = if inSection o .jexcy t.pc.toNat then some t.pc else none := by
      simp [inForm, counterpart, ht, hl]
    have hnat : nativeOf o t.pc = none := by simp [nativeOf, ht]
    dsimp only
    rw [hin]
    split
    · rfl
    · next j hj =>
      obtain ⟨-, rfl⟩ : _ ∧ t.pc = j := by simpa using hj
      rw [hnat]
      dsimp only
      rw [if_pos (by simp [hf]), if_pos hf.symm]

/-- A sequencer that starts in the Jexcy form, none of its blocks translated. -/
theorem launchThread_jexcy {s : State} {o : CodeObj} {r : Rec} {a : Nat}
    (ha : blockAt s o (BitVec.ofNat 16 (bits (r.word 0) 15 0)) = some (.jexcy, a))
    (h : ∀ x, mfind s.objs (objKey (BitVec.ofNat 20 r.pasid).toNat o.number) = some x → x.translated = [] ∧ x.falls = [])
    (op ltile j tile : Nat) (p : Fin 4) : launchThread s o r op ltile j tile p =
      { op := op, ltile := ltile, seq := Fin.ofNat 4 j, tile := tile, pseq := p, form := .jexcy, pc := BitVec.ofNat 64 a,
        regs := launchRegs s o r .jexcy ltile j, launch := launchInfo s o r, blockSince := s.time.toNat,
        waitEnd := s.time.toNat, blk := { entry := BitVec.ofNat 64 a, start := launchRegs s o r .jexcy ltile j } } := by
  rw [launchThread, ha]
  dsimp only
  rw [swapForm_untranslated]
  · rfl
  · rfl
  · exact h

section
variable (s : State) (o : CodeObj) (r : Rec) (f : Form) (ltile j : Nat)

/-- A scalar register at operator start: `s1` to `s7` are written, every other is 0. -/
theorem launchRegs_s (n : Fin 64) : (launchRegs s o r f ltile j).s[n] = if 1 ≤ n.val ∧ n.val ≤ 7 then
    BitVec.ofNat 32 ([r.seqs, r.word 2 % 2 ^ 32, r.word 2 / 2 ^ 32, ltile, j, r.width + r.height * 2 ^ 16,
      if r.kind = 1 then bits (r.word 1) 31 0 else 0].getD (n.val - 1) 0) else 0 := by
  simp [launchRegs]

theorem launchRegs_high {n : Fin 64} (h : 8 ≤ n.val) : (launchRegs s o r f ltile j).s[n] = 0 := by
  rw [launchRegs_s, if_neg (by omega)]

/-- `s6` holds the area. A variable stands for it: the kernel would unfold the product. -/
theorem launchRegs_area {a : Nat} (h : r.width + r.height * 2 ^ 16 = a) :
    (launchRegs s o r f ltile j).s[6] = BitVec.ofNat 32 a := by
  have h6 := launchRegs_s s o r f ltile j 6
  rw [if_pos (by decide), h] at h6
  exact h6

theorem launchRegs_loops (h : r.kind = 0) : (launchRegs s o r f ltile j).loops = [] := by
  simp [launchRegs, h]

end

theorem launchRegisters : LaunchRegisters := by
  intro s o r op ltile j tile a p ha hkind _ _ hobj
  have hs (n : Fin 64) := launchRegs_s s o r .jexcy ltile j n
  have hlo : BitVec.ofNat 32 (r.word 2 % 2 ^ 32) = BitVec.ofNat 32 (r.word 2) := by
    apply BitVec.eq_of_toNat_eq
    simp
  intro t s32
  have ht : t = _ := launchThread_jexcy ha hobj op ltile j tile p
  clear_value t
  subst ht
  refine ⟨rfl, rfl, rfl, rfl, rfl, ?_, ?_, ?_, ?_, ?_, ?_, ?_, ?_, fun n hn => launchRegs_high _ _ _ _ _ _ hn, fun n => ?_,
    fun n => ?_, fun n => ?_, launchRegs_loops _ _ _ _ _ _ hkind, rfl, rfl, rfl, rfl, rfl, rfl, rfl⟩
  · simpa using hs 0
  · simpa using hs 1
  · exact (hs 2).trans hlo
  · simpa using hs 3
  · simpa using hs 4
  · simpa using hs 5
  · exact launchRegs_area s o r .jexcy ltile j rfl
  · simpa [hkind] using hs 7
  · simp
  · simp [launchRegs]
  · simp [launchRegs]

/-- Settles O48: a record that starts and its operator stand as the front end settles, on the tiles of the rectangle or of its
predecessor; the launch writes `s1` to `s7`, and no form is swapped where nothing is translated. -/
theorem recordsStartOperators : Obligations.RecordsStartOperators := ⟨recordsStart, launchRegisters⟩

end Sys2Proof.Machine
end

section
/-! PROOFS. Handle words, the configuration of a walker, and its walk (files 04 and 06; O30). -/

namespace Sys2Proof.Machine
open Sys2Proof.Says

/-! ## `hset` (R109, R175) -/

theorem handleWordIsSet : Says.HandleWordIsSet := by
  intro s t d a b k x g ht hb
  refine ⟨handleRecord (setBits t.regs.h[a].toNat (32 * k.val + 31) (32 * k.val) x.toNat),
    makes_of_ok ht (exec_hset ..) ?_, fun i hi => ?_⟩
  · rw [hb, ← fold_opk]
    rfl
  · rw [getLsbD_handleRecord _ _ hi, testBit_setBits _ _ _ _ _ (by omega)]
    congr 1
    split
    · rw [if_pos (by omega), BitVec.getLsbD]
    · rw [if_neg (by omega), BitVec.getLsbD]

/-! ## `wset` (R178, R179) -/

/-- The count and the stride of a level that R178 takes. -/
theorem walkLevelOk_of {r : Regs} {p : Fin 32} {j : Nat} (hpos : 1 ≤ (walkCount r p j).toNat)
    (hmax : (walkCount r p j).toNat ≤ 65535) (hal : (walkStride r p j).toInt % 4 = 0)
    (hlo : -(2 ^ 23 : Int) ≤ (walkStride r p j).toInt) (hhi : (walkStride r p j).toInt < 2 ^ 23) : walkLevelOk r p j = true := by
  simp only [walkLevelOk, Bool.and_eq_true, decide_eq_true_eq]
  exact ⟨⟨⟨⟨by omega, hmax⟩, hal⟩, hlo⟩, by omega⟩

theorem walkerIsSet : Says.WalkerIsSet := by
  intro s t w p levels imm ht hl1 hl4 _ hbusy a par h63 hzero hal hpar
  have ha : wrapN 64 ((pairVal t.regs p).toNat + imm.toInt) = a.toNat := (BitVec.toNat_ofInt ..).symm
  have hb28 : bits a.toNat 62 28 = 0 := (bits_toNat ..).trans (congrArg BitVec.toNat hzero)
  have hstride (j : Nat) : walkStride t.regs p j = par (2 * j + 1) := by
    rw [walkStride, show 2 * p.val + 3 + 2 * j = 2 * p.val + 2 + (2 * j + 1) by omega]
  have hlv : (List.range levels.val).all (walkLevelOk t.regs p) = true := by
    refine List.all_eq_true.mpr fun j hj => ?_
    obtain ⟨hpos, hmax, hal, hlo, hhi⟩ := hpar j (List.mem_range.mp hj)
    rw [← hstride] at hal hlo hhi
    exact walkLevelOk_of hpos hmax hal hlo hhi
  clear_value a
  have hrun : execWset w p levels imm s = _ := runPure_ok ht ((if_neg (by simp [ha, bit_toNat, h63, hb28, hal, hlv])).trans
    (if_neg (by rw [hbusy]; decide)))
  refine ⟨_, _, hrun, rfl, rfl, rfl, ?_, ?_, ?_, rfl, fun j hj => ?_, rfl, rfl, rfl⟩
  · show bits (wrapN 64 _) 27 22 % 64 = _
    rw [ha, bits_toNat]
    exact Nat.mod_eq_of_lt (BitVec.isLt _)
  · show BitVec.ofNat 22 (wrapN 64 _) = _
    rw [ha]
    apply BitVec.eq_of_toNat_eq
    simp
  · show (levels.val - 1) % 4 + 1 = _
    omega
  · exact ⟨by simp [hj, walkCount, par], by simp [hj, hstride]⟩

/-! ## Walks (R177, R180) -/

section
variable (c d : Nat → Nat)

/-- The place in the walk of the digits `d`, level 0 lowest, of which level `j` takes `c j` values. -/
def radixPlace (n : Nat) : Nat := ((List.range n).map fun j => d j * ((List.range j).map c).prod).sum

/-- Level `j` after one step: it moves where every level below it stands at its last point. -/
def nextDigit (j : Nat) : Nat := if ∀ i < j, d i + 1 = c i then (if d j + 1 = c j then 0 else d j + 1) else d j

theorem radixPlace_succ (n : Nat) : radixPlace c d (n + 1) = radixPlace c d n + d n * ((List.range n).map c).prod := by
  simp [radixPlace, List.range_succ]

theorem radix_succ (n : Nat) : ((List.range (n + 1)).map c).prod = ((List.range n).map c).prod * c n := by
  simp [List.range_succ]

variable {c d}

/-- A step over `n` levels goes to the next place, or from the last to the first. -/
theorem radixPlace_step (n : Nat) (hd : ∀ i < n, d i < c i) :
    if ∀ i < n, d i + 1 = c i then radixPlace c (nextDigit c d) n = 0 ∧ radixPlace c d n + 1 = ((List.range n).map c).prod
    else radixPlace c (nextDigit c d) n = radixPlace c d n + 1 ∧ radixPlace c d n + 1 < ((List.range n).map c).prod := by
  induction n with
  | zero => simp [radixPlace]
  | succ n ih =>
    have ih := ih fun i hi => hd i (by omega)
    have hn := hd n (by omega)
    simp only [Nat.forall_lt_succ_right, radixPlace_succ, radix_succ] at ih ⊢
    generalize ((List.range n).map c).prod = size at ih ⊢
    by_cases hr : ∀ i < n, d i + 1 = c i
    · simp only [if_pos hr] at ih
      obtain ⟨h0, hs⟩ := ih
      by_cases hl : d n + 1 = c n
      · rw [if_pos ⟨hr, hl⟩, nextDigit, if_pos hr, if_pos hl, h0, ← hl]
        exact ⟨by omega, by linear_combination hs⟩
      · have hle : (d n + 1 + 1) * size ≤ c n * size := Nat.mul_le_mul_right _ (by omega)
        rw [if_neg (fun h => hl h.2), nextDigit, if_pos hr, if_neg hl, h0]
        exact ⟨by linear_combination -hs, by nlinarith⟩
    · simp only [if_neg hr] at ih
      have hle : (d n + 1) * size ≤ c n * size := Nat.mul_le_mul_right _ (by omega)
      rw [if_neg (fun h => hr h.1), nextDigit, if_neg hr, ih.1]
      exact ⟨by omega, by nlinarith⟩

theorem radixPlace_nextDigit {n : Nat} (hd : ∀ i < n, d i < c i) :
    radixPlace c (nextDigit c d) n = (radixPlace c d n + 1) % ((List.range n).map c).prod := by
  have h := radixPlace_step n hd
  split at h
  · rw [h.1, h.2, Nat.mod_self]
  · rw [h.1, Nat.mod_eq_of_lt h.2]

theorem nextDigit_lt {j : Nat} (h : d j < c j) : nextDigit c d j < c j := by
  unfold nextDigit
  split
  · split <;> omega
  · exact h

end

/-- The count and the index of a level of a walker. -/
def levelCount (w : Walker) (j : Nat) : Nat := (w.count.getD j 0).toNat
def levelAt (w : Walker) (j : Nat) : Nat := (w.index.getD j 0).toNat

/-- The walker while the step of `w` carries: level `k` has just been moved, and the levels below it have settled. -/
structure Carried (w u : Walker) (k : Nat) : Prop where
  same : u = { w with index := u.index }
  settled : ∀ j < k, j ≤ w.levels.val → levelAt u j = nextDigit (levelCount w) (levelAt w) j
  moved : k ≤ w.levels.val → levelAt u k = if ∀ i < k, levelAt w i + 1 = levelCount w i then levelAt w k + 1 else levelAt w k
  above : ∀ j, k < j → levelAt u j = levelAt w j


theorem getD_setIfInBounds {α : Type} (v : Vector α 4) (i j : Nat) (x y : α) (hi : i < 4) :
    (v.setIfInBounds i x).getD j y = if j = i then x else v.getD j y := by
  simp only [Vector.getD, Vector.toArray_setIfInBounds, Array.getD_eq_getD_getElem?, Array.getElem?_setIfInBounds,
    @eq_comm _ j]
  split
  · rw [if_pos (by simpa using hi)]
    rfl
  · rfl

theorem Carried.count_eq {w u : Walker} {k : Nat} (h : Carried w u k) (j : Nat) : levelCount u j = levelCount w j := by
  rw [h.same]
  rfl

/-- A level that has come to its count begins again, and the one above it moves. -/
theorem levelAt_stepIndex {u : Walker} {k : Nat} (hk : k ≤ u.levels.val) (hf : u.index.getD k 0 = u.count.getD k 0) (j : Nat) :
    levelAt (stepIndex u k) j = if j = k then 0 else if j = k + 1 ∧ k < u.levels.val then (u.index.getD (k + 1) 0 + 1).toNat
      else levelAt u j := by
  have h4 := u.levels.isLt
  have hreset (i : Nat) : (u.index.setIfInBounds k 0).getD i 0 = if i = k then 0 else u.index.getD i 0 :=
    getD_setIfInBounds _ _ _ _ _ (by omega)
  simp only [levelAt, stepIndex, if_pos hf]
  by_cases hl : k < u.levels.val
  · rw [if_pos hl, getD_setIfInBounds _ _ _ _ _ (by omega), hreset, hreset, if_neg (by omega : ¬ k + 1 = k)]
    by_cases h1 : j = k + 1
    · rw [if_pos h1, if_neg (by omega), if_pos ⟨h1, hl⟩]
    · rw [if_neg h1, if_neg (c := j = k + 1 ∧ _) fun h => h1 h.1]
      split <;> rfl
  · rw [if_neg hl, hreset, if_neg (c := j = k + 1 ∧ _) fun h => hl h.2]
    split <;> rfl

/-- An index moves on without wrapping, where it lies below its count. -/
theorem toNat_succ_of_lt {a b : BitVec 16} (h : a.toNat < b.toNat) : (a + 1).toNat = a.toNat + 1 := by
  rw [BitVec.toNat_add]
  have := b.isLt
  exact Nat.mod_eq_of_lt (by change a.toNat + 1 < _; omega)

section
variable {w u : Walker} (hw : ∀ j ≤ w.levels.val, levelAt w j < levelCount w j)
include hw

theorem carried_start : Carried w { w with index := w.index.setIfInBounds 0 (w.index.getD 0 0 + 1) } 0 := by
  refine ⟨rfl, fun j hj => absurd hj (by omega), fun _ => ?_, fun j hj => ?_⟩
  · rw [if_pos (fun i hi => absurd hi (by omega)), levelAt, getD_setIfInBounds _ _ _ _ _ (by omega), if_pos rfl]
    exact toNat_succ_of_lt (hw 0 (by omega))
  · rw [levelAt, getD_setIfInBounds _ _ _ _ _ (by omega), if_neg (by omega)]
    rfl

/-- A level that has come to its count begins again and moves the next; any other ends the carry. -/
theorem Carried.step {k : Nat} (h : Carried w u k) (hk : k ≤ w.levels.val) : Carried w (stepIndex u k) (k + 1) := by
  have h4 := w.levels.isLt
  have hlt := hw k hk
  have hlv : u.levels = w.levels := by rw [h.same]
  have hfull : u.index.getD k 0 = u.count.getD k 0 ↔ levelAt u k = levelCount w k := by
    rw [← h.count_eq k]
    exact BitVec.toNat_inj.symm
  have hcarry : levelAt u k = levelCount w k ↔ ∀ i < k + 1, levelAt w i + 1 = levelCount w i := by
    rw [h.moved hk, Nat.forall_lt_succ_right]
    split
    · next hr => exact ⟨fun he => ⟨hr, he⟩, fun he => he.2⟩
    · next hr => exact ⟨fun he => by omega, fun he => absurd he.1 hr⟩
  by_cases hf : levelAt u k = levelCount w k
  · have hr := hcarry.mp hf
    have hdigit : nextDigit (levelCount w) (levelAt w) k = 0 := by
      rw [nextDigit, if_pos fun i hi => hr i (by omega), if_pos (hr k (by omega))]
    have hlevel (j : Nat) := levelAt_stepIndex (hlv ▸ hk) (hfull.mpr hf) j
    refine ⟨?_, fun j hj hjl => ?_, fun hl => ?_, fun j hj => ?_⟩
    · rw [h.same]
      unfold stepIndex
      split <;> rfl
    · by_cases hjk : j = k
      · rw [hlevel, if_pos hjk, hjk, hdigit]
      · rw [hlevel, if_neg hjk, if_neg (by omega)]
        exact h.settled j (by omega) hjl
    · have hnext : levelAt u (k + 1) = levelAt w (k + 1) := h.above _ (by omega)
      rw [hlevel, if_neg (by omega), if_pos ⟨rfl, hlv ▸ hl⟩, if_pos hr, ← hnext]
      exact toNat_succ_of_lt (b := w.count.getD (k + 1) 0) (hnext.trans_lt (hw (k + 1) hl))
    · rw [hlevel, if_neg (by omega), if_neg (by omega)]
      exact h.above j (by omega)
  · have hr := fun he => hf (hcarry.mpr he)
    have hdigit : nextDigit (levelCount w) (levelAt w) k = levelAt u k := by
      rw [nextDigit, h.moved hk]
      split
      · next hl => rw [if_neg fun he => hr (Nat.forall_lt_succ_right.mpr ⟨hl, he⟩)]
      · rfl
    rw [stepIndex, if_neg fun he => hf (hfull.mp he)]
    refine ⟨h.same, fun j hj hjl => ?_, fun hl => ?_, fun j hj => h.above j (by omega)⟩
    · by_cases hjk : j = k
      · rw [hjk, hdigit]
      · exact h.settled j (by omega) hjl
    · rw [if_neg hr, h.above _ (by omega)]
/-- A step of a walk moves each level as `nextDigit` says, and changes nothing else. -/
theorem carried_walkerAdvance : Carried w (walkerAdvance w) (w.levels.val + 1) := by
  let start : Walker := { w with index := w.index.setIfInBounds 0 (w.index.getD 0 0 + 1) }
  have hsteps : ∀ n ≤ w.levels.val + 1, Carried w ((List.range n).foldl stepIndex start) n := by
    intro n hn
    induction n with
    | zero => exact carried_start hw
    | succ n ih =>
      rw [List.range_succ, List.foldl_concat]
      exact (ih (by omega)).step hw (by omega)
  exact hsteps _ le_rfl

end

/-- A sum added up from a first term on. -/
theorem foldl_add_sum (f : Nat → Int) (xs : List Nat) (a : Int) : xs.foldl (fun x j => x + f j) a = a + (xs.map f).sum := by
  induction xs generalizing a with
  | nil => simp
  | cons x xs ih => rw [List.foldl_cons, ih, List.map_cons, List.sum_cons, Int.add_assoc]

theorem getD_fin {α : Type} (v : Vector α 4) (j : Fin 4) (y : α) : v.getD j.val y = v[j] := by
  simp [Vector.getD, Array.getD_eq_getD_getElem?]

section
variable {c c' d d' : Nat → Nat} {n : Nat}

theorem radixPlace_congr (h : ∀ j < n, d j = d' j) : radixPlace c d n = radixPlace c d' n := by
  unfold radixPlace
  congr 1
  exact List.map_congr_left fun j hj => by rw [h j (List.mem_range.mp hj)]

theorem nextDigit_congr {j : Nat} (h : ∀ i ≤ j, c i = c' i) : nextDigit c d j = nextDigit c' d j := by
  have hr : (∀ i < j, d i + 1 = c i) ↔ ∀ i < j, d i + 1 = c' i :=
    forall_congr' fun i => imp_congr_right fun hi => by rw [h i (by omega)]
  simp only [nextDigit, hr, h j le_rfl]

/-- Levels of one value add nothing to the length of a walk. -/
theorem radix_of_ones (hn : n ≤ 3) (h : ∀ j, n < j → c j = 1) :
    ((List.range (n + 1)).map c).prod = c 0 * c 1 * c 2 * c 3 := by
  obtain rfl | rfl | rfl | rfl : n = 0 ∨ n = 1 ∨ n = 2 ∨ n = 3 := by omega
  · simp [h 1, h 2, h 3]
  · simp [List.range_succ, h 2, h 3]
  · simp [List.range_succ, h 3, Nat.mul_assoc]
  · simp [List.range_succ, Nat.mul_assoc]

end

theorem walkersAreCyclic : Says.WalkersAreCyclic := by
  intro w hw c place
  have hc : ∀ j ≤ w.levels.val, c j = levelCount w j := fun j hj => if_pos hj
  have hlt : ∀ j ≤ w.levels.val, levelAt w j < levelCount w j := by
    intro j hj
    have h := (hw ⟨j, by omega⟩ hj).2
    rwa [← getD_fin w.index _ 0, ← getD_fin w.count _ 0] at h
  have hadv := carried_walkerAdvance hlt
  have hnext : ∀ j ≤ w.levels.val, levelAt (walkerAdvance w) j = nextDigit c (levelAt w) j := fun j hj =>
    (hadv.settled j (by omega) hj).trans (nextDigit_congr fun i hi => (hc i (by omega)).symm)
  refine ⟨?_, fun j hj => ?_, ?_, ?_, ?_, ?_⟩
  · calc place (walkerAdvance w) = radixPlace c (nextDigit c (levelAt w)) (w.levels.val + 1) :=
          radixPlace_congr fun j hj => hnext j (by omega)
      _ = (place w + 1) % ((List.range (w.levels.val + 1)).map c).prod :=
          radixPlace_nextDigit fun i hi => (hlt i (by omega)).trans_eq (hc i (by omega)).symm
      _ = _ := by rw [radix_of_ones (by omega) fun j hj => if_neg (by omega)]
  · have h := nextDigit_lt (c := c) (d := levelAt w) ((hlt j hj).trans_eq (hc j hj).symm)
    rw [← hnext j hj, hc j hj, levelAt, levelCount, getD_fin, getD_fin] at h
    exact h
  · rw [hadv.same]
  · rw [hadv.same]
  · rw [hadv.same]
  · rw [walkerOffset, foldl_add_sum]
    simp only [sgn_eq_toInt, BitVec.ofNat_toNat, BitVec.setWidth_eq]

/-- Settles O30: a word of a record and a walker are set as written; a step of a walk is an increment of the number whose
digits are the indices. -/
theorem handlesAndWalkers : Obligations.HandlesAndWalkers := ⟨handleWordIsSet, walkerIsSet, walkersAreCyclic⟩

end Sys2Proof.Machine
end

section
/-! SUPPORT. A flume command's reads and writes, as operations of the monad (R119, R124, R127, R130 to R135; O26). -/

namespace Sys2Proof.Machine
open Sys2Proof.Says

/-! ## The monad -/

theorem op_run_mapM_each {β γ : Type} {f : β → Op γ} {g : β → γ} {s : State} (l : List β)
    (h : ∀ x ∈ l, (f x).run s = (.ok (g x), s)) : (l.mapM f).run s = (.ok (l.map g), s) := by
  have hm := op_run_mapM (place := id) l h
  rwa [List.map_id] at hm

theorem op_run_foldlM {α β : Type} {f : β → α → Op β} {g : β → α → β} {s : State} (l : List α) (b : β)
    (h : ∀ b, ∀ a ∈ l, (f b a).run s = (.ok (g b a), s)) : (l.foldlM f b).run s = (.ok (l.foldl g b), s) := by
  induction l generalizing b with
  | nil => rfl
  | cons a l ih =>
    rw [List.foldlM_cons, op_run_bind_ok (h b a (.head _))]
    exact ih _ fun b x hx => h b x (.tail _ hx)

/-! ## An agent's command ends, or waits (R124) -/

theorem runAgent_ok {s s' : State} {k ord : Nat} {place : W64 × BitVec 16} {f : Op Unit} (h : f.run s = (.ok (), s')) :
    runAgent s k ord place f = s'.dropOwner (.place k ord) := by
  unfold runAgent
  rw [h]

theorem runAgent_wait {s s' : State} {k ord : Nat} {place : W64 × BitVec 16} {f : Op Unit} {w : Need}
    (h : f.run s = (.error (.wait w), s')) : runAgent s k ord place f = keepPorts s s' := by
  unfold runAgent
  rw [h]

theorem dropOwner_readsOnly (s : State) (o : PortOwner) : ReadsOnly s (s.dropOwner o) :=
  foldl_keeps (ReadsOnly s) _ (fun _ _ h => h.trans (dropSent_readsOnly ..)) _ s (.refl s)

section
variable {s s' : State} (h : ReadsOnly s s')
include h

theorem ReadsOnly.flumes : s'.flumes = s.flumes := by rw [h.same]
theorem ReadsOnly.ops : s'.ops = s.ops := by rw [h.same]
theorem ReadsOnly.terraces : s'.terraces = s.terraces := by rw [h.same]

end

/-- A command that waits leaves everything but the ports as it was. -/
theorem keepPorts_same (s s' : State) : keepPorts s s' = { s with tiles := (keepPorts s s').tiles } := by
  refine foldl_keeps (fun u : State => u = { s with tiles := u.tiles }) _ (fun u e h => ?_) _ s rfl
  dsimp only
  split
  · exact h
  · rw [h]
    rfl

/-! ## Elements (R109, R110, R125) -/

section
variable {s : State} {c : FlumeCmd} (ha : ∀ p ∈ s.ops, p.2.away = false) (hh : ∀ e ∈ s.flumes, e.2.hold = false)
include hh

theorem heldOf_unheld (k : Nat) : heldOf s k = [] := by
  rw [heldOf, List.filter_eq_nil_iff]
  intro e he
  simp [hh e he]

/-- With no command held, a command reads what its agent reads. -/
theorem flBytes_unheld {d : FlDest} {a : Addr} {n : Nat} {bs : List Byte}
    (hr : (agentRead (flAgent s c d) a n).run s = (.ok bs, s)) : (flBytes c d a n).run s = (.ok bs, s) := by
  have hb (a : Nat) (b : Byte) : heldByte s c.thread (pasidOf s c) d a b = b := by
    rw [heldByte, heldOf_unheld hh]
    rfl
  unfold flBytes
  rw [op_run_bind_ok (op_run_get s), op_run_bind_ok hr, op_run_bind_ok (op_run_get s)]
  simp [hb]

include ha

/-- An element that a region holds is read as its code. -/
theorem flElem_run {ot tile r i0 i1 i2 v : Nat} {h : HRec} (hv : HoldsElem s ot r h i0 i1 i2 v) :
    (flElem c (.scr ot tile r) h i0 i1 i2).run s = (.ok v, s) := by
  obtain ⟨o, had, hg, rfl⟩ := hv
  have had' : handleAddr (s.opTile (flAgent s c (.scr ot tile r)).ot) h (elemPlace h i0 i1 i2).1 (elemBytes h) = .ok (.scr r o) :=
    had
  unfold flElem
  dsimp only
  rw [op_run_bind_ok (op_run_get s), op_run_bind_ok (op_run_get s), had', op_run_bind_ok (op_run_lift_ok ..),
    op_run_bind_ok (flBytes_unheld hh (agentRead_filled ha hg))]
  rfl

end

theorem mem_rowsOf {h : HRec} {rows : List Nat} {i : Nat × Nat × Nat} :
    i ∈ rowsOf h rows ↔ i.2.1 ∈ rows ∧ i.2.2 < hExt2 h ∧ i.1 < hExt0 h := by
  obtain ⟨i0, i1, i2⟩ := i
  simp [rowsOf]

/-! ## A command at work (R119, R124) -/

/-- The command once it has written. -/
def wrote (s : State) (c : FlumeCmd) (ws : List ByteWrite) (fs : List (Nat × Nat)) (src : FlDest) : FlumeCmd :=
  { c with state := .writing, writes := ws, frames := fs, tag := deliveredTag s c src }

/-- The device once a command has written. -/
def afterWork (s : State) (n : Nat) (c : FlumeCmd) : State :=
  markTicket (writeFrames { s with flumes := mput s.flumes n c } c.frames c.writes) c .writing

section
variable {s s1 : State} {n : Nat} {c : FlumeCmd} {src : FlDest} {ws : List ByteWrite}

theorem doWork_run {ps : List (Nat × Nat × Bool)} {fs : List (Nat × Nat)} (hold : c.hold = false)
    (hsrc : (sourceOf s c).getD .glob = src) (hw : (flWork c src (c.dests.headD .glob)).run s = (.ok ws, s))
    (hp : (shadowPages n c ps).run s = (.ok (some fs), s1))
    (hq : ∀ q ∈ shadowReqs s c fs ws, (s1.tile (flAgent s c .glob).port).served q = true) :
    (doWork n c ps).run s = (.ok (), afterWork s1 n (wrote s c ws fs src)) := by
  subst hsrc
  have hstate : (if c.hold then TicketState.held else .writing) = .writing := by
    rw [hold]
    rfl
  unfold doWork
  rw [op_run_bind_ok (op_run_get s), op_run_bind_ok hw, op_run_bind_ok hp]
  dsimp only
  rw [op_run_bind_ok (askLines_served hq)]
  simp only [hstate]
  rfl

theorem exec_start (hf : mfind s.flumes n = some c) (hm : mayStart s n c = true) (he : HwError.flume n ∉ s.hwErrors) :
    exec (.flumeCommandStart n) s = .next (runAgent s c.thread c.ord (c.bundle, c.own) (startWork n c)) := by
  have hc : s.hwErrors.contains (.flume n) = false := by simpa using he
  simp only [exec_flumeCommandStart, execFlumeCommandStart, hf, hm, hc, Bool.not_true, Bool.false_eq_true, if_false, runEvent]

/-- A command into a region works at once: it needs no frame. -/
theorem startWork_scr (hscr : hScr c.hD = true) (hold : c.hold = false) (hsrc : (sourceOf s c).getD .glob = src)
    (hw : (flWork c src (c.dests.headD .glob)).run s = (.ok ws, s)) :
    (startWork n c).run s = (.ok (), afterWork s n (wrote s c ws [] src)) := by
  have hg : touchesGlobal c = false := by simp [touchesGlobal, globalDest, hscr]
  have hreqs : shadowReqs s c [] ws = [] := by simp [shadowReqs]
  unfold startWork
  rw [hg, if_neg (by decide), op_run_bind_ok (op_run_pure ..), op_run_bind_ok (op_run_get s)]
  simp only [List.filter_nil, List.length_nil, Nat.not_lt_zero, Nat.mul_zero, if_false]
  exact doWork_run hold hsrc hw rfl (by simp [hreqs])

end

end Sys2Proof.Machine
end

section
/-! SUPPORT. What each flume command writes, its source in a region (R130 to R135; O26). -/

namespace Sys2Proof.Machine
open Sys2Proof.Says

/-! ## The device once a command has written (R119, R137) -/

@[simp] theorem writeFrames_nil (s : State) (ws : List ByteWrite) : writeFrames s [] ws = s := by
  have hm : ws.foldl (fun m (_ : ByteWrite) => m) s.mem = s.mem := List.foldl_fixed ..
  simp [writeFrames, hm]

section
variable {s : State} {n : Nat} {c : FlumeCmd}

theorem afterWork_same : afterWork s n c = { s with
    flumes := mput s.flumes n c, mem := (writeFrames s c.frames c.writes).mem, threads := (afterWork s n c).threads } := by
  rw [afterWork, markTicket_same]
  rfl

theorem afterWork_ticket {t : Thread} (ht : mfind s.threads c.thread = some t) :
    mfind (afterWork s n c).threads c.thread = some { t with
      tickets := t.tickets.map fun e => if e.1 = c.ticket then (e.1, .writing) else e } := by
  have hrun := markTicket_run (s := writeFrames { s with flumes := mput s.flumes n c } c.frames c.writes) (c := c) (x := .writing) ht
  rw [afterWork, hrun, State.setThread_threads, mfind_mput_same]

/-- A command into a region that may start makes the writes of its work, in its shadow alone. -/
theorem command_starts {src : FlDest} {ws : List ByteWrite} (hf : mfind s.flumes n = some c) (hm : mayStart s n c = true)
    (he : HwError.flume n ∉ s.hwErrors) (hscr : hScr c.hD = true) (hold : c.hold = false)
    (hsrc : (sourceOf s c).getD .glob = src) (hw : (flWork c src (c.dests.headD .glob)).run s = (.ok ws, s)) :
    ∃ u, exec (.flumeCommandStart n) s = .next u ∧ u.mem = s.mem ∧ u.opTiles = s.opTiles ∧ u.ops = s.ops
      ∧ mfind u.flumes n = some { c with state := .writing, writes := ws, frames := [], tag := deliveredTag s c src }
      ∧ ∀ t, mfind s.threads c.thread = some t → mfind u.threads c.thread = some { t with
          tickets := t.tickets.map fun e => if e.1 = c.ticket then (e.1, .writing) else e } := by
  have hrun := exec_start hf hm he
  rw [runAgent_ok (startWork_scr hscr hold hsrc hw)] at hrun
  have hd := dropOwner_readsOnly (afterWork s n (wrote s c ws [] src)) (.place c.thread c.ord)
  refine ⟨_, hrun, ?_, ?_, ?_, ?_, fun t ht => ?_⟩
  · rw [hd.mem, afterWork_same, wrote, writeFrames_nil]
  · rw [hd.opTiles, afterWork_same]
  · rw [hd.ops, afterWork_same]
  · rw [hd.flumes, afterWork_same, mfind_mput_same, wrote]
  · rw [hd.threads]
    exact afterWork_ticket ht

end

/-! ## Commands that move each element once (R130 to R133) -/

/-- Rows in work as the elements they hold, in order. -/
theorem rowsOf_flatMap {β : Type} (h : HRec) (rows : List Nat) (w : Nat × Nat × Nat → List β) :
    (rowsOf h rows).flatMap w = (((rows.map fun i1 => (List.range (hExt2 h)).map fun i2 =>
      (List.range (hExt0 h)).map fun i0 => w (i0, i1, i2)).flatten).flatten).flatten := by
  simp only [rowsOf, List.flatMap_def, List.map_flatten, List.map_map, List.flatten_flatten, Function.comp_def]

section
variable {s : State} {c : FlumeCmd} {src dst : FlDest} {x : Fl}

/-- Each element is read and put, in order. -/
theorem mapM_moves {h : HRec} {v : Nat × Nat × Nat → Nat} {w : Nat × Nat × Nat → List ByteWrite} (is : List (Nat × Nat × Nat))
    (fr to_ : Nat × Nat × Nat → Nat × Nat × Nat)
    (hv : ∀ i ∈ is, (flElem c src h (fr i).1 (fr i).2.1 (fr i).2.2).run s = (.ok (v i), s)
      ∧ flPut s c (to_ i).1 (to_ i).2.1 (to_ i).2.2 (v i) = .ok (w i)) :
    (is.mapM fun i => do
      let v ← flElem c src h (fr i).1 (fr i).2.1 (fr i).2.2
      liftM (flPut (← get) c (to_ i).1 (to_ i).2.1 (to_ i).2.2 v) : Op (List (List ByteWrite))).run s = (.ok (is.map w), s) := by
  refine op_run_mapM_each is fun i hi => ?_
  obtain ⟨hread, hput⟩ := hv i hi
  rw [op_run_bind_ok hread, op_run_bind_ok (op_run_get s), hput]
  rfl

theorem flWork_fill {w : Nat × Nat × Nat → List ByteWrite} (hi : c.instr = .flFill x) (hd : hEmpty c.hD = false)
    (hp : ∀ i ∈ indices c.hD, flPut s c i.1 i.2.1 i.2.2 (c.par64 % 16 ^ hHalf c.hD) = .ok (w i)) :
    (flWork c src dst).run s = (.ok ((indices c.hD).flatMap w), s) := by
  have hu : usesSrc c = false := usesSrc_sourceless ⟨x, .inl hi⟩
  unfold flWork
  rw [hd, hu, if_neg (by simp)]
  simp only [hi]
  rw [op_run_bind_ok (op_run_get s), op_run_bind_ok (op_run_mapM_each (g := w) _ fun i hi' => ?_)]
  · rw [List.flatMap_def]
    rfl
  · rw [hp i hi']
    rfl

theorem flWork_moves {v : Nat × Nat × Nat → Nat} {w : Nat × Nat × Nat → List ByteWrite}
    (hi : c.instr ∈ [.flCopy x, .flXpose x, .flPerm x, .flMcast x]) (hd : hEmpty c.hD = false) (hs : hEmpty c.hS = false)
    (hv : ∀ i ∈ indices c.hS, (flElem c src c.hS i.1 i.2.1 i.2.2).run s = (.ok (v i), s)
      ∧ (let j := permute (permCode c) i.1 i.2.1 i.2.2
        flPut s c j.1 j.2.1 j.2.2 (v i) = .ok (w i))) :
    (flWork c src dst).run s = (.ok ((indices c.hS).flatMap w), s) := by
  have hm := mapM_moves (indices c.hS) id (fun i => permute (permCode c) i.1 i.2.1 i.2.2) hv
  unfold flWork
  rw [hd, hs, if_neg (by simp), List.flatMap_def]
  simp only [List.mem_cons, List.not_mem_nil, or_false] at hi
  rcases hi with hi | hi | hi | hi <;> simp only [hi] <;> exact op_run_bind_ok hm

theorem flWork_gather {v : Nat × Nat × Nat → Nat} {w : Nat × Nat × Nat → List ByteWrite}
    (hi : c.instr = .flGather x) (hd : hEmpty c.hD = false) (hs : hEmpty c.hS = false)
    (hv : ∀ i ∈ indices c.hD, (flElem c src c.hS i.1 (c.index.getD i.2.1 0) i.2.2).run s = (.ok (v i), s)
      ∧ flPut s c i.1 i.2.1 i.2.2 (v i) = .ok (w i)) :
    (flWork c src dst).run s = (.ok ((indices c.hD).flatMap w), s) := by
  have hm := mapM_moves (indices c.hD) (fun i => (i.1, c.index.getD i.2.1 0, i.2.2)) id hv
  unfold flWork
  rw [hd, hs, if_neg (by simp), List.flatMap_def]
  simp only [hi]
  exact op_run_bind_ok hm

theorem mem_rowsOf_of {h : HRec} {rows : List Nat} {i0 i1 i2 : Nat} (h1 : i1 ∈ rows) (h2 : i2 ∈ List.range (hExt2 h))
    (h0 : i0 ∈ List.range (hExt0 h)) : (i0, i1, i2) ∈ rowsOf h rows :=
  mem_rowsOf.mpr ⟨h1, List.mem_range.mp h2, List.mem_range.mp h0⟩

/-- An action on each element of rows, in the order of the work. -/
theorem mapM_rows {h : HRec} {rows : List Nat} {f : Nat → Nat → Nat → Op (List ByteWrite)} {w : Nat × Nat × Nat → List ByteWrite}
    (hf : ∀ i ∈ rowsOf h rows, (f i.1 i.2.1 i.2.2).run s = (.ok (w i), s)) :
    (rows.mapM fun i1 => (List.range (hExt2 h)).mapM fun i2 => (List.range (hExt0 h)).mapM fun i0 => f i0 i1 i2).run s
      = (.ok (rows.map fun i1 => (List.range (hExt2 h)).map fun i2 => (List.range (hExt0 h)).map fun i0 => w (i0, i1, i2)), s) :=
  op_run_mapM_each _ fun i1 h1 => op_run_mapM_each _ fun i2 h2 => op_run_mapM_each _ fun i0 h0 =>
    hf (i0, i1, i2) (mem_rowsOf_of h1 h2 h0)

theorem flWork_scatter {v : Nat × Nat × Nat → Nat} {w : Nat × Nat × Nat → List ByteWrite}
    (hi : c.instr = .flScatter x) (hd : hEmpty c.hD = false) (hs : hEmpty c.hS = false)
    (hv : ∀ i ∈ rowsOf c.hS (List.range (hExt1 c.hS)), (flElem c src c.hS i.1 i.2.1 i.2.2).run s = (.ok (v i), s)
      ∧ flPut s c i.1 (c.index.getD i.2.1 0) i.2.2 (v i) = .ok (w i)) :
    (flWork c src dst).run s = (.ok ((rowsOf c.hS (List.range (hExt1 c.hS))).flatMap w), s) := by
  unfold flWork
  rw [hd, hs, if_neg (by simp), rowsOf_flatMap]
  simp only [hi]
  refine op_run_bind_ok (mapM_rows fun i hmem => ?_)
  obtain ⟨hread, hput⟩ := hv i hmem
  rw [op_run_bind_ok hread, op_run_bind_ok (op_run_get s), hput]
  rfl

end

end Sys2Proof.Machine
end

section
/-! SUPPORT. The commands in place: rows in work, and what `fl.patch` and `fl.rope` write (R134, R135; O26). -/

namespace Sys2Proof.Machine
open Sys2Proof.Says

/-! ## Tables -/

theorem mget_mput {α : Type} (d : α) (m : Map α) (k n : Nat) (x : α) : mget d (mput m k x) n = if n = k then x else mget d m n := by
  split
  · next h => rw [h, mget, mfind_mput_same, Option.getD_some]
  · next h => rw [mget, mget, mfind_mput_ne _ _ _ _ h]

/-- What a row of updates leaves at one of its keys, where updates of one key agree. -/
theorem mget_foldl_mput {ι : Type} {key val : ι → Nat} {l : List ι} {i : ι} (hi : i ∈ l)
    (hval : ∀ j ∈ l, key j = key i → val j = val i) (m : Map Nat) :
    mget 0 (l.foldl (fun m j => mput m (key j) (val j)) m) (key i) = val i := by
  induction l using List.reverseRecOn with
  | nil => cases hi
  | append_singleton l j ih =>
    rw [List.foldl_concat, mget_mput]
    split
    · next h => exact hval j (by simp) h.symm
    · next h =>
      have hl : i ∈ l := by
        rcases List.mem_append.mp hi with hl | hj
        · exact hl
        · exact absurd (by rw [List.mem_singleton.mp hj]) h
      exact ih hl fun j hj => hval j (List.mem_append_left _ hj)

/-! ## Rows in work -/

/-- The flat index of an element. -/
def flatOf (h : HRec) (i : Nat × Nat × Nat) : Nat := flat h i.1 i.2.1 i.2.2

theorem digits_inj {a b n x y : Nat} (hx : x < n) (hy : y < n) (h : a * n + x = b * n + y) : a = b ∧ x = y := by
  have hn : 0 < n := by omega
  have hdiv := congrArg (· / n) h
  have hmod := congrArg (· % n) h
  simp only [Nat.add_comm _ x, Nat.add_comm _ y, Nat.add_mul_div_right _ _ hn, Nat.add_mul_mod_self_right, Nat.div_eq_of_lt,
    Nat.mod_eq_of_lt, hx, hy, Nat.zero_add] at hdiv hmod
  exact ⟨hdiv, hmod⟩

theorem flatOf_inj {h : HRec} {i j : Nat × Nat × Nat} (hi0 : i.1 < hExt0 h) (hj0 : j.1 < hExt0 h) (hi1 : i.2.1 < hExt1 h)
    (hj1 : j.2.1 < hExt1 h) (he : flatOf h i = flatOf h j) : i = j := by
  obtain ⟨hrow, h0⟩ := digits_inj hi0 hj0 he
  obtain ⟨h2, h1⟩ := digits_inj hi1 hj1 hrow
  exact Prod.ext h0 (Prod.ext h1 h2)

theorem mem_rowsOf_map {h : HRec} {ks : List Nat} {g : Nat → Nat} {i : Nat × Nat × Nat} :
    i ∈ rowsOf h (ks.map g) ↔ ∃ k, (i.1, k, i.2.2) ∈ rowsOf h ks ∧ i = (i.1, g k, i.2.2) := by
  obtain ⟨i0, i1, i2⟩ := i
  simp only [mem_rowsOf, List.mem_map, Prod.mk.injEq, true_and, and_true]
  constructor
  · rintro ⟨⟨k, hk, rfl⟩, hb⟩
    exact ⟨k, ⟨hk, hb⟩, rfl⟩
  · rintro ⟨k, ⟨hk, hb⟩, rfl⟩
    exact ⟨⟨k, hk, rfl⟩, hb⟩

/-- A cell of rows put one element after another, where the elements put into one cell agree. -/
theorem mget_rows {h : HRec} {ks : List Nat} {f : Nat → Nat} {v : Nat × Nat × Nat → Nat} (hlt : ∀ k ∈ ks, f k < hExt1 h)
    {i : Nat × Nat × Nat} (hi : i ∈ rowsOf h ks)
    (hval : ∀ j ∈ rowsOf h ks, j.1 = i.1 → f j.2.1 = f i.2.1 → j.2.2 = i.2.2 → v j = v i) :
    mget 0 ((rowsOf h ks).foldl (fun m i => mput m (flatOf h (i.1, f i.2.1, i.2.2)) (v i)) [])
      (flatOf h (i.1, f i.2.1, i.2.2)) = v i := by
  refine mget_foldl_mput (key := fun i => flatOf h (i.1, f i.2.1, i.2.2)) hi (fun j hj he => ?_) []
  obtain ⟨hi1, -, hi0⟩ := mem_rowsOf.mp hi
  obtain ⟨hj1, -, hj0⟩ := mem_rowsOf.mp hj
  obtain ⟨h0, h1, h2⟩ : j.1 = i.1 ∧ f j.2.1 = f i.2.1 ∧ j.2.2 = i.2.2 := by
    simpa using flatOf_inj (i := (j.1, f j.2.1, j.2.2)) (j := (i.1, f i.2.1, i.2.2)) hj0 hi0 (hlt _ hj1) (hlt _ hi1) he
  exact hval j hj h0 h1 h2

/-- Work on rows element by element. -/
theorem rowsOf_foldl {β : Type} (h : HRec) (rows : List Nat) (f : β → Nat × Nat × Nat → β) (b : β) :
    (rowsOf h rows).foldl f b = rows.foldl (fun m i1 => (List.range (hExt2 h)).foldl (fun m i2 =>
      (List.range (hExt0 h)).foldl (fun m i0 => f m (i0, i1, i2)) m) m) b := by
  simp only [rowsOf, List.foldl_flatMap, List.foldl_map]

section
variable {s : State} {c : FlumeCmd} {src d : FlDest} {x : Fl}

/-- Rows read, those numbered `f k`, in the order of `ks`. -/
theorem readRows_run {ks : List Nat} {f : Nat → Nat} {v : Nat × Nat × Nat → Nat} (hlt : ∀ k ∈ ks, f k < hExt1 c.hD)
    (hv : ∀ i ∈ rowsOf c.hD ks, (flElem c d c.hD i.1 (f i.2.1) i.2.2).run s = (.ok (v i), s)) :
    ∃ m, (readRows c d (ks.map f)).run s = (.ok m, s)
      ∧ ∀ i ∈ rowsOf c.hD ks, mget 0 m (flatOf c.hD (i.1, f i.2.1, i.2.2)) = v i := by
  refine ⟨(rowsOf c.hD ks).foldl (fun m i => mput m (flatOf c.hD (i.1, f i.2.1, i.2.2)) (v i)) [], ?_, fun i hi => ?_⟩
  · rw [rowsOf_foldl, readRows, List.foldlM_map]
    refine op_run_foldlM _ _ fun m i1 h1 => op_run_foldlM _ _ fun m i2 h2 => op_run_foldlM _ _ fun m i0 h0 => ?_
    rw [op_run_bind_ok (hv _ (mem_rowsOf_of h1 h2 h0))]
    rfl
  · refine mget_rows hlt hi fun j hj h0 h1 h2 => ?_
    have hsame := hv j hj
    rw [h0, h1, h2, hv i hi] at hsame
    exact (Except.ok.inj (congrArg Prod.fst hsame)).symm

theorem putRows_run {m : Rows} {rows : List Nat} {w : Nat × Nat × Nat → List ByteWrite}
    (hw : ∀ i ∈ rowsOf c.hD rows, flPut s c i.1 i.2.1 i.2.2 (mget 0 m (flatOf c.hD i)) = .ok (w i)) :
    (putRows c m rows).run s = (.ok ((rowsOf c.hD rows).flatMap w), s) := by
  unfold putRows
  rw [rowsOf_flatMap, op_run_bind_ok (op_run_get s)]
  refine op_run_bind_ok (mapM_rows (f := fun i0 i1 i2 => liftM (flPut s c i0 i1 i2 (mget 0 m (flat c.hD i0 i1 i2))))
    fun i hi => ?_)
  have h := hw i hi
  rw [flatOf] at h
  rw [h]
  rfl

/-! ## `fl.patch` (R134) -/

/-- Rows `from_ k` of rows in work, as rows `to_ k`. -/
def copyRows (h : HRec) (old : Rows) (to_ from_ : Nat → Nat) (ks : List Nat) : Rows :=
  (rowsOf h ks).foldl (fun m i =>
    mput m (flatOf h (i.1, to_ i.2.1, i.2.2)) (mget 0 old (flatOf h (i.1, from_ i.2.1, i.2.2)))) []

theorem mget_copyRows {h : HRec} {old : Rows} {to_ from_ : Nat → Nat} {ks : List Nat} (hto : ∀ k ∈ ks, to_ k < hExt1 h)
    (hinj : ∀ k l, to_ k = to_ l → k = l) {i : Nat × Nat × Nat} (hi : i ∈ rowsOf h ks) :
    mget 0 (copyRows h old to_ from_ ks) (flatOf h (i.1, to_ i.2.1, i.2.2)) = mget 0 old (flatOf h (i.1, from_ i.2.1, i.2.2)) :=
  mget_rows (v := fun i => mget 0 old (flatOf h (i.1, from_ i.2.1, i.2.2))) hto hi fun j _ h0 h1 h2 => by rw [h0, hinj _ _ h1, h2]

/-- The rows copied are put. -/
theorem putRows_copyRows {old : Rows} {to_ from_ : Nat → Nat} {ks : List Nat} {v : Nat × Nat × Nat → Nat}
    {w : Nat × Nat × Nat → List ByteWrite} (hto : ∀ k ∈ ks, to_ k < hExt1 c.hD) (hinj : ∀ k l, to_ k = to_ l → k = l)
    (hold : ∀ i ∈ rowsOf c.hD ks, mget 0 old (flatOf c.hD (i.1, from_ i.2.1, i.2.2)) = v i)
    (hput : ∀ i ∈ rowsOf c.hD ks, flPut s c i.1 (to_ i.2.1) i.2.2 (v i) = .ok (w (i.1, to_ i.2.1, i.2.2))) :
    (putRows c (copyRows c.hD old to_ from_ ks) (ks.map to_)).run s = (.ok ((rowsOf c.hD (ks.map to_)).flatMap w), s) := by
  refine putRows_run fun i hi => ?_
  obtain ⟨k, hk, he⟩ := mem_rowsOf_map.mp hi
  have hcell : mget 0 (copyRows c.hD old to_ from_ ks) (flatOf c.hD (i.1, to_ k, i.2.2)) = v (i.1, k, i.2.2) :=
    (mget_copyRows hto hinj hk).trans (hold _ hk)
  have h := hput _ hk
  dsimp only at h
  rw [he]
  dsimp only
  rw [hcell, h]

/-- Rows of zeros are put. -/
theorem putRows_zero {ks : List Nat} {f : Nat → Nat} {z : Nat × Nat × Nat → List ByteWrite}
    (hz : ∀ k ∈ ks, ∀ i ∈ rowsOf c.hD [f k], flPut s c i.1 i.2.1 i.2.2 0 = .ok (z i)) :
    (putRows c [] (ks.map f)).run s = (.ok ((rowsOf c.hD (ks.map f)).flatMap z), s) := by
  refine putRows_run fun i hi => ?_
  obtain ⟨hrow, hb⟩ := mem_rowsOf.mp hi
  obtain ⟨k, hk, he⟩ := List.mem_map.mp hrow
  exact hz k hk i (mem_rowsOf.mpr ⟨by simp [he], hb⟩)

/-- The rows moved, then the zero rows in their gap. -/
theorem flWork_patch {p len del ins : Nat} {v : Nat × Nat × Nat → Nat} {w z : Nat × Nat × Nat → List ByteWrite}
    (hi : c.instr = .flPatch x) (hd : hEmpty c.hD = false) (hmod : c.mod 0 = false) (hp : c.par 1 = p) (hlen : c.par 2 = len)
    (hdel : c.par 3 % 2 ^ 16 = del) (hins : c.par 3 / 2 ^ 16 = ins) (h1 : p + del ≤ len) (h2 : len + ins ≤ hExt1 c.hD + del)
    (hv : ∀ k < len - p - del, ∀ i ∈ rowsOf c.hD [p + ins + k],
      (flElem c d c.hD i.1 ((p + del + k) % hExt1 c.hD) i.2.2).run s = (.ok (v i), s) ∧ flPut s c i.1 i.2.1 i.2.2 (v i) = .ok (w i))
    (hz : ∀ k < ins, ∀ i ∈ rowsOf c.hD [p + k], flPut s c i.1 i.2.1 i.2.2 0 = .ok (z i)) :
    (flWork c src d).run s = (.ok ((rowsOf c.hD ((List.range (len - p - del)).map fun k => p + ins + k)).flatMap w
      ++ (rowsOf c.hD ((List.range ins).map fun k => p + k)).flatMap z), s) := by
  have hu : usesSrc c = false := by simp only [usesSrc, hi, hmod]
  have he1 : 0 < hExt1 c.hD := by
    simp only [hEmpty, Bool.or_eq_false_iff, decide_eq_false_iff_not] at hd
    omega
  have hmoved : ∀ i ∈ rowsOf c.hD (List.range (len - p - del)),
      (flElem c d c.hD i.1 ((p + del + i.2.1) % hExt1 c.hD) i.2.2).run s = (.ok (v (i.1, p + ins + i.2.1, i.2.2)), s)
        ∧ flPut s c i.1 (p + ins + i.2.1) i.2.2 (v (i.1, p + ins + i.2.1, i.2.2)) = .ok (w (i.1, p + ins + i.2.1, i.2.2)) := by
    intro i hi
    obtain ⟨hk, hb⟩ := mem_rowsOf.mp hi
    exact hv i.2.1 (List.mem_range.mp hk) (i.1, p + ins + i.2.1, i.2.2) (mem_rowsOf.mpr ⟨List.mem_singleton.mpr rfl, hb⟩)
  obtain ⟨old, hread, hold⟩ := readRows_run (f := fun k => (p + del + k) % hExt1 c.hD) (fun k _ => Nat.mod_lt _ he1)
    fun i hi => (hmoved i hi).1
  have hputs := putRows_copyRows (w := w) (to_ := fun k => p + ins + k) (from_ := fun k => (p + del + k) % hExt1 c.hD)
    (fun k hk => by have := List.mem_range.mp hk; omega) (fun k l he => Nat.add_left_cancel he) hold fun i hi => (hmoved i hi).2
  have hzero := putRows_zero (f := fun k => p + k) fun k hk => hz k (List.mem_range.mp hk)
  rw [copyRows, rowsOf_foldl] at hputs
  unfold flWork
  rw [hd, hu, if_neg (by simp)]
  simp only [hi, hp, hlen, hdel, hins, hmod]
  refine (op_run_bind_ok hread).trans ((op_run_bind_ok (op_run_pure ..)).trans ?_)
  exact (op_run_bind_ok hputs).trans ((op_run_bind_ok hzero).trans rfl)

end

end Sys2Proof.Machine
end

section
/-! SUPPORT. `fl.rope`: the pairs of the rows visited, each turned by its frequency times δ (R135; O26). -/

namespace Sys2Proof.Machine
open Sys2Proof.Says

/-! ## Pairs of cells replaced one after another -/

/-- One pair of cells, at the even key `k e` and the one after it, replaced by a function of both. -/
def turnCells {ι : Type} (k : ι → Nat) (f : ι → Nat → Nat → Nat × Nat) (m : Rows) (e : ι) : Rows :=
  let q := f e (mget 0 m (k e)) (mget 0 m (k e + 1))
  mput (mput m (k e) q.1) (k e + 1) q.2

section
variable {ι : Type} {k : ι → Nat} {f : ι → Nat → Nat → Nat × Nat}

theorem mget_turnCells (m : Rows) (e : ι) (n : Nat) : mget 0 (turnCells k f m e) n =
    if n = k e + 1 then (f e (mget 0 m (k e)) (mget 0 m (k e + 1))).2
    else if n = k e then (f e (mget 0 m (k e)) (mget 0 m (k e + 1))).1 else mget 0 m n := by
  rw [turnCells, mget_mput, mget_mput]

/-- Pairs of other keys are untouched. -/
theorem mget_foldl_turnCells_ne {l : List ι} {n : Nat} (h : ∀ e ∈ l, n ≠ k e ∧ n ≠ k e + 1) (m : Rows) :
    mget 0 (l.foldl (turnCells k f) m) n = mget 0 m n := by
  induction l generalizing m with
  | nil => rfl
  | cons e l ih =>
    obtain ⟨h0, h1⟩ := h e (.head _)
    rw [List.foldl_cons, ih fun x hx => h x (.tail _ hx), mget_turnCells, if_neg h1, if_neg h0]

/-- Of pairs with even keys, each its own, every one is turned once. -/
theorem mget_foldl_turnCells {l : List ι} (heven : ∀ e, k e % 2 = 0) (hn : (l.map k).Nodup) {e : ι} (he : e ∈ l) (m : Rows) :
    mget 0 (l.foldl (turnCells k f) m) (k e) = (f e (mget 0 m (k e)) (mget 0 m (k e + 1))).1
      ∧ mget 0 (l.foldl (turnCells k f) m) (k e + 1) = (f e (mget 0 m (k e)) (mget 0 m (k e + 1))).2 := by
  induction l generalizing m with
  | nil => cases he
  | cons a l ih =>
    obtain ⟨ha, hl⟩ := List.nodup_cons.mp hn
    have hea := heven e
    rw [List.foldl_cons]
    rcases List.mem_cons.mp he with rfl | he
    · have hother : ∀ x ∈ l, k e ≠ k x := fun x hx he => ha (he ▸ List.mem_map_of_mem hx)
      have h0 : ∀ x ∈ l, k e ≠ k x ∧ k e ≠ k x + 1 := fun x hx => ⟨hother x hx, by have := heven x; omega⟩
      have h1 : ∀ x ∈ l, k e + 1 ≠ k x ∧ k e + 1 ≠ k x + 1 := fun x hx => by
        have := hother x hx
        have := heven x
        omega
      rw [mget_foldl_turnCells_ne h0, mget_foldl_turnCells_ne h1, mget_turnCells, mget_turnCells, if_neg (by omega), if_pos rfl,
        if_pos rfl]
      exact ⟨rfl, rfl⟩
    · have hne : k e ≠ k a := fun h => ha (h ▸ List.mem_map_of_mem he)
      have := heven a
      have hkeep : ∀ n, n = k e ∨ n = k e + 1 → mget 0 (turnCells k f m a) n = mget 0 m n := by
        intro n hn
        rw [mget_turnCells, if_neg (by omega), if_neg (by omega)]
      obtain ⟨ih0, ih1⟩ := ih hl he (turnCells k f m a)
      rw [ih0, ih1, hkeep _ (.inl rfl), hkeep _ (.inr rfl)]
      exact ⟨rfl, rfl⟩

end

/-! ## Rows turned (R135) -/

/-- The pairs of rows, as row, index of axis 2 and pair, in the order of the work. -/
def pairsOf (h : HRec) (n : Nat) (rows : List Nat) : List (Nat × Nat × Nat) :=
  rows.product ((List.range (hExt2 h)).product (List.range n))

theorem mem_pairsOf {h : HRec} {n : Nat} {rows : List Nat} {e : Nat × Nat × Nat} :
    e ∈ pairsOf h n rows ↔ e.1 ∈ rows ∧ e.2.1 < hExt2 h ∧ e.2.2 < n := by
  obtain ⟨row, i2, j⟩ := e
  rw [pairsOf, List.pair_mem_product, List.pair_mem_product, List.mem_range, List.mem_range]

/-- The flat index of the first element of a pair. -/
def pairKey (h : HRec) (e : Nat × Nat × Nat) : Nat := flat h (2 * e.2.2) e.1 e.2.1

theorem turnRows_eq {h : HRec} {sat : Bool} {n : Nat} {ang : Nat → Nat} (rows : List Nat) (m : Rows) :
    rows.foldl (turnRow h sat ((List.range n).map ang)) m
      = (pairsOf h n rows).foldl (turnCells (pairKey h) fun e => turnPair (formatOf h) sat (ang e.2.2)) m := by
  have hz : ((List.range n).map ang).zipIdx = (List.range n).map fun j => (ang j, j) := by
    apply List.ext_getElem <;> simp
  simp only [pairsOf, List.product, List.foldl_flatMap, List.foldl_map]
  congr 1
  funext m row
  simp only [turnRow, hz, List.foldl_map]
  rfl

theorem pairKey_even {h : HRec} {n : Nat} (h0 : hExt0 h = 2 * n) (e : Nat × Nat × Nat) : pairKey h e % 2 = 0 := by
  rw [pairKey, flat, h0, Nat.mul_left_comm]
  omega

theorem pairKeys_nodup {h : HRec} {n : Nat} {rows : List Nat} (h0 : hExt0 h = 2 * n) (hr : ∀ r ∈ rows, r < hExt1 h)
    (hn : rows.Nodup) : ((pairsOf h n rows).map (pairKey h)).Nodup := by
  refine List.Nodup.map_on (fun e he e' he' hk => ?_) (hn.product (List.nodup_range.product List.nodup_range))
  obtain ⟨hrow, -, hj⟩ := mem_pairsOf.mp he
  obtain ⟨hrow', -, hj'⟩ := mem_pairsOf.mp he'
  obtain ⟨h2j, h1, h2⟩ : 2 * e.2.2 = 2 * e'.2.2 ∧ e.1 = e'.1 ∧ e.2.1 = e'.2.1 := by
    simpa using flatOf_inj (i := (2 * e.2.2, e.1, e.2.1)) (j := (2 * e'.2.2, e'.1, e'.2.1))
      (show 2 * e.2.2 < _ by omega) (show 2 * e'.2.2 < _ by omega) (hr _ hrow) (hr _ hrow') hk
  exact Prod.ext h1 (Prod.ext h2 (by omega))

/-! ## The rows visited -/

theorem wrapIdx_lt {e : Nat} (he : 0 < e) (i : Int) : wrapIdx i e < e := by
  have := Int.emod_lt_of_pos i (show (0 : Int) < e by omega)
  have := Int.emod_nonneg i (show (e : Int) ≠ 0 by omega)
  unfold wrapIdx
  omega

/-- Rows in a row, no more than there are, are all different. -/
theorem visits_nodup {first : Int} {n e : Nat} (hn : n ≤ e) :
    ((List.range n).map fun k : Nat => wrapIdx (first + k) e).Nodup := by
  refine List.Nodup.map_on (fun a ha b hb h => ?_) List.nodup_range
  have ha := List.mem_range.mp ha
  have hb := List.mem_range.mp hb
  have he : (e : Int) ≠ 0 := by omega
  have h0 := Int.emod_nonneg (first + a) he
  have h1 := Int.emod_nonneg (first + b) he
  have hmod : (first + a) % e = (first + b) % e := by
    unfold wrapIdx at h
    omega
  have hdvd : (e : Int) ∣ a - b := by
    have h := Int.dvd_of_emod_eq_zero (Int.emod_eq_emod_iff_emod_sub_eq_zero.mp hmod)
    rwa [Int.add_sub_add_left] at h
  have hzero := Int.eq_zero_of_abs_lt_dvd hdvd (abs_lt.mpr ⟨by omega, by omega⟩)
  omega

theorem eraseDups_of_nodup {l : List Nat} (h : l.Nodup) : l.eraseDups = l := by
  induction l with
  | nil => rfl
  | cons a l ih =>
    obtain ⟨ha, hl⟩ := List.nodup_cons.mp h
    have hf : l.filter (fun b => !b == a) = l := List.filter_eq_self.mpr fun b hb => by
      simp only [Bool.not_eq_true', beq_eq_false_iff_ne]
      exact fun he => ha (he ▸ hb)
    rw [List.eraseDups_cons, hf, ih hl]

section
variable {s : State} {c : FlumeCmd} {src d : FlDest} {x : Fl} {fr : Nat → Nat}

theorem angles_run (hfr : ∀ j < hExt0 c.hS, (flElem c src c.hS j 0 0).run s = (.ok (fr j), s)) (delta : Int) :
    (angles c src delta).run s = (.ok ((List.range (hExt0 c.hS)).map fun j => wrapN 32 (delta * fr j)), s) := by
  refine op_run_mapM_each _ fun j hj => ?_
  rw [op_run_bind_ok (hfr j (List.mem_range.mp hj))]
  rfl

/-- The code of an element of a turned pair. -/
def turnedCode (c : FlumeCmd) (fr : Nat → Nat) (v : Nat × Nat × Nat → Nat) (i : Nat × Nat × Nat) : Nat :=
  let q := turnPair (formatOf c.hD) (c.mod 0) (wrapN 32 (sgn 32 (c.par 1) * fr (i.1 / 2)))
    (v (i.1 / 2 * 2, i.2.1, i.2.2)) (v (i.1 / 2 * 2 + 1, i.2.1, i.2.2))
  if i.1 % 2 = 0 then q.1 else q.2

theorem mget_turnRows {v : Nat × Nat × Nat → Nat} {rows : List Nat} {m : Rows} (h0 : hExt0 c.hD = 2 * hExt0 c.hS)
    (hr : ∀ r ∈ rows, r < hExt1 c.hD) (hn : rows.Nodup) (hm : ∀ i ∈ rowsOf c.hD rows, mget 0 m (flatOf c.hD i) = v i)
    {i : Nat × Nat × Nat} (hi : i ∈ rowsOf c.hD rows) :
    mget 0 (rows.foldl (turnRow c.hD (c.mod 0) ((List.range (hExt0 c.hS)).map fun j => wrapN 32 (sgn 32 (c.par 1) * fr j))) m)
      (flatOf c.hD i) = turnedCode c fr v i := by
  obtain ⟨i0, i1, i2⟩ := i
  obtain ⟨h1, h2, hlt⟩ := mem_rowsOf.mp hi
  have hlt : i0 < _ := hlt
  have hpair : (i1, i2, i0 / 2) ∈ pairsOf c.hD (hExt0 c.hS) rows := mem_pairsOf.mpr ⟨h1, h2, show i0 / 2 < _ by omega⟩
  have hlow : mget 0 m (pairKey c.hD (i1, i2, i0 / 2)) = v (i0 / 2 * 2, i1, i2) := by
    rw [← hm (i0 / 2 * 2, i1, i2) (mem_rowsOf.mpr ⟨h1, h2, show i0 / 2 * 2 < _ by omega⟩), Nat.mul_comm]
    rfl
  have hhigh : mget 0 m (pairKey c.hD (i1, i2, i0 / 2) + 1) = v (i0 / 2 * 2 + 1, i1, i2) := by
    rw [← hm (i0 / 2 * 2 + 1, i1, i2) (mem_rowsOf.mpr ⟨h1, h2, show i0 / 2 * 2 + 1 < _ by omega⟩), Nat.mul_comm]
    rfl
  obtain ⟨hfst, hsnd⟩ := mget_foldl_turnCells (f := fun e => turnPair (formatOf c.hD) (c.mod 0)
    (wrapN 32 (sgn 32 (c.par 1) * fr e.2.2))) (pairKey_even h0) (pairKeys_nodup h0 hr hn) hpair m
  rw [hlow, hhigh] at hfst hsnd
  rw [turnRows_eq]
  rcases Nat.mod_two_eq_zero_or_one i0 with hpar | hpar
  · have hk : flatOf c.hD (i0, i1, i2) = pairKey c.hD (i1, i2, i0 / 2) := by
      rw [pairKey, show 2 * (i0 / 2) = i0 by omega]
      rfl
    rw [hk, hfst]
    exact (if_pos hpar).symm
  · have hk : flatOf c.hD (i0, i1, i2) = pairKey c.hD (i1, i2, i0 / 2) + 1 := by
      simp only [flatOf, pairKey, flat]
      omega
    rw [hk, hsnd]
    exact (if_neg (by show ¬ i0 % 2 = 0; omega)).symm

theorem flWork_rope {v : Nat × Nat × Nat → Nat} {w : Nat × Nat × Nat → List ByteWrite} {rows : List Nat}
    (hi : c.instr = .flRope x) (hd : hEmpty c.hD = false) (hs : hEmpty c.hS = false) (h0 : hExt0 c.hD = 2 * hExt0 c.hS)
    (h3 : c.par 3 ≤ hExt1 c.hD)
    (hrows : rows = (List.range (c.par 3)).map fun k : Nat => wrapIdx (sgn 32 (c.par 2) + k) (hExt1 c.hD))
    (hfr : ∀ j < hExt0 c.hS, (flElem c src c.hS j 0 0).run s = (.ok (fr j), s))
    (hv : ∀ i ∈ rowsOf c.hD rows, (flElem c d c.hD i.1 i.2.1 i.2.2).run s = (.ok (v i), s)
      ∧ flPut s c i.1 i.2.1 i.2.2 (turnedCode c fr v i) = .ok (w i)) :
    (flWork c src d).run s = (.ok ((rowsOf c.hD rows).flatMap w), s) := by
  have he1 : 0 < hExt1 c.hD := by
    simp only [hEmpty, Bool.or_eq_false_iff, decide_eq_false_iff_not] at hd
    omega
  have hn : rows.Nodup := hrows ▸ visits_nodup h3
  have hlt : ∀ r ∈ rows, r < hExt1 c.hD := by
    intro r hr
    rw [hrows] at hr
    obtain ⟨k, -, rfl⟩ := List.mem_map.mp hr
    exact wrapIdx_lt he1 _
  obtain ⟨m, hread, hm⟩ := readRows_run (f := id) hlt fun i hi => (hv i hi).1
  rw [List.map_id] at hread
  have hput := putRows_run (s := s) (w := w) fun i hi => by
    rw [mget_turnRows (fr := fr) h0 hlt hn hm hi]
    exact (hv i hi).2
  unfold flWork
  rw [hd, hs, if_neg (by simp)]
  simp only [hi]
  rw [← hrows, eraseDups_of_nodup hn]
  exact (op_run_bind_ok (angles_run hfr _)).trans ((op_run_bind_ok hread).trans hput)

end

end Sys2Proof.Machine
end

section
/-! PROOFS. A queued flume command starts (R119, R124, R127, R130 to R135; the first part of O26). -/

namespace Sys2Proof.Machine
open Sys2Proof.Says

theorem exec_start_waits {s : State} {n : Nat} {c : FlumeCmd} (hf : mfind s.flumes n = some c) (hm : mayStart s n c = false) :
    exec (.flumeCommandStart n) s = .next s := by
  simp [execFlumeCommandStart, hf, hm]

theorem flumeCommandStarts : Says.FlumeCommandStarts := by
  intro s n c hf
  refine ⟨exec_start_waits hf, fun hm he hscr hd ha hh => ?_⟩
  have hold : c.hold = false := hh _ (mem_of_mfind hf)
  intro starts
  have run {src : FlDest} {ws : List ByteWrite} (hsrc : (sourceOf s c).getD .glob = src)
      (hw : (flWork c src (c.dests.headD .glob)).run s = (.ok ws, s)) : starts ws src :=
    command_starts hf hm he hscr hold hsrc hw
  clear_value starts
  refine ⟨fun x w hi hp => run rfl (flWork_fill hi hd hp), fun x ot tile r v w z => ?_⟩
  have read {ot tile r : Nat} {h : HRec} {i0 i1 i2 v : Nat} (hv : HoldsElem s ot r h i0 i1 i2 v) :
      (flElem c (.scr ot tile r) h i0 i1 i2).run s = (.ok v, s) := flElem_run ha hh hv
  refine ⟨fun hi hs hsrc hv => ?_, fun hi hs hsrc hv => ?_, ?_, ?_, ?_⟩
  · exact run (by rw [hsrc]; rfl) (flWork_moves hi hd hs fun i hmem => ⟨read (hv i hmem).1, (hv i hmem).2⟩)
  · exact run (by rw [hsrc]; rfl) (flWork_gather hi hd hs fun i hmem => ⟨read (hv i hmem).1, (hv i hmem).2⟩)
  · intro hi hs hsrc all hv
    exact run (by rw [hsrc]; rfl) (flWork_scatter hi hd hs fun i hmem => ⟨read (hv i hmem).1, (hv i hmem).2⟩)
  · intro hi hmod hdests p len del ins moved h1 h2 hv hz
    refine run rfl (flWork_patch (v := v) hi hd hmod rfl rfl rfl rfl h1 h2 (fun k hk i hmem => ?_) hz)
    rw [hdests]
    exact ⟨read (hv k hk i hmem).1, (hv k hk i hmem).2⟩
  · intro ot' tile' r' fr hi hs h0 hdests hsrc h3 hfr delta first all turned hv
    have hturned : turned = turnedCode c fr v := by
      simp only [turned, delta, ← sgn_eq_toInt]
      rfl
    refine run (by rw [hsrc]; rfl) (flWork_rope (v := v) hi hd hs h0 h3 (by rw [sgn_eq_toInt]) (fun j hj => read (hfr j hj)) fun i hmem => ?_)
    rw [hdests, ← hturned]
    exact ⟨read (hv i hmem).1, (hv i hmem).2⟩

end Sys2Proof.Machine
end

section
/-! SUPPORT. What a publish does to a region, and where it writes its arrival word (R102, R119, R121; O26). -/

namespace Sys2Proof.Machine
open Sys2Proof.Says

/-! ## Writes of a list, and the bytes they leave -/

/-- Each write changes its own byte alone, over what it finds there. -/
theorem readByte_writes {β : Type} (place : β → Nat) (g : β → Byte → Byte) (xs : List β) {m : List Host.Cell}
    (h : Memory.wf m = true) (a : Nat) :
    readByte (xs.foldl (fun m x => writeByte m (place x) (g x (readByte m (place x)))) m) a
      = xs.foldl (fun b x => if place x = a then g x b else b) (readByte m a) := by
  induction xs generalizing m with
  | nil => rfl
  | cons x xs ih =>
    rw [List.foldl_cons, List.foldl_cons, ih (wf_writeByte _ _ _ h)]
    split
    · next ha => rw [← ha, readByte_writeByte_same _ _ _ h]
    · next ha => rw [readByte_writeByte_ne _ _ _ _ (Ne.symm ha) h]

/-- A fold whose every step does nothing. -/
theorem foldl_idle {α β : Type} {f : β → α → β} {b : β} (xs : List α) (h : ∀ x ∈ xs, f b x = b) : xs.foldl f b = b := by
  induction xs with
  | nil => rfl
  | cons x xs ih => rw [List.foldl_cons, h x (.head _), ih fun y hy => h y (.tail _ hy)]

/-- Entries that the map has already, put again. -/
theorem mfind_foldl_mput_again {α β : Type} (f : β → Nat) (v : α) (xs : List β) {m : Map α} (h : ∀ x ∈ xs, mfind m (f x) = some v)
    (k : Nat) : mfind (xs.foldl (fun m x => mput m (f x) v) m) k = mfind m k := by
  induction xs generalizing m with
  | nil => rfl
  | cons x xs ih =>
    have hput (j : Nat) : mfind (mput m (f x) v) j = mfind m j := by
      by_cases hj : j = f x
      · rw [hj, mfind_mput_same, h x (.head _)]
      · exact mfind_mput_ne _ _ _ _ hj
    rw [List.foldl_cons, ih fun y hy => (hput _).trans (h y (.tail _ hy)), hput]

theorem regionOf_setRegion_ne (ot : OpTile) {n k : Nat} (r : Region) (h : k ≠ n) : regionOf (ot.setRegion n r) k = regionOf ot k := by
  simp [regionOf, OpTile.setRegion, mget, mfind_mput_ne _ _ _ _ h]

/-! ## A region after a publish (R102, R119) -/

section
variable {r : Region} {ws : List ByteWrite} {tag : Tag}

@[simp] theorem publishInto_tag : (publishInto r ws tag).tag = tag := rfl

@[simp] theorem publishInto_front : (publishInto r ws tag).front = !r.front := by
  unfold publishInto
  cases h : r.front <;> simp

@[simp] theorem publishInto_size : (publishInto r ws tag).size = r.size := by
  unfold publishInto
  cases h : r.front <;> simp

@[simp] theorem frontCells_publishInto : frontCells (publishInto r ws tag) = writtenCells r ws := by
  unfold publishInto frontCells
  cases h : r.front <;> simp

theorem granOf_publishInto (hm : r.mapped = false) (hv : ∀ x ∈ ws, granOf r x.at_ = some .valid) (a : Nat) :
    granOf (publishInto r ws tag) a = granOf r a := by
  simp only [granOf, publishInto, hm]
  exact mfind_foldl_mput_again (fun w : ByteWrite => w.at_ / 4096) _ ws hv _

/-- A publish makes its writes, one after another, on the bytes that the region held. -/
theorem regionByte_publishInto (hw : Memory.wf (frontCells r) = true) (hm : r.mapped = false)
    (hv : ∀ x ∈ ws, granOf r x.at_ = some .valid) {a : Nat} (ha : granOf r a = some .valid) :
    regionByte (publishInto r ws tag) a = ws.foldl (fun b w => if w.at_ = a then w.onto b else b) (regionByte r a) := by
  simp only [regionByte, granOf_publishInto hm hv, ha, frontCells_publishInto]
  rw [writtenCells, readByte_writes ByteWrite.at_ ByteWrite.onto ws (wf_filter _ _ hw),
    readByte_filter _ _ _ hw fun _ => by rw [ha]; rfl]

end

/-! ## Bytes stored into a region (R99, R121) -/

section
variable {r : Region} {off : Nat} {b : Byte}

theorem wf_regionPut (hw : Memory.wf (frontCells r) = true) : Memory.wf (frontCells (regionPut r off b)) = true := by
  show Memory.wf (frontCells (setFront r _)) = true
  rw [frontCells_setFront]
  cases granOf r off with
  | none => exact wf_writeByte _ _ _ (wf_filter _ _ hw)
  | some _ => exact wf_writeByte _ _ _ hw

theorem setFront_gran (c : List Host.Cell) : (setFront r c).gran = r.gran := by
  unfold setFront
  split <;> rfl

theorem setFront_mapped (c : List Host.Cell) : (setFront r c).mapped = r.mapped := by
  unfold setFront
  split <;> rfl

theorem granOf_regionPut (a : Nat) : granOf (regionPut r off b) a =
    if a / 4096 = off / 4096 then some (if r.mapped then .dirty else .valid) else granOf r a := by
  simp only [granOf, regionPut, setFront_gran, setFront_mapped]
  by_cases h : a / 4096 = off / 4096
  · rw [if_pos h, h, mfind_mput_same]
  · rw [if_neg h, mfind_mput_ne _ _ _ _ h]

theorem regionByte_regionPut_same (hw : Memory.wf (frontCells r) = true) : regionByte (regionPut r off b) off = b := by
  rw [regionByte, granOf_regionPut, if_pos rfl]
  show readByte (frontCells (setFront r _)) off = b
  rw [frontCells_setFront]
  cases granOf r off with
  | none => exact readByte_writeByte_same _ _ _ (wf_filter _ _ hw)
  | some _ => exact readByte_writeByte_same _ _ _ hw

/-- A byte of a granule with data, beside the one put. -/
theorem regionByte_regionPut_ne (hw : Memory.wf (frontCells r) = true) {a : Nat} (hne : a ≠ off) (hg : granOf r a ≠ none) :
    regionByte (regionPut r off b) a = regionByte r a := by
  obtain ⟨x, hx⟩ := Option.ne_none_iff_exists'.mp hg
  obtain ⟨y, hy⟩ : ∃ y, granOf (regionPut r off b) a = some y := by
    rw [granOf_regionPut]
    split
    · exact ⟨_, rfl⟩
    · exact ⟨_, hx⟩
  simp only [regionByte, hx, hy]
  show readByte (frontCells (setFront r _)) a = _
  rw [frontCells_setFront]
  cases ho : granOf r off with
  | none =>
    have hpage : a / 4096 ≠ off / 4096 := by
      intro h
      simp only [granOf, h] at hx ho
      rw [hx] at ho
      cases ho
    rw [readByte_writeByte_ne _ _ _ _ hne (wf_filter _ _ hw), readByte_filter _ _ _ hw (by simpa using hpage)]
  | some _ => exact readByte_writeByte_ne _ _ _ _ hne hw

theorem regionByte_regionPuts_below {bs : List Byte} (hw : Memory.wf (frontCells r) = true) {a : Nat} (ha : a < off)
    (hg : granOf r a ≠ none) : regionByte (regionPuts r off bs) a = regionByte r a := by
  induction bs generalizing r off with
  | nil => rfl
  | cons x xs ih =>
    have hg' : granOf (regionPut r off x) a ≠ none := by
      rw [granOf_regionPut]
      split
      · exact Option.some_ne_none _
      · exact hg
    rw [regionPuts, ih (wf_regionPut hw) (by omega) hg', regionByte_regionPut_ne hw (by omega) hg]

/-- Bytes stored are read back. -/
theorem regionByte_regionPuts (bs : List Byte) (hw : Memory.wf (frontCells r) = true) :
    (List.range bs.length).map (fun i => regionByte (regionPuts r off bs) (off + i)) = bs := by
  induction bs generalizing r off with
  | nil => rfl
  | cons x xs ih =>
    have hfirst : regionByte (regionPuts (regionPut r off x) (off + 1) xs) off = x := by
      rw [regionByte_regionPuts_below (wf_regionPut hw) (by omega) (by rw [granOf_regionPut, if_pos rfl]; exact Option.some_ne_none _),
        regionByte_regionPut_same hw]
    have hrest := ih (r := regionPut r off x) (off := off + 1) (wf_regionPut hw)
    rw [List.length_cons, List.range_succ_eq_map, List.map_cons, List.map_map, regionPuts]
    refine congrArg₂ List.cons hfirst ((List.map_congr_left fun i _ => ?_).trans hrest)
    rw [Nat.add_right_comm]
    rfl

end

end Sys2Proof.Machine
end

section
/-! PROOFS. A command publishes into a region (R102, R119, R121, R125, R137; the third part of O26). -/

namespace Sys2Proof.Machine
open Sys2Proof.Says

section
variable {s : State} {n : Nat} {c : FlumeCmd}

theorem retireFlume_same (s : State) (n : Nat) (c : FlumeCmd) :
    retireFlume s n c = { s with flumes := mdel s.flumes n, threads := (retireFlume s n c).threads } :=
  markTicket_same { s with flumes := mdel s.flumes n } c .published

/-- The publish of a command that has one destination left. -/
def publishLast (n : Nat) (c : FlumeCmd) (d : FlDest) : Op Unit := do
  let tag ← publishGroup d [c]
  writeArrival c d tag
  modify fun s => retireFlume s n c

theorem left_single {d : FlDest} (hl : c.left = [d]) : { c with left := [d] } = c := by
  rw [← hl]

theorem exec_publish {d : FlDest} (hf : mfind s.flumes n = some c) (hl : c.left = [d]) (hp : isPublish c.instr = false) :
    exec (.flumePublish n) s = if c.state ≠ .writing || !mayPublish s [(n, c)] then .next s
      else .next (runAgent s c.thread c.ord (c.bundle, c.own) (publishLast n c d)) := by
  simp only [exec_flumePublish, execFlumePublish, hf, hl, hp, left_single hl, runEvent, publishLast]
  rfl

theorem exec_publish_waits {d : FlDest} (hf : mfind s.flumes n = some c) (hl : c.left = [d]) (hp : isPublish c.instr = false)
    (h : c.state ≠ .writing ∨ mayPublish s [(n, c)] = false) : exec (.flumePublish n) s = .next s := by
  rw [exec_publish hf hl hp, if_pos]
  rcases h with h | h <;> simp [h]

theorem exec_publish_runs {s' : State} {d : FlDest} (hf : mfind s.flumes n = some c) (hl : c.left = [d])
    (hp : isPublish c.instr = false) (hst : c.state = .writing) (hm : mayPublish s [(n, c)] = true)
    (hrun : (publishLast n c d).run s = (.ok (), s')) :
    exec (.flumePublish n) s = .next (s'.dropOwner (.place c.thread c.ord)) := by
  rw [exec_publish hf hl hp, hst, hm, runAgent_ok hrun]
  rfl

/-- What stands once a command is taken away. -/
theorem retired_same (s : State) (n : Nat) (c : FlumeCmd) (o : PortOwner) :
    ((retireFlume s n c).dropOwner o).flumes = mdel s.flumes n ∧ ((retireFlume s n c).dropOwner o).mem = s.mem
      ∧ ((retireFlume s n c).dropOwner o).ops = s.ops ∧ ∀ k, ((retireFlume s n c).dropOwner o).opTile k = s.opTile k := by
  have hd := dropOwner_readsOnly (retireFlume s n c) o
  simp only [State.opTile, hd.flumes, hd.mem, hd.ops, hd.opTiles]
  rw [retireFlume_same]
  exact ⟨rfl, rfl, rfl, fun _ => rfl⟩

/-! ## Into a region (R102, R119) -/

/-- The device once the backings of a region are swapped. -/
def swapped (s : State) (ot r : Nat) (ws : List ByteWrite) (tag : Tag) : State :=
  s.setOpTile ot ((s.opTile ot).setRegion r (publishInto (regionOf (s.opTile ot) r) ws tag))

/-- Writes into granules with data, with no operator switched out, publish at once. -/
theorem publishScr_run {g : Agent} {r : Nat} {ws : List ByteWrite} {tag : Tag} (ha : ∀ p ∈ s.ops, p.2.away = false)
    (hv : ∀ x ∈ ws, granOf (regionOf (s.opTile g.ot) r) x.at_ = some .valid) :
    (publishScr g r ws tag).run s = (.ok (), swapped s g.ot r ws tag) := by
  have hheld (k : Nat) : pageHeld s (g.ot / 512) g.tile { regionOf (s.opTile g.ot) r with front := !(regionOf (s.opTile g.ot) r).front }
      (4096 * k) = false := by
    rw [pageHeld, List.any_eq_false]
    intro e _
    simp [mfind_any_away ha]
  have hfill : ∀ k ∈ (ws.map fun w => w.at_ / 4096).eraseDups.filter fun k => !coversGranule ws k,
      granOf (regionOf (s.opTile g.ot) r) (4096 * k) ≠ some .empty := by
    intro k hk
    obtain ⟨x, hx, rfl⟩ := List.mem_map.mp (List.mem_eraseDups.mp (List.mem_filter.mp hk).1)
    have hsame : 4096 * (x.at_ / 4096) / 4096 = x.at_ / 4096 := by omega
    have hx' := hv x hx
    rw [granOf] at hx'
    rw [granOf, hsame, hx']
    simp
  unfold publishScr
  rw [op_run_bind_ok (op_run_get s)]
  dsimp only
  rw [if_neg (by simp [hheld]), op_run_bind_ok (ensureFilled_filled ha _ hfill)]
  rw [op_run_bind_ok (op_run_modify _ s), op_run_modify, foldl_idle _ fun k _ => claimPage64_none ha _ _ _]
  rfl

theorem publishGroup_scr {ot tile r : Nat} (ha : ∀ p ∈ s.ops, p.2.away = false)
    (hv : ∀ x ∈ c.writes, granOf (regionOf (s.opTile ot) r) x.at_ = some .valid) :
    (publishGroup (.scr ot tile r) [c]).run s =
      (.ok (publishTag s c (.scr ot tile r)), swapped s ot r c.writes (publishTag s c (.scr ot tile r))) := by
  have hws : [c].flatMap (·.writes) = c.writes := by simp
  unfold publishGroup
  rw [op_run_bind_ok (op_run_get s)]
  simp only [List.getLast?_singleton, hws]
  rw [op_run_bind_ok (publishScr_run (g := flAgent s c (.scr ot tile r)) ha hv)]
  rfl

theorem regionOf_swapped_same {ot r : Nat} {ws : List ByteWrite} {tag : Tag} :
    regionOf ((swapped s ot r ws tag).opTile ot) r = publishInto (regionOf (s.opTile ot) r) ws tag := by
  rw [swapped, opTile_setOpTile_same, regionOf_setRegion_same]

theorem regionOf_swapped_ne {ot r k : Nat} {ws : List ByteWrite} {tag : Tag} (h : k ≠ r) :
    regionOf ((swapped s ot r ws tag).opTile ot) k = regionOf (s.opTile ot) k := by
  rw [swapped, opTile_setOpTile_same, regionOf_setRegion_ne _ _ h]

/-! ## The arrival word (R121) -/

theorem writeArrival_none {d : FlDest} {tag : Tag} (h : c.arrAddr = 0) : (writeArrival c d tag).run s = (.ok (), s) := by
  unfold writeArrival
  rw [if_neg (by simpa using h)]
  rfl

theorem frontStore_run {g : Agent} {r off : Nat} {bs : List Byte} (ha : ∀ p ∈ s.ops, p.2.away = false)
    (hg : ∀ j < bs.length, granOf (regionOf (s.opTile g.ot) r) (off + j) ≠ some .empty) :
    (frontStore g r off bs).run s = (.ok (), s.setOpTile g.ot
      ((s.opTile g.ot).setRegion r (regionPuts (regionOf (s.opTile g.ot) r) off bs))) := by
  unfold frontStore
  rw [op_run_bind_ok (ensureFilled_filled ha _ fun k hk => ?_)]
  · rfl
  · obtain ⟨j, hj, rfl⟩ := lt_of_mem_granulesOf hk
    have hsame : 4096 * ((off + j) / 4096) / 4096 = (off + j) / 4096 := by omega
    rw [granOf, hsame]
    exact hg j hj

/-- The device once an arrival word is written. -/
def arrived (s : State) (c : FlumeCmd) (ot : Nat) (tag : Tag) : State :=
  let ra := c.arrAddr / 2 ^ 22 % 64
  s.setOpTile ot ((s.opTile ot).setRegion ra
    (regionPuts (regionOf (s.opTile ot) ra) (c.arrAddr % 2 ^ 22) (leBytes 8 (c.par 0 + tag.toNat * 2 ^ 32))))

theorem writeArrival_scr {ot tile r : Nat} {tag : Tag} (h : c.arrAddr ≠ 0) (ha : ∀ p ∈ s.ops, p.2.away = false)
    (hg : ∀ i < 8, granOf (regionOf (s.opTile ot) (c.arrAddr / 2 ^ 22 % 64)) (c.arrAddr % 2 ^ 22 + i) ≠ some .empty) :
    (writeArrival c (.scr ot tile r) tag).run s = (.ok (), arrived s c ot tag) := by
  have hreg : bits c.arrAddr 27 22 = c.arrAddr / 2 ^ 22 % 64 := rfl
  have hoff : bits c.arrAddr 21 0 = c.arrAddr % 2 ^ 22 := by simp [bits]
  unfold writeArrival
  rw [if_pos h, op_run_bind_ok (op_run_get s)]
  dsimp only
  rw [hreg, hoff, frontStore_run ha (by rw [leBytes_length]; exact hg)]
  rfl

theorem regionOf_arrived_ne {ot k : Nat} {tag : Tag} (h : k ≠ c.arrAddr / 2 ^ 22 % 64) :
    regionOf ((arrived s c ot tag).opTile ot) k = regionOf (s.opTile ot) k := by
  rw [arrived, opTile_setOpTile_same, regionOf_setRegion_ne _ _ h]

theorem leOf_arrived {ot : Nat} {tag : Tag}
    (hw : Memory.wf (frontCells (regionOf (s.opTile ot) (c.arrAddr / 2 ^ 22 % 64))) = true) :
    leOf ((List.range 8).map fun i =>
      regionByte (regionOf ((arrived s c ot tag).opTile ot) (c.arrAddr / 2 ^ 22 % 64)) (c.arrAddr % 2 ^ 22 + i))
      = c.par 0 + tag.toNat * 2 ^ 32 := by
  have hpar : c.par 0 < 2 ^ 32 := BitVec.isLt _
  have htag : tag.toNat < 2 ^ 32 := tag.isLt
  have hbytes := regionByte_regionPuts (off := c.arrAddr % 2 ^ 22) (leBytes 8 (c.par 0 + tag.toNat * 2 ^ 32)) hw
  rw [leBytes_length] at hbytes
  rw [arrived, opTile_setOpTile_same, regionOf_setRegion_same, hbytes, leOf_leBytes, Nat.mod_eq_of_lt (by omega)]

/-! ## The whole publish -/

theorem publishLast_run {s1 s2 : State} {d : FlDest} {tag : Tag} (hg : (publishGroup d [c]).run s = (.ok tag, s1))
    (hw : (writeArrival c d tag).run s1 = (.ok (), s2)) : (publishLast n c d).run s = (.ok (), retireFlume s2 n c) := by
  unfold publishLast
  rw [op_run_bind_ok hg, op_run_bind_ok hw]
  rfl

end

theorem flumePublishes : Says.FlumePublishes := by
  intro s n c ot tile r hf hl hp hrise
  refine ⟨exec_publish_waits hf hl hp, ?_, ?_⟩
  · intro hst _ hmay harr ha old hv hmap hwa hwb
    have hw : Memory.wf (frontCells old) = true := by
      unfold frontCells
      split <;> assumption
    have hrun := exec_publish_runs hf hl hp hst hmay (publishLast_run (publishGroup_scr ha hv) (writeArrival_none harr))
    obtain ⟨hfl, hmem, hops, hot⟩ := retired_same (swapped s ot r c.writes (publishTag s c (.scr ot tile r))) n c
      (.place c.thread c.ord)
    refine ⟨_, hrun, ?_, hmem, hops, fun k hk => ?_, ?_⟩
    · rw [hfl]
      exact mfind_mdel_same _ _ _ hrise
    · rw [hfl]
      exact mfind_mdel_ne _ _ _ _ hk hrise
    · rw [hot, regionOf_swapped_same]
      refine ⟨publishInto_front, publishInto_tag, publishInto_size, fun a hnot hg => ?_, fun x hx => ?_, fun r' hr' => ?_⟩
      · rw [regionByte_publishInto hw hmap hv hg]
        exact foldl_idle _ fun x hx => if_neg (hnot x hx)
      · rw [regionByte_publishInto hw hmap hv (hv x (by simp [hx])), hx]
        exact if_pos rfl
      · exact regionOf_swapped_ne hr'
  · intro hst _ hmay harr ha hv ra off word hne hg hw
    have harrive := writeArrival_scr (s := swapped s ot r c.writes (publishTag s c (.scr ot tile r))) (tile := tile) (r := r)
      (tag := publishTag s c (.scr ot tile r)) harr ha (by rw [regionOf_swapped_ne hne]; exact hg)
    have hrun := exec_publish_runs hf hl hp hst hmay (publishLast_run (publishGroup_scr ha hv) harrive)
    obtain ⟨hfl, -, -, hot⟩ := retired_same (arrived (swapped s ot r c.writes (publishTag s c (.scr ot tile r))) c ot
      (publishTag s c (.scr ot tile r))) n c (.place c.thread c.ord)
    refine ⟨_, hrun, ?_, ?_, ?_⟩
    · rw [hfl]
      exact mfind_mdel_same _ _ _ hrise
    · simp only [word, hot]
      exact leOf_arrived (by rw [regionOf_swapped_ne hne]; exact hw)
    · rw [hot, regionOf_arrived_ne hne.symm, regionOf_swapped_same]
      exact ⟨publishInto_tag, publishInto_front⟩

end Sys2Proof.Machine
end

section
/-! PROOFS. A command publishes a page of global memory (R71, R120; the fourth part of O26). -/

namespace Sys2Proof.Machine
open Sys2Proof.Says

/-! ## Leaves, terraces and frames (R67, R120) -/

theorem homeRead_same {s u : State} (hm : u.mem = s.mem) (hl : u.l2 = s.l2) (p n : Nat) : homeRead u p n = homeRead s p n := by
  simp only [homeRead, homeBytes_eq_map, homeByte, hm, hl]

theorem walkFrom_leaf {s : State} {va l table pte e : Nat} {large : Bool} (h : walkFrom s va l table = .leaf pte large e) :
    e = homeRead s pte 8 := by
  induction l generalizing table with
  | zero =>
    rw [walkFrom_zero] at h
    split at h
    · cases h
    · split at h
      · cases h
        rfl
      · cases h
  | succ l ih =>
    rw [walkFrom_succ] at h
    dsimp only at h
    split at h
    · cases h
    · split at h
      · split at h
        · cases h
          rfl
        · cases h
      · split at h
        · cases h
        · exact ih h

/-- The leaf that a walk finds is what its place holds. -/
theorem walk_leaf {s : State} {pasid va pte e : Nat} {large : Bool} (h : walk s pasid va = .leaf pte large e) :
    e = homeRead s pte 8 := by
  unfold walk at h
  split at h
  · next x hx =>
    subst h
    unfold pasidEntry at hx
    dsimp only at hx
    split at hx
    · cases hx
    · split at hx <;> cases hx
  · split at h
    · cases h
    · exact walkFrom_leaf h

theorem terraceOf_lt (tile : Nat) : terraceOf tile < 4 := Nat.mod_lt _ (by decide)

theorem setIfInBounds_getD {α : Type} {n : Nat} (v : Vector α n) (i : Nat) (d : α) : v.setIfInBounds i (v.getD i d) = v := by
  refine Vector.ext fun j hj => ?_
  rw [Vector.getElem_setIfInBounds]
  split
  · next h =>
    subst h
    simp [Vector.getD, hj]
  · rfl

/-- No frame goes back. -/
theorem returnFrames_nil (s : State) (ter : Nat) : returnFrames s ter [] = s := by
  simp only [returnFrames, List.append_nil]
  show { s with terraces := s.terraces.setIfInBounds ter (s.terraces.getD ter {}) } = s
  rw [setIfInBounds_getD]

theorem returnFrames_frames (s : State) {ter : Nat} (fs : List Nat) (h : ter < 4) :
    ((returnFrames s ter fs).terraces.getD ter {}).frames = (s.terraces.getD ter {}).frames ++ fs := by
  simp only [returnFrames, getD_setIfInBounds _ _ _ _ _ h, if_true]

/-! ## The old frame's lines leave the caches (R71, R91) -/

/-- The device once the lines of a frame have gone home. -/
def cleanFrame (s : State) (frame : Nat) : State :=
  (cachedLines s frame).foldl (fun s l => dropLine (writeBackLine (mergeLine s l) l) l) (noteFrame s frame)

theorem writeBackLine_memoryOnly (s : State) (l : Nat) : MemoryOnly s (writeBackLine s l) := by
  unfold writeBackLine
  split <;> exact ⟨rfl⟩

theorem dropLine_memoryOnly (s : State) (l : Nat) : MemoryOnly s (dropLine s l) := ⟨rfl⟩

theorem cleanFrame_memoryOnly (s : State) (frame : Nat) : MemoryOnly s (cleanFrame s frame) := by
  have hnote : MemoryOnly s (noteFrame s frame) := ⟨rfl⟩
  exact hnote.trans (.foldl (fun u l =>
    ((mergeLine_memoryOnly u l).trans (writeBackLine_memoryOnly _ l)).trans (dropLine_memoryOnly _ l)) _ _)

theorem cleanFrame_memOk {s : State} (frame : Nat) (h : s.memOk) : (cleanFrame s frame).memOk := by
  unfold cleanFrame
  exact foldl_keeps State.memOk _ (fun s l hs => cleanLine_memOk s l hs) _ _ (memOk_of_mem h (noteFrame_mem s frame))

/-! ## The frame-table entry moves (R84, R120) -/

/-- What moving a frame's entry may change: memory and the L2, the pins of the operators, and the frames of the code. -/
structure FrameMoved (s u : State) : Prop where
  same : u = { s with
    mem := u.mem, l2 := u.l2, hostRes := u.hostRes, ponds := u.ponds, hole := u.hole, ops := u.ops, objs := u.objs }
  keys : u.ops.map (·.1) = s.ops.map (·.1)

theorem FrameMoved.of_home {s u : State} (h : HomeOnly s u) {ops : Map Operator} (objs : Map CodeObj)
    (hk : ops.map (·.1) = u.ops.map (·.1)) : FrameMoved s { u with ops := ops, objs := objs } :=
  ⟨by rw [h.same], by rw [hk, h.ops]⟩

theorem moveFrame_moved (s : State) (old new : Nat) : FrameMoved s (moveFrame s old new) := by
  unfold moveFrame
  refine .of_home ((holeWrite_homeOnly s _ _ _).trans (homeWrite_homeOnly ..)) _ ?_
  rw [List.map_map]
  refine List.map_congr_left fun o _ => ?_
  simp only [Function.comp]
  split <;> rfl

theorem homeRead_withOps (s : State) (ops : Map Operator) (objs : Map CodeObj) (p n : Nat) :
    homeRead { s with ops := ops, objs := objs } p n = homeRead s p n := by
  simp only [homeRead, homeBytes_eq_map, homeByte]

/-- A word apart from both entries is as it was. -/
theorem homeRead_moveFrame {s : State} {old new p n : Nat} (h : s.memOk)
    (hold : p + n ≤ frameEntry s old ∨ frameEntry s old + 16 ≤ p) (hnew : p + n ≤ frameEntry s new ∨ frameEntry s new + 16 ≤ p) :
    homeRead (moveFrame s old new) p n = homeRead s p n := by
  unfold moveFrame
  extract_lets e ne s1 s2 i j
  have h0 : (s.noteHole (frameEntry s new)).memOk := noteHole_memOk s _ h
  have h1 : s1.memOk := homeWrite_memOk _ _ _ _ h0
  have hentry : frameEntry s1 old = frameEntry s old := frameEntry_homeOnly (holeWrite_homeOnly s _ 16 ne) old
  calc _ = homeRead s2 p n := homeRead_withOps s2 _ _ p n
    _ = homeRead s1 p n := homeRead_homeWrite_outside s1 _ 16 _ p n h1 (by rw [hentry]; exact hold)
    _ = homeRead (s.noteHole (frameEntry s new)) p n := homeRead_homeWrite_outside _ _ 16 _ p n h0 hnew
    _ = homeRead s p n := homeRead_noteHole ..

/-! ## A page of a publish (R71, R120) -/

/-- The device once a leaf names the frame that takes its page over. -/
def leafSet (s : State) (pte e old new : Nat) : State :=
  homeWrite (cleanFrame s old) pte 8 (setBits (setBits e 38 16 (new / 65536)) 5 4 3)

/-- The device once a page is swapped. -/
def pageSwapped (s : State) (pasid ter page old new pte e : Nat) : State :=
  (returnFrames (dropTlb (moveFrame (leafSet s pte e old new) old new) pasid page) ter [old]).noteWordIn fun pa =>
    pa / 65536 = new / 65536

/-- What a page's swap changes last: the TLBs, the pool, and the withdraw words that the front end has seen. -/
structure PageGone (s u : State) (pasid ter page old : Nat) : Prop where
  mem : u.mem = s.mem
  l2 : u.l2 = s.l2
  ops : u.ops = s.ops
  flumes : u.flumes = s.flumes
  tiles : u.tiles = (dropTlb s pasid page).tiles
  terraces : u.terraces = (returnFrames s ter [old]).terraces

theorem pageGone (s : State) (pasid ter page old : Nat) (here : Nat → Bool) :
    PageGone s ((returnFrames (dropTlb s pasid page) ter [old]).noteWordIn here) pasid ter page old :=
  ⟨rfl, rfl, rfl, rfl, rfl, rfl⟩

section
variable {s : State} {pasid ter page old new pte e : Nat}

theorem pageSwapped_gone : PageGone (moveFrame (leafSet s pte e old new) old new) (pageSwapped s pasid ter page old new pte e)
    pasid ter page old := pageGone ..

theorem leafSet_memoryOnly : MemoryOnly s (leafSet s pte e old new) :=
  (cleanFrame_memoryOnly s old).trans (homeWrite_memoryOnly ..)

theorem homeRead_leafSet (h : s.memOk) (he : e < 2 ^ 64) :
    homeRead (leafSet s pte e old new) pte 8 = setBits (setBits e 38 16 (new / 65536)) 5 4 3 := by
  rw [leafSet, homeRead_homeWrite _ _ _ _ (cleanFrame_memOk old h)]
  exact Nat.mod_eq_of_lt (setBits_lt (setBits_lt he (by decide) (by decide)) (by decide) (by decide))

/-- The leaf names the new frame. -/
theorem homeRead_pageSwapped (h : s.memOk) (he : e < 2 ^ 64)
    (hold : pte + 8 ≤ frameEntry s old ∨ frameEntry s old + 16 ≤ pte)
    (hnew : pte + 8 ≤ frameEntry s new ∨ frameEntry s new + 16 ≤ pte) :
    homeRead (pageSwapped s pasid ter page old new pte e) pte 8 = setBits (setBits e 38 16 (new / 65536)) 5 4 3 := by
  have hentry (x : Nat) : frameEntry (leafSet s pte e old new) x = frameEntry s x := by
    rw [frameEntry, (leafSet_memoryOnly (s := s)).same]
    rfl
  have hok : (leafSet s pte e old new).memOk := homeWrite_memOk _ _ _ _ (cleanFrame_memOk old h)
  rw [homeRead_same pageSwapped_gone.mem pageSwapped_gone.l2,
    homeRead_moveFrame hok (by rw [hentry]; exact hold) (by rw [hentry]; exact hnew), homeRead_leafSet h he]

theorem pageSwapped_keys : (pageSwapped s pasid ter page old new pte e).ops.map (·.1) = s.ops.map (·.1) := by
  rw [pageSwapped_gone.ops, (moveFrame_moved _ old new).keys, leafSet_memoryOnly.ops]

theorem moved_same : (moveFrame (leafSet s pte e old new) old new).flumes = s.flumes
    ∧ (moveFrame (leafSet s pte e old new) old new).terraces = s.terraces := by
  rw [(moveFrame_moved _ old new).same, (leafSet_memoryOnly (s := s)).same]
  exact ⟨rfl, rfl⟩

theorem pageSwapped_flumes : (pageSwapped s pasid ter page old new pte e).flumes = s.flumes := by
  rw [pageSwapped_gone.flumes, moved_same.1]

/-- The old frame is the last of the pool. -/
theorem pageSwapped_frames (h : ter < 4) : ((pageSwapped s pasid ter page old new pte e).terraces.getD ter {}).frames
    = (s.terraces.getD ter {}).frames ++ [old] := by
  rw [pageSwapped_gone.terraces, returnFrames_frames _ _ h, moved_same.2]

/-- A tile without the entries of a page. -/
def dropPage (pasid page : Nat) (t : Tile) : Tile :=
  { t with tlb := t.tlb.filter fun x => !(x.pasid = pasid && (if x.large then x.page / 32 = page / 32 else x.page = page)) }

theorem mem_dropTlb {k : Nat} {x : TlbEntry} (hx : x ∈ ((dropTlb s pasid page).tile k).tlb) (hp : x.pasid = pasid) :
    if x.large = true then x.page / 32 ≠ page / 32 else x.page ≠ page := by
  have htile : mfind (dropTlb s pasid page).tiles k = (mfind s.tiles k).map (dropPage pasid page) :=
    mfind_mapVals s.tiles (fun _ t => dropPage pasid page t) k
  rw [State.tile, mget, htile] at hx
  cases ht : mfind s.tiles k with
  | none =>
    rw [ht] at hx
    cases hx
  | some t =>
    rw [ht] at hx
    have hkept := (List.mem_filter.mp hx).2
    cases hl : x.large <;> simpa [hl, hp] using hkept

/-- No TLB keeps the page. -/
theorem mem_pageSwapped_tlb {k : Nat} {x : TlbEntry} (hx : x ∈ ((pageSwapped s pasid ter page old new pte e).tile k).tlb)
    (hp : x.pasid = pasid) : if x.large = true then x.page / 32 ≠ page / 32 else x.page ≠ page :=
  mem_dropTlb (s := moveFrame (leafSet s pte e old new) old new) (by rwa [State.tile, pageSwapped_gone.tiles] at hx) hp

theorem swapPage_run {c : FlumeCmd} {p f : Nat} (hw : walk s (pasidOf s c) (p * 2 ^ 16) = .leaf pte false e) :
    (swapPage c (p, f)).run s = (.ok (),
      pageSwapped s (pasidOf s c) (terraceOf c.tile) p (e / 2 ^ 16 % 2 ^ 23 * 2 ^ 16) f pte e) := by
  have hold : leafPa false e 0 = e / 2 ^ 16 % 2 ^ 23 * 2 ^ 16 := by simp [leafPa, bits]
  have hw' : walk s (pasidOf s c) (p * 65536) = .leaf pte false e := hw
  unfold swapPage
  rw [op_run_bind_ok (op_run_get s)]
  dsimp only
  rw [hw']
  dsimp only
  rw [hold]
  rfl

end

theorem publishGroup_page {s : State} {c : FlumeCmd} {p f pte e : Nat} (hfr : c.frames = [(p, f)])
    (hw : walk (writeFrames s c.frames c.writes) (pasidOf s c) (p * 2 ^ 16) = .leaf pte false e) :
    (publishGroup .glob [c]).run s = (.ok (publishTag s c .glob), pageSwapped (writeFrames s c.frames c.writes) (pasidOf s c)
      (terraceOf c.tile) p (e / 2 ^ 16 % 2 ^ 23 * 2 ^ 16) f pte e) := by
  have hframes : groupFrames [c] = c.frames := by simp [groupFrames, hfr]
  have hspare : (([c].flatMap (·.frames)).eraseDups.filter (!c.frames.contains ·)).map (·.2) = [] := by simp [hfr]
  have hws : [c].flatMap (·.writes) = c.writes := by simp
  unfold publishGroup
  rw [op_run_bind_ok (op_run_get s)]
  simp only [List.getLast?_singleton, hframes, hspare, hws, returnFrames_nil]
  rw [op_run_bind_ok (op_run_modify _ s)]
  rw [hfr] at hw ⊢
  exact op_run_bind_ok (op_run_bind_ok (swapPage_run hw))

theorem retired_home (s : State) (n : Nat) (c : FlumeCmd) (o : PortOwner) :
    (∀ p m, homeRead ((retireFlume s n c).dropOwner o) p m = homeRead s p m)
      ∧ (∀ k, (((retireFlume s n c).dropOwner o).tile k).tlb = (s.tile k).tlb)
      ∧ ((retireFlume s n c).dropOwner o).terraces = s.terraces := by
  have hd := dropOwner_readsOnly (retireFlume s n c) o
  have hmem : (retireFlume s n c).mem = s.mem := by rw [retireFlume_same]
  have hl2 : (retireFlume s n c).l2 = s.l2 := by rw [retireFlume_same]
  refine ⟨fun p m => (hd.homeRead p m).trans (homeRead_same hmem hl2 p m), fun k => ?_, ?_⟩
  · rw [hd.tlb, retireFlume_same]
    rfl
  · rw [hd.terraces, retireFlume_same]

theorem flumeSwapsItsPage : Says.FlumeSwapsItsPage := by
  intro s n c p f pte e hf hl hp hrise hst hfr harr hmay hok hw old ter hapart
  have hrun := exec_publish_runs hf hl hp hst hmay (publishLast_run (publishGroup_page hfr hw) (writeArrival_none harr))
  have hok' : (writeFrames s c.frames c.writes).memOk := writeFrames_memOk s _ _ hok
  have he : e < 2 ^ 64 := by
    rw [walk_leaf hw]
    exact homeRead_lt _ pte 8
  obtain ⟨hfl, -, hops, -⟩ := retired_same (pageSwapped (writeFrames s c.frames c.writes) (pasidOf s c) ter p old f pte e) n c
    (.place c.thread c.ord)
  obtain ⟨hread, htlb, hter⟩ := retired_home (pageSwapped (writeFrames s c.frames c.writes) (pasidOf s c) ter p old f pte e) n c
    (.place c.thread c.ord)
  refine ⟨_, hrun, ?_, ?_, ?_, fun k x hx hpas => ?_, ?_⟩
  · rw [hfl, pageSwapped_flumes]
    exact mfind_mdel_same _ _ _ hrise
  · rw [hops, pageSwapped_keys]
    rfl
  · rw [hread]
    exact homeRead_pageSwapped hok' he (hapart old (by simp)) (hapart f (by simp))
  · rw [htlb] at hx
    exact mem_pageSwapped_tlb hx hpas
  · rw [hter]
    exact pageSwapped_frames (terraceOf_lt c.tile)

end Sys2Proof.Machine
end

section
/-! SUPPORT. A page copied to its shadow frame, and the writes made there (R120; O26). -/

namespace Sys2Proof.Machine
open Sys2Proof.Says

/-- The last entry of a key, folded over a map, is the one entry the map has of it. -/
theorem foldl_pick {α : Type} {m : Map α} {lo : Nat} (h : mrises m lo = true) (k : Nat) (d : α) :
    m.foldl (fun b e => if e.1 = k then e.2 else b) d = (mfind m k).getD d := by
  induction m generalizing lo d with
  | nil => rfl
  | cons e r ih =>
    obtain ⟨j, v⟩ := e
    obtain ⟨-, hr⟩ := (mrises_cons j v r lo).mp h
    rw [List.foldl_cons, ih hr, mfind]
    rcases Nat.lt_trichotomy k j with hlt | rfl | hgt
    · have hnone : mfind r k = none := mfind_below r k _ (by omega) hr
      simp [hnone, Nat.ne_of_lt hlt, Nat.ne_of_gt hlt, hlt]
    · have hnone : mfind r k = none := mfind_below r k _ (Nat.lt_succ_self k) hr
      simp [hnone]
    · simp [Nat.ne_of_lt hgt, Nat.ne_of_gt hgt, Nat.not_lt_of_gt hgt]

theorem readByte_filter_gone (m : List Host.Cell) (p : Host.Cell → Bool) (a : Nat) (hp : ∀ v, p (a, v) = false) :
    readByte (m.filter p) a = 0 := by
  have hnone : mfind (m.filter p) a = none := by
    cases hf : mfind (m.filter p) a with
    | none => rfl
    | some v => simpa [hp v] using (List.mem_filter.mp (mem_of_mfind hf)).2
  rw [readByte, mget, hnone]
  rfl

section
variable {m : List Host.Cell} {old new : Nat}

theorem readByte_copyCells (h : Memory.wf m = true) (a : Nat) : readByte (copyCells m old new) a =
    (m.filter fun e => e.1 / 65536 = old / 65536).foldl (fun b e => if new + e.1 % 65536 = a then e.2 else b)
      (readByte (m.filter fun e => e.1 / 65536 ≠ new / 65536) a) := by
  rw [copyCells, readByte_writes (fun e : Host.Cell => e.1) (fun e _ => e.2) _ (wf_filter _ _ h), List.foldl_map]

/-- The frame holds the page's bytes. -/
theorem readByte_copyCells_inside (h : Memory.wf m = true) (hold : old % 2 ^ 16 = 0) (hnew : new % 2 ^ 16 = 0) {o : Nat}
    (ho : o < 2 ^ 16) : readByte (copyCells m old new) (new + o) = readByte m (old + o) := by
  have hpage : (old + o) / 65536 = old / 65536 := by omega
  have hbase : readByte (m.filter fun e => e.1 / 65536 ≠ new / 65536) (new + o) = 0 :=
    readByte_filter_gone _ _ _ fun v => by
      have : (new + o) / 65536 = new / 65536 := by omega
      simp [this]
  have hkey (b : Byte) (e : Host.Cell) (he : e ∈ m.filter fun e => e.1 / 65536 = old / 65536) :
      (if new + e.1 % 65536 = new + o then e.2 else b) = if e.1 = old + o then e.2 else b := by
    have hp : e.1 / 65536 = old / 65536 := by simpa using (List.mem_filter.mp he).2
    exact if_congr (by omega) rfl rfl
  rw [readByte_copyCells h, hbase, List.foldl_ext _ _ _ hkey, foldl_pick (mrises_filter m _ 0 ((wf_iff m).mp h).1)]
  exact readByte_filter m _ _ h fun v => by simp [hpage]

/-- Bytes of other frames stand. -/
theorem readByte_copyCells_outside (h : Memory.wf m = true) (hnew : new % 2 ^ 16 = 0) {a : Nat} (ha : a / 2 ^ 16 ≠ new / 2 ^ 16) :
    readByte (copyCells m old new) a = readByte m a := by
  rw [readByte_copyCells h, readByte_filter _ _ _ h fun v => by simpa using ha]
  exact foldl_idle _ fun e _ => if_neg (by omega)

end

/-- Writes into one shadow frame, each over the byte that it finds. -/
theorem readByte_writeFrames {s : State} {q f : Nat} (h : s.memOk) (ws : List ByteWrite) (a : Nat) :
    readByte (writeFrames s [(q, f)] ws).mem a =
      ws.foldl (fun b w => if q = w.at_ / 65536 ∧ f + w.at_ % 65536 = a then w.onto b else b) (readByte s.mem a) := by
  have hmem (ws : List ByteWrite) : (writeFrames s [(q, f)] ws).mem =
      (ws.filter fun w => q = w.at_ / 65536).foldl (fun m w =>
        writeByte m (f + w.at_ % 65536) (w.onto (readByte m (f + w.at_ % 65536)))) s.mem := by
    rw [List.foldl_filter]
    refine List.foldl_ext _ _ _ fun m w _ => ?_
    by_cases hq : q = w.at_ / 65536 <;> simp [hq]
  rw [hmem, readByte_writes (fun w : ByteWrite => f + w.at_ % 65536) (fun w b => w.onto b) _ h, List.foldl_filter]
  refine List.foldl_ext _ _ _ fun b w _ => ?_
  by_cases hq : q = w.at_ / 65536 <;> simp [hq]

/-- The device once the first frame of a pool holds the bytes of an uncached page. -/
def frameTaken (s : State) (ter old f : Nat) (rest : List Nat) : State :=
  let u := copyFrame s old f false
  { u with terraces := u.terraces.setIfInBounds ter { s.terraces.getD ter {} with frames := rest } }

section
variable {s : State} {ter old f : Nat} {rest : List Nat}

theorem dropLines_same (s : State) (ls : List Nat) : ls.foldl dropLine s =
    { s with l2 := (ls.foldl dropLine s).l2, tiles := (ls.foldl dropLine s).tiles } :=
  foldl_keeps (fun u : State => u = { s with l2 := u.l2, tiles := u.tiles }) dropLine
    (fun u l hu => by rw [dropLine, hu]) ls s rfl

theorem sent_dropLine (s : State) (l k : Nat) : ((dropLine s l).tile k).sent = (s.tile k).sent := by
  have hm : mfind (dropLine s l).tiles k = (mfind s.tiles k).map fun t => { t with l1 := t.l1.filter (· ≠ l) } :=
    mfind_mapVals s.tiles (fun _ t => ({ t with l1 := t.l1.filter (· ≠ l) } : Tile)) k
  rw [State.tile, State.tile, mget, mget, hm]
  cases mfind s.tiles k <;> rfl

theorem frameTaken_same : frameTaken s ter old f rest = { s with
    l2 := (frameTaken s ter old f rest).l2, tiles := (frameTaken s ter old f rest).tiles, mem := copyCells s.mem old f
    terraces := s.terraces.setIfInBounds ter { s.terraces.getD ter {} with frames := rest } } := by
  simp only [frameTaken, copyFrame, Bool.false_eq_true, if_false]
  rw [dropLines_same]

theorem sent_frameTaken (k : Nat) : ((frameTaken s ter old f rest).tile k).sent = (s.tile k).sent :=
  foldl_keeps (fun u : State => (u.tile k).sent = (s.tile k).sent) dropLine (fun u l hu => (sent_dropLine u l k).trans hu)
    (cachedLines s f) s rfl

end

end Sys2Proof.Machine
end

section
/-! PROOFS. A fill of a global range shadows its pages (R120, R391; the second part of O26). -/

namespace Sys2Proof.Machine
open Sys2Proof.Says

section
variable {s : State} {n : Nat} {c : FlumeCmd} {x : Fl} {e : Nat → TlbEntry}

theorem translateOp_write_hit {op tile pasid va : Nat} {e : TlbEntry} (hp : s.pondOf op = none)
    (he : tlbFind (s.tile tile).tlb pasid va = some e) (hl : e.large = false) (hw : e.writable = true) (hd : e.dirty = true) :
    translateOp s op tile pasid va true = (s, some (e.frame + va % 2 ^ 16, e.cached)) := by
  simp [translateOp, hp, translate, translateFor, he, hl, hw, hd]

/-- Pages that the tile's TLB has, writable and dirty, translate at once. -/
theorem currentPages_run {pages : List Nat} (hp : s.pondOf (keyOp c.thread) = none)
    (h : ∀ q ∈ pages, tlbFind (s.tile c.tile).tlb (pasidOf s c) (q * 2 ^ 16) = some (e q) ∧ (e q).large = false
      ∧ (e q).writable = true ∧ (e q).dirty = true) :
    (currentPages c pages).run s = (.ok (pages.map fun q => (q, (e q).frame, (e q).cached)), s) := by
  unfold currentPages
  refine op_run_mapM_each _ fun q hq => ?_
  obtain ⟨htlb, hl, hw, hd⟩ := h q hq
  have hoff : q * 65536 % 2 ^ 16 = 0 := by omega
  have hhit : translateOp s (keyOp c.thread) (flAgent s c .glob).tile (flAgent s c .glob).pasid (q * 65536) true
      = (s, some ((e q).frame, (e q).cached)) := by
    have h := translateOp_write_hit (va := q * 65536) hp htlb hl hw hd
    rwa [hoff] at h
  rw [op_run_bind_ok (op_run_get s)]
  dsimp only
  rw [hhit, op_run_bind_ok (op_run_set s s)]
  rfl

theorem sharedFrame_none (hold : c.hold = false) (q : Nat) : sharedFrame s n c q = none := by
  simp [sharedFrame, hold]

/-- A command in the global space, its pages known: it waits for frames, asks for its copies' lines, or works. -/
theorem startWork_glob {ps : List (Nat × Nat × Bool)} (hg : touchesGlobal c = true) (hold : c.hold = false)
    (hcur : (currentPages c (pagesOf (runsOf c.hD))).run s = (.ok ps, s)) :
    (startWork n c).run s =
      (if (s.terraces.getD (terraceOf c.tile) {}).frames.length < ps.length then throw (.wait .other)
      else if c.paid < 2048 * ps.length then do
        askLines (flAgent s c .glob).port (copyReqs s c ps (s.terraces.getD (terraceOf c.tile) {}).frames)
        modify fun s => { s with flumes := mput s.flumes n { c with paid := c.paid + 64 } }
      else doWork n c ps : Op Unit).run s := by
  have hfresh : ps.filter (fun p => (sharedFrame s n c p.1).isNone) = ps := by simp [sharedFrame_none hold]
  unfold startWork
  rw [if_pos hg, op_run_bind_ok hcur, op_run_bind_ok (op_run_get s)]
  simp only [hfresh]

theorem touchesGlobal_fill (hi : c.instr = .flFill x) (hscr : hScr c.hD = false) : touchesGlobal c = true := by
  simp [touchesGlobal, globalDest, isPublish, isMcast, hi, hscr]

/-- Line requests of a command: all have left, or only the port changes. -/
theorem askLines_cases (port : Nat) (rs : List PortReq) :
    (rs.all (s.tile port).served = true ∧ (askLines port rs).run s = (.ok (), s))
      ∨ (rs.all (s.tile port).served = false ∧ ∃ u, (askLines port rs).run s = (.error (.wait .other), u)) := by
  cases h : rs.all (s.tile port).served with
  | true => exact .inl ⟨rfl, askLines_served (by simpa using h)⟩
  | false =>
    obtain ⟨q, hq, hs⟩ : ∃ q ∈ rs, (s.tile port).served q = false := by simpa using h
    obtain ⟨t, ht⟩ := wantLines_waits hq hs
    refine .inr ⟨rfl, s.setTile port t, ?_⟩
    unfold askLines
    rw [op_run_bind_ok (op_run_get s), ht]
    rfl

theorem shadowPages_one {q old f : Nat} {rest : List Nat} (hold : c.hold = false)
    (hfree : (s.terraces.getD (terraceOf c.tile) {}).frames = f :: rest) :
    (shadowPages n c [(q, old, false)]).run s = (.ok (some [(q, f)]), frameTaken s (terraceOf c.tile) old f rest) := by
  unfold shadowPages
  rw [op_run_bind_ok (op_run_get s), sharedFrame_none hold]
  dsimp only
  rw [hfree]
  dsimp only
  rw [op_run_bind_ok (op_run_set _ s)]
  rfl

end

theorem worked_same (s : State) (n : Nat) (c : FlumeCmd) (o : PortOwner) :
    ((afterWork s n c).dropOwner o).mem = (writeFrames s c.frames c.writes).mem
      ∧ ((afterWork s n c).dropOwner o).flumes = mput s.flumes n c
      ∧ ((afterWork s n c).dropOwner o).terraces = s.terraces := by
  have hdrop := dropOwner_readsOnly (afterWork s n c) o
  refine ⟨?_, ?_, ?_⟩
  · rw [hdrop.mem, afterWork_same]
  · rw [hdrop.flumes, afterWork_same]
  · rw [hdrop.terraces, afterWork_same]

theorem flumeShadowsItsPages : Says.FlumeShadowsItsPages := by
  intro s n c x e hf hm he hi hscr hold hd hpond pages ps free port htlb
  have hstart := startWork_glob (n := n) (touchesGlobal_fill hi hscr) hold (currentPages_run hpond htlb)
  have hlen : ps.length = pages.length := List.length_map ..
  have hexec := exec_start hf hm he
  have waits {u : State} (hrun : (startWork n c).run s = (.error (.wait .other), u)) :
      ∃ v, exec (.flumeCommandStart n) s = .next v ∧ v.flumes = s.flumes ∧ v.mem = s.mem ∧ v.terraces = s.terraces := by
    rw [runAgent_wait hrun] at hexec
    refine ⟨_, hexec, ?_, ?_, ?_⟩ <;> rw [keepPorts_same]
  refine ⟨fun hfew => ?_, fun henough hpaid => ?_, ?_⟩
  · refine waits (u := s) ?_
    rw [hstart, if_pos (hlen ▸ hfew)]
    rfl
  · rw [if_neg (by rw [hlen]; exact Nat.not_lt.mpr henough), if_pos (by rw [hlen]; exact hpaid)] at hstart
    rcases askLines_cases port (copyReqs s c ps free) with ⟨hall, hask⟩ | ⟨hall, u, hask⟩
    · rw [op_run_bind_ok hask, op_run_modify] at hstart
      rw [runAgent_ok hstart] at hexec
      have hdrop := dropOwner_readsOnly { s with flumes := mput s.flumes n { c with paid := c.paid + 64 } } (.place c.thread c.ord)
      refine ⟨_, hexec, hdrop.mem, hdrop.terraces, ?_⟩
      rw [hdrop.flumes, if_pos hall]
      exact mfind_mput_same ..
    · rw [op_run_bind_error hask] at hstart
      obtain ⟨v, hv, hfl, hmem, hter⟩ := waits hstart
      exact ⟨v, hv, hmem, hter, by rw [hfl, hf, hall]; rfl⟩
  · intro q f rest w hq hfree hpaid hcached hf0 hold0 hne hok hw ws hserved
    have hps : ps = [(q, (e q).frame, false)] := by simp only [ps, hq, List.map_cons, List.map_nil, hcached]
    have hfits : ¬ free.length < ps.length := by simp [hps, hfree]
    have hdone : ¬ c.paid < 2048 * ps.length := by simpa [hps] using hpaid
    rw [if_neg hfits, if_neg hdone] at hstart
    have hwork := doWork_run (src := (sourceOf s c).getD .glob) (ws := ws) hold rfl (flWork_fill hi hd hw)
      (shadowPages_one (n := n) (q := q) (old := (e q).frame) hold hfree) fun r hr => by
        have hfetch : r.fetch = false := by
          obtain ⟨l, -, rfl⟩ := List.mem_map.mp hr
          rfl
        have h := hserved r hr
        simp only [Tile.served, hfetch, Bool.false_and, Bool.false_or] at h ⊢
        rw [sent_frameTaken]
        exact h
    have hrun := hstart.trans ((congrArg (fun p => (doWork n c p).run s) hps).trans hwork)
    rw [runAgent_ok hrun] at hexec
    obtain ⟨hmem, hfl, hter⟩ := worked_same (frameTaken s (terraceOf c.tile) (e q).frame f rest) n
      (wrote s c ws [(q, f)] ((sourceOf s c).getD .glob)) (.place c.thread c.ord)
    have hcopied : (frameTaken s (terraceOf c.tile) (e q).frame f rest).mem = copyCells s.mem (e q).frame f := by
      rw [frameTaken_same]
    have hok' : (frameTaken s (terraceOf c.tile) (e q).frame f rest).memOk := by
      rw [State.memOk, hcopied]
      exact wf_copyCells _ _ _ hok
    refine ⟨_, _, hexec, (congrArg (mfind · n) hfl).trans (mfind_mput_same ..), rfl, rfl, rfl, ?_, fun o ho => ?_, fun a ha => ?_⟩
    · rw [hter, frameTaken_same]
      exact congrArg Terrace.frames ((getD_setIfInBounds _ _ _ _ _ (terraceOf_lt c.tile)).trans (if_pos rfl))
    · rw [hmem]
      refine (readByte_writeFrames hok' ws _).trans ?_
      rw [hcopied, readByte_copyCells_inside hok hold0 hf0 ho]
      exact List.foldl_ext _ _ _ fun b w _ => if_congr (by omega) rfl rfl
    · rw [hmem]
      refine (readByte_writeFrames hok' ws _).trans ?_
      rw [hcopied, readByte_copyCells_outside hok hf0 ha]
      exact foldl_idle _ fun w _ => if_neg (by omega)

/-- Settles O26: what a queued command writes into a region and into shadow frames, and what its publish swaps. -/
theorem flumeCommandsRun : Obligations.FlumeCommandsRun :=
  ⟨flumeCommandStarts, flumeShadowsItsPages, flumePublishes, flumeSwapsItsPage⟩

end Sys2Proof.Machine
end
